-- ==== Sys2Proof/Word.lean ====
section
/-! DEFINITION. Words of the Ulufel machine and their plainest arithmetic (spec 00 R3, R8). -/

namespace Sys2Proof

/-- One byte of memory. -/
abbrev Byte := BitVec 8
/-- A 32-bit register or instruction word. -/
abbrev Word := BitVec 32
/-- A 64-bit scalar value. -/
abbrev Dword := BitVec 64
/-- A code word address (spec 09 R189). -/
abbrev CodeAddr := BitVec 48

/-- The two dies of the package (spec 00 R9). -/
inductive Die where
  | a
  | b
  deriving DecidableEq, Repr

/-- Die A is 0 and die B is 1 wherever the manual numbers them. -/
def Die.num : Die → Nat
  | .a => 0
  | .b => 1

/-- The die a number names: 0 is A, anything else B. -/
def Die.of (n : Nat) : Die := if n = 0 then .a else .b

/-- The other die. -/
def Die.other : Die → Die
  | .a => .b
  | .b => .a

end Sys2Proof
end

