-- ==== Sys2Proof/Syntax.lean ====
section
/-! DEFINITION. The instructions of Ulufel: the word formats of spec 17 R317, R318, R320 and R323 with every bit of a word in
a named field, and the ONE inductive of the opcode table's rows. The steps and events of the engines, the host side and the
environment have no word; what one of them acts on stands in the state (State.arg). -/

namespace Sys2Proof

/-- R-format short word below its opcode (R317). -/
structure ShortR where
  c : BitVec 1
  d : BitVec 7
  a : BitVec 7
  b : BitVec 7
  ha : BitVec 2
  hb : BitVec 2
  deriving DecidableEq, Repr

/-- I-format short word (R317). -/
structure ShortI where
  c : BitVec 1
  d : BitVec 7
  a : BitVec 7
  ha : BitVec 2
  imm : BitVec 9
  deriving DecidableEq, Repr

/-- B-format short word (R317). -/
structure ShortB where
  c : BitVec 1
  v : BitVec 7
  off : BitVec 18
  deriving DecidableEq, Repr

/-- A word whose 25 low bits carry nothing: NOP and the guard word (R324, R84). -/
structure ShortN where
  c : BitVec 1
  x : BitVec 25
  deriving DecidableEq, Repr

/-- The GUARD word that stands before a unit (R323). -/
structure GuardW where
  c : BitVec 1
  g : BitVec 7
  n : BitVec 1
  x : BitVec 17
  deriving DecidableEq, Repr

/-- Lane long form with an X3 extension (R318). -/
structure X3 where
  c0 : BitVec 1
  d : BitVec 7
  a : BitVec 7
  ha : BitVec 2
  c : BitVec 1
  b : BitVec 7
  hb : BitVec 2
  e : BitVec 7
  he : BitVec 2
  ka : BitVec 2
  kb : BitVec 2
  ke : BitVec 2
  mode : BitVec 7
  deriving DecidableEq, Repr

/-- Lane long form with an XI extension (R318). -/
structure XI where
  c0 : BitVec 1
  d : BitVec 7
  a : BitVec 7
  ha : BitVec 2
  c : BitVec 1
  imm : BitVec 31
  deriving DecidableEq, Repr

/-- Lane long form with an XM extension (R318). -/
structure XM where
  c0 : BitVec 1
  d : BitVec 7
  a : BitVec 7
  ha : BitVec 2
  c : BitVec 1
  b : BitVec 7
  hb : BitVec 2
  ka : BitVec 2
  kb : BitVec 2
  mode : BitVec 6
  off : BitVec 12
  deriving DecidableEq, Repr

/-- Lane long form with an XB extension (R318). -/
structure XB where
  c0 : BitVec 1
  d : BitVec 7
  a : BitVec 7
  ha : BitVec 2
  c : BitVec 1
  ej : BitVec 1
  target : BitVec 18
  rejoin : BitVec 12
  deriving DecidableEq, Repr

/-- Lead form with a Y3 extension (R320). -/
structure Y3 where
  c0 : BitVec 1
  d : BitVec 9
  mode : BitVec 7
  c : BitVec 1
  a : BitVec 9
  b : BitVec 9
  e : BitVec 9
  x : BitVec 4
  deriving DecidableEq, Repr

/-- Lead form with a YS extension (R320). -/
structure YS where
  c0 : BitVec 1
  d : BitVec 9
  mode : BitVec 7
  c : BitVec 1
  a : BitVec 9
  imm : BitVec 22
  deriving DecidableEq, Repr

/-- Lead form with a YI extension (R320). -/
structure YI where
  c0 : BitVec 1
  d : BitVec 9
  mode : BitVec 7
  c : BitVec 1
  imm : BitVec 31
  deriving DecidableEq, Repr

/-- Lead form with a YB extension (R320). -/
structure YB where
  c0 : BitVec 1
  d : BitVec 9
  mode : BitVec 7
  c : BitVec 1
  cp : BitVec 3
  n : BitVec 1
  off : BitVec 18
  x : BitVec 9
  deriving DecidableEq, Repr

/-- The instructions, steps and events of the opcode table, one constructor per row. -/
inductive Instr where
  /-- Does nothing and uses no pipe. (R324) -/
  | nop (f : ShortN)
  /-- Writes (a + b) mod 2^32. (R349) -/
  | add (f : ShortR)
  /-- Writes a plus the sign-extended immediate, mod 2^32. (R349) -/
  | addi (f : ShortI)
  /-- Writes (a − b) mod 2^32. (R349) -/
  | sub (f : ShortR)
  /-- Writes the low 32 bits of a × b. (R349) -/
  | mul (f : ShortR)
  /-- Writes the bitwise AND of a and b. (R349) -/
  | and (f : ShortR)
  /-- Writes the bitwise OR of a and b. (R349) -/
  | or (f : ShortR)
  /-- Writes the bitwise XOR of a and b. (R349) -/
  | xor (f : ShortR)
  /-- Writes the bitwise AND of a with the immediate. (R349) -/
  | andi (f : ShortI)
  /-- Writes the bitwise OR of a with the immediate. (R349) -/
  | ori (f : ShortI)
  /-- Writes the bitwise XOR of a with the immediate. (R349) -/
  | xori (f : ShortI)
  /-- Shifts a left by an immediate of 0–31. (R349) -/
  | shli (f : ShortI)
  /-- Shifts a right logically by an immediate of 0–31. (R349) -/
  | shri (f : ShortI)
  /-- Shifts a right arithmetically by an immediate of 0–31. (R349) -/
  | sari (f : ShortI)
  /-- Copies a. (R349) -/
  | mov (f : ShortR)
  /-- Writes the sign-extended immediate. (R349) -/
  | movi (f : ShortI)
  /-- Writes 1 when a = b, else 0. (R349) -/
  | cmpeq (f : ShortR)
  /-- Writes 1 when a < b as SI32, else 0. (R349) -/
  | cmplt (f : ShortR)
  /-- Adds signed b to a 64-bit address pair. (R356) -/
  | adda (f : ShortR)
  /-- Adds the immediate to a 64-bit address pair. (R349) -/
  | addai (f : ShortI)
  /-- Adds two F32 values with RN rounding. (R358) -/
  | fadd (f : ShortR)
  /-- Subtracts two F32 values with RN rounding. (R358) -/
  | fsub (f : ShortR)
  /-- Multiplies two F32 values with RN rounding. (R358) -/
  | fmul (f : ShortR)
  /-- Writes the F32 minimum with NUM = 0. (R359) -/
  | fmin (f : ShortR)
  /-- Writes the F32 maximum with NUM = 0. (R359) -/
  | fmax (f : ShortR)
  /-- Issues a 4-byte global load. (R421) -/
  | ld (f : ShortI)
  /-- Issues a 4-byte global store. (R422) -/
  | st (f : ShortI)
  /-- Performs a 4-byte local load. (R421) -/
  | ldl (f : ShortI)
  /-- Performs a 4-byte local store. (R422) -/
  | stl (f : ShortI)
  /-- Branches when the condition register is zero, opening no record. (R393) -/
  | bz (f : ShortB)
  /-- Branches when the condition register is nonzero, opening no record. (R393) -/
  | bnz (f : ShortB)
  /-- A guard word traps RUNOFF when it issues. (R237) -/
  | guardWord (f : ShortN)
  /-- Branches unconditionally. (R393) -/
  | bra (f : ShortB)
  /-- Writes the return address pair and branches. (R393) -/
  | call (f : ShortB)
  /-- Jumps to bits 47:0 of a register pair. (R395) -/
  | ret (f : ShortR)
  /-- Sets the path priority PRI. (R396) -/
  | setpri (f : ShortI)
  /-- Requests width W and writes the grant G. (R398) -/
  | grant (f : ShortI)
  /-- Reads a system register. (R464) -/
  | rdsr (f : ShortI)
  /-- Writes a system register. (R464) -/
  | wrsr (f : ShortI)
  /-- Discards a 128-byte line under R157. (R427) -/
  | discard (f : ShortI)
  /-- Swizzles values within a quad of gang positions (deprecated). (R405) -/
  | swz (f : ShortR)
  /-- A guard prefix ties one guard to the unit that follows. (R323) -/
  | guard (f : GuardW)
  /-- Writes 1 when a < b as F32. (R360) -/
  | fcmplt (f : ShortR)
  /-- Long 32-bit add with optional saturation. (R351) -/
  | addLong (f : X3)
  /-- Long 32-bit subtract with optional saturation. (R351) -/
  | subLong (f : X3)
  /-- Long low-word multiply. (R351) -/
  | mulLong (f : X3)
  /-- Writes the high word of the signed or unsigned product. (R351) -/
  | mulhi (f : X3)
  /-- Writes a × b + c, wrapped or saturated. (R351) -/
  | mad (f : X3)
  /-- Bitwise AND with optional inversion of b. (R352) -/
  | andLong (f : X3)
  /-- Bitwise OR with optional inversion of b. (R352) -/
  | orLong (f : X3)
  /-- Bitwise XOR with optional inversion of b. (R352) -/
  | xorLong (f : X3)
  /-- Shifts left by a register amount. (R352) -/
  | shl (f : X3)
  /-- Shifts right logically by a register amount. (R352) -/
  | shr (f : X3)
  /-- Shifts right arithmetically by a register amount. (R352) -/
  | sar (f : X3)
  /-- Writes the signed or unsigned minimum. (R352) -/
  | min (f : X3)
  /-- Writes the signed or unsigned maximum. (R352) -/
  | max (f : X3)
  /-- Writes the population count. (R352) -/
  | popc (f : X3)
  /-- Writes the count of leading zeros. (R352) -/
  | clz (f : X3)
  /-- Extracts a bit field, optionally sign-extended. (R353) -/
  | bfe (f : X3)
  /-- Inserts a bit field. (R353) -/
  | bfi (f : X3)
  /-- Writes a when c ≠ 0, else b. (R354) -/
  | sel (f : X3)
  /-- Writes 1 when the integer condition holds. (R354) -/
  | cmp (f : X3)
  /-- Adds a scaled, signed or unsigned b to an address pair. (R356) -/
  | addaLong (f : X3)
  /-- Copies 32 bits from any source kind. (R355) -/
  | movLong (f : X3)
  /-- Copies 64 bits into a pair. (R355) -/
  | movp (f : X3)
  /-- Writes a 31-bit sign-extended immediate. (R355) -/
  | moviLong (f : XI)
  /-- Adds a 31-bit immediate. (R350) -/
  | addiLong (f : XI)
  /-- ANDs with a 31-bit immediate. (R350) -/
  | andiLong (f : XI)
  /-- ORs with a 31-bit immediate. (R350) -/
  | oriLong (f : XI)
  /-- XORs with a 31-bit immediate. (R350) -/
  | xoriLong (f : XI)
  /-- Adds a 31-bit immediate to an address pair. (R356) -/
  | addaiLong (f : XI)
  /-- F32 add with a rounding mode and saturation. (R358) -/
  | faddLong (f : X3)
  /-- F32 subtract with a rounding mode and saturation. (R358) -/
  | fsubLong (f : X3)
  /-- F32 multiply with a rounding mode and saturation. (R358) -/
  | fmulLong (f : X3)
  /-- F32 fused multiply-add, rounded once. (R358) -/
  | fma (f : X3)
  /-- F32 minimum with optional NUM. (R359) -/
  | fminLong (f : X3)
  /-- F32 maximum with optional NUM. (R359) -/
  | fmaxLong (f : X3)
  /-- Writes the result of an F32 compare under COND. (R360) -/
  | fcmp (f : X3)
  /-- Writes a one-hot class mask of a. (R361) -/
  | fclass (f : X3)
  /-- Rounds to an integral F32 value. (R362) -/
  | fround (f : X3)
  /-- Clears the sign bit. (R363) -/
  | fabs (f : X3)
  /-- Inverts the sign bit. (R363) -/
  | fneg (f : X3)
  /-- F64 add. (R358) -/
  | dadd (f : X3)
  /-- F64 subtract. (R358) -/
  | dsub (f : X3)
  /-- F64 multiply. (R358) -/
  | dmul (f : X3)
  /-- F64 fused multiply-add. (R358) -/
  | dfma (f : X3)
  /-- F64 minimum. (R359) -/
  | dmin (f : X3)
  /-- F64 maximum. (R359) -/
  | dmax (f : X3)
  /-- F64 compare into one register. (R360) -/
  | dcmp (f : X3)
  /-- Packed BF16 or F16 add. (R365) -/
  | hadd2 (f : X3)
  /-- Packed BF16 or F16 multiply. (R365) -/
  | hmul2 (f : X3)
  /-- Packed BF16 or F16 fused multiply-add. (R365) -/
  | hfma2 (f : X3)
  /-- Packed 16-bit minimum. (R365) -/
  | hmin2 (f : X3)
  /-- Packed 16-bit maximum. (R365) -/
  | hmax2 (f : X3)
  /-- Converts between floating and integer types. (R369) -/
  | cvt (f : X3)
  /-- Correctly rounded reciprocal. (R370) -/
  | rcp (f : X3)
  /-- Correctly rounded reciprocal square root. (R370) -/
  | rsq (f : X3)
  /-- Correctly rounded square root. (R370) -/
  | sqrt (f : X3)
  /-- Correctly rounded base-2 logarithm. (R370) -/
  | log2 (f : X3)
  /-- Correctly rounded 2^x. (R370) -/
  | exp2 (f : X3)
  /-- Correctly rounded sine. (R370) -/
  | sin (f : X3)
  /-- Correctly rounded cosine. (R370) -/
  | cos (f : X3)
  /-- Correctly rounded hyperbolic tangent. (R370) -/
  | tanh (f : X3)
  /-- MV32 add with variance propagation. (R376) -/
  | mvadd (f : X3)
  /-- MV32 subtract with variance propagation. (R376) -/
  | mvsub (f : X3)
  /-- MV32 multiply with variance propagation. (R376) -/
  | mvmul (f : X3)
  /-- MV32 fused multiply-add with variance propagation. (R376) -/
  | mvfma (f : X3)
  /-- MV32 divide with variance propagation. (R376) -/
  | mvdiv (f : X3)
  /-- Negates an MV32 mean. (R376) -/
  | mvneg (f : X3)
  /-- Takes the absolute value of an MV32 mean. (R376) -/
  | mvabs (f : X3)
  /-- Applies a special function to an MV32 value. (R377) -/
  | mvsf (f : X3)
  /-- Converts MV32 to a narrower code, adding rounding variance. (R378) -/
  | mvcvt (f : X3)
  /-- Builds an MV32 value from a mean and a variance. (R379) -/
  | mvset (f : X3)
  /-- Reads the variance or the standard deviation. (R379) -/
  | mvvar (f : X3)
  /-- Sample-wise add. (R380) -/
  | svadd (f : X3)
  /-- Sample-wise subtract. (R380) -/
  | svsub (f : X3)
  /-- Sample-wise multiply. (R380) -/
  | svmul (f : X3)
  /-- Sample-wise fused multiply-add. (R380) -/
  | svfma (f : X3)
  /-- Sample-wise special function. (R381) -/
  | svsf (f : X3)
  /-- Forms the MV32 mean and variance of the samples. (R382) -/
  | svstat (f : X3)
  /-- Fills the samples from a value, or draws them from an MV32. (R383) -/
  | svset (f : X3)
  /-- Sorts SV32 samples (experimental, bound to 0x04B0). (R384) -/
  | svsort (f : X3)
  /-- Writes a 32-bit thread or keyed draw. (R385) -/
  | rnd (f : X3)
  /-- Writes a uniform F32 draw. (R385) -/
  | rndf (f : X3)
  /-- Writes a Bernoulli bit mask. (R385) -/
  | rndmask (f : X3)
  /-- Writes a Gaussian pair from two draws. (R280) -/
  | rndgauss (f : X3)
  /-- Advances the draw counter. (R385) -/
  | rndskip (f : X3)
  /-- Reads the draw counter. (R385) -/
  | rndget (f : X3)
  /-- Sets the draw counter. (R385) -/
  | rndset (f : X3)
  /-- Starts a mask, maximum and min-p cut on the sampler, writing the survivor list. (R388) -/
  | minp (f : X3)
  /-- Writes one 8-bit digit of an order key. (R387) -/
  | hdig (f : X3)
  /-- Starts a keyed categorical draw from the survivor list on the sampler. (R389) -/
  | catdraw (f : X3)
  /-- Reads another gang member's value. (R401) -/
  | shfl (f : X3)
  /-- Broadcasts one position's value. (R401) -/
  | bcast (f : X3)
  /-- Any, all or ballot vote over the gang. (R402) -/
  | vote (f : X3)
  /-- Writes the mask of members with an equal value. (R402) -/
  | matchOp (f : X3)
  /-- Reduction over the present members. (R403) -/
  | red (f : X3)
  /-- Prefix scan over the present members. (R404) -/
  | scan (f : X3)
  /-- Elects the lowest present member. (R402) -/
  | elect (f : X3)
  /-- Branch on zero with a rejoin point and optional ejection. (R394) -/
  | bzLong (f : XB)
  /-- Branch on nonzero with a rejoin point and optional ejection. (R394) -/
  | bnzLong (f : XB)
  /-- Indirect jump through a pair. (R395) -/
  | brx (f : X3)
  /-- Indirect call through a pair. (R395) -/
  | callr (f : X3)
  /-- Global load of 1 to 16 bytes. (R421) -/
  | ldLong (f : XM)
  /-- Global store of 1 to 16 bytes. (R422) -/
  | stLong (f : XM)
  /-- Local load of 1 to 16 bytes. (R421) -/
  | ldlLong (f : XM)
  /-- Local store of 1 to 16 bytes. (R422) -/
  | stlLong (f : XM)
  /-- Global atomic performed at the home point, with an order. (R424) -/
  | atom (f : XM)
  /-- Local atomic. (R424) -/
  | atoml (f : XM)
  /-- Global no-return reduction. (R425) -/
  | gred (f : XM)
  /-- Acquire, release or full fence. (R426) -/
  | fence (f : XM)
  /-- Registers in the wake table, reads, and parks while the value is unchanged. (R429) -/
  | waita (f : XM)
  /-- Wakes up to b waiters on an address and writes the number woken. (R430) -/
  | wake (f : XM)
  /-- Long-form line discard. (R427) -/
  | discardLong (f : XM)
  /-- Stores a tile plainly and transposed through the corner-turn stage. (R428) -/
  | stt (f : X3)
  /-- Arrives at the block barrier as a release. (R432) -/
  | barrierarrive (f : XM)
  /-- Waits for the phase, optionally arriving first. (R432) -/
  | barrierwait (f : XM)
  /-- Sets up a mailbox and zeroes its counters. (R434) -/
  | mbinit (f : XM)
  /-- Publishes or returns a mailbox slot as a release. (R435) -/
  | mbput (f : XM)
  /-- Claims or takes a mailbox slot as an acquire. (R435) -/
  | mbget (f : XM)
  /-- Waits until the outstanding counters fall to the limits. (R436) -/
  | waitc (f : XI)
  /-- Waits for, or reads, a receive counter as an acquire. (R437) -/
  | cwait (f : X3)
  /-- Lane-issued copy engine command. (R441) -/
  | copy (f : X3)
  /-- Lane copy with a follow-on tile command. (R442) -/
  | copyf (f : X3)
  /-- Lane-issued collective. (R444) -/
  | coll (f : X3)
  /-- Arms a triggered send from the lane. (R446) -/
  | tsend (f : X3)
  /-- Disarms a triggered send. (R447) -/
  | tdisarm (f : X3)
  /-- Reads a receive counter. (R448) -/
  | ctrrd (f : X3)
  /-- Reads and resets a receive counter. (R448) -/
  | ctrrst (f : X3)
  /-- Joins a batch-forming channel and waits for the return. (R450) -/
  | bfjoin (f : X3)
  /-- Takes the next formed batch and writes its list. (R451) -/
  | bftake (f : X3)
  /-- Returns a batch's entries as a release. (R452) -/
  | bfdone (f : X3)
  /-- Catalogue lookup. (R453) -/
  | kvlook (f : X3)
  /-- Catalogue insert. (R453) -/
  | kvins (f : X3)
  /-- Catalogue unreference. (R453) -/
  | kvunref (f : X3)
  /-- Claims accumulator tiles whole, or is refused. (R455) -/
  | tclaim (f : X3)
  /-- Frees accumulator tiles. (R455) -/
  | tfree (f : X3)
  /-- Writes a shape record. (R456) -/
  | tshape (f : X3)
  /-- Loads the shadow weight plane. (R457) -/
  | tldw (f : X3)
  /-- Swaps planes at the next step boundary. (R457) -/
  | tswap (f : X3)
  /-- Issues one accumulation step. (R458) -/
  | tmma (f : X3)
  /-- Stores tile rows to local store. (R459) -/
  | tst (f : X3)
  /-- Saves a tile to global memory. (R460) -/
  | tsave (f : X3)
  /-- Loads a tile from global memory. (R460) -/
  | tload (f : X3)
  /-- Returns from a lane trap, or parks after a PREEMPT save. (R462) -/
  | rte (f : X3)
  /-- Raises BREAK, or stops the block under debug. (R463) -/
  | breakOp (f : X3)
  /-- Raises SWTRAP with a code. (R463) -/
  | swtrap (f : XI)
  /-- Reads the die cycle counter. (R465) -/
  | rdcyc (f : X3)
  /-- Long-form system register read. (R464) -/
  | rdsrLong (f : X3)
  /-- Long-form system register write from any source kind. (R464) -/
  | wrsrLong (f : X3)
  /-- Scalar 64-bit add. (R408) -/
  | leadAdd (f : Y3)
  /-- Scalar 64-bit subtract. (R408) -/
  | leadSub (f : Y3)
  /-- Scalar 64-bit multiply. (R408) -/
  | leadMul (f : Y3)
  /-- Scalar high-word multiply. (R408) -/
  | leadMulhi (f : Y3)
  /-- Scalar bitwise AND. (R408) -/
  | leadAnd (f : Y3)
  /-- Scalar bitwise OR. (R408) -/
  | leadOr (f : Y3)
  /-- Scalar bitwise XOR. (R408) -/
  | leadXor (f : Y3)
  /-- Scalar shift left. (R408) -/
  | leadShl (f : Y3)
  /-- Scalar logical shift right. (R408) -/
  | leadShr (f : Y3)
  /-- Scalar arithmetic shift right. (R408) -/
  | leadSar (f : Y3)
  /-- Scalar minimum. (R408) -/
  | leadMin (f : Y3)
  /-- Scalar maximum. (R408) -/
  | leadMax (f : Y3)
  /-- Scalar select. (R408) -/
  | leadSel (f : Y3)
  /-- Sets a p register from a scalar compare. (R409) -/
  | leadCmp (f : Y3)
  /-- Scalar add of a 22-bit immediate. (R410) -/
  | leadAddi (f : YS)
  /-- Scalar global or local load. (R411) -/
  | leadLd (f : YS)
  /-- Scalar global or local store. (R411) -/
  | leadSt (f : YS)
  /-- Writes a 32-bit immediate, optionally sign-extended. (R410) -/
  | leadMovi (f : YI)
  /-- Writes the high 32 bits of a scalar. (R410) -/
  | movhi (f : YI)
  /-- Branches on a p register. (R412) -/
  | bp (f : YB)
  /-- Unconditional lead branch. (R412) -/
  | leadBra (f : YB)
  /-- Ends the lead context. (R410) -/
  | leadEnd (f : Y3)
  /-- Pushes a decision-queue entry. (R413) -/
  | dpush (f : Y3)
  /-- Takes the oldest completion record as an acquire. (R416) -/
  | ewait (f : Y3)
  /-- Returns from a lead handler. (R462) -/
  | lrte (f : Y3)
  /-- Sets up an operand-queue ring. (R414) -/
  | qset (f : Y3)
  /-- Starts an affine stream into an operand queue. (R415) -/
  | qstart (f : Y3)
  /-- Configures a batch-forming channel. (R449) -/
  | bfcfg (f : Y3)
  /-- Arrives at a checkpoint step. (R466) -/
  | ckpt (f : Y3)
  /-- Lead-issued copy. (R441) -/
  | leadCopy (f : Y3)
  /-- Lead-issued copy with a follow-on command. (R442) -/
  | leadCopyf (f : Y3)
  /-- Lead-issued collective. (R444) -/
  | leadColl (f : Y3)
  /-- Lead-issued triggered-send arming. (R446) -/
  | leadTsend (f : Y3)
  /-- Lead-issued disarm. (R447) -/
  | leadTdisarm (f : Y3)
  /-- Lead counter read. (R448) -/
  | leadCtrrd (f : Y3)
  /-- Lead counter read and reset. (R448) -/
  | leadCtrrst (f : Y3)
  /-- Lead tile claim. (R455) -/
  | leadTclaim (f : Y3)
  /-- Lead tile free. (R455) -/
  | leadTfree (f : Y3)
  /-- Lead shape-record write. (R456) -/
  | leadTshape (f : Y3)
  /-- Lead weight-plane load. (R457) -/
  | leadTldw (f : Y3)
  /-- Lead plane swap. (R457) -/
  | leadTswap (f : Y3)
  /-- Lead accumulation step, possibly chained. (R458) -/
  | leadTmma (f : Y3)
  /-- Lead tile store. (R459) -/
  | leadTst (f : Y3)
  /-- Lead tile save. (R460) -/
  | leadTsave (f : Y3)
  /-- Lead tile load. (R460) -/
  | leadTload (f : Y3)
  /-- Lead-issued corner-turn stash. (R461) -/
  | stash (f : Y3)
  /-- Lead system register read. (R464) -/
  | leadRdsr (f : Y3)
  /-- Lead system register write. (R464) -/
  | leadWrsr (f : Y3)
  /-- Lead cycle-counter read. (R465) -/
  | leadRdcyc (f : Y3)
  /-- Lead BREAK. (R463) -/
  | leadBreak (f : Y3)
  /-- Lead software trap. (R463) -/
  | leadSwtrap (f : YI)
  /-- A word with an unassigned primary or function, or one bound to another stepping or generation, issues and traps ILLEGAL with the fate of R344. (R344) -/
  | unassignedEncoding (w0 w1 : Word)
  /-- Arrives at a matching rejoin record or passes, and clears YLD. (R219) -/
  | rejoin
  /-- Files the thread into a reform bin keyed by the next word. (R228) -/
  | reform
  /-- Sets YLD, so EFF becomes 15. (R215) -/
  | yield
  /-- Ends the thread as a release once its stores are visible. (R397) -/
  | exitOp
  /-- Waits for CP and TL to reach zero, then ends the thread as EXIT does. (R397) -/
  | endOp
  /-- A package reset clears readiness, and every function then begins its self-test independently. (R478) -/
  | packageReset
  /-- A unit finishes its self-test and either sets its readiness bit or posts a failure fault record with context 0xFFFF. (R21) -/
  | unitSelfTestDone
  /-- The boot ROM measures the firmware into slot 1, checks its signature and security version, and sets FWOK or leaves it clear. (R25) -/
  | firmwareVerify
  /-- The management service accepts a new firmware image, which takes effect at the next package reset. (R25) -/
  | firmwareUpdate
  /-- A signed firmware request raises the fused security version. (R25) -/
  | securityVersionRaise
  /-- Slot j of measurement slots 3–7 is extended with the SHAKE256 digest of the data; slots 0–2 refuse the extend. (R26) -/
  | measurementExtend
  /-- An attestation request with a 32-byte nonce is queued, or is refused with BUSY when four requests are already waiting. (R27) -/
  | attestationRequest
  /-- The service signs one queued report holding the nonce, device number, stepping tag, security version and slots. (R27) -/
  | attestationReport
  /-- A flit still fails after 16 retries, so the die-to-die link goes down and every context spanning both dies takes a device fault. (R11) -/
  | d2dLost
  /-- A single-symbol HBM error is corrected and counted. (R13) -/
  | memEccCorrected
  /-- An uncorrectable memory error marks the line poisoned. (R13) -/
  | memEccUncorrectable
  /-- An SRAM soft error is either counted when corrected or, when uncorrectable, faults the context or poisons the shared line. (R28) -/
  | sramSoftError
  /-- An internal timeout expires and causes a TIMEOUT device fault. (R28) -/
  | internalTimeout
  /-- The governor grants pending leave requests in arrival order, with same-cycle ties broken by requester kind, at the thermal state's rate. (R15) -/
  | leaveGrant
  /-- A tile engine that has been idle for 256 cycles releases its leave. (R14) -/
  | tileLeaveRelease
  /-- A read of GOVSTAT returns the governor state and clears LONGEST. (R17) -/
  | govstatRead
  /-- Every millisecond the service samples coolant inlet temperature, coolant flow and junction temperatures, and sets the thermal state. (R18) -/
  | coolingSample
  /-- A port's link comes up at 800 Gb/s with FEC locked, and UP is set. (R33) -/
  | portLinkUp
  /-- UP clears, so flows move to sibling ports in the mask, or operations complete NO_ROUTE when no port in the mask is up. (R33) -/
  | portLinkDown
  /-- A read of PORTSTATk returns its status and clears the FEC and drop counts. (R32) -/
  | portstatRead
  /-- A frame that is unsupported or malformed is dropped and counted in DROPS. (R32) -/
  | malformedFrame
  /-- A peer request for an unsupported UET service receives a negative acknowledgement and is counted in DROPS. (R34) -/
  | uetUnsupportedRequest
  /-- An incoming RMA write packet is checked against its landing region and protection, then lands, is held, or is refused with REMOTE_PROTECT. (R36) -/
  | incomingRmaWrite
  /-- An incoming RMA read is checked and returns per-word values visible at home, or is refused. (R37) -/
  | incomingRmaRead
  /-- An incoming fetching add or compare-and-swap on SI64 is checked and performed at the L2 home as an .ar atomic. (R37) -/
  | incomingFetchAtomic
  /-- An incoming write held at a locked range lands once the range unlocks. (R183) -/
  | heldLandingRelease
  /-- Acknowledgements arrive, and once every packet of a send is acknowledged its completion record is posted. (R48) -/
  | uetAck
  /-- A negative acknowledgement completes the sender's operation with REMOTE_PROTECT. (R45) -/
  | uetNak
  /-- The transport retransmits an unacknowledged packet at a time it chooses. (R56) -/
  | uetRetransmit
  /-- A packet unacknowledged for 400,000,000 cycles completes its operation with PEER_LOST. (R56) -/
  | peerLostTimeout
  /-- A collective chunk arrives from the ring neighbour and is combined in the fixed order of R54 or forwarded. (R54) -/
  | collectiveData
  /-- A collective phase that waits for input longer than COLLTMO completes with TIMEOUT. (R56) -/
  | collectivePhaseTimeout
  /-- A collective, with its trailing norm all-reduce when NORM is set, finishes: its writes are visible, its ranges unlock and one record is posted. (R56) -/
  | collectiveComplete
  /-- The bridge forwards a host packet to member m, or refuses it when entry m is not VALID. (R42) -/
  | bridgeForward
  /-- A management-window write to a register without behaviour of its own is stored, or is discarded and counted in WDISCARD. (R61) -/
  | registerWrite
  /-- A read of WDISCARD returns the discard count and clears it. (R61) -/
  | wdiscardRead
  /-- A 32-byte kick write is queued by SEQ, or is discarded with or without a KICK_SEQ event. (R68) -/
  | kick
  /-- The graph controller takes the kick whose SEQ equals E, advances E, checks it and reads the patch table. (R69) -/
  | kickTake
  /-- At each 8,000-cycle mark the patch table is re-read and compared, and KICK_STALE is posted after the sixteenth failed compare. (R69) -/
  | kickReread
  /-- Once no replay of the handle is running, the patches are applied and the nodes with no predecessors enter the ready pool. (R69) -/
  | replayStart
  /-- A node completes, releasing its successors on OK; the replay ends with REPLAY_DONE when nothing more can run. (R71) -/
  | nodeComplete
  /-- The management service writes a NOTIFY record for a host-notify node. (R71) -/
  | hostNotify
  /-- Advancing EVTHEAD makes room, so held records are written in ESEQ order. (R75) -/
  | evtheadWrite
  /-- Writing EVTCFG sets the buffer size and enable, and releases held records once the buffer is enabled. (R74) -/
  | evtcfgWrite
  /-- A read of EVTLOST returns the drop count and clears it. (R74) -/
  | evtlostRead
  /-- A 4-byte write sets an FP event counter, and a same-cycle increment applies to the value written. (R77) -/
  | fpcountWrite
  /-- A 4-byte write sets an FP threshold, and FP_THRESH is posted at once when the counter already meets it. (R77) -/
  | fpthreshWrite
  /-- The command reads the translation root and creates a live context with zeroed FP counters and E = 1, or completes BAD_ARG or BAD_CTX. (R124) -/
  | ctxCreate
  /-- The command sets CTXSTAT 3, discards kicks, kills threads, abandons operations, and frees regions, counters, triggers and graphs. (R82) -/
  | ctxDestroy
  /-- Once nothing of the context remains, CTXSTAT reads 0 and CMD_DONE is posted. (R82) -/
  | ctxDestroyDone
  /-- The command replaces the context's core and copy-engine sets under PMODE, or completes NO_CORES. (R80) -/
  | ctxPartition
  /-- Once no block remains on the removed cores, the partition command completes. (R80) -/
  | ctxPartitionDone
  /-- The command checks a graph object and its code objects, then registers the handle or completes GRAPH_BAD or BAD_ARG. (R65) -/
  | graphRegister
  /-- The command releases a registered graph handle. (R78) -/
  | graphRelease
  /-- The command sets the context's CLASSMAX and POOLQ. (R81) -/
  | ctxLimits
  /-- REGION_SET with VALID 1 writes a landing-region descriptor for the context. (R79) -/
  | regionSet
  /-- REGION_SET with VALID 0 frees a landing region of the context. (R79) -/
  | regionFree
  /-- COUNTER_SET action 0 assigns a free receive counter to the context and zeroes it. (R79) -/
  | counterSetAssign
  /-- COUNTER_SET action 1 frees a counter of the context unless a VALID region names it. (R79) -/
  | counterSetRelease
  /-- COUNTER_SET action 2 sets a counter of the context to the given value atomically. (R79) -/
  | counterSetValue
  /-- A node waiting outside the ready pool enters it, in ready order, when room and quota allow. (R99) -/
  | poolEntry
  /-- Every 200,000 cycles in the pool, a node's dispatch class rises by one, up to CLASSMAX. (R100) -/
  | nodeAging
  /-- The graph controller dispatches the first node in dispatch order whose engine can accept it, after translating its extents. (R101) -/
  | nodeDispatch
  /-- After 200,000 cycles of being passed over, a kernel node blocks placement of any later node until its next block is placed. (R101) -/
  | kernelPassedOver
  /-- The block placer places the next block or cluster on the lowest ready cores that have room, and lead contexts start with their scalar registers set. (R110) -/
  | blockPlace
  /-- A batch-forming channel forms one batch from whole entries when THRESH rows are queued or the oldest entry reaches AGE. (R122) -/
  | batchForm
  /-- Every 4,096 cycles a holding unit re-walks the faulting page and resolves the fault, declares it fatal, or keeps holding. (R134) -/
  | faultRewalk
  /-- At an interval end, each memory controller publishes its hot-frame list when enabled, then clears its sketch and list. (R141) -/
  | hotPageInterval
  /-- The home die's catalogue controller performs one lookup, insert or unreference, in arrival order. (R145) -/
  | catalogueOp
  /-- A global load's value is written to its registers and the LD count falls. (R202) -/
  | loadReturn
  /-- A global store becomes visible at its home and the ST count falls. (R203) -/
  | storeVisible
  /-- A waiting engine operation registers its ranges in both dies' range-lock tables once entries and overlapping locks allow. (R182) -/
  | rangeRegistration
  /-- A copy finishes: its writes are visible, its ranges unlock, its record is posted or CP falls, and a held issuer takes the freed queue entry. (R441) -/
  | copyComplete
  /-- When a COPYF's last byte lands, its follow-on TLDW or TMMA enters the slot's order, or is refused with TILE_REFUSED. (R301) -/
  | followOnEntry
  /-- An STT or stash has both copies visible, unlocks its destinations, and posts its record or lowers ST. (R161) -/
  | stashComplete
  /-- A MINP or CATDRAW finishes on the sampler, releases the held thread, and posts SAMPLE_EMPTY when the result is empty. (R287) -/
  | samplerOpComplete
  /-- A tile-engine step starts once leave is held and its plane is loaded, streaming A rows; a chain mismatch completes CHAIN_MISMATCH instead. (R297) -/
  | tileStepStart
  /-- At a step boundary, pending TSWAPs take effect and higher-class tile work pre-empts lower-class work. (R292) -/
  | tileStepBoundary
  /-- A TMMA, TLDW, TST, TSAVE or TLOAD completes, unlocks its destination, and posts its record or lowers TL. (R296) -/
  | tileOpComplete
  /-- An affine stream reads the next address and writes one operand-queue entry once that entry is free. (R211) -/
  | streamEntry
  /-- The rejoin timeout expires, so missing members are marked late, the record is freed and the arrived threads continue. (R220) -/
  | rejoinTimeout
  /-- The minor side's state reaches its carrel contexts, which start running ejected. (R223) -/
  | ejectHandover
  /-- An ejected thread's hand-back completes, its carrel context is freed, and the thread arrives, is filed or is removed. (R226) -/
  | carrelReturn
  /-- A reform bin holding G threads, or whose oldest entry reaches REFORMAGE, releases its oldest entries as ready threads. (R229) -/
  | reformDraw
  /-- Once a victim thread's counts are zero, or a lead context's streams and operations have drained, it enters its handler with PREEMPT. (R242) -/
  | preemptEntry
  /-- When every party has parked, the side log has drained and the stores are visible, the save completes and the budgets are freed. (R243) -/
  | saveComplete
  /-- A write to DBGSTOP stops the matching block or blocks, or holds the stop until the block is placed. (R306) -/
  | dbgstop
  /-- Any write to DBGRESUME resumes every stopped block of the context. (R308) -/
  | dbgresume
  /-- Once a stopped block has halted and drained, its dump is written into a free slot and DEBUG_STOP is posted. (R307) -/
  | stopComplete
  /-- A read of SAMPLOST returns the count of dropped sample records and clears it. (R305) -/
  | samplostRead
  /-- Advancing ACCHEAD frees accession-log room and releases reading agents held on a full log. (R313) -/
  | accheadWrite
  /-- Under replay, a held read proceeds once its logged writer's WCLK and write are visible, and sets DIVERGE when the stamp differs. (R314) -/
  | rrReadRelease
  /-- A replay-held read that waits COLLTMO cycles sets DIVERGE and proceeds. (R314) -/
  | rrReadTimeout
  /-- A die-to-die flit fails its CRC and is retried at link level, counting towards the 16 retries. (R11) -/
  | d2dFlitRetry
  /-- The port's RS FEC corrects a codeword or finds it uncorrectable, and FECCOR or FECUNC counts it. (R32) -/
  | fecCodeword
  /-- A 64-byte command write to CMD with an OP outside 0x01–0x08 completes with CMD_DONE status BAD_ARG. (R78) -/
  | cmdUnassignedOp
  /-- The corner-turn stage has read all 64 source rows of a lane STT, releasing the held thread and letting it overwrite the source. (R161) -/
  | sttStageLoaded
  /-- A TLDW or TLOAD has read its last source byte, so its source range, and the destination of a COPYF that fed it, unlocks before the command completes. (R296) -/
  | tileSourceUnlock
  deriving DecidableEq, Repr

end Sys2Proof
end

