-- ==== Sys2Proof/WellFormed.lean ====
section
/-! DEFINITION. The checks a unit's own fields pass or fail before any register is looked at (spec 17 R315 to R324): bits that must
hold one value, reserved hints and kinds, queue numbers, and a rejoin field of zero. What a form asks of its MODE and of unused
fields beyond these stands with its operand shape in Machine/Operands.lean. -/

namespace Sys2Proof

/-- The checks by name. -/
inductive WfCheck where
  /-- bit 31 of a long first word or GUARD is clear (R315, R318, R323) -/
  | firstBit31
  /-- a reserved field is nonzero (R4, R320, R323, R324) -/
  | reserved
  /-- the chain bit of a branch or lead unit is set (R318, R320, R327) -/
  | chainBitSet
  /-- a lane register's hint is 0b11 (R322) -/
  | hint
  /-- a source kind is 0b11 (R319) -/
  | kind
  /-- a queue source names none of q0 to q7 and dq, or carries a hint (R319) -/
  | queue
  /-- the REJOIN field of a long branch is zero (R318) -/
  | rejoinZero
  deriving DecidableEq, Repr

/-- The check, unless it holds. -/
def need (ok : Bool) (c : WfCheck) : List WfCheck := if ok then [] else [c]

/-- One long-form source (R319, R322). -/
def srcChecks (k : BitVec 2) (field : BitVec 7) (hint : BitVec 2) : List WfCheck :=
  match k.toNat with
  | 0 => need (hint != 3) .hint
  | 1 => []
  | 2 => need (field.toNat ≤ 8 && hint == 0) .queue
  | _ => [.kind]

def ShortR.checks (f : ShortR) : List WfCheck := need (f.ha != 3 && f.hb != 3) .hint
def ShortI.checks (f : ShortI) : List WfCheck := need (f.ha != 3) .hint
def ShortB.checks (f : ShortB) : List WfCheck := need (f.c == 0) .chainBitSet
def ShortN.checks (f : ShortN) : List WfCheck := need (f.x == 0) .reserved
def GuardW.checks (f : GuardW) : List WfCheck := need (f.c == 1) .firstBit31 ++ need (f.x == 0) .reserved
def X3.checks (f : X3) : List WfCheck :=
  need (f.c0 == 1) .firstBit31 ++ srcChecks f.ka f.a f.ha ++ srcChecks f.kb f.b f.hb ++ srcChecks f.ke f.e f.he
def XI.checks (f : XI) : List WfCheck := need (f.c0 == 1) .firstBit31 ++ need (f.ha != 3) .hint
def XM.checks (f : XM) : List WfCheck :=
  need (f.c0 == 1) .firstBit31 ++ srcChecks f.ka f.a f.ha ++ srcChecks f.kb f.b f.hb
def XB.checks (f : XB) : List WfCheck :=
  need (f.c0 == 1) .firstBit31 ++ need (f.ha != 3) .hint ++ need (f.c == 0) .chainBitSet ++
    need (f.rejoin != 0) .rejoinZero
def Y3.checks (f : Y3) : List WfCheck :=
  need (f.c0 == 1) .firstBit31 ++ need (f.c == 0) .chainBitSet ++ need (f.x == 0) .reserved
def YS.checks (f : YS) : List WfCheck := need (f.c0 == 1) .firstBit31 ++ need (f.c == 0) .chainBitSet
def YI.checks (f : YI) : List WfCheck := need (f.c0 == 1) .firstBit31 ++ need (f.c == 0) .chainBitSet
def YB.checks (f : YB) : List WfCheck :=
  need (f.c0 == 1) .firstBit31 ++ need (f.c == 0) .chainBitSet ++ need (f.x == 0) .reserved

/-- The checks an instruction fails, in a fixed order; a step or event has no fields to check. -/
def Instr.failedChecks (i : Instr) : List WfCheck :=
  match i with
  | .packageReset => []
  | .unitSelfTestDone => []
  | .firmwareVerify => []
  | .firmwareUpdate => []
  | .securityVersionRaise => []
  | .measurementExtend => []
  | .attestationRequest => []
  | .attestationReport => []
  | .d2dLost => []
  | .memEccCorrected => []
  | .memEccUncorrectable => []
  | .sramSoftError => []
  | .internalTimeout => []
  | .leaveGrant => []
  | .tileLeaveRelease => []
  | .govstatRead => []
  | .coolingSample => []
  | .portLinkUp => []
  | .portLinkDown => []
  | .portstatRead => []
  | .malformedFrame => []
  | .uetUnsupportedRequest => []
  | .incomingRmaWrite => []
  | .incomingRmaRead => []
  | .incomingFetchAtomic => []
  | .heldLandingRelease => []
  | .uetAck => []
  | .uetNak => []
  | .uetRetransmit => []
  | .peerLostTimeout => []
  | .collectiveData => []
  | .collectivePhaseTimeout => []
  | .collectiveComplete => []
  | .bridgeForward => []
  | .registerWrite => []
  | .wdiscardRead => []
  | .kick => []
  | .kickTake => []
  | .kickReread => []
  | .replayStart => []
  | .nodeComplete => []
  | .hostNotify => []
  | .evtheadWrite => []
  | .evtcfgWrite => []
  | .evtlostRead => []
  | .fpcountWrite => []
  | .fpthreshWrite => []
  | .ctxCreate => []
  | .ctxDestroy => []
  | .ctxDestroyDone => []
  | .ctxPartition => []
  | .ctxPartitionDone => []
  | .graphRegister => []
  | .graphRelease => []
  | .ctxLimits => []
  | .regionSet => []
  | .regionFree => []
  | .counterSetAssign => []
  | .counterSetRelease => []
  | .counterSetValue => []
  | .poolEntry => []
  | .nodeAging => []
  | .nodeDispatch => []
  | .kernelPassedOver => []
  | .blockPlace => []
  | .batchForm => []
  | .faultRewalk => []
  | .hotPageInterval => []
  | .catalogueOp => []
  | .loadReturn => []
  | .storeVisible => []
  | .rangeRegistration => []
  | .copyComplete => []
  | .followOnEntry => []
  | .stashComplete => []
  | .samplerOpComplete => []
  | .tileStepStart => []
  | .tileStepBoundary => []
  | .tileOpComplete => []
  | .streamEntry => []
  | .rejoinTimeout => []
  | .ejectHandover => []
  | .carrelReturn => []
  | .reformDraw => []
  | .preemptEntry => []
  | .saveComplete => []
  | .dbgstop => []
  | .dbgresume => []
  | .stopComplete => []
  | .samplostRead => []
  | .accheadWrite => []
  | .rrReadRelease => []
  | .rrReadTimeout => []
  | .d2dFlitRetry => []
  | .fecCodeword => []
  | .cmdUnassignedOp => []
  | .sttStageLoaded => []
  | .tileSourceUnlock => []
  | .nop f => f.checks
  | .add f => f.checks
  | .addi f => f.checks
  | .sub f => f.checks
  | .mul f => f.checks
  | .and f => f.checks
  | .or f => f.checks
  | .xor f => f.checks
  | .andi f => f.checks
  | .ori f => f.checks
  | .xori f => f.checks
  | .shli f => f.checks
  | .shri f => f.checks
  | .sari f => f.checks
  | .mov f => f.checks
  | .movi f => f.checks
  | .cmpeq f => f.checks
  | .cmplt f => f.checks
  | .adda f => f.checks
  | .addai f => f.checks
  | .fadd f => f.checks
  | .fsub f => f.checks
  | .fmul f => f.checks
  | .fmin f => f.checks
  | .fmax f => f.checks
  | .ld f => f.checks
  | .st f => f.checks
  | .ldl f => f.checks
  | .stl f => f.checks
  | .bz f => f.checks
  | .bnz f => f.checks
  | .guardWord _ => []
  | .bra f => f.checks
  | .call f => f.checks
  | .ret f => f.checks
  | .rejoin => []
  | .reform => []
  | .yield => []
  | .setpri f => f.checks
  | .exitOp => []
  | .endOp => []
  | .grant f => f.checks
  | .rdsr f => f.checks
  | .wrsr f => f.checks
  | .discard f => f.checks
  | .swz f => f.checks
  | .guard f => f.checks
  | .fcmplt f => f.checks
  | .addLong f => f.checks
  | .subLong f => f.checks
  | .mulLong f => f.checks
  | .mulhi f => f.checks
  | .mad f => f.checks
  | .andLong f => f.checks
  | .orLong f => f.checks
  | .xorLong f => f.checks
  | .shl f => f.checks
  | .shr f => f.checks
  | .sar f => f.checks
  | .min f => f.checks
  | .max f => f.checks
  | .popc f => f.checks
  | .clz f => f.checks
  | .bfe f => f.checks
  | .bfi f => f.checks
  | .sel f => f.checks
  | .cmp f => f.checks
  | .addaLong f => f.checks
  | .movLong f => f.checks
  | .movp f => f.checks
  | .moviLong f => f.checks
  | .addiLong f => f.checks
  | .andiLong f => f.checks
  | .oriLong f => f.checks
  | .xoriLong f => f.checks
  | .addaiLong f => f.checks
  | .faddLong f => f.checks
  | .fsubLong f => f.checks
  | .fmulLong f => f.checks
  | .fma f => f.checks
  | .fminLong f => f.checks
  | .fmaxLong f => f.checks
  | .fcmp f => f.checks
  | .fclass f => f.checks
  | .fround f => f.checks
  | .fabs f => f.checks
  | .fneg f => f.checks
  | .dadd f => f.checks
  | .dsub f => f.checks
  | .dmul f => f.checks
  | .dfma f => f.checks
  | .dmin f => f.checks
  | .dmax f => f.checks
  | .dcmp f => f.checks
  | .hadd2 f => f.checks
  | .hmul2 f => f.checks
  | .hfma2 f => f.checks
  | .hmin2 f => f.checks
  | .hmax2 f => f.checks
  | .cvt f => f.checks
  | .rcp f => f.checks
  | .rsq f => f.checks
  | .sqrt f => f.checks
  | .log2 f => f.checks
  | .exp2 f => f.checks
  | .sin f => f.checks
  | .cos f => f.checks
  | .tanh f => f.checks
  | .mvadd f => f.checks
  | .mvsub f => f.checks
  | .mvmul f => f.checks
  | .mvfma f => f.checks
  | .mvdiv f => f.checks
  | .mvneg f => f.checks
  | .mvabs f => f.checks
  | .mvsf f => f.checks
  | .mvcvt f => f.checks
  | .mvset f => f.checks
  | .mvvar f => f.checks
  | .svadd f => f.checks
  | .svsub f => f.checks
  | .svmul f => f.checks
  | .svfma f => f.checks
  | .svsf f => f.checks
  | .svstat f => f.checks
  | .svset f => f.checks
  | .svsort f => f.checks
  | .rnd f => f.checks
  | .rndf f => f.checks
  | .rndmask f => f.checks
  | .rndgauss f => f.checks
  | .rndskip f => f.checks
  | .rndget f => f.checks
  | .rndset f => f.checks
  | .minp f => f.checks
  | .hdig f => f.checks
  | .catdraw f => f.checks
  | .shfl f => f.checks
  | .bcast f => f.checks
  | .vote f => f.checks
  | .matchOp f => f.checks
  | .red f => f.checks
  | .scan f => f.checks
  | .elect f => f.checks
  | .bzLong f => f.checks
  | .bnzLong f => f.checks
  | .brx f => f.checks
  | .callr f => f.checks
  | .ldLong f => f.checks
  | .stLong f => f.checks
  | .ldlLong f => f.checks
  | .stlLong f => f.checks
  | .atom f => f.checks
  | .atoml f => f.checks
  | .gred f => f.checks
  | .fence f => f.checks
  | .waita f => f.checks
  | .wake f => f.checks
  | .discardLong f => f.checks
  | .stt f => f.checks
  | .barrierarrive f => f.checks
  | .barrierwait f => f.checks
  | .mbinit f => f.checks
  | .mbput f => f.checks
  | .mbget f => f.checks
  | .waitc f => f.checks
  | .cwait f => f.checks
  | .copy f => f.checks
  | .copyf f => f.checks
  | .coll f => f.checks
  | .tsend f => f.checks
  | .tdisarm f => f.checks
  | .ctrrd f => f.checks
  | .ctrrst f => f.checks
  | .bfjoin f => f.checks
  | .bftake f => f.checks
  | .bfdone f => f.checks
  | .kvlook f => f.checks
  | .kvins f => f.checks
  | .kvunref f => f.checks
  | .tclaim f => f.checks
  | .tfree f => f.checks
  | .tshape f => f.checks
  | .tldw f => f.checks
  | .tswap f => f.checks
  | .tmma f => f.checks
  | .tst f => f.checks
  | .tsave f => f.checks
  | .tload f => f.checks
  | .rte f => f.checks
  | .breakOp f => f.checks
  | .swtrap f => f.checks
  | .rdcyc f => f.checks
  | .rdsrLong f => f.checks
  | .wrsrLong f => f.checks
  | .leadAdd f => f.checks
  | .leadSub f => f.checks
  | .leadMul f => f.checks
  | .leadMulhi f => f.checks
  | .leadAnd f => f.checks
  | .leadOr f => f.checks
  | .leadXor f => f.checks
  | .leadShl f => f.checks
  | .leadShr f => f.checks
  | .leadSar f => f.checks
  | .leadMin f => f.checks
  | .leadMax f => f.checks
  | .leadSel f => f.checks
  | .leadCmp f => f.checks
  | .leadAddi f => f.checks
  | .leadLd f => f.checks
  | .leadSt f => f.checks
  | .leadMovi f => f.checks
  | .movhi f => f.checks
  | .bp f => f.checks
  | .leadBra f => f.checks
  | .leadEnd f => f.checks
  | .dpush f => f.checks
  | .ewait f => f.checks
  | .lrte f => f.checks
  | .qset f => f.checks
  | .qstart f => f.checks
  | .bfcfg f => f.checks
  | .ckpt f => f.checks
  | .leadCopy f => f.checks
  | .leadCopyf f => f.checks
  | .leadColl f => f.checks
  | .leadTsend f => f.checks
  | .leadTdisarm f => f.checks
  | .leadCtrrd f => f.checks
  | .leadCtrrst f => f.checks
  | .leadTclaim f => f.checks
  | .leadTfree f => f.checks
  | .leadTshape f => f.checks
  | .leadTldw f => f.checks
  | .leadTswap f => f.checks
  | .leadTmma f => f.checks
  | .leadTst f => f.checks
  | .leadTsave f => f.checks
  | .leadTload f => f.checks
  | .stash f => f.checks
  | .leadRdsr f => f.checks
  | .leadWrsr f => f.checks
  | .leadRdcyc f => f.checks
  | .leadBreak f => f.checks
  | .leadSwtrap f => f.checks
  | .unassignedEncoding _ _ => []

/-- A well-formed instruction fails no check. -/
def Instr.WellFormed (i : Instr) : Prop := i.failedChecks = []

end Sys2Proof
end

