-- ==== Sys2Proof/Decode.lean ====
section
/-! DEFINITION. From words to instructions and back (spec 17 R315 to R323, 18 R339 to R344). Decoding is total: a word that no
row of the opcode map assigns decodes to unassignedEncoding, whose meaning is the fate of R344; so does a word of the five forms
without operands (REJOIN, REFORM, YIELD, EXIT, END) that sets a bit these forms must leave zero. -/

namespace Sys2Proof

/-- Bits lo and above of a word, n of them. -/
def fld (w : Word) (lo n : Nat) : BitVec n := w.extractLsb' lo n

/-- The primary opcode, bits 30:25 (R316). -/
def primaryOf (w : Word) : Nat := (fld w 25 6).toNat
/-- The function of a long or lead first word, bits 24:16 (R318, R320). -/
def funcOf (w : Word) : Nat := (fld w 16 9).toNat
/-- Bit 31 of a word (R315). -/
def chainBit (w : Word) : Bool := w.getLsbD 31

/-- A primary of 0x30 to 0x3F opens a two-word long unit, whatever its bit 31 (R315). -/
def isLongPrimary (p : Nat) : Bool := 0x30 ≤ p

def ShortR.of (w : Word) : ShortR := ⟨fld w 31 1, fld w 18 7, fld w 11 7, fld w 4 7, fld w 2 2, fld w 0 2⟩
def ShortI.of (w : Word) : ShortI := ⟨fld w 31 1, fld w 18 7, fld w 11 7, fld w 9 2, fld w 0 9⟩
def ShortB.of (w : Word) : ShortB := ⟨fld w 31 1, fld w 18 7, fld w 0 18⟩
def ShortN.of (w : Word) : ShortN := ⟨fld w 31 1, fld w 0 25⟩
def GuardW.of (w : Word) : GuardW := ⟨fld w 31 1, fld w 18 7, fld w 17 1, fld w 0 17⟩
def X3.of (w x : Word) : X3 :=
  ⟨fld w 31 1, fld w 9 7, fld w 2 7, fld w 0 2, fld x 31 1, fld x 24 7, fld x 22 2, fld x 15 7, fld x 13 2, fld x 11 2,
   fld x 9 2, fld x 7 2, fld x 0 7⟩
def XI.of (w x : Word) : XI := ⟨fld w 31 1, fld w 9 7, fld w 2 7, fld w 0 2, fld x 31 1, fld x 0 31⟩
def XM.of (w x : Word) : XM :=
  ⟨fld w 31 1, fld w 9 7, fld w 2 7, fld w 0 2, fld x 31 1, fld x 24 7, fld x 22 2, fld x 20 2, fld x 18 2, fld x 12 6,
   fld x 0 12⟩
def XB.of (w x : Word) : XB :=
  ⟨fld w 31 1, fld w 9 7, fld w 2 7, fld w 0 2, fld x 31 1, fld x 30 1, fld x 12 18, fld x 0 12⟩
def Y3.of (w x : Word) : Y3 :=
  ⟨fld w 31 1, fld w 7 9, fld w 0 7, fld x 31 1, fld x 22 9, fld x 13 9, fld x 4 9, fld x 0 4⟩
def YS.of (w x : Word) : YS := ⟨fld w 31 1, fld w 7 9, fld w 0 7, fld x 31 1, fld x 22 9, fld x 0 22⟩
def YI.of (w x : Word) : YI := ⟨fld w 31 1, fld w 7 9, fld w 0 7, fld x 31 1, fld x 0 31⟩
def YB.of (w x : Word) : YB :=
  ⟨fld w 31 1, fld w 7 9, fld w 0 7, fld x 31 1, fld x 28 3, fld x 27 1, fld x 9 18, fld x 0 9⟩

/-- Primaries 0x00 to 0x2F (R339). -/
def decodeShort (p : Nat) (w : Word) : Instr :=
  match p with
  | 0x00 => .nop (.of w)
  | 0x01 => .add (.of w)
  | 0x02 => .addi (.of w)
  | 0x03 => .sub (.of w)
  | 0x04 => .mul (.of w)
  | 0x05 => .and (.of w)
  | 0x06 => .or (.of w)
  | 0x07 => .xor (.of w)
  | 0x08 => .andi (.of w)
  | 0x09 => .ori (.of w)
  | 0x0A => .xori (.of w)
  | 0x0B => .shli (.of w)
  | 0x0C => .shri (.of w)
  | 0x0D => .sari (.of w)
  | 0x0E => .mov (.of w)
  | 0x0F => .movi (.of w)
  | 0x10 => .cmpeq (.of w)
  | 0x11 => .cmplt (.of w)
  | 0x12 => .adda (.of w)
  | 0x13 => .addai (.of w)
  | 0x14 => .fadd (.of w)
  | 0x15 => .fsub (.of w)
  | 0x16 => .fmul (.of w)
  | 0x17 => .fmin (.of w)
  | 0x18 => .fmax (.of w)
  | 0x19 => .ld (.of w)
  | 0x1A => .st (.of w)
  | 0x1B => .ldl (.of w)
  | 0x1C => .stl (.of w)
  | 0x1D => .bz (.of w)
  | 0x1E => .bnz (.of w)
  | 0x1F => .guardWord (.of w)
  | 0x20 => .bra (.of w)
  | 0x21 => .call (.of w)
  | 0x22 => .ret (.of w)
  | 0x23 => if fld w 0 25 == 0 && !chainBit w then .rejoin else .unassignedEncoding w 0
  | 0x24 => if fld w 0 25 == 0 && !chainBit w then .reform else .unassignedEncoding w 0
  | 0x25 => if fld w 0 25 == 0 && !chainBit w then .yield else .unassignedEncoding w 0
  | 0x26 => .setpri (.of w)
  | 0x27 => if fld w 0 25 == 0 && !chainBit w then .exitOp else .unassignedEncoding w 0
  | 0x28 => if fld w 0 25 == 0 && !chainBit w then .endOp else .unassignedEncoding w 0
  | 0x29 => .grant (.of w)
  | 0x2A => .rdsr (.of w)
  | 0x2B => .wrsr (.of w)
  | 0x2C => .discard (.of w)
  | 0x2D => .swz (.of w)
  | 0x2E => .guard (.of w)
  | 0x2F => .fcmplt (.of w)
  | _ => .unassignedEncoding w 0

/-- Functions of primary 0x30 (R340). -/
def decode30 (f : Nat) (w x : Word) : Instr :=
  match f with
  | 0x000 => .addLong (.of w x)
  | 0x001 => .subLong (.of w x)
  | 0x002 => .mulLong (.of w x)
  | 0x003 => .mulhi (.of w x)
  | 0x004 => .mad (.of w x)
  | 0x005 => .andLong (.of w x)
  | 0x006 => .orLong (.of w x)
  | 0x007 => .xorLong (.of w x)
  | 0x008 => .shl (.of w x)
  | 0x009 => .shr (.of w x)
  | 0x00A => .sar (.of w x)
  | 0x00B => .min (.of w x)
  | 0x00C => .max (.of w x)
  | 0x00D => .popc (.of w x)
  | 0x00E => .clz (.of w x)
  | 0x00F => .bfe (.of w x)
  | 0x010 => .bfi (.of w x)
  | 0x011 => .sel (.of w x)
  | 0x012 => .cmp (.of w x)
  | 0x013 => .addaLong (.of w x)
  | 0x014 => .movLong (.of w x)
  | 0x015 => .movp (.of w x)
  | 0x020 => .moviLong (.of w x)
  | 0x021 => .addiLong (.of w x)
  | 0x022 => .andiLong (.of w x)
  | 0x023 => .oriLong (.of w x)
  | 0x024 => .xoriLong (.of w x)
  | 0x025 => .addaiLong (.of w x)
  | _ => .unassignedEncoding w x

/-- Functions of primary 0x31 (R340). -/
def decode31 (f : Nat) (w x : Word) : Instr :=
  match f with
  | 0x000 => .faddLong (.of w x)
  | 0x001 => .fsubLong (.of w x)
  | 0x002 => .fmulLong (.of w x)
  | 0x003 => .fma (.of w x)
  | 0x004 => .fminLong (.of w x)
  | 0x005 => .fmaxLong (.of w x)
  | 0x006 => .fcmp (.of w x)
  | 0x007 => .fclass (.of w x)
  | 0x008 => .fround (.of w x)
  | 0x009 => .fabs (.of w x)
  | 0x00A => .fneg (.of w x)
  | 0x010 => .dadd (.of w x)
  | 0x011 => .dsub (.of w x)
  | 0x012 => .dmul (.of w x)
  | 0x013 => .dfma (.of w x)
  | 0x014 => .dmin (.of w x)
  | 0x015 => .dmax (.of w x)
  | 0x016 => .dcmp (.of w x)
  | 0x020 => .hadd2 (.of w x)
  | 0x021 => .hmul2 (.of w x)
  | 0x022 => .hfma2 (.of w x)
  | 0x023 => .hmin2 (.of w x)
  | 0x024 => .hmax2 (.of w x)
  | 0x030 => .cvt (.of w x)
  | _ => .unassignedEncoding w x

/-- Functions of primary 0x32 (R340). -/
def decode32 (f : Nat) (w x : Word) : Instr :=
  match f with
  | 0x000 => .rcp (.of w x)
  | 0x001 => .rsq (.of w x)
  | 0x002 => .sqrt (.of w x)
  | 0x003 => .log2 (.of w x)
  | 0x004 => .exp2 (.of w x)
  | 0x005 => .sin (.of w x)
  | 0x006 => .cos (.of w x)
  | 0x007 => .tanh (.of w x)
  | _ => .unassignedEncoding w x

/-- Functions of primary 0x33 (R340). -/
def decode33 (f : Nat) (w x : Word) : Instr :=
  match f with
  | 0x000 => .mvadd (.of w x)
  | 0x001 => .mvsub (.of w x)
  | 0x002 => .mvmul (.of w x)
  | 0x003 => .mvfma (.of w x)
  | 0x004 => .mvdiv (.of w x)
  | 0x005 => .mvneg (.of w x)
  | 0x006 => .mvabs (.of w x)
  | 0x008 => .mvsf (.of w x)
  | 0x009 => .mvcvt (.of w x)
  | 0x00A => .mvset (.of w x)
  | 0x00B => .mvvar (.of w x)
  | 0x010 => .svadd (.of w x)
  | 0x011 => .svsub (.of w x)
  | 0x012 => .svmul (.of w x)
  | 0x013 => .svfma (.of w x)
  | 0x014 => .svsf (.of w x)
  | 0x015 => .svstat (.of w x)
  | 0x016 => .svset (.of w x)
  | 0x017 => .svsort (.of w x)
  | _ => .unassignedEncoding w x

/-- Functions of primary 0x34 (R340). -/
def decode34 (f : Nat) (w x : Word) : Instr :=
  match f with
  | 0x000 => .rnd (.of w x)
  | 0x001 => .rndf (.of w x)
  | 0x002 => .rndmask (.of w x)
  | 0x003 => .rndgauss (.of w x)
  | 0x004 => .rndskip (.of w x)
  | 0x005 => .rndget (.of w x)
  | 0x006 => .rndset (.of w x)
  | 0x008 => .minp (.of w x)
  | 0x009 => .hdig (.of w x)
  | 0x00A => .catdraw (.of w x)
  | _ => .unassignedEncoding w x

/-- Functions of primary 0x35 (R340). -/
def decode35 (f : Nat) (w x : Word) : Instr :=
  match f with
  | 0x000 => .shfl (.of w x)
  | 0x001 => .bcast (.of w x)
  | 0x002 => .vote (.of w x)
  | 0x003 => .matchOp (.of w x)
  | 0x004 => .red (.of w x)
  | 0x005 => .scan (.of w x)
  | 0x006 => .elect (.of w x)
  | _ => .unassignedEncoding w x

/-- Functions of primary 0x36 (R340). -/
def decode36 (f : Nat) (w x : Word) : Instr :=
  match f with
  | 0x000 => .bzLong (.of w x)
  | 0x001 => .bnzLong (.of w x)
  | 0x002 => .brx (.of w x)
  | 0x003 => .callr (.of w x)
  | _ => .unassignedEncoding w x

/-- Functions of primary 0x37 (R340). -/
def decode37 (f : Nat) (w x : Word) : Instr :=
  match f with
  | 0x000 => .ldLong (.of w x)
  | 0x001 => .stLong (.of w x)
  | 0x002 => .ldlLong (.of w x)
  | 0x003 => .stlLong (.of w x)
  | 0x004 => .atom (.of w x)
  | 0x005 => .atoml (.of w x)
  | 0x006 => .gred (.of w x)
  | 0x007 => .fence (.of w x)
  | 0x008 => .waita (.of w x)
  | 0x009 => .wake (.of w x)
  | 0x00A => .discardLong (.of w x)
  | 0x00B => .stt (.of w x)
  | _ => .unassignedEncoding w x

/-- Functions of primary 0x38 (R340). -/
def decode38 (f : Nat) (w x : Word) : Instr :=
  match f with
  | 0x000 => .barrierarrive (.of w x)
  | 0x001 => .barrierwait (.of w x)
  | 0x002 => .mbinit (.of w x)
  | 0x003 => .mbput (.of w x)
  | 0x004 => .mbget (.of w x)
  | 0x005 => .waitc (.of w x)
  | 0x006 => .cwait (.of w x)
  | _ => .unassignedEncoding w x

/-- Functions of primary 0x39 (R340). -/
def decode39 (f : Nat) (w x : Word) : Instr :=
  match f with
  | 0x000 => .copy (.of w x)
  | 0x001 => .copyf (.of w x)
  | 0x002 => .coll (.of w x)
  | 0x003 => .tsend (.of w x)
  | 0x004 => .tdisarm (.of w x)
  | 0x005 => .ctrrd (.of w x)
  | 0x006 => .ctrrst (.of w x)
  | 0x007 => .bfjoin (.of w x)
  | 0x008 => .bftake (.of w x)
  | 0x009 => .bfdone (.of w x)
  | 0x00A => .kvlook (.of w x)
  | 0x00B => .kvins (.of w x)
  | 0x00C => .kvunref (.of w x)
  | _ => .unassignedEncoding w x

/-- Functions of primary 0x3A (R340). -/
def decode3A (f : Nat) (w x : Word) : Instr :=
  match f with
  | 0x000 => .tclaim (.of w x)
  | 0x001 => .tfree (.of w x)
  | 0x002 => .tshape (.of w x)
  | 0x003 => .tldw (.of w x)
  | 0x004 => .tswap (.of w x)
  | 0x005 => .tmma (.of w x)
  | 0x006 => .tst (.of w x)
  | 0x007 => .tsave (.of w x)
  | 0x008 => .tload (.of w x)
  | _ => .unassignedEncoding w x

/-- Functions of primary 0x3B (R340). -/
def decode3B (f : Nat) (w x : Word) : Instr :=
  match f with
  | 0x000 => .rte (.of w x)
  | 0x001 => .breakOp (.of w x)
  | 0x002 => .swtrap (.of w x)
  | 0x003 => .rdcyc (.of w x)
  | 0x004 => .rdsrLong (.of w x)
  | 0x005 => .wrsrLong (.of w x)
  | _ => .unassignedEncoding w x

/-- Functions of primary 0x3C (R342). -/
def decode3C (f : Nat) (w x : Word) : Instr :=
  match f with
  | 0x000 => .leadAdd (.of w x)
  | 0x001 => .leadSub (.of w x)
  | 0x002 => .leadMul (.of w x)
  | 0x003 => .leadMulhi (.of w x)
  | 0x004 => .leadAnd (.of w x)
  | 0x005 => .leadOr (.of w x)
  | 0x006 => .leadXor (.of w x)
  | 0x007 => .leadShl (.of w x)
  | 0x008 => .leadShr (.of w x)
  | 0x009 => .leadSar (.of w x)
  | 0x00A => .leadMin (.of w x)
  | 0x00B => .leadMax (.of w x)
  | 0x00C => .leadSel (.of w x)
  | 0x00D => .leadCmp (.of w x)
  | 0x010 => .leadAddi (.of w x)
  | 0x011 => .leadLd (.of w x)
  | 0x012 => .leadSt (.of w x)
  | 0x013 => .leadMovi (.of w x)
  | 0x014 => .movhi (.of w x)
  | _ => .unassignedEncoding w x

/-- Functions of primary 0x3D (R342). -/
def decode3D (f : Nat) (w x : Word) : Instr :=
  match f with
  | 0x000 => .bp (.of w x)
  | 0x001 => .leadBra (.of w x)
  | 0x002 => .leadEnd (.of w x)
  | 0x003 => .dpush (.of w x)
  | 0x004 => .ewait (.of w x)
  | 0x005 => .lrte (.of w x)
  | 0x006 => .qset (.of w x)
  | 0x007 => .qstart (.of w x)
  | 0x008 => .bfcfg (.of w x)
  | 0x009 => .ckpt (.of w x)
  | _ => .unassignedEncoding w x

/-- Functions of primary 0x3E (R342). -/
def decode3E (f : Nat) (w x : Word) : Instr :=
  match f with
  | 0x000 => .leadCopy (.of w x)
  | 0x001 => .leadCopyf (.of w x)
  | 0x002 => .leadColl (.of w x)
  | 0x003 => .leadTsend (.of w x)
  | 0x004 => .leadTdisarm (.of w x)
  | 0x005 => .leadCtrrd (.of w x)
  | 0x006 => .leadCtrrst (.of w x)
  | 0x010 => .leadTclaim (.of w x)
  | 0x011 => .leadTfree (.of w x)
  | 0x012 => .leadTshape (.of w x)
  | 0x013 => .leadTldw (.of w x)
  | 0x014 => .leadTswap (.of w x)
  | 0x015 => .leadTmma (.of w x)
  | 0x016 => .leadTst (.of w x)
  | 0x017 => .leadTsave (.of w x)
  | 0x018 => .leadTload (.of w x)
  | 0x020 => .stash (.of w x)
  | _ => .unassignedEncoding w x

/-- Functions of primary 0x3F (R342). -/
def decode3F (f : Nat) (w x : Word) : Instr :=
  match f with
  | 0x000 => .leadRdsr (.of w x)
  | 0x001 => .leadWrsr (.of w x)
  | 0x002 => .leadRdcyc (.of w x)
  | 0x003 => .leadBreak (.of w x)
  | 0x004 => .leadSwtrap (.of w x)
  | _ => .unassignedEncoding w x

/-- Long units by primary (R340, R342). -/
def decodeLong (p : Nat) (w x : Word) : Instr :=
  match p with
  | 0x30 => decode30 (funcOf w) w x
  | 0x31 => decode31 (funcOf w) w x
  | 0x32 => decode32 (funcOf w) w x
  | 0x33 => decode33 (funcOf w) w x
  | 0x34 => decode34 (funcOf w) w x
  | 0x35 => decode35 (funcOf w) w x
  | 0x36 => decode36 (funcOf w) w x
  | 0x37 => decode37 (funcOf w) w x
  | 0x38 => decode38 (funcOf w) w x
  | 0x39 => decode39 (funcOf w) w x
  | 0x3A => decode3A (funcOf w) w x
  | 0x3B => decode3B (funcOf w) w x
  | 0x3C => decode3C (funcOf w) w x
  | 0x3D => decode3D (funcOf w) w x
  | 0x3E => decode3E (funcOf w) w x
  | 0x3F => decode3F (funcOf w) w x
  | _ => .unassignedEncoding w x

/-- One unit from its first word and the word after it; a short unit does not look at the second (R315, R316). -/
def decodeUnit (w x : Word) : Instr :=
  if isLongPrimary (primaryOf w) then decodeLong (primaryOf w) w x else decodeShort (primaryOf w) w

/-- How many words the unit that opens with w takes by its primary opcode alone (R315, R344). -/
def unitWords (w : Word) : Nat := if isLongPrimary (primaryOf w) then 2 else 1

/-- A little-endian word from four bytes (R3). -/
def wordOfBytes (b0 b1 b2 b3 : Byte) : Word := b3 ++ b2 ++ b1 ++ b0

/-- The bytes of a word, lowest address first (R3). -/
def bytesOfWord (w : Word) : List Byte := [w.extractLsb' 0 8, w.extractLsb' 8 8, w.extractLsb' 16 8, w.extractLsb' 24 8]

/-- The unit at the head of a byte list, and the bytes after it; nothing when the bytes end inside the unit. -/
def decodeBytes : List Byte → Option (Instr × List Byte)
  | b0 :: b1 :: b2 :: b3 :: rest =>
    let w := wordOfBytes b0 b1 b2 b3
    if isLongPrimary (primaryOf w) then
      match rest with
      | c0 :: c1 :: c2 :: c3 :: rest' => some (decodeUnit w (wordOfBytes c0 c1 c2 c3), rest')
      | _ => none
    else some (decodeUnit w 0, rest)
  | _ => none

/-- The bytes of a table word: nbits of w from bit 0 up, each 32-bit word little-endian, and zeros up to the longest unit. -/
def tableBytes (nbits w : Nat) : List Byte :=
  let v := w % 2 ^ nbits
  bytesOfWord (BitVec.ofNat 32 v) ++ bytesOfWord (BitVec.ofNat 32 (v / 2 ^ 32))

/-- What the decoder reads from a word of the opcode table. -/
def decodeTableWord (nbits w : Nat) : Option Instr := (decodeBytes (tableBytes nbits w)).map (·.1)

/-- First word of a lane long form (R318). -/
def laneFirst (p fn : Nat) (c0 : BitVec 1) (d a : BitVec 7) (ha : BitVec 2) : Word :=
  c0 ++ BitVec.ofNat 6 p ++ BitVec.ofNat 9 fn ++ d ++ a ++ ha
/-- First word of a lead form (R320). -/
def leadFirst (p fn : Nat) (c0 : BitVec 1) (d : BitVec 9) (mode : BitVec 7) : Word :=
  c0 ++ BitVec.ofNat 6 p ++ BitVec.ofNat 9 fn ++ d ++ mode

def ShortR.words (f : ShortR) (p : Nat) : List Word :=
  [(f.c ++ BitVec.ofNat 6 p ++ f.d ++ f.a ++ f.b ++ f.ha ++ f.hb : BitVec 32)]
def ShortI.words (f : ShortI) (p : Nat) : List Word := [(f.c ++ BitVec.ofNat 6 p ++ f.d ++ f.a ++ f.ha ++ f.imm : BitVec 32)]
def ShortB.words (f : ShortB) (p : Nat) : List Word := [(f.c ++ BitVec.ofNat 6 p ++ f.v ++ f.off : BitVec 32)]
def ShortN.words (f : ShortN) (p : Nat) : List Word := [(f.c ++ BitVec.ofNat 6 p ++ f.x : BitVec 32)]
def GuardW.words (f : GuardW) (p : Nat) : List Word := [(f.c ++ BitVec.ofNat 6 p ++ f.g ++ f.n ++ f.x : BitVec 32)]
def X3.words (f : X3) (p fn : Nat) : List Word :=
  [laneFirst p fn f.c0 f.d f.a f.ha,
   (f.c ++ f.b ++ f.hb ++ f.e ++ f.he ++ f.ka ++ f.kb ++ f.ke ++ f.mode : BitVec 32)]
def XI.words (f : XI) (p fn : Nat) : List Word := [laneFirst p fn f.c0 f.d f.a f.ha, (f.c ++ f.imm : BitVec 32)]
def XM.words (f : XM) (p fn : Nat) : List Word :=
  [laneFirst p fn f.c0 f.d f.a f.ha, (f.c ++ f.b ++ f.hb ++ f.ka ++ f.kb ++ f.mode ++ f.off : BitVec 32)]
def XB.words (f : XB) (p fn : Nat) : List Word :=
  [laneFirst p fn f.c0 f.d f.a f.ha, (f.c ++ f.ej ++ f.target ++ f.rejoin : BitVec 32)]
def Y3.words (f : Y3) (p fn : Nat) : List Word :=
  [leadFirst p fn f.c0 f.d f.mode, (f.c ++ f.a ++ f.b ++ f.e ++ f.x : BitVec 32)]
def YS.words (f : YS) (p fn : Nat) : List Word := [leadFirst p fn f.c0 f.d f.mode, (f.c ++ f.a ++ f.imm : BitVec 32)]
def YI.words (f : YI) (p fn : Nat) : List Word := [leadFirst p fn f.c0 f.d f.mode, (f.c ++ f.imm : BitVec 32)]
def YB.words (f : YB) (p fn : Nat) : List Word :=
  [leadFirst p fn f.c0 f.d f.mode, (f.c ++ f.cp ++ f.n ++ f.off ++ f.x : BitVec 32)]

/-- The words of an encoded instruction (R317 to R323, R339 to R342); a step or event of the table has none. -/
def encode (i : Instr) : List Word :=
  match i with
  | .packageReset => []
  | .unitSelfTestDone => []
  | .firmwareVerify => []
  | .firmwareUpdate => []
  | .securityVersionRaise => []
  | .measurementExtend => []
  | .attestationRequest => []
  | .attestationReport => []
  | .d2dLost => []
  | .memEccCorrected => []
  | .memEccUncorrectable => []
  | .sramSoftError => []
  | .internalTimeout => []
  | .leaveGrant => []
  | .tileLeaveRelease => []
  | .govstatRead => []
  | .coolingSample => []
  | .portLinkUp => []
  | .portLinkDown => []
  | .portstatRead => []
  | .malformedFrame => []
  | .uetUnsupportedRequest => []
  | .incomingRmaWrite => []
  | .incomingRmaRead => []
  | .incomingFetchAtomic => []
  | .heldLandingRelease => []
  | .uetAck => []
  | .uetNak => []
  | .uetRetransmit => []
  | .peerLostTimeout => []
  | .collectiveData => []
  | .collectivePhaseTimeout => []
  | .collectiveComplete => []
  | .bridgeForward => []
  | .registerWrite => []
  | .wdiscardRead => []
  | .kick => []
  | .kickTake => []
  | .kickReread => []
  | .replayStart => []
  | .nodeComplete => []
  | .hostNotify => []
  | .evtheadWrite => []
  | .evtcfgWrite => []
  | .evtlostRead => []
  | .fpcountWrite => []
  | .fpthreshWrite => []
  | .ctxCreate => []
  | .ctxDestroy => []
  | .ctxDestroyDone => []
  | .ctxPartition => []
  | .ctxPartitionDone => []
  | .graphRegister => []
  | .graphRelease => []
  | .ctxLimits => []
  | .regionSet => []
  | .regionFree => []
  | .counterSetAssign => []
  | .counterSetRelease => []
  | .counterSetValue => []
  | .poolEntry => []
  | .nodeAging => []
  | .nodeDispatch => []
  | .kernelPassedOver => []
  | .blockPlace => []
  | .batchForm => []
  | .faultRewalk => []
  | .hotPageInterval => []
  | .catalogueOp => []
  | .loadReturn => []
  | .storeVisible => []
  | .rangeRegistration => []
  | .copyComplete => []
  | .followOnEntry => []
  | .stashComplete => []
  | .samplerOpComplete => []
  | .tileStepStart => []
  | .tileStepBoundary => []
  | .tileOpComplete => []
  | .streamEntry => []
  | .rejoinTimeout => []
  | .ejectHandover => []
  | .carrelReturn => []
  | .reformDraw => []
  | .preemptEntry => []
  | .saveComplete => []
  | .dbgstop => []
  | .dbgresume => []
  | .stopComplete => []
  | .samplostRead => []
  | .accheadWrite => []
  | .rrReadRelease => []
  | .rrReadTimeout => []
  | .d2dFlitRetry => []
  | .fecCodeword => []
  | .cmdUnassignedOp => []
  | .sttStageLoaded => []
  | .tileSourceUnlock => []
  | .nop f => f.words 0x00
  | .add f => f.words 0x01
  | .addi f => f.words 0x02
  | .sub f => f.words 0x03
  | .mul f => f.words 0x04
  | .and f => f.words 0x05
  | .or f => f.words 0x06
  | .xor f => f.words 0x07
  | .andi f => f.words 0x08
  | .ori f => f.words 0x09
  | .xori f => f.words 0x0A
  | .shli f => f.words 0x0B
  | .shri f => f.words 0x0C
  | .sari f => f.words 0x0D
  | .mov f => f.words 0x0E
  | .movi f => f.words 0x0F
  | .cmpeq f => f.words 0x10
  | .cmplt f => f.words 0x11
  | .adda f => f.words 0x12
  | .addai f => f.words 0x13
  | .fadd f => f.words 0x14
  | .fsub f => f.words 0x15
  | .fmul f => f.words 0x16
  | .fmin f => f.words 0x17
  | .fmax f => f.words 0x18
  | .ld f => f.words 0x19
  | .st f => f.words 0x1A
  | .ldl f => f.words 0x1B
  | .stl f => f.words 0x1C
  | .bz f => f.words 0x1D
  | .bnz f => f.words 0x1E
  | .guardWord f => f.words 0x1F
  | .bra f => f.words 0x20
  | .call f => f.words 0x21
  | .ret f => f.words 0x22
  | .rejoin => [0x46000000]
  | .reform => [0x48000000]
  | .yield => [0x4A000000]
  | .setpri f => f.words 0x26
  | .exitOp => [0x4E000000]
  | .endOp => [0x50000000]
  | .grant f => f.words 0x29
  | .rdsr f => f.words 0x2A
  | .wrsr f => f.words 0x2B
  | .discard f => f.words 0x2C
  | .swz f => f.words 0x2D
  | .guard f => f.words 0x2E
  | .fcmplt f => f.words 0x2F
  | .addLong f => f.words 0x30 0x000
  | .subLong f => f.words 0x30 0x001
  | .mulLong f => f.words 0x30 0x002
  | .mulhi f => f.words 0x30 0x003
  | .mad f => f.words 0x30 0x004
  | .andLong f => f.words 0x30 0x005
  | .orLong f => f.words 0x30 0x006
  | .xorLong f => f.words 0x30 0x007
  | .shl f => f.words 0x30 0x008
  | .shr f => f.words 0x30 0x009
  | .sar f => f.words 0x30 0x00A
  | .min f => f.words 0x30 0x00B
  | .max f => f.words 0x30 0x00C
  | .popc f => f.words 0x30 0x00D
  | .clz f => f.words 0x30 0x00E
  | .bfe f => f.words 0x30 0x00F
  | .bfi f => f.words 0x30 0x010
  | .sel f => f.words 0x30 0x011
  | .cmp f => f.words 0x30 0x012
  | .addaLong f => f.words 0x30 0x013
  | .movLong f => f.words 0x30 0x014
  | .movp f => f.words 0x30 0x015
  | .moviLong f => f.words 0x30 0x020
  | .addiLong f => f.words 0x30 0x021
  | .andiLong f => f.words 0x30 0x022
  | .oriLong f => f.words 0x30 0x023
  | .xoriLong f => f.words 0x30 0x024
  | .addaiLong f => f.words 0x30 0x025
  | .faddLong f => f.words 0x31 0x000
  | .fsubLong f => f.words 0x31 0x001
  | .fmulLong f => f.words 0x31 0x002
  | .fma f => f.words 0x31 0x003
  | .fminLong f => f.words 0x31 0x004
  | .fmaxLong f => f.words 0x31 0x005
  | .fcmp f => f.words 0x31 0x006
  | .fclass f => f.words 0x31 0x007
  | .fround f => f.words 0x31 0x008
  | .fabs f => f.words 0x31 0x009
  | .fneg f => f.words 0x31 0x00A
  | .dadd f => f.words 0x31 0x010
  | .dsub f => f.words 0x31 0x011
  | .dmul f => f.words 0x31 0x012
  | .dfma f => f.words 0x31 0x013
  | .dmin f => f.words 0x31 0x014
  | .dmax f => f.words 0x31 0x015
  | .dcmp f => f.words 0x31 0x016
  | .hadd2 f => f.words 0x31 0x020
  | .hmul2 f => f.words 0x31 0x021
  | .hfma2 f => f.words 0x31 0x022
  | .hmin2 f => f.words 0x31 0x023
  | .hmax2 f => f.words 0x31 0x024
  | .cvt f => f.words 0x31 0x030
  | .rcp f => f.words 0x32 0x000
  | .rsq f => f.words 0x32 0x001
  | .sqrt f => f.words 0x32 0x002
  | .log2 f => f.words 0x32 0x003
  | .exp2 f => f.words 0x32 0x004
  | .sin f => f.words 0x32 0x005
  | .cos f => f.words 0x32 0x006
  | .tanh f => f.words 0x32 0x007
  | .mvadd f => f.words 0x33 0x000
  | .mvsub f => f.words 0x33 0x001
  | .mvmul f => f.words 0x33 0x002
  | .mvfma f => f.words 0x33 0x003
  | .mvdiv f => f.words 0x33 0x004
  | .mvneg f => f.words 0x33 0x005
  | .mvabs f => f.words 0x33 0x006
  | .mvsf f => f.words 0x33 0x008
  | .mvcvt f => f.words 0x33 0x009
  | .mvset f => f.words 0x33 0x00A
  | .mvvar f => f.words 0x33 0x00B
  | .svadd f => f.words 0x33 0x010
  | .svsub f => f.words 0x33 0x011
  | .svmul f => f.words 0x33 0x012
  | .svfma f => f.words 0x33 0x013
  | .svsf f => f.words 0x33 0x014
  | .svstat f => f.words 0x33 0x015
  | .svset f => f.words 0x33 0x016
  | .svsort f => f.words 0x33 0x017
  | .rnd f => f.words 0x34 0x000
  | .rndf f => f.words 0x34 0x001
  | .rndmask f => f.words 0x34 0x002
  | .rndgauss f => f.words 0x34 0x003
  | .rndskip f => f.words 0x34 0x004
  | .rndget f => f.words 0x34 0x005
  | .rndset f => f.words 0x34 0x006
  | .minp f => f.words 0x34 0x008
  | .hdig f => f.words 0x34 0x009
  | .catdraw f => f.words 0x34 0x00A
  | .shfl f => f.words 0x35 0x000
  | .bcast f => f.words 0x35 0x001
  | .vote f => f.words 0x35 0x002
  | .matchOp f => f.words 0x35 0x003
  | .red f => f.words 0x35 0x004
  | .scan f => f.words 0x35 0x005
  | .elect f => f.words 0x35 0x006
  | .bzLong f => f.words 0x36 0x000
  | .bnzLong f => f.words 0x36 0x001
  | .brx f => f.words 0x36 0x002
  | .callr f => f.words 0x36 0x003
  | .ldLong f => f.words 0x37 0x000
  | .stLong f => f.words 0x37 0x001
  | .ldlLong f => f.words 0x37 0x002
  | .stlLong f => f.words 0x37 0x003
  | .atom f => f.words 0x37 0x004
  | .atoml f => f.words 0x37 0x005
  | .gred f => f.words 0x37 0x006
  | .fence f => f.words 0x37 0x007
  | .waita f => f.words 0x37 0x008
  | .wake f => f.words 0x37 0x009
  | .discardLong f => f.words 0x37 0x00A
  | .stt f => f.words 0x37 0x00B
  | .barrierarrive f => f.words 0x38 0x000
  | .barrierwait f => f.words 0x38 0x001
  | .mbinit f => f.words 0x38 0x002
  | .mbput f => f.words 0x38 0x003
  | .mbget f => f.words 0x38 0x004
  | .waitc f => f.words 0x38 0x005
  | .cwait f => f.words 0x38 0x006
  | .copy f => f.words 0x39 0x000
  | .copyf f => f.words 0x39 0x001
  | .coll f => f.words 0x39 0x002
  | .tsend f => f.words 0x39 0x003
  | .tdisarm f => f.words 0x39 0x004
  | .ctrrd f => f.words 0x39 0x005
  | .ctrrst f => f.words 0x39 0x006
  | .bfjoin f => f.words 0x39 0x007
  | .bftake f => f.words 0x39 0x008
  | .bfdone f => f.words 0x39 0x009
  | .kvlook f => f.words 0x39 0x00A
  | .kvins f => f.words 0x39 0x00B
  | .kvunref f => f.words 0x39 0x00C
  | .tclaim f => f.words 0x3A 0x000
  | .tfree f => f.words 0x3A 0x001
  | .tshape f => f.words 0x3A 0x002
  | .tldw f => f.words 0x3A 0x003
  | .tswap f => f.words 0x3A 0x004
  | .tmma f => f.words 0x3A 0x005
  | .tst f => f.words 0x3A 0x006
  | .tsave f => f.words 0x3A 0x007
  | .tload f => f.words 0x3A 0x008
  | .rte f => f.words 0x3B 0x000
  | .breakOp f => f.words 0x3B 0x001
  | .swtrap f => f.words 0x3B 0x002
  | .rdcyc f => f.words 0x3B 0x003
  | .rdsrLong f => f.words 0x3B 0x004
  | .wrsrLong f => f.words 0x3B 0x005
  | .leadAdd f => f.words 0x3C 0x000
  | .leadSub f => f.words 0x3C 0x001
  | .leadMul f => f.words 0x3C 0x002
  | .leadMulhi f => f.words 0x3C 0x003
  | .leadAnd f => f.words 0x3C 0x004
  | .leadOr f => f.words 0x3C 0x005
  | .leadXor f => f.words 0x3C 0x006
  | .leadShl f => f.words 0x3C 0x007
  | .leadShr f => f.words 0x3C 0x008
  | .leadSar f => f.words 0x3C 0x009
  | .leadMin f => f.words 0x3C 0x00A
  | .leadMax f => f.words 0x3C 0x00B
  | .leadSel f => f.words 0x3C 0x00C
  | .leadCmp f => f.words 0x3C 0x00D
  | .leadAddi f => f.words 0x3C 0x010
  | .leadLd f => f.words 0x3C 0x011
  | .leadSt f => f.words 0x3C 0x012
  | .leadMovi f => f.words 0x3C 0x013
  | .movhi f => f.words 0x3C 0x014
  | .bp f => f.words 0x3D 0x000
  | .leadBra f => f.words 0x3D 0x001
  | .leadEnd f => f.words 0x3D 0x002
  | .dpush f => f.words 0x3D 0x003
  | .ewait f => f.words 0x3D 0x004
  | .lrte f => f.words 0x3D 0x005
  | .qset f => f.words 0x3D 0x006
  | .qstart f => f.words 0x3D 0x007
  | .bfcfg f => f.words 0x3D 0x008
  | .ckpt f => f.words 0x3D 0x009
  | .leadCopy f => f.words 0x3E 0x000
  | .leadCopyf f => f.words 0x3E 0x001
  | .leadColl f => f.words 0x3E 0x002
  | .leadTsend f => f.words 0x3E 0x003
  | .leadTdisarm f => f.words 0x3E 0x004
  | .leadCtrrd f => f.words 0x3E 0x005
  | .leadCtrrst f => f.words 0x3E 0x006
  | .leadTclaim f => f.words 0x3E 0x010
  | .leadTfree f => f.words 0x3E 0x011
  | .leadTshape f => f.words 0x3E 0x012
  | .leadTldw f => f.words 0x3E 0x013
  | .leadTswap f => f.words 0x3E 0x014
  | .leadTmma f => f.words 0x3E 0x015
  | .leadTst f => f.words 0x3E 0x016
  | .leadTsave f => f.words 0x3E 0x017
  | .leadTload f => f.words 0x3E 0x018
  | .stash f => f.words 0x3E 0x020
  | .leadRdsr f => f.words 0x3F 0x000
  | .leadWrsr f => f.words 0x3F 0x001
  | .leadRdcyc f => f.words 0x3F 0x002
  | .leadBreak f => f.words 0x3F 0x003
  | .leadSwtrap f => f.words 0x3F 0x004
  | .unassignedEncoding w0 w1 => if isLongPrimary (primaryOf w0) then [w0, w1] else [w0]

/-- The functions that R340 to R342 assign to a long primary. -/
def assignedFuncs (p : Nat) : List Nat :=
  let from_ (a n : Nat) : List Nat := (List.range n).map fun k => a + k
  match p with
  | 0x30 => from_ 0x000 22 ++ from_ 0x020 6
  | 0x31 => from_ 0x000 11 ++ from_ 0x010 7 ++ from_ 0x020 5 ++ from_ 0x030 1
  | 0x32 => from_ 0x000 8
  | 0x33 => from_ 0x000 7 ++ from_ 0x008 4 ++ from_ 0x010 8
  | 0x34 => from_ 0x000 7 ++ from_ 0x008 3
  | 0x35 => from_ 0x000 7
  | 0x36 => from_ 0x000 4
  | 0x37 => from_ 0x000 12
  | 0x38 => from_ 0x000 7
  | 0x39 => from_ 0x000 13
  | 0x3A => from_ 0x000 9
  | 0x3B => from_ 0x000 6
  | 0x3C => from_ 0x000 14 ++ from_ 0x010 5
  | 0x3D => from_ 0x000 10
  | 0x3E => from_ 0x000 7 ++ from_ 0x010 9 ++ from_ 0x020 1
  | 0x3F => from_ 0x000 5
  | _ => []

/-- Words that no row of the opcode map takes: a function that a long primary does not assign, or a form without operands (REJOIN,
REFORM, YIELD, EXIT, END) with a bit set that it must leave zero (R339, R344). A short word has no second word, written 0 here. -/
def isUnassigned (w x : Word) : Bool :=
  if isLongPrimary (primaryOf w) then !(assignedFuncs (primaryOf w)).contains (funcOf w)
  else x == 0 && [0x23, 0x24, 0x25, 0x27, 0x28].contains (primaryOf w) && !(fld w 0 25 == 0 && !chainBit w)

/-- An instruction as the decoder writes it: unassignedEncoding stands for unassigned words alone. -/
def Instr.canonical (i : Instr) : Bool :=
  match i with
  | .unassignedEncoding w x => isUnassigned w x
  | _ => true

end Sys2Proof
end

