-- ==== Sys2Proof/Config.lean ====
section
/-! DEFINITION. What an implementation of stepping 0x04B0 fixes, and the free values: constants without a body, so that
nothing can be proved of a value the manual leaves open. -/

namespace Sys2Proof.Config

/-- The stepping tag of stepping B0 (spec 00 R1, 04 R83). -/
def stepping : Nat := 0x04B0
/-- The architecture generation, the high byte of the stepping tag (spec 04 R83). -/
def generation : Nat := 4

/-- Free (DESIGN CHOICE, log entry 1): which of several things happens, applied to what is chosen (0 the next event, 2 a sensor within its
range, 3 a port of those that reach a device, 4 the cause that a failed self-test names, from 5 on the unit that a thermal trip names) and the tick counter. -/
opaque choose : Nat → Nat → Nat
/-- Free (DESIGN CHOICE, log entry 4): how many cycles of a die pass at a step, applied to the die and the tick counter. -/
opaque elapse : Nat → Nat → Nat
/-- Free (DESIGN CHOICE, log entry 5): a choice of the hardware between two outcomes, applied to the tick counter and an index. -/
opaque coin : Nat → Nat → Bool
/-- Free (DESIGN CHOICE, log entry 6): a byte the manual leaves open, applied to the tick counter and an index. -/
opaque freeByte : Nat → Nat → Byte
/-- Free (DESIGN CHOICE, log entry 6): a 64-bit value the manual leaves open, applied to the tick counter and an index. -/
opaque freeDword : Nat → Nat → Dword
/-- Free (DESIGN CHOICE, log entry 41): which set of a cache a line belongs to, before the reduction modulo the number of sets, applied to the cache's
kind (0 an L1, 1 a far cache, 2 a slice of an L2) and the line's address. -/
opaque setIndex : Nat → Nat → Nat
/-- Free (DESIGN CHOICE, log entry 7): whether an SLH-DSA-SHAKE-256s signature verifies against the fused Erzia key. -/
opaque signatureValid : List Byte → List Byte → Bool
/-- Free (DESIGN CHOICE, log entry 7): whether a signed request to raise the fused security version to a number is valid. -/
opaque raiseValid : Nat → List Byte → Bool
/-- Free (DESIGN CHOICE, log entry 7): the public key of the device identity key pair, 64 bytes (R24). -/
opaque publicKey : BitVec 512
/-- Free (DESIGN CHOICE, log entry 7): the ordering code and the serial number of the package, and the certificate that binds the public key to them (R24). -/
opaque orderingCode : List Byte
opaque serialNumber : List Byte
opaque certificate : List Byte
/-- Free (DESIGN CHOICE, log entry 7): the signature under the device identity key of a report's fields, in the order of R27. -/
opaque deviceSignature : List Nat → List Byte
/-- Free (DESIGN CHOICE, log entry 7): what the boot ROM places in measurement slots 0 and 2. -/
opaque measured : Nat → BitVec 512

end Sys2Proof.Config
end

