-- ==== Sys2Proof/Machine/Num.lean ====
section
/-! DEFINITION. Number formats, exact values and rounding (spec 12 R247 to R254, R260). Every result is an exact value first and
becomes a code of a format only through `roundTo`. -/

namespace Sys2Proof.Machine

/-- How a format codes NaN and infinity (R248). -/
inductive Special where
  | ieee       -- infinity and NaNs in the all-ones exponent
  | onlyNan    -- E4M3: one NaN code per sign, no infinity
  | neither    -- E3M2, E2M3, E2M1
  deriving DecidableEq, Repr

/-- A floating format: exponent and fraction bits, bias, special codes (R248). -/
structure Fmt where
  e : Nat
  m : Nat
  bias : Nat
  special : Special
  deriving DecidableEq, Repr

/-- The floating type names of R8. -/
inductive FTy where
  | f64 | f32 | bf16 | f16 | e4m3 | e5m2 | e2m3 | e3m2 | e2m1
  deriving DecidableEq, Repr

/-- The table of R248. -/
def FTy.fmt : FTy → Fmt
  | .f64 => ⟨11, 52, 1023, .ieee⟩
  | .f32 => ⟨8, 23, 127, .ieee⟩
  | .bf16 => ⟨8, 7, 127, .ieee⟩
  | .f16 => ⟨5, 10, 15, .ieee⟩
  | .e4m3 => ⟨4, 3, 7, .onlyNan⟩
  | .e5m2 => ⟨5, 2, 15, .ieee⟩
  | .e2m3 => ⟨2, 3, 1, .neither⟩
  | .e3m2 => ⟨3, 2, 3, .neither⟩
  | .e2m1 => ⟨2, 1, 1, .neither⟩

/-- The format's place in the counters of R76. -/
def FTy.index : FTy → Nat
  | .f64 => 0 | .f32 => 1 | .bf16 => 2 | .f16 => 3 | .e4m3 => 4 | .e5m2 => 5 | .e2m3 => 6 | .e3m2 => 7 | .e2m1 => 8

/-- Width of a code in bits. -/
def FTy.width (t : FTy) : Nat := 1 + t.fmt.e + t.fmt.m

/-- An exact magnitude with a sign: (−1)^s × (m + r) × 2^x, where r is 0, or, when `more` is set, some value strictly between
0 and 1 that is too small to matter but for being there. -/
structure Exact where
  s : Bool
  m : Nat
  x : Int
  more : Bool
  deriving DecidableEq, Repr

/-- A value before rounding, or the value of a code. A NaN holds its sign and its fraction, left-aligned in 52 bits. -/
inductive Val where
  | nan (s : Bool) (frac : Nat)
  | inf (s : Bool)
  | num (v : Exact)
  deriving DecidableEq, Repr

/-- The default NaN (R249). -/
def Val.defaultNan : Val := .nan false (2 ^ 51)

def Val.isNan : Val → Bool
  | .nan _ _ => true
  | _ => false

def Val.isInf : Val → Bool
  | .inf _ => true
  | _ => false

/-- A zero of the given sign. -/
def Exact.zero (s : Bool) : Exact := ⟨s, 0, 0, false⟩

def Exact.isZero (v : Exact) : Bool := v.m = 0 && !v.more

/-- The value of a code (R248). -/
def FTy.value (t : FTy) (code : Nat) : Val :=
  let f := t.fmt
  let frac := code % 2 ^ f.m
  let ex := code / 2 ^ f.m % 2 ^ f.e
  let s := code / 2 ^ (f.m + f.e) % 2 = 1
  let ones := 2 ^ f.e - 1
  let finite : Val :=
    if ex = 0 then .num ⟨s, frac, 1 - (f.bias : Int) - f.m, false⟩
    else .num ⟨s, 2 ^ f.m + frac, (ex : Int) - f.bias - f.m, false⟩
  match f.special with
  | .ieee => if ex = ones then (if frac = 0 then .inf s else .nan s (frac * 2 ^ (52 - f.m))) else finite
  | .onlyNan => if ex = ones && frac = 2 ^ f.m - 1 then .nan s (frac * 2 ^ (52 - f.m)) else finite
  | .neither => finite

/-- The magnitude code of the largest finite value (R248). -/
def FTy.largest (t : FTy) : Nat :=
  let f := t.fmt
  match f.special with
  | .ieee => (2 ^ f.e - 1) * 2 ^ f.m - 1
  | .onlyNan => 2 ^ (f.e + f.m) - 2
  | .neither => 2 ^ (f.e + f.m) - 1

/-- A magnitude code with a sign. -/
def FTy.signed (t : FTy) (s : Bool) (mag : Nat) : Nat := (if s then 2 ^ (t.fmt.e + t.fmt.m) else 0) + mag

/-- The code of an infinity where the format has one; for E4M3 its NaN, for the others the largest finite value (R251). -/
def FTy.infinite (t : FTy) (s : Bool) : Nat :=
  t.signed s (match t.fmt.special with
    | .ieee => (2 ^ t.fmt.e - 1) * 2 ^ t.fmt.m
    | .onlyNan => 2 ^ (t.fmt.e + t.fmt.m) - 1
    | .neither => t.largest)

/-- The code a NaN takes in a format: quieted, its payload cut or widened; the default NaN with its sign in E4M3 and E5M2; zero
with its sign where there is no NaN (R249). (DEDUCED, log entry 37) -/
def FTy.nanCode (t : FTy) (s : Bool) (frac : Nat) : Nat :=
  match t with
  | .e5m2 => t.signed s 0x7E
  | .e4m3 => t.signed s 0x7F
  | .e2m3 | .e3m2 | .e2m1 => t.signed s 0
  | _ =>
    let top := frac / 2 ^ (52 - t.fmt.m)
    t.signed s ((2 ^ t.fmt.e - 1) * 2 ^ t.fmt.m + (top ||| 2 ^ (t.fmt.m - 1)))

/-- The rounding modes of R251. -/
inductive RMode where
  | rn | rz | rd | ru | sr
  deriving DecidableEq, Repr

/-- The RND field (R346); 5 to 7 are reserved. -/
def RMode.ofField : Nat → Option RMode
  | 0 => some .rn | 1 => some .rz | 2 => some .rd | 3 => some .ru | 4 => some .sr
  | _ => none

/-- Whether the magnitude goes to the upper neighbour: half and rem are over the same step, d is the draw of SR (R251, R252). -/
def roundsUp (mode : RMode) (s : Bool) (odd : Bool) (rem step : Nat) (more : Bool) (d : Nat) : Bool :=
  let inexact := rem ≠ 0 || more
  match mode with
  | .rn => 2 * rem > step || (2 * rem = step && (more || odd))
  | .rz => false
  | .rd => s && inexact
  | .ru => !s && inexact
  | .sr => d < rem * 2 ^ 32 / step

/-- A magnitude rounded to quantum 2^q: the count of quanta below it, whether it is inexact, and the rounded count. -/
structure Quanta where
  low : Nat
  inexact : Bool
  r : Nat
  deriving DecidableEq, Repr

def Exact.quanta (v : Exact) (q : Int) (mode : RMode) (d : Nat) : Quanta :=
  if v.x ≥ q then
    let n := v.m * 2 ^ (v.x - q).toNat
    ⟨n, v.more, if roundsUp mode v.s (n % 2 = 1) 0 2 v.more d then n + 1 else n⟩
  else
    let step := 2 ^ (q - v.x).toNat
    let n := v.m / step
    let rem := v.m % step
    ⟨n, rem ≠ 0 || v.more, if roundsUp mode v.s (n % 2 = 1) rem step v.more d then n + 1 else n⟩

/-- The exponent of the quantum of a magnitude in a format: the fraction's last place, subnormals kept (R251). -/
def FTy.quantum (t : FTy) (v : Exact) : Int :=
  let emin : Int := 1 - t.fmt.bias
  let e : Int := if v.m = 0 then emin else (Nat.log2 v.m : Int) + v.x
  (if e < emin then emin else e) - t.fmt.m

/-- The magnitude code of n quanta of 2^q, exponent unbounded above. -/
def FTy.codeOf (t : FTy) (n : Nat) (q : Int) : Nat :=
  if n < 2 ^ t.fmt.m then n else (q + t.fmt.m + t.fmt.bias - 1).toNat * 2 ^ t.fmt.m + n

/-- The events of R260 that one result raises: NaN produced, infinity produced, overflow, underflow. -/
structure FpEvents where
  nan : Bool
  inf : Bool
  ovf : Bool
  unf : Bool
  deriving DecidableEq, Repr

def FpEvents.none : FpEvents := ⟨false, false, false, false⟩

/-- A code and the events of forming it. -/
structure FpRes where
  code : Nat
  ev : FpEvents
  deriving DecidableEq, Repr

/-- Rounds a finite exact value to a format (R251, R252); `ovf` and `unf` of the events are set here. (DEDUCED, log entry 37) -/
def roundExact (t : FTy) (mode : RMode) (d : Nat) (v : Exact) : FpRes :=
  if v.isZero then ⟨t.signed v.s 0, .none⟩
  else
    let q := t.quantum v
    let n := v.quanta q mode d
    let mag := t.codeOf n.r q
    let isOver := mag > t.largest
    let tiny := (if v.m = 0 then true else (Nat.log2 v.m : Int) + v.x < 1 - t.fmt.bias) && n.inexact
    let code :=
      if isOver then
        match mode, v.s with
        | .rn, s | .sr, s => t.infinite s
        | .rz, s => t.signed s t.largest
        | .rd, false => t.signed false t.largest
        | .rd, true => t.infinite true
        | .ru, false => t.infinite false
        | .ru, true => t.signed true t.largest
      else t.signed v.s mag
    ⟨code, ⟨false, false, isOver, tiny⟩⟩

/-- The sign of a value. -/
def Val.sign : Val → Bool
  | .nan s _ => s
  | .inf s => s
  | .num v => v.s

/-- Turns a value into a code of t: rounding, saturation (R253), the codes of infinities and NaNs (R249, R254), and the events of
R260, where opNan and opInf say whether an operand was a NaN or infinite. -/
def roundTo (t : FTy) (mode : RMode) (sat : Bool) (d : Nat) (opNan opInf : Bool) (v : Val) : FpRes :=
  match v with
  | .nan s f =>
    ⟨t.nanCode s f, ⟨!opNan || t.fmt.special = .neither, false, false, false⟩⟩
  | .inf s =>
    let held := sat || t.fmt.special = .neither
    ⟨if held then t.signed s t.largest else t.infinite s,
     ⟨!held && t.fmt.special = .onlyNan && !opNan, !held && t.fmt.special = .ieee && !opInf, false, false⟩⟩
  | .num x =>
    let r := roundExact t mode d x
    if r.ev.ovf then
      let code := if sat then t.signed x.s t.largest else r.code
      let res := t.value code
      ⟨code, ⟨res.isNan && !opNan, res.isInf && !opInf, true, false⟩⟩
    else r

/-- Rounds with RN and gives the code alone. -/
def rne (t : FTy) (v : Val) : Nat := (roundTo t .rn false 0 false false v).code

/-! Exact arithmetic. -/

/-- The signed integer over 2^x of an exact value whose exponent is at least x. -/
def Exact.scaled (v : Exact) (x : Int) : Int :=
  let n : Int := v.m * 2 ^ (v.x - x).toNat
  if v.s then -n else n

/-- Exact sum of two exact values; a zero sum of unlike signs takes the sign z (R251). -/
def Exact.add (a b : Exact) (z : Bool) : Exact :=
  let x := min a.x b.x
  let n := a.scaled x + b.scaled x
  if n = 0 then ⟨if a.s = b.s then a.s else z, 0, 0, a.more || b.more⟩
  else ⟨n < 0, n.natAbs, x, a.more || b.more⟩

/-- Exact product. -/
def Exact.mul (a b : Exact) : Exact := ⟨a.s != b.s, a.m * b.m, a.x + b.x, a.more || b.more⟩

def Exact.neg (a : Exact) : Exact := { a with s := !a.s }
def Exact.abs (a : Exact) : Exact := { a with s := false }
/-- a × 2^k. -/
def Exact.shift (a : Exact) (k : Int) : Exact := { a with x := a.x + k }
def Exact.ofNat (n : Nat) : Exact := ⟨false, n, 0, false⟩
def Exact.ofInt (n : Int) : Exact := ⟨n < 0, n.natAbs, 0, false⟩

/-- Bits kept of a quotient or root that does not end. -/
def keepBits : Nat := 320

/-- Keeps about keepBits significant bits, recording that something was dropped. -/
def Exact.trim (a : Exact) : Exact :=
  let l := Nat.log2 a.m
  if l ≤ keepBits then a
  else
    let k := l - keepBits
    ⟨a.s, a.m / 2 ^ k, a.x + k, a.more || a.m % 2 ^ k ≠ 0⟩

/-- Quotient of nonzero values to keepBits significant bits. -/
def Exact.div (a b : Exact) : Exact :=
  let k := keepBits + Nat.log2 b.m
  let n := a.m * 2 ^ k
  ⟨a.s != b.s, n / b.m, a.x - b.x - k, n % b.m ≠ 0 || a.more || b.more⟩

/-- Integer square root by Newton's iteration from above, with fuel. -/
def isqrtGo : Nat → Nat → Nat → Nat
  | 0, _, r => r
  | fuel + 1, n, r =>
    let r' := (r + n / r) / 2
    if r' < r then isqrtGo fuel n r' else r

/-- The largest r with r² ≤ n. -/
def isqrt (n : Nat) : Nat := if n = 0 then 0 else isqrtGo (Nat.log2 n + 2) n (2 ^ (Nat.log2 n / 2 + 1))

/-- Square root of a value that is not negative. -/
def Exact.sqrt (a : Exact) : Exact :=
  let k := 2 * keepBits + (if (a.x % 2 = 0) then 0 else 1)
  let n := a.m * 2 ^ k
  let r := isqrt n
  ⟨false, r, (a.x - k) / 2, r * r ≠ n || a.more⟩

/-- Sum of two values that are not negative, where `more` may be set: the finer one is cut to the grain of the coarser uncertain one. -/
def Exact.addPos (a b : Exact) : Exact :=
  let cut (v : Exact) (x : Int) : Exact :=
    if v.x ≥ x then v else
      let st := 2 ^ (x - v.x).toNat
      ⟨false, v.m / st, x, v.more || v.m % st ≠ 0⟩
  let b' := if a.more && !a.isZero then cut b a.x else b
  let a' := if b.more && !b.isZero then cut a b.x else a
  if a.isZero then b else if b.isZero then a else
  let x := min a'.x b'.x
  ⟨false, a'.m * 2 ^ (a'.x - x).toNat + b'.m * 2 ^ (b'.x - x).toNat, x, a'.more || b'.more⟩

/-- Compares magnitudes: true when |a| < |b|. -/
def Exact.magLt (a b : Exact) : Bool :=
  let x := min a.x b.x
  a.m * 2 ^ (a.x - x).toNat < b.m * 2 ^ (b.x - x).toNat

/-- Signed comparison a < b of finite values; the two zeros are equal. -/
def Exact.lt (a b : Exact) : Bool := a.scaled (min a.x b.x) < b.scaled (min a.x b.x)

/-! Operations on values, with the NaN and infinity rules of R249. -/

/-- The first NaN in operand order, quieted (R249). -/
def firstNan : List Val → Option Val
  | [] => none
  | .nan s f :: _ => some (.nan s (f ||| 2 ^ 51))
  | _ :: r => firstNan r

/-- a + b (R358); rd says that the mode is RD. -/
def Val.add (rd : Bool) (a b : Val) : Val :=
  match firstNan [a, b] with
  | some n => n
  | none =>
    match a, b with
    | .inf s, .inf s' => if s = s' then .inf s else .defaultNan
    | .inf s, _ => .inf s
    | _, .inf s => .inf s
    | .num x, .num y => .num (x.add y rd)
    | _, _ => .defaultNan

def Val.neg : Val → Val
  | .nan s f => .nan s f
  | .inf s => .inf (!s)
  | .num v => .num v.neg

/-- a × b (R358). -/
def Val.mul (a b : Val) : Val :=
  match firstNan [a, b] with
  | some n => n
  | none =>
    match a, b with
    | .inf s, .inf s' => .inf (s != s')
    | .inf s, .num y => if y.isZero then .defaultNan else .inf (s != y.s)
    | .num x, .inf s => if x.isZero then .defaultNan else .inf (x.s != s)
    | .num x, .num y => .num (x.mul y)
    | _, _ => .defaultNan

/-- a × b + c, the product exact (R358). -/
def Val.fma (rd : Bool) (a b c : Val) : Val :=
  match firstNan [a, b, c] with
  | some n => n
  | none => Val.add rd (Val.mul a b) c

/-- a / b (R376). -/
def Val.div (a b : Val) : Val :=
  match firstNan [a, b] with
  | some n => n
  | none =>
    match a, b with
    | .inf _, .inf _ => .defaultNan
    | .inf s, .num y => .inf (s != y.s)
    | .num x, .inf s => .num (.zero (x.s != s))
    | .num x, .num y =>
      if y.isZero then (if x.isZero then .defaultNan else .inf (x.s != y.s))
      else if x.isZero then .num (.zero (x.s != y.s)) else .num (x.div y)
    | _, _ => .defaultNan

/-- Order of values that are not NaN, with −0 below +0 when zeros is set (R359) and equal to it otherwise (R360). -/
def Val.lt (zeros : Bool) (a b : Val) : Bool :=
  match a, b with
  | .inf true, .inf true => false
  | .inf true, _ => true
  | _, .inf true => false
  | .inf false, _ => false
  | _, .inf false => true
  | .num x, .num y => x.lt y || (zeros && x.isZero && y.isZero && x.s && !y.s)
  | _, _ => false

/-- Integer value of a finite value under a mode, for conversions to integers and FROUND (R253, R362). -/
def Exact.toInt (v : Exact) (mode : RMode) (d : Nat) : Int :=
  let n := (v.quanta 0 mode d).r
  if v.s then -n else n

/-- Clamp to a closed range. -/
def clampInt (x lo hi : Int) : Int := if x < lo then lo else if hi < x then hi else x

/-- The low w bits of an integer (R6: x mod 2^w). -/
def wrap (w : Nat) (x : Int) : Nat := (x % (2 ^ w : Int)).toNat

/-- The block scale of R250: 2^(X−127), and 0xFF a NaN. -/
def e8m0 (x : Nat) : Val := if x = 255 then .defaultNan else .num ⟨false, 1, (x : Int) - 127, false⟩

/-- F32 and BF16 codes as values. -/
def f32v (w : Word) : Val := FTy.f32.value w.toNat
def f64v (w : Dword) : Val := FTy.f64.value w.toNat
def f16v (t : FTy) (w : BitVec 16) : Val := t.value w.toNat

/-- The largest of the E8M0 scales that holds amax in the element format whose largest exponent is emax (R250). -/
def blockScale (emax : Int) (vals : List Val) : Nat :=
  if vals.any (fun v => v.isNan || v.isInf) then 255
  else
    let exps := vals.filterMap fun v => match v with
      | .num x => if x.m = 0 then none else some ((Nat.log2 x.m : Int) + x.x)
      | _ => none
    match exps with
    | [] => 127
    | e :: r => (clampInt (r.foldl max e - emax + 127) 0 254).toNat

end Sys2Proof.Machine
end

