-- ==== Sys2Proof/Machine/State.lean ====
section
/-! DEFINITION. The state of the machine as plain data: what the manual names, and a few fields of the model's own, which the
docstrings mark. Every number the manual does not compute with as bits is a Nat. -/

namespace Sys2Proof.Machine

/-! Names of things. -/

/-- A lane thread: the model's number of its block and its level-0 index (R105). -/
structure ThreadRef where
  block : Nat
  t : Nat
  deriving DecidableEq, Repr

/-- A lead context: the model's number of its block and its core-in-block index (R205). -/
structure LeadRef where
  block : Nat
  j : Nat
  deriving DecidableEq, Repr

/-- Who issues instructions (R165): a lane thread or a lead context. -/
inductive Agent where
  | lane (th : ThreadRef)
  | lead (ld : LeadRef)
  deriving DecidableEq, Repr

/-- What happened before a point, as far as stores go (R169, R170): of each agent named, the stores whose number in the issue order of all
accesses is below the one given. -/
abbrev Clock := List (Agent × Nat)

/-- What an acquire reads from (R169, R179): whether releases performed on die A, on die B, and what happened before them. -/
structure Rel where
  a : Bool
  b : Bool
  clk : Clock
  deriving DecidableEq, Repr

/-- A node of a running replay: context, SEQ and node index (R63, R71). -/
structure NodeRef where
  ctx : Nat
  seq : Word
  node : Nat
  deriving DecidableEq, Repr

/-- One 64-byte command write without its OP (R78): bits 15:8 and 31:16 of word 0, the TAG, and words 1 to 7. -/
structure Cmd where
  rsv : BitVec 8
  ctx : BitVec 16
  tag : Word
  w1 : Dword
  w2 : Dword
  w3 : Dword
  w4 : Dword
  w5 : Dword
  w6 : Dword
  w7 : Dword
  deriving DecidableEq, Repr

/-- One packet of an incoming RMA write (R35, R36, R44, R45). port is the receiving port, or 16 and above for an operation towards
the device's own number (R39); src and msg name the message, flow the sender's flow where it delivers in order (R35); off and total are the message's
offset within the region and its length; at is this packet's offset within the message; rel what happened before it where the device itself sends it (R169). -/
structure RmaWrite where
  port : Nat
  key : Word
  src : Nat
  flow : Option Nat
  msg : Nat
  off : Nat
  total : Nat
  at_ : Nat
  data : List Byte
  rel : Rel
  deriving DecidableEq, Repr

/-- An incoming RMA read (R36, R37). -/
structure RmaRead where
  port : Nat
  key : Word
  src : Nat
  flow : Option Nat
  off : Nat
  len : Nat
  deriving DecidableEq, Repr

/-- An incoming fetching atomic on SI64: add or compare-and-swap (R34, R37). -/
structure RmaAtomic where
  port : Nat
  key : Word
  src : Nat
  flow : Option Nat
  off : Nat
  cas : Bool
  cmp : Dword
  val : Dword
  deriving DecidableEq, Repr

/-- An incoming packet: at its landing, held at a lock or an absent page (R131, R183), or a host's at the bridge (R42). -/
inductive HeldPkt where
  | write (p : RmaWrite)
  | read (p : RmaRead)
  | atomic (p : RmaAtomic)
  deriving DecidableEq, Repr

/-- A write of len bytes at an offset of the management window (R61). -/
structure WinWrite where
  off : Nat
  len : Nat
  val : Nat
  deriving DecidableEq, Repr

/-- A soft error in SRAM (R28): corrected, charged to a context, or poisoning the shared line of an address. -/
inductive SoftError where
  | corrected (die : Die)
  | charged (ctx : Nat) (die : Die) (unit : BitVec 8)
  | line (pa : Nat)
  deriving DecidableEq, Repr

/-- One coolant sample in tenths of a degree and hundredths of a litre per minute (R18). -/
structure Coolant where
  inlet : Nat
  flow : Nat
  junctionA : Nat
  junctionB : Nat
  deriving DecidableEq, Repr

/-- What a ring neighbour brings to a collective (R53, R54, R57): partial or whole elements of a shard as codes of the
travelling type, an acknowledgement that names another member's disagreement, or the norm partials of all ranks. -/
inductive CollData where
  | reduce (shard : Nat) (first : Nat) (vals : List Nat)
  | gather (shard : Nat) (first : Nat) (vals : List Nat)
  | norm (rank : Nat) (q : Dword)
  | mismatch
  deriving DecidableEq, Repr


/-- What the members of a collective agree on (R52, R56): collective, operation, type, element count, tag and group. -/
structure CollHead where
  coll : Nat
  op : Nat
  ty : Nat
  n : Nat
  ctag : Dword
  group : List Nat
  deriving DecidableEq, Repr

/-- How a frame leaves (R33, R38, R40, R43): port, traffic class, whether its delivery is ordered, the peer's address and the index of the job's key. -/
structure Via where
  port : Nat
  cls : Nat
  rod : Bool
  addr : BitVec 128
  job : BitVec 24
  deriving DecidableEq, Repr

/-- What an event brings or names. A step or event of the opcode table that finds another shape here than its own does nothing. -/
inductive Arg where
  | none
  | num (n : Nat)
  | die (d : Die)
  | unit (d : Die) (u : BitVec 8) (pass : Bool)
  | charge (ctx : Nat) (d : Die) (u : BitVec 8)
  | firmware (image sig : List Byte) (version : Nat)
  | raise (version : Nat) (sig : List Byte)
  | extend (slot : Nat) (data : List Byte)
  | nonce (n : BitVec 256)
  | soft (e : SoftError)
  | core (d : Die) (c : Nat)
  | coolant (c : Coolant)
  | portUp (port : Nat) (an llr : Bool)
  | codeword (port : Nat) (corrected : Bool)
  | rmaWrite (p : RmaWrite)
  | rmaRead (p : RmaRead)
  | rmaAtomic (p : RmaAtomic)
  | bridge (p : HeldPkt)
  | coll (port op : Nat) (h : CollHead) (d : CollData)
  | request (port src : Nat)
  | window (w : WinWrite)
  | kick (ctx : Nat) (k : BitVec 256)
  | node (n : NodeRef)
  | dword (v : Dword)
  | fp (ctx k : Nat) (v : Word)
  | cmd (c : Cmd)
  | badCmd (op : BitVec 8) (c : Cmd)
  | channel (d : Die) (ch : Nat)
  | stream (l : LeadRef) (q : Nat)
  | record (block rec : Nat)
  | thread (th : ThreadRef)
  | agent (a : Agent)
  deriving DecidableEq, Repr

/-! Package, management service, events (files 01, 02, 03, 16). -/

/-- PORTSTAT of a port (R32). -/
structure Port where
  up : Bool
  an : Bool
  llr : Bool
  fecCor : BitVec 24
  fecUnc : BitVec 16
  drops : BitVec 16
  deriving DecidableEq, Repr

/-- Who asks a power governor for leave (R14). -/
inductive Requester where
  | coll
  | copy (engine : Nat)
  | tile (core : Nat)
  deriving DecidableEq, Repr

/-- The power governor of a die (R15 to R17): leaves held, requests with the cycle they came, the window now open and the
grants made in it, LONGEST, and since when a tile engine holding leave has been idle. -/
structure Gov where
  held : List Requester
  pending : List (Requester × Nat)
  window : Nat
  grants : Nat
  longest : Word
  idle : List (Nat × Nat)
  deriving DecidableEq, Repr

/-- Firmware, measurement and attestation (R24 to R27): the image whose digest slot 1 takes, its signature and version, the image
that the next reset takes, the fused version, the slots, and the nonces of reports still to sign. -/
structure Firmware where
  image : List Byte
  sig : List Byte
  version : Nat
  staged : Option (List Byte × List Byte × Nat)
  fused : Nat
  slots : Vector (BitVec 512) 8
  nonces : List (BitVec 256)
  deriving DecidableEq, Repr

/-- Registers of the management window that software only stores and reads, and small package state: READYF, READYC0 to 3 as
one map of 256 cores, units that passed and units that failed self-test (R20 to R23), DEVNUM, PEERBASE, COLLTMO, WDISCARD, BRIDGECFG, WAYQUOTA of the
dies, flit retries in a row (R11), corrected errors by die (R13, R28), the thermal state, whether the warning row of R15 applies,
and the run of normal samples (R18, R19). -/
structure Pkg where
  readyF : Dword
  readyC : BitVec 256
  passed : List (Die × BitVec 8)
  failed : List (Die × BitVec 8)
  devnum : BitVec 21
  peerbase : BitVec 56
  colltmo : Dword
  wdiscard : Dword
  bridge : Vector (BitVec 64) 64
  ports : Vector Port 16
  wayA : Dword
  wayB : Dword
  flitRetries : Nat
  eccA : Nat
  eccB : Nat
  softA : Nat
  softB : Nat
  thermal : BitVec 2
  slow : Bool
  normalRun : Nat
  deriving DecidableEq, Repr

/-- One event to the host before it has a place in the buffer (R75): the die that holds it and the record without ESEQ's place
settled by anything but eseq. -/
structure EvRec where
  die : Die
  type : BitVec 8
  status : BitVec 8
  ctx : BitVec 16
  eseq : Word
  arg0 : Dword
  arg1 : Dword
  arg2 : Dword
  deriving DecidableEq, Repr

/-- Event registers (R74), the records held on chip and the next ESEQ (R75). -/
structure Evt where
  host0 : Dword
  host1 : Dword
  key : Dword
  cfg : Dword
  head : Word
  tail : Word
  lost : Dword
  held : List EvRec
  eseq : Word
  deriving DecidableEq, Repr

/-- A command by its OP, in the queue of R78. -/
structure QCmd where
  op : BitVec 8
  c : Cmd
  deriving DecidableEq, Repr

/-- The stop of a block (R306, R307): 1 host, 2 BREAK, 3 WATCH; whether it is complete; the cycle it began. -/
structure Stop where
  reason : Nat
  done : Bool
  since : Nat
  deriving DecidableEq, Repr

/-- A held stop: context, SEQ to match, node and block, or all of the context (R306, R308). -/
structure StopReq where
  ctx : Nat
  seq : Word
  all : Bool
  node : Nat
  block : Nat
  deriving DecidableEq, Repr

/-- A sampled instruction whose lanes have not all completed (R309): its context, its record so far and the accesses awaited. -/
structure Sample where
  ctx : Nat
  bits : BitVec 512
  waits : List Nat
  deriving DecidableEq, Repr

/-- The reading agent's table of R313, most recently used first: tag, agent, clock. -/
structure AccTable where
  tag : BitVec 16
  agent : BitVec 16
  seen : List (BitVec 16 × BitVec 16 × Word)
  deriving DecidableEq, Repr

/-- The stamp of a 128-byte line (R311). -/
structure Stamp where
  line : Nat
  tag : BitVec 16
  agent : BitVec 16
  clock : Word
  deriving DecidableEq, Repr

/-- Debug registers (R305) and what stands behind them: held stops, samples in the making, instruction counts of each core, next
block tag, and the tables of R313; tag entries that wait for room in the log (R313), and those that ACCHEAD has passed (R314). -/
structure Dbg where
  cfg : Dword
  seq : Dword
  dump : Dword
  slot : Dword
  watch : Vector Dword 4
  sampCfg : Dword
  sampBase : Dword
  sampHead : Dword
  sampTail : Dword
  sampLost : Dword
  accBase : Dword
  accHead : Dword
  accTail : Dword
  rrStat : Dword
  rrDiv : Dword
  stops : List StopReq
  samples : List Sample
  counts : List (Die × Nat × Nat)
  nextTag : BitVec 16
  tables : List AccTable
  tagsDue : List Nat
  tagLog : List Nat
  deriving DecidableEq, Repr

/-! Memory (files 06 to 08). -/

/-- Bytes that are not zero, by address, addresses rising (DESIGN CHOICE, log entry 3). -/
abbrev Memory := List Host.Cell

/-- A cache (R147, R150, R224): a core's L1, a carrel core's L1, a die's far cache, a die's L2, or the buckets that a die's catalogue
controller keeps (R145). -/
inductive Cache where
  | core (d : Die) (c : Nat)
  | carrel (d : Die) (c : Nat)
  | far (d : Die)
  | l2 (d : Die)
  | cat (d : Die)
  deriving DecidableEq, Repr

/-- A byte in an L1, a far cache or a catalogue controller, in the state copy or owned (R150): the words of R150 with byte enables, so that
stores to different bytes of a word keep their own places in the coherence order of R168. Among the owned entries of one address the
later in the list was stored later: the list is the coherence order of what has not reached its home. cover names the stores whose
value an owned entry holds or follows, each by its agent and its number (R179); filled is the step that
brought a copy. What an L2 holds is the value of its home point, in
State.mem (R148). -/
structure CByte where
  cache : Cache
  pa : Nat
  val : Byte
  owned : Bool
  cover : Clock
  filled : Nat
  deriving DecidableEq, Repr

/-- A line in a set of an L1, a far cache or an L2 (R147, R156, R159): its address, its page class (R156), whether it stands first to be
replaced (R159), and for an L2 whether its memory has an older value. Of the lines of one set the earlier in State.tags was used less recently. -/
structure CTag where
  cache : Cache
  line : Nat
  cls : Nat
  mark : Bool
  dirty : Bool
  deriving DecidableEq, Repr

/-- What an acquire of the 4-byte word at pa reads from (R169). -/
structure SyncVar where
  pa : Nat
  rel : Rel
  deriving DecidableEq, Repr

/-- What an acquire of a key of a context's catalogue reads from (R146). -/
structure KeySync where
  ctx : Nat
  key : Dword
  rel : Rel
  deriving DecidableEq, Repr

/-- A destination register of a load: v or, in trap state, k (R198, R202). -/
structure LReg where
  bank : Bool
  i : BitVec 7
  deriving DecidableEq, Repr

/-- The operand of an atomic (R423): operation, operand b and, for a CAS, the new value. -/
structure AtomOp where
  op : Nat
  b : Dword
  new : Dword
  ord : Nat
  deriving DecidableEq, Repr

/-- One single-copy atomic part of a global load or atomic with return that is outstanding (R168, R202, R421, R425). seq is the place in
the issue order of all accesses; grp the seq of the access's first part; dst, low word first, has none where a later write of the
register must stay (R202), and sd the scalar register of a lead load; hold keeps the agent from issuing until the value is written (R411,
R425); rclk the reader's RCLK counting the read (R313); stamp what an atomic's write leaves on its line (R311); since the cycle from which a replay holds the read (R314);
cls the class of its page (R156) and lu its last-use mode (R159); rel what an atomic's write releases, where it does (R169); inst, for an
atomic of a lane thread, the group issue and the unit it belongs to (R424). -/
structure Load where
  seq : Nat
  grp : Nat
  who : Agent
  node : NodeRef
  cache : Cache
  pa : Nat
  va : Nat
  n : Nat
  sext : Bool
  atom : Option AtomOp
  dst : List (Option LReg)
  sd : BitVec 9
  hold : Bool
  rclk : Word
  stamp : Stamp
  since : Option Nat
  cls : Nat
  lu : Bool
  rel : Option Clock
  inst : Option (Nat × CodeAddr)
  deriving DecidableEq, Repr

/-- One single-copy atomic part of a global store, no-return reduction, atomic store or discard that is not yet visible (R168, R203,
R422, R425, R427), with the class of its page (R156), what it releases (R169) and, for an atomic of a lane thread, the group issue and
the unit it belongs to (R424). -/
structure Store where
  seq : Nat
  grp : Nat
  who : Agent
  node : NodeRef
  cache : Cache
  pa : Nat
  va : Nat
  bytes : List Byte
  atom : Option AtomOp
  discard : Bool
  stamp : Stamp
  cls : Nat
  rel : Option Clock
  inst : Option (Nat × CodeAddr)
  deriving DecidableEq, Repr

/-- An entry of a wake table (R429, R431): context, physical address, who waits. -/
structure WakeEntry where
  die : Die
  ctx : Nat
  pa : Nat
  who : ThreadRef
  deriving DecidableEq, Repr

/-- A side-log entry (R135) of a core: its place in the issue order, its physical address once its page has resolved (R137) with the class
of that page (R156), its stamp (R311), and what a reduction's write releases (R169). -/
structure SideEntry where
  seq : Nat
  pa : Option Nat
  die : Die
  core : Nat
  ctx : Nat
  who : ThreadRef
  va : Nat
  red : Bool
  rfunc : BitVec 8
  byteEn : BitVec 16
  data : BitVec 128
  node : NodeRef
  stamp : Stamp
  cls : Nat
  rel : Option Clock
  deriving DecidableEq, Repr

/-- A unit that can fault on a page (R132). -/
inductive FUnit where
  | core (d : Die) (c : Nat)
  | copy (d : Die) (e : Nat)
  | coll (d : Die)
  | graph (d : Die)
  | port (p : Nat)
  deriving DecidableEq, Repr

/-- A page fault being held (R132, R134): kind of R132, the 64 KiB page's address, access needed, node, and the cycle it was taken. -/
structure HeldFault where
  unit : FUnit
  ctx : Nat
  node : NodeRef
  kind : Nat
  va : Nat
  wr : Bool
  since : Nat
  walks : Nat
  deriving DecidableEq, Repr

/-- Who waits on an absent page: an agent, an engine operation, a node waiting at dispatch, a stream, the kick a context takes, a command
for a context, a landing, the core's writes for a block being saved or resumed, a record that the device owes a context's save area (R129, R131, R69, R95, R124, R211,
R244). -/
inductive Holder where
  | agent (a : Agent)
  | op (id : Nat)
  | node (n : NodeRef)
  | stream (l : LeadRef) (q : Nat)
  | kick (ctx : Nat)
  | cmd (ctx : Nat)
  | port (p : Nat)
  | save (block : Nat)
  | owed (n : NodeRef) (trap : Bool)
  deriving DecidableEq, Repr

/-- What a re-walk made of a held access (R134): the page's address. -/
inductive Verdict where
  | ok (pa : Nat)
  | denied
  | fatal
  deriving DecidableEq, Repr

/-- An access held on an absent page (R131, R134): who, on which unit's fault, what it needs, and the page's settlement once there is one
(a physical address of the page's first byte). -/
structure HeldAcc where
  who : Holder
  unit : FUnit
  ctx : Nat
  va : Nat
  rd : Bool
  wr : Bool
  verdict : Option Verdict
  deriving DecidableEq, Repr

/-- A memory controller's count of transfers (R140, R141): sketch counters that are not zero by row and index, candidates,
publications made, the interval's start, and its length in cycles, 0 while there is none. -/
structure HotCtl where
  sketch : List (Nat × Nat × Word)
  cand : List (Nat × Word)
  interval : Dword
  start : Nat
  len : Nat
  deriving DecidableEq, Repr

/-! Communication (file 02). -/

/-- A landing-region descriptor (R44, R79). -/
structure Region where
  die : Die
  idx : Nat
  ctx : Nat
  base : Nat
  len : Nat
  ctr : Nat
  unit : Nat
  deriving DecidableEq, Repr

/-- An assigned receive counter (R44, R46), with what an observation of its value acquires (R169). -/
structure Counter where
  die : Die
  idx : Nat
  ctx : Nat
  val : Word
  rel : Rel
  deriving DecidableEq, Repr

/-- The last send that an entry of a die's trigger table fired, until the entry is armed again (R447). -/
structure FiredEntry where
  die : Die
  entry : Nat
  ctx : Nat
  arm : Nat
  deriving DecidableEq, Repr

/-- A message in the course of landing (R44): who sent it, its region, its extent, and the offsets of bytes landed as pairs of
start and end; rel what happened before its packets (R169). -/
structure Msg where
  src : Nat
  msg : Nat
  die : Die
  idx : Nat
  off : Nat
  total : Nat
  landed : List (Nat × Nat)
  rel : Rel
  deriving DecidableEq, Repr

/-! Contexts, graphs, replays (files 03 to 06). -/

/-- A kick of 32 bytes (R66). -/
abbrev Kick := BitVec 256

/-- The kick being taken (R69): its step, the cycle step 2 began or its held read ended, re-reads made, the CRC last computed, and the
table's bytes. -/
structure Taking where
  kick : Kick
  step : Nat
  start : Nat
  rereads : Nat
  crc : Word
  table : List Byte
  deriving DecidableEq, Repr

/-- Where a node of a graph may run (R63). -/
structure GNode where
  kind : Nat
  cls : Nat
  die : Nat
  next : Nat
  walk : Bool
  absentOk : Bool
  npred : Nat
  succs : List Nat
  exts : List (BitVec 256)
  b0 : Dword
  b1 : Dword
  b2 : Dword
  b3 : Dword
  deriving DecidableEq, Repr

/-- A registered graph (R62 to R65): address and length of the object, its parameter block and nodes. -/
structure Graph where
  handle : Nat
  va : Nat
  len : Nat
  paramOff : Nat
  paramBytes : Nat
  nodes : List GNode
  deriving DecidableEq, Repr

/-- The launch header (R85). -/
structure Launch where
  levels : Nat
  widths : List Nat
  regs : Nat
  eject : Nat
  cls : Nat
  cohold : Bool
  rejoinTmo : Nat
  reformAge : Nat
  loc : Nat
  boxes : Nat
  deriving DecidableEq, Repr

/-- A loaded code object (R83, R89): its bytes' range, the word address of its code section, words, entries, launch header. -/
structure Code where
  va : Nat
  len : Nat
  word0 : Nat
  words : Nat
  leadEntry : Nat
  laneEntry : Nat
  launch : Launch
  deriving DecidableEq, Repr

/-- A context (R78 to R82, R124): CTXSTAT, the words of the translation root it keeps, save area, limits, partition, kicks, graphs,
code, the pages code was fetched from with their physical addresses (R128), floating counters and thresholds (R76), save slots
in use (R244), fault-ring tail and lost count. -/
structure Ctx where
  num : Nat
  stat : Nat
  root : Nat
  l0 : Nat
  fqBase : Nat
  fqSize : Nat
  pfTmo : Nat
  catBase : Nat
  catLog2 : Nat
  hotBase : Nat
  hotInt : Nat
  save : Nat
  home : Die
  classMax : Nat
  poolQ : Nat
  cores : BitVec 256
  copyMask : BitVec 16
  pmode : Bool
  e : Word
  kicks : List Kick
  taking : Option Taking
  graphs : List Graph
  codes : List Code
  codePages : List (Nat × Nat)
  fpCount : Vector Word 36
  fpThresh : Vector Word 36
  saveSlots : List Nat
  fqTail : Word
  fqLost : Word
  deriving DecidableEq, Repr

/-- How a run of pages stands in an extent table (R129). -/
inductive PageRec where
  | mapped (pa : Nat) (cls : Nat)
  | absent
  | fatal
  deriving DecidableEq, Repr

/-- Pages lo up to hi (byte addresses, multiples of 64 KiB). A mapped run's bytes lie at pa onward. -/
structure PageRun where
  lo : Nat
  hi : Nat
  page : PageRec
  deriving DecidableEq, Repr

/-- An entry of an extent table (R64, R129): declared or walked, permissions, base address, rows and their length and pitch (one
row for a range), and the pages. -/
structure Extent where
  walked : Bool
  rd : Bool
  wr : Bool
  base : Nat
  rows : Nat
  len : Nat
  pitch : Nat
  pages : List PageRun
  deriving DecidableEq, Repr

/-- Where a node of a replay stands (R71, R72, R99). -/
inductive NodePhase where
  | waiting
  | ready
  | pool
  | running
  | done
  deriving DecidableEq, Repr

/-- A node of a running replay: predecessors left, die chosen, readiness order, pool entry cycle and class on entry, the cycle
since which a kernel node is passed over, extents, for a kernel the code object's address, blocks in all, the next block never placed,
pre-empted blocks to place again (model numbers) and blocks ended; the failing status; the engine operation of another kind; what happened before the node's accesses, and what its threads and lead
contexts had done when they ended (R169). -/
structure RNode where
  idx : Nat
  phase : NodePhase
  preds : Nat
  die : Die
  order : Nat
  entered : Nat
  cls : Nat
  passed : Option Nat
  blocking : Bool
  exts : List Extent
  translated : Bool
  code : Nat
  blocks : Nat
  nextBlock : Nat
  clusterDie : Option Die
  again : List Nat
  ended : Nat
  status : Option (BitVec 8)
  op : Option Nat
  clk : Clock
  ends : Clock
  deriving DecidableEq, Repr

/-- A replay (R69, R71): the graph's handle, the kick's SEQ and TAG, the cycle of its start, its nodes. -/
structure Replay where
  ctx : Nat
  handle : Nat
  seq : Word
  tag : Word
  start : Nat
  nodes : List RNode
  deriving DecidableEq, Repr

/-- An arrival of lead context j of the c of block b at a checkpoint round of a node (R95, R466), with what its threads had done (R95). -/
structure CkptArrival where
  node : NodeRef
  b : Nat
  c : Nat
  j : Nat
  step : Dword
  desc : Dword
  clk : Clock
  deriving DecidableEq, Repr

/-- A record that the device writes into a context save area and whose page is absent (R95, R239, R244): the node, where, the bytes, and whether it
is an unhandled-trap record, which a valid one keeps out. -/
structure Owed where
  node : NodeRef
  va : Nat
  data : List Byte
  trap : Bool
  deriving DecidableEq, Repr

/-- An entry of a batch-forming channel (R121, R450): who joined, cluster, rows, payload, enqueue cycle, its batch once formed, and what happened before
the join (R452). -/
structure BfEntry where
  id : Nat
  who : ThreadRef
  ctx : Nat
  cluster : Nat
  rows : Nat
  payload : Dword
  cycle : Nat
  core : Nat
  slot : Nat
  batch : Option Nat
  clk : Clock
  deriving DecidableEq, Repr

/-- A formed batch (R122, R451, R452): its number, entries as listed, and the block that took it. -/
structure Batch where
  num : Nat
  rows : Nat
  entries : List (Dword × Nat × Nat)
  taker : Option Nat
  deriving DecidableEq, Repr

/-- A thread that waits at BFTAKE (R123): the cycle it arrived, its core and block slot. -/
structure Taker where
  who : ThreadRef
  cycle : Nat
  core : Nat
  slot : Nat
  deriving DecidableEq, Repr

/-- A batch-forming channel of a die (R121), with the cycle in which it last formed a batch (R122). -/
structure Channel where
  die : Die
  ch : Nat
  owner : Option Nat
  thresh : Nat
  maxRows : Nat
  age : Nat
  entries : List BfEntry
  batches : List Batch
  nextBatch : Nat
  formed : Option Nat
  takers : List Taker
  deriving DecidableEq, Repr

/-! Blocks, threads, lead contexts (files 05, 07, 09 to 11, 15, 22). -/

/-- Why a thread is not ready (R190): it may try again; parked at an address; arrived at a cross-lane instruction, with the result
once there is one; arrived at a rejoin record; joined a batch channel, with the returned value once there is one; an engine command or
held unit; an access held on a page; a barrier it has arrived at; half of a local access of 16 bytes done, the upper one or the lower, with the words that a load read (R168);
the release waits of EXIT or END, the rest of its chain done, with the chain's first word; leaving for or coming back from a carrel core. -/
inductive Wait where
  | retry
  | address (woken : Bool)
  | xlane (res : Option (List Word))
  | rejoin (rec : Nat)
  | join (id : Nat) (res : Option Word)
  | op (id : Nat)
  | held
  | barrier
  | half (upper : Bool) (ws : List Word)
  | exit (pc : CodeAddr)
  | toCarrel (context : Nat)
  | fromCarrel (reform : Bool)
  deriving DecidableEq, Repr

/-- What a thread does now (R190, R243). -/
inductive TStatus where
  | ready
  | wait (w : Wait)
  | filed (bin : Nat)
  | parked
  | ended
  deriving DecidableEq, Repr

/-- What a thread brought to a cross-lane instruction (R399): the instruction and its word address, the member mask, the operand words,
and whether the unit stands in a chain of two or more. -/
structure XArrival where
  instr : Instr
  pc : CodeAddr
  mask : Dword
  vals : List (List Word)
  chained : Bool
  deriving DecidableEq, Repr

/-- A lane thread (R189, R196, R213). pass marks an instruction that stopped its block and goes through when it issues again (R308);
lateRp holds the rejoin addresses of the records that left it late (R220, R226); wrote holds the registers written or poisoned while ejected, and
homePoison those that hold the poison value on the home core meanwhile (R223, R226); know is what happened before the thread's next
access beside its own stores, relClk what its last release fence released, and seen the releases that its atomics read from since its last acquire
fence (R169); floor the step before whose end a cache's copies are too old for its loads, since it came to
the core after them (R167); readyAt is the cycle since which it has been ready without issuing, issued the cycle of its last issue (R117, R224). -/
structure Thread where
  pc : CodeAddr
  v : Vector Word 128
  k : Vector Word 16
  dirty : BitVec 128
  g : BitVec 7
  stale : Bool
  req : BitVec 8
  pri : BitVec 4
  yld : Bool
  late : Bool
  lateRp : List CodeAddr
  carrel : Option Nat
  wrote : BitVec 128
  homePoison : BitVec 128
  chain : List Nat
  cause : Word
  trapPc : CodeAddr
  trapMask : Dword
  trapAddr : Dword
  trapVec : Word
  inTrap : Bool
  fpctr : Word
  key : Dword
  draw : Dword
  ld : Nat
  st : Nat
  cp : List (Nat × Bool)
  tl : List (Nat × Bool)
  dqr : BitVec 16
  qr : Vector (BitVec 16) 8
  ph : Dword
  status : TStatus
  arrival : Option XArrival
  preempt : Bool
  pfatal : Option Nat
  pass : Bool
  know : Clock
  relClk : Option Clock
  seen : Rel
  floor : Nat
  readyAt : Option Nat
  issued : Nat
  wclk : Word
  rclk : Word
  deriving DecidableEq, Repr

/-- A completion record of two words (R416, R439), whether the lead context issued its operation, and what happened before the operation's
issue (R169, R184). -/
structure Record where
  w0 : Dword
  w1 : Dword
  own : Bool
  clk : Clock
  deriving DecidableEq, Repr

/-- A stream of the affine address engine (R211): base, counts, strides, thread stride, space, entries read so far, entries in all,
and whether it still runs. -/
structure Stream where
  base : Nat
  counts : List Nat
  strides : List Int
  ts : Int
  glob : Bool
  pos : Nat
  running : Bool
  deriving DecidableEq, Repr

/-- An operand queue (R209): ring base in the share, D, mode T, elements of an entry in mode T (s499 bits 10:0 at the
set-up, R244), entries written, its stream. -/
structure Queue where
  base : Nat
  d : Nat
  perThread : Bool
  n : Nat
  written : Nat
  stream : Option Stream
  deriving DecidableEq, Repr

/-- What a lead context does now. -/
inductive LStatus where
  | ready
  | wait
  | held
  | op (id : Nat)
  | parked
  | ended
  deriving DecidableEq, Repr

/-- A lead context (R205 to R209, R238): the bank lk0 to lk7, the handler flag and the cause it was entered with, s495 as it stood when PREEMPT was taken (R238,
R243), the event queue and LOST,
the decision ring with the count of pushes, and what happened before its next access (R169); floor, readyAt and issued as for a thread (R119). -/
structure Lead where
  pc : CodeAddr
  s : Vector Dword 512
  lk : Vector Dword 8
  p : BitVec 8
  inTrap : Bool
  cause : Word
  vecKept : Dword
  status : LStatus
  evq : List Record
  lost : Nat
  dq : Vector Word 64
  dqw : BitVec 16
  queues : Vector (Option Queue) 8
  preempt : Bool
  pfatal : Option Nat
  pass : Bool
  know : Clock
  floor : Nat
  readyAt : Option Nat
  issued : Nat
  wclk : Word
  rclk : Word
  deriving DecidableEq, Repr

/-- A weight plane (R292): its tag and its element codes, scales and variance codes by row. -/
structure Plane where
  typeB : Nat
  k : Nat
  n : Nat
  mode : Nat
  elems : List Nat
  scales : List Nat
  vars : List Nat
  deriving DecidableEq, Repr

/-- The tile state of a block slot (R290 to R295): records, planes, and the tiles it holds with their 16,384 bytes. -/
structure TileSlot where
  sh : Vector (Option Dword) 4
  active : Option Plane
  shadow : Option Plane
  tiles : List (Nat × Memory)
  deriving DecidableEq, Repr

/-- What a block has on one of its cores (R109): core within the die, block slot, lead context, local store, tile state, and
what an acquire of a word of the local store reads from, by offset (R169). -/
structure Share where
  core : Nat
  slot : Nat
  lead : Lead
  loc : Memory
  tile : TileSlot
  syncs : List (Nat × Clock)
  deriving DecidableEq, Repr

/-- A mailbox (R162); none before MBINIT. pubK and retK are what happened before its publications and its returns (R169). -/
structure Mailbox where
  glob : Bool
  base : Nat
  size : Nat
  k : Nat
  core : Nat
  claim : Word
  pub : Word
  take : Word
  ret : Word
  pubK : Clock
  retK : Clock
  deriving DecidableEq, Repr

/-- A rejoin record of a core of the block (R217, R220): members, arrived, removed, and the cycle of the first arrival. -/
structure RejoinRec where
  id : Nat
  core : Nat
  rp : CodeAddr
  members : List Nat
  arrived : List Nat
  removed : List Nat
  first : Option Nat
  deriving DecidableEq, Repr

/-- A reform bin (R228): core, key address, threads in filing order with their cycles. -/
structure Bin where
  id : Nat
  core : Nat
  pc : CodeAddr
  threads : List (Nat × Nat)
  deriving DecidableEq, Repr

/-- Where a block stands (R114, R242 to R245). -/
inductive BStage where
  | running
  | saving
  | saved
  | resuming
  | ended
  deriving DecidableEq, Repr

/-- A placed block (R109, R304): its coordinates, launch header and code, shape, the partition mode it runs under, run class,
barrier phase count, threads, shares, mailboxes, records, bins, stage, save slot, stop, and replay tag (R310); and the threads without
whose registers a resumed block was placed, since they had ended at its save (R115). id is the model's number, given at first placement
in order. barIn and barNext are what happened before the arrivals at the phase in progress and at the one after it, barDone before those at the phases
complete (R169). -/
structure Block where
  id : Nat
  ctx : Nat
  seq : Word
  node : Nat
  b : Nat
  die : Die
  code : Code
  w0 : Nat
  m : Nat
  loc : Nat
  pmode : Bool
  cls : Nat
  bp : Dword
  threads : List Thread
  shares : List Share
  boxes : List (Option Mailbox)
  recs : List RejoinRec
  bins : List Bin
  stage : BStage
  slot : Option Nat
  placed : Nat
  stop : Option Stop
  tag : BitVec 16
  gone : List Nat
  barIn : Clock
  barNext : Clock
  barDone : Clock
  deriving DecidableEq, Repr

/-! Engine operations (files 02, 08, 14, 15, 23). -/

/-- Who issued an operation (R165, R438). -/
inductive Issuer where
  | agent (a : Agent)
  | node (n : NodeRef)
  deriving DecidableEq, Repr

/-- A place in global or local space; a local address is that of R151 in a block. -/
inductive Loc where
  | glob (va : Nat)
  | loc (block : Nat) (la : Nat)
  deriving DecidableEq, Repr

/-- rows × len bytes from a place, pitch apart: one range of an operation (R182). -/
structure Area where
  at_ : Loc
  rows : Nat
  len : Nat
  pitch : Nat
  deriving DecidableEq, Repr

/-- Bytes that a lock binds (R182): physical, or in a block's local space by share and offset; virtual bytes of a context where their page is absent
and no physical byte is named yet (R131, R182). -/
inductive Span where
  | phys (lo len : Nat)
  | loc (block : Nat) (la len : Nat)
  | virt (ctx lo len : Nat)
  deriving DecidableEq, Repr

/-- The follow-on of a copy (R301, R442). -/
structure Follow where
  mma : Bool
  sh : Nat
  tile : Nat
  pitch : Nat
  scale : Nat
  deriving DecidableEq, Repr

/-- A collective (R52 to R60, R443): group in ring order and rank; the phase it is in (0 reduce, 1 gather, 2 norm), whether that phase holds
its leave and has begun; the codes of its source elements; what came from the neighbour and is still to be treated; the parts of shards combined and sent on (shard, first
element, count), the parts of shards landed with their codes, the norm partials known by rank; since when it waits for input, and
since when a packet of it is unacknowledged. -/
structure Coll where
  group : List Nat
  rank : Nat
  src : Nat
  dst : Nat
  n : Nat
  coll : Nat
  op : Nat
  ty : Nat
  norm : Bool
  ctag : Dword
  nslot : Nat
  phase : Nat
  leave : Bool
  begun : Bool
  data : List Nat
  inq : List CollData
  reduced : List (Nat × Nat × Nat)
  landed : List (Nat × Nat × List Nat)
  norms : List (Nat × Dword)
  waitFrom : Nat
  sent : Option Nat
  deriving DecidableEq, Repr

/-- A triggered send (R48, R445): once fired, the cycle it was sent. -/
structure Tsend where
  src : Nat
  off : Nat
  region : Nat
  rdie : Die
  device : Nat
  len : Nat
  t : Word
  ctr : Nat
  entry : Nat
  arm : Nat
  order : Nat
  fired : Bool
  sent : Nat
  deriving DecidableEq, Repr

/-- A tile-engine command in a slot's order (R292, R296, R454): function 0 to 8 of primary 0x3A, the record copied at issue, tile or
tile mask, the operands; whether its step has started, whether the array takes the next step, and the plane or the bytes once read. -/
structure TileCmd where
  fn : Nat
  block : Nat
  j : Nat
  shn : Nat
  sh : Dword
  tile : Nat
  mask : Nat
  a : Nat
  b : Nat
  c : Nat
  started : Bool
  bound : Bool
  plane : Option Plane
  bytes : Option (List Byte)
  deriving DecidableEq, Repr

/-- A move through the corner-turn stage (R160, R161): source, pitches, destinations; the rows once read. -/
structure Stash where
  s : Nat
  sp : Nat
  a : Nat
  pa : Nat
  b : Nat
  pb : Nat
  rows : Option (List Byte)
  deriving DecidableEq, Repr

/-- A sampling form on the sampler (R287, R388, R389): MINP or CATDRAW with its operands and the STREAMKEY it draws under (R281). -/
structure SampCmd where
  catdraw : Bool
  key : Dword
  mode : Nat
  d : Nat
  a : List Word
  b : List Word
  c : List Word
  deriving DecidableEq, Repr

/-- A catalogue operation (R145): 0 lookup, 1 insert, 2 unreference. -/
structure CatCmd where
  fn : Nat
  take : Bool
  key : Dword
  page : Nat
  n : Nat
  deriving DecidableEq, Repr

/-- What an operation does. -/
inductive Work where
  | copy (src dst : Loc) (len : Nat) (follow : Option Follow)
  | coll (c : Coll)
  | tsend (t : Tsend)
  | tile (t : TileCmd)
  | stash (st : Stash)
  | sample (c : SampCmd)
  | cat (c : CatCmd)
  deriving DecidableEq, Repr

/-- How far an operation is (R182, R184, R441): waiting to register its ranges; registered; running (leave held, engine entered);
a follow-on entered; finished with its result words, not yet consumed. -/
inductive OpPhase where
  | waiting
  | registered
  | running
  | followed (op : Nat)
  | finished (res : List Word)
  deriving DecidableEq, Repr

/-- An issued operation (R438): who for, the block whose lead context takes its record, engine (copy engine in the package's
numbering of R30 by die), TAG, ranges read and written with the bytes they lock, phase, the issuer's stamp (R311), whether a handler issued it (R244), and what happened before its issue (R181). -/
structure Op where
  id : Nat
  issuer : Issuer
  ctx : Nat
  die : Die
  core : Nat
  engine : Option Nat
  tag : BitVec 16
  work : Work
  src : List Area
  dst : List Area
  lockSrc : List Span
  lockDst : List Span
  phase : OpPhase
  stamp : Stamp
  handler : Bool
  clk : Clock
  deriving DecidableEq, Repr

/-! What the device sends (DESIGN CHOICE, log entry 1 for the model's own shape of it). -/

/-- The status of a firmware or attestation request: taken, refused, or BUSY (R27). -/
inductive Answer where
  | taken
  | refused
  | busy
  deriving DecidableEq, Repr

/-- Something that leaves the device, oldest first in State.out. -/
inductive Out where
  /-- An event record written to the host's buffer at a byte offset (R75). -/
  | event (off : Nat) (rec : EvRec)
  /-- An RMA write packet of an operation (R48): destination device, key selector, offset, offset in the message, bytes. -/
  | write (via : Via) (op device sel off at_ : Nat) (data : List Byte)
  /-- Data of a collective to the next member (R54). -/
  | coll (via : Via) (op device : Nat) (h : CollHead) (d : CollData)
  /-- A frame of the answer to an RMA read or fetching atomic (R31, R37), or an acknowledgement with no bytes. -/
  | reply (src : Nat) (data : List Byte)
  /-- A refusal with REMOTE_PROTECT (R36), an invalid key (R45), or an unsupported operation (R34). -/
  | nak (src : Nat) (why : Nat)
  /-- A packet forwarded by the bridge (R42). -/
  | bridge (via : Via) (device : Nat) (p : HeldPkt)
  /-- The value of a read of the management window. -/
  | value (v : Dword)
  /-- An attestation report in the order of R27, with its signature. -/
  | report (nonce : BitVec 256) (device : BitVec 21) (tag version : Nat) (slots : List (BitVec 512)) (sig : List Byte)
  /-- The answer to a firmware or attestation request. -/
  | answer (a : Answer)
  /-- A flit or packet sent again (R11, R56). -/
  | again (op : Nat)
  deriving DecidableEq, Repr

/-! The issue in progress: the model's own fields (DESIGN CHOICE, log entry 1). -/

/-- How the last unit ended for its thread or lead context. -/
inductive IResult where
  | none
  | done
  | trapped
  | blocked
  deriving DecidableEq, Repr

/-- The operand values of one unit as its chain read them (R326): one list of words for each source. -/
structure Latch where
  vals : List (List Word)
  deriving DecidableEq, Repr

/-- The issue group, the unit and the chain in progress: the agent whose unit runs; the group and its threads still to run;
the chain's first word, the unit's first word (its GUARD where it has one), and whether it has two units or more; the guard read by a GUARD word for the next unit (R323); operands
read for the chain (R326); for a long branch the votes of the threads that completed it (R217), with its rejoin address and eject bit; who trapped, with cause and address; cause, subcode and
address of the trap last taken; the number of the first access that the group makes; the threads that went through a unit of the LS
pipe, its address, and the 128-byte sectors of local space that they touched (R309); the nodes whose KILL waits for
the group to have completed its instruction (R233, R239). -/
structure Issue where
  agent : Option Agent
  group : List Nat
  rest : List Nat
  start : CodeAddr
  unit : CodeAddr
  chained : Bool
  guard : Option Bool
  latch : Option Latch
  votes : List (Nat × Bool)
  split : Option (CodeAddr × Bool)
  trapped : List (Nat × Word × CodeAddr)
  taken : Option (Nat × Nat × Nat)
  mark : Nat
  ls : List Nat
  lsPc : CodeAddr
  lsLoc : List Nat
  kills : List NodeRef
  result : IResult
  deriving DecidableEq, Repr

/-- Why the machine stops. -/
inductive Fault where
  /-- Raised by step alone: both dies' clocks have stopped at a thermal trip and nothing but a package reset has an effect (R19). Safe:
  the hardware does nothing either. -/
  | clocksStopped
  deriving DecidableEq, Repr

/-- Why the model gives an instruction no meaning. -/
inductive Refusal where
  /-- Raised by exec for an instruction that has no meaning yet, by its mnemonic. Safe. -/
  | notModelled (mnemonic : String)
  deriving DecidableEq, Repr

/-- The machine. -/
structure State where
  /-- The model's own: what every free value is applied to (DESIGN CHOICE, log entry 1). -/
  tick : Nat
  /-- The model's own: inputs to come, oldest first, and what the event in hand names (DESIGN CHOICE, log entry 1). -/
  inbox : List (Instr × Arg)
  arg : Arg
  /-- The model's own: who issues next, when that is settled (DESIGN CHOICE, log entry 1). -/
  turn : Option Agent
  issue : Issue
  out : List Out
  clocksOn : Bool
  cycA : Dword
  cycB : Dword
  pkg : Pkg
  fw : Firmware
  govA : Gov
  govB : Gov
  evt : Evt
  cmdq : List QCmd
  cmdBusy : Option QCmd
  dbg : Dbg
  mem : Memory
  poison : List Nat
  cached : List CByte
  tags : List CTag
  syncs : List SyncVar
  keySyncs : List KeySync
  stamps : List Stamp
  loads : List Load
  stores : List Store
  /-- The model's own: the next number of an access, an operation, a block or a record (DESIGN CHOICE, log entry 1). -/
  nextId : Nat
  /-- The context that issued last on a core shared by two (R118). -/
  lastCtx : List (Die × Nat × Nat)
  wakes : List WakeEntry
  sideLog : List SideEntry
  faults : List HeldFault
  holds : List HeldAcc
  hot : List HotCtl
  regions : List Region
  counters : List Counter
  armA : Nat
  armB : Nat
  fired : List FiredEntry
  heldPkts : List HeldPkt
  msgs : List Msg
  ctxs : List Ctx
  replays : List Replay
  ckpts : List CkptArrival
  owed : List Owed
  channels : List Channel
  blocks : List Block
  ops : List Op
  deriving DecidableEq, Repr

/-! Reset (R20, R17, R32, R74, R77, R155, R305; log entries 3 and 4 where the manual gives no value). -/

def Port.reset : Port := ⟨false, false, false, 0, 0, 0⟩
def Gov.reset : Gov := ⟨[], [], 0, 0, 0, []⟩
def Firmware.reset : Firmware := ⟨[], [], 0, none, 0, Vector.replicate 8 0, []⟩
def Pkg.reset : Pkg :=
  ⟨0, 0, [], [], 0, 0, 2000000000, 0, Vector.replicate 64 0, Vector.replicate 16 .reset, 0, 0, 0, 0, 0, 0, 0, 0, false, 0⟩
def Evt.reset : Evt := ⟨0, 0, 0, 0, 0, 0, 0, [], 1⟩
def Dbg.reset : Dbg :=
  ⟨0, 0, 0, 0, Vector.replicate 4 0, 0, 0, 0, 0, 0, 0, 0, 0, 0, 0, [], [], [], 1, [], [], []⟩
def HotCtl.reset : HotCtl := ⟨[], [], 0, 0, 0⟩
def Issue.none : Issue := ⟨Option.none, [], [], 0, 0, false, Option.none, Option.none, [], Option.none, [], Option.none, 0, [], 0, [], [], .none⟩

/-- The machine right after a package reset, with nothing placed, mapped or created. -/
def State.reset : State where
  tick := 0
  inbox := []
  arg := .none
  turn := none
  issue := .none
  out := []
  clocksOn := true
  cycA := 0
  cycB := 0
  pkg := .reset
  fw := .reset
  govA := .reset
  govB := .reset
  evt := .reset
  cmdq := []
  cmdBusy := none
  dbg := .reset
  mem := []
  poison := []
  cached := []
  tags := []
  syncs := []
  keySyncs := []
  stamps := []
  loads := []
  stores := []
  nextId := 1
  lastCtx := []
  wakes := []
  sideLog := []
  faults := []
  holds := []
  hot := List.replicate 10 .reset
  regions := []
  counters := []
  armA := 0
  armB := 0
  fired := []
  heldPkts := []
  msgs := []
  ctxs := []
  replays := []
  ckpts := []
  owed := []
  channels := []
  blocks := []
  ops := []

end Sys2Proof.Machine
end

