-- ==== Sys2Proof/Machine/Mem.lean ====
section
/-! DEFINITION. Memory and caches (spec 01 R12, 07 R148 to R150, 08 R165 to R180): bytes in one canonical list, the bytes each cache
holds, and the few ways an agent reads and writes them. -/

namespace Sys2Proof.Machine

/-! Bytes and numbers, low byte first (R3). -/

/-- The number a list of bytes holds. -/
def natOf : List Byte → Nat
  | [] => 0
  | b :: r => b.toNat + 256 * natOf r

/-- The n low bytes of a number. -/
def bytesOf : Nat → Nat → List Byte
  | 0, _ => []
  | n + 1, v => BitVec.ofNat 8 v :: bytesOf n (v / 256)

/-- Words of a list of bytes. -/
def wordsOf : List Byte → List Word
  | a :: b :: c :: d :: r => BitVec.ofNat 32 (natOf [a, b, c, d]) :: wordsOf r
  | _ => []

/-- The pieces of n bytes at an address that end at multiples of k. -/
def cuts (k : Nat) : Nat → Nat → Nat → List (Nat × Nat)
  | 0, _, _ => []
  | fuel + 1, a, n =>
    if n = 0 then []
    else
      let m := min n (k - a % k)
      (a, m) :: cuts k fuel (a + m) (n - m)

/-- Bits lo and above of a number, n of them. -/
def bits (v lo n : Nat) : Nat := v / 2 ^ lo % 2 ^ n

/-- Bit i of a number. -/
def bit (v i : Nat) : Bool := v / 2 ^ i % 2 = 1

/-- 1 or 0. -/
def b2n (b : Bool) : Nat := if b then 1 else 0

/-- The signed value of the low w bits. -/
def sval (w v : Nat) : Int := if v % 2 ^ w < 2 ^ (w - 1) then (v % 2 ^ w : Nat) else (v % 2 ^ w : Nat) - (2 ^ w : Nat)

/-! The canonical list. -/

/-- The byte at an address: what is listed, else 0 (DESIGN CHOICE, log entry 3). -/
def Memory.get : Memory → Nat → Byte
  | [], _ => 0
  | (a, b) :: r, x => if a = x then b else Memory.get r x

/-- Takes an address out of the list. -/
def Memory.omit : Memory → Nat → Memory
  | [], _ => []
  | (a, b) :: r, x => if a = x then Memory.omit r x else (a, b) :: Memory.omit r x

/-- Writes one byte and keeps the canonical form. -/
def Memory.set : Memory → Nat → Byte → Memory
  | [], x, v => if v = 0 then [] else [(x, v)]
  | (a, b) :: r, x, v =>
    if x < a then (if v = 0 then (a, b) :: Memory.omit r x else (x, v) :: (a, b) :: r)
    else if x = a then (if v = 0 then Memory.omit r x else (x, v) :: r)
    else (a, b) :: Memory.set r x v

/-- Addresses strictly rise from a bound on and no listed byte is 0. -/
def Memory.wfFrom : Nat → Memory → Bool
  | _, [] => true
  | lo, (a, b) :: r => decide (lo ≤ a) && b != 0 && Memory.wfFrom (a + 1) r

/-- The canonical form. -/
def Memory.wf (m : Memory) : Bool := Memory.wfFrom 0 m

/-- n bytes from an address on. -/
def Memory.read (m : Memory) (a : Nat) : Nat → List Byte
  | 0 => []
  | n + 1 => m.get a :: Memory.read m (a + 1) n

/-- Writes bytes from an address on. -/
def Memory.write (m : Memory) (a : Nat) : List Byte → Memory
  | [] => m
  | b :: r => Memory.write (m.set a b) (a + 1) r

/-- The number in n bytes. -/
def Memory.nat (m : Memory) (a n : Nat) : Nat := natOf (m.read a n)

/-! Homes (R12, R148). -/

/-- What a physical address reaches. -/
inductive Home where
  | hbm (d : Die)
  | tier2 (d : Die)
  | window
  | nothing
  deriving DecidableEq, Repr

/-- The table of R12. -/
def homeOf (pa : Nat) : Home :=
  if pa < 0x3000000000 then .hbm .a
  else if pa < 0x6000000000 then .hbm .b
  else if pa < 0x6000100000 then .window
  else if pa < 0x8000000000 then .nothing
  else if pa < 0x10000000000 then .tier2 .a
  else if pa < 0x18000000000 then .tier2 .b
  else .nothing

/-- The die whose home point keeps an address; die A's service answers the window. -/
def homeDie (pa : Nat) : Die :=
  match homeOf pa with
  | .hbm d => d
  | .tier2 d => d
  | _ => .a

/-- The die of a cache. -/
def Cache.die : Cache → Die
  | .core d _ => d
  | .carrel d _ => d
  | .far d => d
  | .l2 d => d
  | .cat d => d

/-- No L1: no load of a core finds what it owns. -/
def Cache.isFar : Cache → Bool
  | .far _ | .l2 _ | .cat _ => true
  | _ => false

/-- Whether accesses of die d to an address pass the die's far cache (R149). -/
def viaFar (d : Die) (pa : Nat) : Bool := homeOf pa != .hbm d

/-! What happened before (R169, R170). -/

/-- How many of an agent's stores a clock covers: those with a number below the answer. -/
def Clock.upTo (k : Clock) (a : Agent) : Nat := match k.find? fun e => e.1 = a with | some e => e.2 | none => 0

/-- A clock that also covers an agent's stores below a number. -/
def Clock.add (k : Clock) (e : Agent × Nat) : Clock := if e.2 ≤ k.upTo e.1 then k else (k.filter fun x => x.1 != e.1) ++ [e]

/-- What either of two clocks covers. -/
def Clock.join (k l : Clock) : Clock := l.foldl Clock.add k

/-- Whether a clock covers a store whose value an owned byte holds or follows. -/
def CByte.covered (e : CByte) (k : Clock) : Bool := e.cover.any fun x => x.2 < k.upTo x.1

/-! Caches (R150). -/

/-- The entry of one cache. -/
def inCache (l : List CByte) (c : Cache) (pa : Nat) : Option CByte := l.find? fun e => e.cache = c && e.pa = pa

/-- The last owned entry of an address among those a test admits. -/
def lastOwned (l : List CByte) (pa : Nat) (ok : CByte → Bool) : Option CByte :=
  (l.filter fun e => e.pa = pa && e.owned && ok e).getLast?

/-- The latest value in the coherence order: the last owned entry, else the home's value (R168, R175). -/
def State.latest (s : State) (pa : Nat) : Byte :=
  match lastOwned s.cached pa (fun _ => true) with
  | some e => e.val
  | none => s.mem.get pa

/-- The latest value of n bytes. -/
def State.homeRead (s : State) (pa : Nat) : Nat → List Byte
  | 0 => []
  | n + 1 => s.latest pa :: s.homeRead (pa + 1) n

/-- What a miss of an L1 on die d finds (R149, R150, R178): an L1 of the die that owns the byte, the far cache, then the home point with
the owners registered there. -/
def State.miss (s : State) (d : Die) (pa : Nat) : Byte :=
  match lastOwned s.cached pa (fun e => e.cache.die = d && !e.cache.isFar) with
  | some e => e.val
  | none =>
    if viaFar d pa then
      match inCache s.cached (.far d) pa with
      | some e => e.val
      | none =>
        match homeOf pa with
        | .hbm h =>
          match lastOwned s.cached pa (fun e => e.cache.die = h && !e.cache.isFar) with
          | some e => e.val
          | none => s.mem.get pa
        | _ => s.mem.get pa
    else s.mem.get pa

/-- The byte a plain load through a cache reads. (DEDUCED, log entry 24) -/
def State.cacheRead (s : State) (c : Cache) (pa : Nat) : Byte :=
  match inCache s.cached c pa with
  | some e => e.val
  | none => s.miss c.die pa

/-- Whether a cache holds every one of n bytes. -/
def State.holds? (s : State) (c : Cache) (pa n : Nat) : Bool := (List.range n).all fun i => (inCache s.cached c (pa + i)).isSome

/-- Copies of the bytes of a line that a cache lacks, as a miss of its die finds them (R147: a fill brings the line). -/
def State.lineCopies (s : State) (c : Cache) (line : Nat) : List CByte :=
  (List.range 128).filterMap fun i =>
    if (inCache s.cached c (line + i)).isSome then none else some ⟨c, line + i, s.miss c.die (line + i), false, [], s.tick⟩

/-- Adds the copies of a line that a cache lacks. -/
def State.fillLine (s : State) (c : Cache) (line : Nat) : State := { s with cached := s.cached ++ s.lineCopies c line }

/-- Whether two bytes lie in one aligned 8-byte word, the largest run that is read and written as a whole (R168). -/
def sameUnit (a b : Nat) : Bool := a / 8 = b / 8

/-- What a change of the owned bytes leaves of the copies: where a cache loses an owned byte, its copies in the same aligned 8-byte word go too, so
that no load mixes two states of such a word (R168). -/
def tidyCopies (old new : List CByte) : List CByte :=
  let lost := old.filter fun x => x.owned && !(new.any fun y => y.owned && y.cache = x.cache && y.pa = x.pa)
  new.filter fun e => e.owned || !(lost.any fun x => x.cache = e.cache && sameUnit x.pa e.pa)

/-- The list after one byte becomes owned in a cache by a store: other L1s of the die lose it, for its ownership moves (R150); copies of the
aligned 8-byte word go from the cache and from the die's far cache, where the ownership is registered (R178). -/
def ownByte (l : List CByte) (c : Cache) (pa : Nat) (v : Byte) (who : Agent × Nat) : List CByte :=
  let gone (e : CByte) : Bool := e.pa = pa && e.owned && (e.cache = c || (e.cache.die = c.die && !e.cache.isFar))
  (tidyCopies l (l.filter fun e => !gone e && (e.owned || !sameUnit e.pa pa || !(e.cache = c || e.cache = .far c.die)))) ++
    [⟨c, pa, v, true, ((l.filter gone).map fun e => e.cover).foldl Clock.join [who], 0⟩]

def ownBytes (l : List CByte) (c : Cache) (pa : Nat) (who : Agent × Nat) : List Byte → List CByte
  | [] => l
  | b :: r => ownBytes (ownByte l c pa b who) c (pa + 1) who r

/-- A write at the home point takes the last place in the coherence order: owned entries are revoked and the far caches' and the
given cache's copies go. -/
def dropAt (l : List CByte) (keep : CByte → Bool) (pa n : Nat) : List CByte :=
  l.filter fun e => !(pa ≤ e.pa && e.pa < pa + n) || keep e

/-- Whether a write of n bytes covers a whole 128-byte line at an address (R13: it clears the poison). -/
def clearsLine (pa n line : Nat) : Bool := pa ≤ line && line + 128 ≤ pa + n

/-- The aligned run of 8-byte words that holds n bytes: its start and its length. -/
def unitsOf (pa n : Nat) : Nat × Nat := (pa / 8 * 8, (pa + n + 7) / 8 * 8 - pa / 8 * 8)

/-- Writes bytes at their home. -/
def State.homeWrite (s : State) (pa : Nat) (bs : List Byte) : State :=
  let u := unitsOf pa bs.length
  { s with
    mem := s.mem.write pa bs
    cached := tidyCopies s.cached (dropAt (dropAt s.cached (fun e => !e.owned) pa bs.length) (fun e => e.owned || !e.cache.isFar) u.1 u.2)
    poison := s.poison.filter fun l => !clearsLine pa bs.length l
    syncs := s.syncs.filter fun v => !(pa < v.pa + 4 && v.pa < pa + bs.length) }

/-- Drops a cache's copies in the aligned 8-byte words of n bytes: their latest value was read or written at their home (R167, R172). -/
def State.forget (s : State) (c : Cache) (pa n : Nat) : State :=
  let u := unitsOf pa n
  { s with cached := dropAt s.cached (fun e => e.cache != c || e.owned) u.1 u.2 }

/-- Drops copies of n bytes, in a cache and in its die's far cache, that were there before a step: an agent that came to the cache's core at that step has
gone beyond them (R167, R172). -/
def State.refresh (s : State) (c : Cache) (pa n floor : Nat) : State :=
  let u := unitsOf pa n
  { s with cached := dropAt s.cached (fun e => e.owned || !(e.cache = c || e.cache = .far c.die) || floor ≤ e.filled) u.1 u.2 }

/-- Writes back every owned byte that a test admits, in coherence order, and drops it (R150, R179). -/
def flushGo (ok : CByte → Bool) : List CByte → Memory → Memory
  | [], m => m
  | e :: r, m => flushGo ok r (if e.owned && ok e then m.set e.pa e.val else m)

/-- What stays after a write-back: an owned entry leaves with the last admitted entry of its address at or after it. -/
def unflushed (ok : CByte → Bool) : List CByte → List CByte
  | [] => []
  | e :: r =>
    if e.owned && (ok e || r.any fun x => x.pa = e.pa && x.owned && ok x) then unflushed ok r else e :: unflushed ok r

/-! Lines in their sets (R147, R156, R159). -/

/-- Lines that a set of a cache holds. -/
def Cache.ways : Cache → Nat
  | .core _ _ | .carrel _ _ => 8
  | _ => 16

/-- The slice and set of a line: an L2 has 192 slices of 256 sets (R147, R148), a far cache 16,384 sets, an L1 128. -/
def Cache.setOf (c : Cache) (line : Nat) : Nat × Nat :=
  match c with
  | .core _ _ | .carrel _ _ => (0, Config.setIndex 0 line % 128)
  | .far _ => (0, Config.setIndex 1 line % 16384)
  | .l2 _ | .cat _ => (line / 128 % 192, Config.setIndex 2 line % 256)

/-- The line's place in a cache, if it has one. -/
def State.tag? (s : State) (c : Cache) (line : Nat) : Option CTag := s.tags.find? fun t => t.cache = c && t.line = line

/-- The lines of a line's set in the order in which they are replaced: marked ones first, then by use (R156, R159). -/
def State.setLines (s : State) (c : Cache) (line : Nat) : List CTag :=
  let l := s.tags.filter fun t => t.cache = c && c.setOf t.line = c.setOf line
  (l.filter fun t => t.mark) ++ l.filter fun t => !t.mark

/-- Ways that a die's WAYQUOTA reserves for a class (R155). -/
def State.reserved (s : State) (d : Die) (cls : Nat) : Nat :=
  bits (match d with | .a => s.pkg.wayA | .b => s.pkg.wayB).toNat (8 * cls) 5

/-- The victim of a fill of a class in a full set of an L2 (R156): the first line whose class holds more lines than its reservation, of other classes
only while the class holds fewer than its own; else the first line of the class. -/
def State.l2Victim (s : State) (d : Die) (set : List CTag) (cls : Nat) : Option CTag :=
  let count (k : Nat) : Nat := (set.filter fun t => t.cls = k).length
  match set.find? fun t => s.reserved d t.cls < count t.cls && (t.cls != cls || !(count cls < s.reserved d cls)) with
  | some t => some t
  | none => set.find? fun t => t.cls = cls

/-- The line becomes the one of its set used last, with its mark as this access leaves it (R159). -/
def State.useTag (s : State) (t : CTag) (lu dirty : Bool) : State :=
  { s with tags := (s.tags.filter fun x => !(x.cache = t.cache && x.line = t.line)) ++ [{ t with mark := lu, dirty := t.dirty || dirty }] }

def State.dropTag (s : State) (c : Cache) (line : Nat) : State := { s with tags := s.tags.filter fun t => !(t.cache = c && t.line = line) }

/-! Transfers of the memory controllers (R140, R141). -/

/-- The controller that serves an address. -/
def ctlOf (pa : Nat) : Nat :=
  match homeOf pa with
  | .hbm d => 4 * d.num + Nat.xor (bits pa 12 2) (bits pa 20 2)
  | .tier2 d => 8 + d.num
  | _ => 8

def hotMul : List Nat := [0x9E3779B97F4A7C15, 0xBF58476D1CE4E5B9, 0x94D049BB133111EB, 0xD6E8FEB86659FD93]

/-- The index of a frame in row j. -/
def hotIndex (frame j : Nat) : Nat := frame * hotMul.getD j 0 % 2 ^ 64 / 2 ^ 52

def HotCtl.cell (h : HotCtl) (j i : Nat) : Word :=
  match h.sketch.find? fun e => e.1 = j && e.2.1 = i with
  | some e => e.2.2
  | none => 0

/-- Counts one 64-byte transfer against a frame and keeps the candidate list (R140, R141). -/
def HotCtl.count (h : HotCtl) (frame : Nat) : HotCtl :=
  let bump (h : HotCtl) (j : Nat) : HotCtl :=
    let i := hotIndex frame j
    let c := h.cell j i
    { h with sketch := (h.sketch.filter fun e => !(e.1 = j && e.2.1 = i)) ++ [(j, i, if c = 0xFFFFFFFF then c else c + 1)] }
  let h1 := [0, 1, 2, 3].foldl bump h
  let est := ([0, 1, 2, 3].map fun j => h1.cell j (hotIndex frame j)).foldl (fun a b => if b < a then b else a) 0xFFFFFFFF
  if h1.cand.any fun e => e.1 = frame then
    { h1 with cand := h1.cand.map fun e => if e.1 = frame then (frame, est) else e }
  else if h1.cand.length < 64 then { h1 with cand := h1.cand ++ [(frame, est)] }
  else
    let least := h1.cand.foldl (fun a e => if e.2 < a then e.2 else a) 0xFFFFFFFF
    if least < est then
      let victim := (h1.cand.filter fun e => e.2 = least).foldl (fun a e => max a e.1) 0
      { h1 with cand := h1.cand.map fun e => if e.1 = victim then (frame, est) else e }
    else h1

/-- The two transfers of a line's fill or write-back (R147) at its controller; none for an address without memory. -/
def State.transfer (s : State) (pa : Nat) : State :=
  match homeOf pa with
  | .hbm _ | .tier2 _ => { s with hot := s.hot.modify (ctlOf pa) fun h => (h.count (pa / 65536)).count (pa / 65536) }
  | _ => s

/-! Use of a line at its home (R148, R149, R156). -/

/-- A line leaves a die's L2; one that its memory has an older value of is written back. -/
def State.evictL2 (s : State) (t : CTag) : State :=
  let s1 := s.dropTag t.cache t.line
  if t.dirty then s1.transfer t.line else s1

/-- An access to a line at its home point: the L2 of its die keeps it, in the place of a victim where its set is full; the second tier's agent
keeps none. A write makes the line newer than its memory. -/
def State.useHome (s : State) (line cls : Nat) (wr lu : Bool) : State :=
  match homeOf line with
  | .hbm d =>
    match s.tag? (.l2 d) line with
    | some t => s.useTag t lu wr
    | none =>
      let set := s.setLines (.l2 d) line
      let s1 := if set.length < 16 then s else match s.l2Victim d set cls with | some t => s.evictL2 t | none => s
      (s1.transfer line).useTag ⟨.l2 d, line, cls, lu, false⟩ lu wr
  | .tier2 _ => s.transfer line
  | _ => s

/-- The lines that n bytes lie in. -/
def linesOf (pa n : Nat) : List Nat := (List.range ((pa % 128 + n + 127) / 128)).map fun i => pa / 128 * 128 + 128 * i

/-- An access of the device or an engine to n bytes at their homes. -/
def State.useHomes (s : State) (pa n cls : Nat) (wr : Bool) : State := (linesOf pa n).foldl (fun a l => a.useHome l cls wr false) s

/-- The lines that a write-back brings to their homes, with the class that each has in its cache. -/
def backLines (l : List CByte) (tags : List CTag) (ok : CByte → Bool) : List (Nat × Nat) :=
  ((l.filter fun e => e.owned && ok e).map fun e =>
    (e.pa / 128 * 128, ((tags.find? fun t => t.cache = e.cache && t.line = e.pa / 128 * 128).map fun t => t.cls).getD 3)).eraseDups

/-- Writes back the owned bytes a test admits; the earlier owned entries of such an address, which its value follows, go too. -/
def State.writeBack (s : State) (ok : CByte → Bool) : State :=
  let s1 : State := { s with mem := flushGo ok s.cached s.mem, cached := tidyCopies s.cached (unflushed ok s.cached) }
  (backLines s.cached s.tags ok).foldl (fun a x => a.useHome x.1 x.2 true false) s1

/-- Owned bytes of a cache, those a test admits, go to its die's far cache, where they follow what that cache owned (R149, R150). -/
def State.toFar (s : State) (d : Die) (ok : CByte → Bool) : State :=
  let moved (pa : Nat) : Bool := s.cached.any fun x => x.owned && ok x && x.pa = pa
  let kept := s.cached.filter fun e => !(e.cache = .far d && (if e.owned then moved e.pa else s.cached.any fun x => x.owned && ok x && sameUnit x.pa e.pa))
  { s with cached := tidyCopies s.cached (kept.map fun e =>
      if e.owned && ok e then
        { e with cache := .far d, cover := (inCache s.cached (.far d) e.pa).elim e.cover fun x => e.cover.join x.cover } else e) }

/-- A line leaves a far cache: its copies go, its owned words are written back to their home (R150). -/
def State.evictFar (s : State) (t : CTag) : State :=
  let mine (e : CByte) : Bool := e.cache = t.cache && t.line ≤ e.pa && e.pa < t.line + 128
  let s1 := (s.writeBack mine).dropTag t.cache t.line
  { s1 with cached := s1.cached.filter fun e => !mine e }

/-- An access to a line in a die's far cache: the line is there afterwards, in the place of the first of a full set. -/
def State.useFar (s : State) (d : Die) (line cls : Nat) (lu : Bool) : State :=
  match s.tag? (.far d) line with
  | some t => s.useTag t lu false
  | none =>
    let set := s.setLines (.far d) line
    let s1 := if set.length < 16 then s else match set.head? with | some t => s.evictFar t | none => s
    s1.useTag ⟨.far d, line, cls, lu, false⟩ lu false

/-- A line leaves an L1 (R149, R150): its copies go, its owned words go to the far cache where their home lies beyond that, else home. -/
def State.evictL1 (s : State) (t : CTag) : State :=
  let d := t.cache.die
  let mine (e : CByte) : Bool := e.cache = t.cache && t.line ≤ e.pa && e.pa < t.line + 128
  let owns := s.cached.any fun e => mine e && e.owned
  let s1 :=
    if !viaFar d t.line then s.writeBack mine
    else if owns then (s.useFar d t.line t.cls false).toFar d mine
    else s
  { s1.dropTag t.cache t.line with cached := s1.cached.filter fun e => !mine e }

/-- An access to a line in an L1. -/
def State.useL1 (s : State) (c : Cache) (line cls : Nat) (lu : Bool) : State :=
  match s.tag? c line with
  | some t => s.useTag t lu false
  | none =>
    let set := s.setLines c line
    let s1 := if set.length < 8 then s else match set.head? with | some t => s.evictL1 t | none => s
    s1.useTag ⟨c, line, cls, lu, false⟩ lu false

/-- A load's use of its line (R147, R149): the L1 holds it afterwards; where the L1 lacked a byte of it that the load reads, the home slice or the far
cache served the whole line. -/
def State.fill (s : State) (c : Cache) (pa n cls : Nat) (lu : Bool) : State :=
  let line := pa / 128 * 128
  let s1 := s.useL1 c line cls lu
  if s1.holds? c pa n then s1
  else if viaFar c.die line then
    let s2 := s1.useFar c.die line cls lu
    let s3 := if s2.holds? (.far c.die) pa n then s2 else (s2.useHome line cls false false).fillLine (.far c.die) line
    s3.fillLine c line
  else (s1.useHome line cls false lu).fillLine c line

/-- Bytes through a cache, without filling it. -/
def State.cacheReadN (s : State) (c : Cache) (pa : Nat) : Nat → List Byte
  | 0 => []
  | n + 1 => s.cacheRead c pa :: s.cacheReadN c (pa + 1) n

/-- The home point revokes what other L1s of a die own in the 4-byte words of n bytes: their words are written back first, home or to the far
cache at which they are registered (R150, R178). -/
def State.revoke (s : State) (c : Cache) (pa n : Nat) : State :=
  let hit (e : CByte) : Bool := e.cache != c && e.cache.die = c.die && !e.cache.isFar && pa / 4 ≤ e.pa / 4 && e.pa / 4 ≤ (pa + n - 1) / 4
  if !(s.cached.any fun e => e.owned && hit e) then s
  else if viaFar c.die pa then s.toFar c.die hit else s.writeBack hit

/-- A plain store becomes visible: its bytes are owned in the storing core's L1 (R150). (DEDUCED, log entry 24) -/
def State.cacheStore (s : State) (c : Cache) (pa : Nat) (bs : List Byte) (who : Agent × Nat) (cls : Nat) : State :=
  let s1 := (s.useL1 c (pa / 128 * 128) cls false).revoke c pa bs.length
  { s1 with cached := ownBytes s1.cached c pa who bs }

/-- R177: an acquire drops the copies of its core's L1. -/
def State.dropCopies (s : State) (c : Cache) : State :=
  { s with cached := s.cached.filter fun e => e.cache != c || e.owned }

/-- R178, R179: an acquire on die d that reads from releases of the other die: the words that happened before them and are owned on that die reach their
homes, and die d's far cache drops its copies. (DEDUCED, log entry 24) -/
def State.crossAcquire (s : State) (d : Die) (k : Clock) : State :=
  let s1 := s.writeBack (fun e => e.cache.die = d.other && e.covered k)
  { s1 with cached := s1.cached.filter fun e => !(e.cache = .far d && !e.owned) }

/-- What a clock covers reaches its home: what the end of a replay tells the host (R71, R73). -/
def State.settle (s : State) (k : Clock) : State := s.writeBack fun e => e.covered k

/-- R157: an owned byte is dropped without write-back, and the home's L2 holds the line no more. -/
def State.dropLine (s : State) (pa : Nat) : State :=
  { s with
    cached := dropAt s.cached (fun _ => false) pa 128
    tags := s.tags.filter fun t => !(t.line = pa && (match t.cache with | .l2 _ => true | _ => false)) }

/-! Atomics (R423, R424). -/

/-- The value an atomic operation writes, or none when it writes nothing; m is the value at A, w its width in bits. -/
def AtomOp.apply (o : AtomOp) (m : Nat) : Option Nat :=
  let b := o.b.toNat
  match o.op with
  | 0 => some ((m + b) % 2 ^ 32)
  | 1 => some (m &&& b)
  | 2 => some (m ||| b)
  | 3 => some (m ^^^ b)
  | 4 => some (if sval 32 m ≤ sval 32 b then m else b)
  | 5 => some (if sval 32 m ≤ sval 32 b then b else m)
  | 6 => some (min m b)
  | 7 => some (max m b)
  | 8 => some b
  | 9 => if m = b then some o.new.toNat else none
  | 10 => some (rne .f32 (Val.add false (FTy.f32.value m) (FTy.f32.value b)))
  | 11 => some ((m + b) % 2 ^ 64)
  | 12 => some b
  | 13 => if m = b then some o.new.toNat else none
  | 14 => none
  | _ => some b

/-- Bytes an atomic operation moves. -/
def AtomOp.size (o : AtomOp) : Nat := if o.op = 11 || o.op = 12 || o.op = 13 then 8 else 4

/-- Whether an order has its release part, its acquire part (R423). -/
def AtomOp.rel (o : AtomOp) : Bool := o.ord = 2 || o.ord = 3
def AtomOp.acq (o : AtomOp) : Bool := o.ord = 1 || o.ord = 3

def Rel.none : Rel := ⟨false, false, []⟩

def Rel.join (x y : Rel) : Rel := ⟨x.a || y.a, x.b || y.b, x.clk.join y.clk⟩

/-- A release on a die, after what a clock covers. -/
def Rel.at_ (d : Die) (k : Clock) : Rel := ⟨d = .a, d = .b, k⟩

/-- Whether releases of the other die are read. -/
def Rel.other (x : Rel) (d : Die) : Bool := match d with | .a => x.b | .b => x.a

/-- What a synchronisation variable carries. -/
def State.sync (s : State) (pa : Nat) : Rel :=
  match s.syncs.find? fun v => v.pa = pa with
  | some v => v.rel
  | none => .none

/-- Sets what a variable carries; nothing carried is not listed. -/
def State.setSync (s : State) (pa : Nat) (x : Rel) : State :=
  let r := s.syncs.filter fun v => v.pa != pa
  { s with syncs := if x.a || x.b then r ++ [⟨pa, x⟩] else r }

/-- The 4-byte words that n bytes at an address lie in. -/
def syncWords (pa n : Nat) : List Nat := if n = 8 then [pa / 4 * 4, pa / 4 * 4 + 4] else [pa / 4 * 4]

/-- What the words of an access carry. -/
def State.syncN (s : State) (pa n : Nat) : Rel := (syncWords pa n).foldl (fun x w => x.join (s.sync w)) .none

/-- What an atomic found: the old value and which releases it read from. -/
structure AtomRes where
  old : Nat
  rel : Rel
  s : State

/-- Performs an atomic at its home (R175, R424), on a die and for the cache given, in a page of a class. rel is what its write releases, if it does: by its ORD, or by a
release fence before it (R169). A read-modify-write carries on the releases it read from. The cache and its die's far cache keep no copy of what the home has
told their agent (R172). -/
def State.atomAt (s : State) (c : Cache) (pa : Nat) (o : AtomOp) (rel : Option Clock) (cls : Nat) : AtomRes :=
  let m := natOf (s.homeRead pa o.size)
  let x := s.syncN pa o.size
  let quiet (s : State) : State := (s.forget c pa o.size).forget (.far c.die) pa o.size
  match o.apply m with
  | none => ⟨m, x, (quiet s).useHomes pa o.size cls false⟩
  | some v =>
    let s1 := quiet (s.homeWrite pa (bytesOf o.size v))
    let y : Rel := if o.op != 15 then x else .none
    let z : Rel := match rel with | some k => y.join (.at_ c.die k) | none => y
    ⟨m, x, ((syncWords pa o.size).foldl (fun s w => s.setSync w z) s1).useHomes pa o.size cls true⟩

/-- The acquire after reading from releases (R177 to R179). (DEDUCED, log entry 24) -/
def State.acquire (s : State) (c : Cache) (x : Rel) : State :=
  (if x.other c.die then s.crossAcquire c.die x.clk else s).dropCopies c

end Sys2Proof.Machine
end

