-- ==== Sys2Proof/Machine/Reach.lean ====
section
/-! DEFINITION. Readiness, and what a physical access meets beside its bytes (spec 01 R12, R13, R20, R22, R28, R30). -/

namespace Sys2Proof.Machine

/-! Readiness (R20, R22). -/

/-- Bit i of READYF. -/
def State.readyBit (s : State) (i : Nat) : Bool := s.pkg.readyF.getLsbD i

/-- Bits of READYF by function and die. -/
def bitMgmt : Nat := 0
def bitFw : Nat := 1
def bitD2d : Nat := 2
def bitHbm (d : Die) (k : Nat) : Nat := 3 + 4 * d.num + k
def bitTier2 (d : Die) : Nat := 11 + d.num
def bitL2 (d : Die) : Nat := 13 + d.num
def bitGc (d : Die) : Nat := 15 + d.num
def bitCopy (d : Die) : Nat := 17 + d.num
def bitColl (d : Die) : Nat := 19 + d.num
def bitSamp (d : Die) : Nat := 21 + d.num
def bitBfq (d : Die) : Nat := 23 + d.num
def bitCat (d : Die) : Nat := 25 + d.num
def bitCarrel (d : Die) : Nat := 27 + d.num
def bitPort (p : Nat) : Nat := 48 + p

/-- The unit that a device fault of an address names (R30). -/
def memUnit (pa : Nat) : BitVec 8 :=
  match homeOf pa with
  | .hbm _ => BitVec.ofNat 8 (0x96 + Nat.xor (bits pa 12 2) (bits pa 20 2))
  | _ => 0x9A

/-- The unit of an agent's core. -/
def coreUnit (c : Cache) : BitVec 8 :=
  match c with
  | .core _ n => BitVec.ofNat 8 n
  | .carrel _ _ => 0x9B
  | .far _ | .l2 _ => 0x95
  | .cat _ => 0x94

/-! Units across the link that may be absent (R22). -/

inductive UnitState where
  | ready
  | clear
  | failed
  deriving DecidableEq, Repr

/-- A function's unit on a die: its READYF bit, and whether its self-test failed. -/
def State.unitState (s : State) (d : Die) (u : BitVec 8) (b : Nat) : UnitState :=
  if s.readyBit b then .ready else if s.pkg.failed.contains (d, u) then .failed else .clear

/-- The units that a request of a die's agent needs to reach memory of the other die: the link, the other die's L2 and the memory. (DEDUCED, log entry 23) -/
def crossUnits (d : Die) (pa : Nat) : List (Die × BitVec 8 × Nat) :=
  let h := homeDie pa
  if h = d then []
  else
    match homeOf pa with
    | .hbm _ =>
      let k := Nat.xor (bits pa 12 2) (bits pa 20 2)
      [(.a, 0x9C, bitD2d), (h, 0x95, bitL2 h), (h, BitVec.ofNat 8 (0x96 + k), bitHbm h k)]
    | .tier2 _ => [(.a, 0x9C, bitD2d), (h, 0x95, bitL2 h), (h, 0x9A, bitTier2 h)]
    | .window => [(.a, 0x9C, bitD2d)]
    | .nothing => []

/-- Whether such a request goes through, waits, or meets a unit that has failed, with that unit. (DEDUCED, log entry 23) -/
def State.cross (s : State) (d : Die) (pa : Nat) : UnitState × Die × BitVec 8 :=
  let us := (crossUnits d pa).map fun x => (s.unitState x.1 x.2.1 x.2.2, x.1, x.2.1)
  match us.find? fun x => x.1 = .failed with
  | some x => x
  | none => match us.find? fun x => x.1 = .clear with | some x => x | none => (.ready, d, 0xFF)

/-! What an access meets. -/

/-- What a physical access meets beside its bytes: nothing; an address that holds no memory (R12); a poisoned line (R13); a unit across the link whose bit is
clear, for which it waits, or that has failed (R22). -/
inductive PhysFault where
  | none
  | noMemory
  | poisoned
  | clear
  | failed (d : Die) (u : BitVec 8)
  deriving DecidableEq, Repr

/-- Whether a poisoned line holds one of n bytes at an address. -/
def State.isPoisoned (s : State) (pa n : Nat) : Bool := s.poison.any fun l => l < pa + n && pa < l + 128

/-- What an access of die d to n bytes at an address meets. A read that the given cache or its die's far cache serves goes to no home. -/
def State.meets (s : State) (d : Die) (c : Option Cache) (pa n : Nat) (rd : Bool) : PhysFault :=
  let held := rd && match c with | some c => s.holds? c pa n || s.holds? (.far d) pa n | none => false
  if homeOf pa = .nothing then .noMemory
  else if held then .none
  else
    match s.cross d pa with
    | (.clear, _, _) => .clear
    | (.failed, h, u) => .failed h u
    | (.ready, _, _) => if rd && s.isPoisoned pa n then .poisoned else .none

end Sys2Proof.Machine
end

