-- ==== Sys2Proof/Machine/Xlate.lean ====
section
/-! DEFINITION. Address translation (spec 06 R124 to R131): the walk, extent tables, and how an access is classified. -/

namespace Sys2Proof.Machine

/-! Contexts. -/

/-- The context of a number, unless it is free. -/
def State.ctx? (s : State) (n : Nat) : Option Ctx := s.ctxs.find? fun c => c.num = n

/-- Changes a context. -/
def State.modCtx (s : State) (n : Nat) (f : Ctx → Ctx) : State :=
  { s with ctxs := s.ctxs.map fun c => if c.num = n then f c else c }

/-- The 64-bit value at a physical address, as an acquire at its home. -/
def State.dword (s : State) (pa : Nat) : Nat := natOf (s.homeRead pa 8)

/-! The walk (R125, R126). -/

/-- What a walk finds, with the bytes of the region the entry stands for; dev where the read of an entry meets what R12, R13 or R22 says. -/
inductive Walk where
  | leaf (pa size : Nat) (rd wr ex : Bool) (cls : Nat)
  | pend (size : Nat)
  | bad (size : Nat)
  | dev (f : PhysFault) (pa : Nat)
  deriving DecidableEq, Repr

/-- Bytes of the region. -/
def Walk.size : Walk → Nat
  | .leaf _ n _ _ _ _ => n
  | .pend n => n
  | .bad n => n
  | .dev _ _ => 65536

/-- The shift and width of each level's index (R125). -/
def walkLevels : List (Nat × Nat) := [(39, 17), (30, 9), (21, 9), (16, 5)]

/-- What an entry e of a table makes of a walk, go where it names a next table. last says that no level follows, align what the next table's address is
a multiple of. -/
def entryWalk (e sh : Nat) (top last : Bool) (align : Nat) (go : Nat → Walk) : Walk :=
  let addr := bits e 8 48 * 256
  if !bit e 0 then (if bit e 2 then .pend (2 ^ sh) else .bad (2 ^ sh))
  else if bits e 56 8 ≠ 0 then .bad (2 ^ sh)
  else if bit e 1 then
    if top || addr % 2 ^ sh ≠ 0 then .bad (2 ^ sh)
    else .leaf addr (2 ^ sh) (bit e 3) (bit e 4) (bit e 5) (bits e 6 2)
  else if last || addr % align ≠ 0 then .bad (2 ^ sh)
  else go addr

/-- Walks from a table on for a unit of die d. top says that the table is the level-0 table, where no entry is a leaf. -/
def walkGo (s : State) (d : Die) (va : Nat) (top : Bool) (tbl : Nat) : List (Nat × Nat) → Walk
  | [] => .bad 65536
  | (sh, w) :: rest =>
    let at_ := tbl + 8 * bits va sh w
    match s.meets d none at_ 8 true with
    | .none => entryWalk (s.dword at_) sh top rest.isEmpty (8 * 2 ^ (rest.headD (0, 0)).2) fun next => walkGo s d va false next rest
    | f => .dev f at_

/-- The walk of a virtual address of a context; no leaf maps an address at or above 2^56 (R129). -/
def State.walk (s : State) (d : Die) (c : Ctx) (va : Nat) : Walk :=
  if 2 ^ 56 ≤ va then .bad 65536 else walkGo s d va true c.l0 walkLevels

/-- The entries that a walk reads. -/
def walkPath (s : State) (va tbl : Nat) : List (Nat × Nat) → List Nat
  | [] => []
  | (sh, w) :: rest =>
    let at_ := tbl + 8 * bits va sh w
    let e := s.dword at_
    at_ :: (if bit e 0 && !bit e 1 then walkPath s va (bits e 8 48 * 256) rest else [])

/-- The lines that a walk reads are used at their homes (R140, R156). No leaf translates these reads: they take class 3 (DESIGN CHOICE, log entry 41). -/
def State.noteWalk (s : State) (c : Ctx) (va : Nat) : State :=
  (walkPath s va c.l0 walkLevels).foldl (fun a pa => a.useHome (pa / 128 * 128) 3 false false) s

/-! The device's own reads and writes through a context's tables. -/

/-- The outcome of an access made of several pages: done, or the first byte whose page is absent, or has no fitting leaf, or what an address on the
way meets. -/
inductive VRes (α : Type) where
  | ok (v : α)
  | absent (va : Nat)
  | bad (va : Nat)
  | dev (f : PhysFault) (pa : Nat)
  deriving DecidableEq, Repr

/-- The physical parts of n bytes that a leaf permits to read, or to write, page by page. -/
def vpartsGo (s : State) (d : Die) (c : Ctx) (wr : Bool) : Nat → Nat → Nat → List (Nat × Nat) → VRes (List (Nat × Nat))
  | 0, _, _, acc => .ok acc
  | fuel + 1, va, n, acc =>
    if n = 0 then .ok acc
    else
      let m := min n (65536 - va % 65536)
      match s.walk d c va with
      | .leaf pa size rd wl _ _ =>
        if wr && !wl || !wr && !rd then .bad va
        else
          match s.meets d none (pa + va % size) m (!wr) with
          | .none => vpartsGo s d c wr fuel (va + m) (n - m) (acc ++ [(pa + va % size, m)])
          | f => .dev f (pa + va % size)
      | .pend _ => .absent va
      | .bad _ => .bad va
      | .dev f pa => .dev f pa

/-- Reads n bytes through a context's tables for a unit of die d. -/
def State.vread (s : State) (d : Die) (c : Ctx) (va n : Nat) : VRes (List Byte) :=
  match vpartsGo s d c false (n / 65536 + 2) va n [] with
  | .ok ps => .ok (ps.flatMap fun p => s.homeRead p.1 p.2)
  | .absent a => .absent a
  | .bad a => .bad a
  | .dev f pa => .dev f pa

/-- A write of the device for its own purposes: the bytes, and the lines that the home point uses, of class 3 (R156). -/
def State.ownWrite (s : State) (pa : Nat) (bs : List Byte) : State := (s.useHomes pa bs.length 3 true).homeWrite pa bs

/-- Writes bytes to physical parts in turn. -/
def writeParts (s : State) : List (Nat × Nat) → List Byte → State
  | [], _ => s
  | (pa, n) :: r, bs => writeParts (s.ownWrite pa (bs.take n)) r (bs.drop n)

/-- Writes bytes page by page, all or none. -/
def State.vwrite (s : State) (d : Die) (c : Ctx) (va : Nat) (bs : List Byte) : VRes State :=
  match vpartsGo s d c true (bs.length / 65536 + 2) va bs.length [] with
  | .ok ps => .ok (writeParts s ps bs)
  | .absent a => .absent a
  | .bad a => .bad a
  | .dev f pa => .dev f pa

/-! Extent tables (R129). -/

/-- What R129's table makes of a walk, given the extent's permissions. -/
def recordOf (rd wr : Bool) (w : Walk) : PageRec :=
  match w with
  | .leaf pa _ r wl _ cls => if (rd && !r) || (wr && !wl) then .fatal else .mapped pa cls
  | .pend _ => .absent
  | .bad _ | .dev _ _ => .fatal

/-- Whether a leaf lacks a permission, which fails the node whatever ABSENTOK says. -/
def lacksPerm (rd wr : Bool) (w : Walk) : Bool :=
  match w with
  | .leaf _ _ r wl _ _ => (rd && !r) || (wr && !wl)
  | _ => false

/-- What a dispatch walk gathers: the runs, and whether some page is absent, fatal or lacks permission; what the read of an
entry meets ends it. -/
structure Walked where
  runs : List PageRun
  absent : List Nat
  fatal : Bool
  denied : Bool
  dev : Option (PhysFault × Nat)
  deriving DecidableEq, Repr

/-- Walks the pages from lo up to hi, one region at a time. -/
def walkRange (s : State) (d : Die) (c : Ctx) (rd wr : Bool) : Nat → Nat → Nat → Walked → Walked
  | 0, _, _, acc => acc
  | fuel + 1, lo, hi, acc =>
    if hi ≤ lo || acc.dev.isSome then acc
    else
      match s.walk d c lo with
      | .dev f pa => { acc with dev := some (f, pa) }
      | w =>
        let stop := min hi ((lo / w.size + 1) * w.size)
        let r : PageRec :=
          match recordOf rd wr w with
          | .mapped pa cls => .mapped (pa + lo % w.size) cls
          | x => x
        walkRange s d c rd wr fuel stop hi
          { runs := acc.runs ++ [⟨lo, stop, r⟩]
            absent := if r = .absent then acc.absent ++ [lo] else acc.absent
            fatal := acc.fatal || r = .fatal
            denied := acc.denied || lacksPerm rd wr w
            dev := acc.dev }

/-- Walks the pages that the rows of a tile cover, none where a row has no byte; a page already walked is left out. -/
def walkRows (s : State) (d : Die) (c : Ctx) (e : Extent) : Nat → Nat → Walked → Walked
  | 0, _, acc => acc
  | n + 1, row, acc =>
    if e.len = 0 then acc
    else
      let lo := e.base + row * e.pitch
      let done := acc.runs.foldl (fun m r => max m r.hi) 0
      let lo' := max (lo / 65536 * 65536) done
      let hi := (lo + e.len + 65535) / 65536 * 65536
      walkRows s d c e n (row + 1) (walkRange s d c e.rd e.wr (hi - lo' + 1) lo' hi acc)

/-- An extent descriptor (R64) with its base, before its pages. -/
def extentOf (d : BitVec 256) (base : Nat) (walked : Bool) : Extent :=
  let v := d.toNat
  let tile := bit v 13
  { walked := walked
    rd := bit v 14
    wr := bit v 15
    base := base + bits v 64 64
    rows := if tile then bits v 128 32 else 1
    len := if tile then bits v 160 32 else bits v 128 64
    pitch := if tile then bits v 192 64 else 0
    pages := [] }

/-- Bytes an extent covers (R129; R65 for a copy node). -/
def Extent.bytes (e : Extent) : Nat := e.rows * e.len

/-- How many bytes from va on an extent covers without a gap. -/
def Extent.reach (e : Extent) (va : Nat) : Nat :=
  if va < e.base then 0
  else
    let o := va - e.base
    if e.rows ≤ 1 || e.pitch = e.len then (if o < e.rows * e.len then e.rows * e.len - o else 0)
    else
      let k := o / e.pitch
      if k < e.rows && o % e.pitch < e.len then e.len - o % e.pitch else 0

/-- The first address above va at which the extent begins to cover again. -/
def Extent.nextStart (e : Extent) (va : Nat) : Option Nat :=
  if va < e.base then some e.base
  else if e.rows ≤ 1 || e.pitch = e.len then none
  else
    let k := (va - e.base) / e.pitch + 1
    if k < e.rows then some (e.base + k * e.pitch) else none

/-- The record of the page of an address. -/
def Extent.page (e : Extent) (va : Nat) : PageRec :=
  match e.pages.find? fun r => r.lo ≤ va && va < r.hi with
  | some r =>
    match r.page with
    | .mapped pa cls => .mapped (pa + (va - r.lo)) cls
    | x => x
  | none => .fatal

/-- Settles one page of an extent table, after a re-walk (R134). -/
def Extent.settle (e : Extent) (lo hi : Nat) (p : PageRec) : Extent :=
  let cut (r : PageRun) : List PageRun :=
    if r.hi ≤ lo || hi ≤ r.lo || r.page != .absent then [r]
    else
      let a := max r.lo lo
      let b := min r.hi hi
      let mid : PageRec := match p with | .mapped pa cls => .mapped (pa + (a - lo)) cls | x => x
      (if r.lo < a then [⟨r.lo, a, r.page⟩] else []) ++ [⟨a, b, mid⟩] ++ (if b < r.hi then [⟨b, r.hi, r.page⟩] else [])
  { e with pages := e.pages.flatMap cut }

/-! Replays and nodes. -/

/-- A running replay. -/
def State.replay? (s : State) (ctx : Nat) (seq : Word) : Option Replay := s.replays.find? fun r => r.ctx = ctx && r.seq = seq

/-- A node of a running replay. -/
def State.node? (s : State) (n : NodeRef) : Option RNode :=
  (s.replay? n.ctx n.seq).bind fun r => r.nodes[n.node]?

def State.modReplay (s : State) (ctx : Nat) (seq : Word) (f : Replay → Replay) : State :=
  { s with replays := s.replays.map fun r => if r.ctx = ctx && r.seq = seq then f r else r }

def State.modNode (s : State) (n : NodeRef) (f : RNode → RNode) : State :=
  s.modReplay n.ctx n.seq fun r => { r with nodes := r.nodes.modify n.node f }

/-! Classification (R130). -/

/-- What an access needs (R130). -/
structure Need where
  rd : Bool
  wr : Bool
  deriving DecidableEq, Repr

def Need.load : Need := ⟨true, false⟩
def Need.store : Need := ⟨false, true⟩
def Need.both : Need := ⟨true, true⟩

/-- How an access to global memory comes out before locks: the physical address and class, an absent page, a fatal one, or a trap
with cause and subcode, or what an entry that the walk reads meets. -/
inductive Acc where
  | pa (pa cls : Nat)
  | absent
  | fatal
  | trap (cause sub : Nat)
  | dev (f : PhysFault) (pa : Nat)
  deriving DecidableEq, Repr

/-- A write to an object that the context keeps from writes: graph objects, code objects, the catalogue table (R65, R90, R144). A parameter block, which
changes only through patches, is kept as the rest of its object (DEDUCED, log entry 42). -/
def Ctx.protects (c : Ctx) (va n : Nat) : Bool :=
  let hits (lo len : Nat) : Bool := va < lo + len && lo < va + n
  (c.graphs.any fun g => hits g.va g.len) ||
  (c.codes.any fun o => hits o.va o.len) ||
  (c.catLog2 ≠ 0 && hits c.catBase (64 * 2 ^ c.catLog2))

/-- What the page tables alone make of an access. -/
def walkAccess (s : State) (d : Die) (c : Ctx) (va : Nat) (need : Need) : Acc :=
  match s.walk d c va with
  | .leaf pa size rd wr _ cls =>
    if (need.rd && !rd) || (need.wr && !wr) then .trap 0x08 0 else .pa (pa + va % size) cls
  | .pend _ => .absent
  | .bad _ => .fatal
  | .dev f pa => .dev f pa

/-- Rules 2 to 4 of R130 for an access that the extents given classify. -/
def classify (s : State) (d : Die) (c : Ctx) (exts : List Extent) (va n : Nat) (need : Need) : Acc :=
  if 2 ^ 56 < va + n || n = 0 then .trap 0x05 0
  else
    match exts.find? fun e => !e.walked && n ≤ e.reach va with
    | some e =>
      if (need.rd && !e.rd) || (need.wr && !e.wr) then .trap 0x08 0
      else
        match e.page va with
        | .mapped pa cls => .pa pa cls
        | .absent => .absent
        | .fatal => .fatal
    | none =>
      match exts.find? fun e => e.walked && n ≤ e.reach va with
      | some e =>
        if (need.rd && !e.rd) || (need.wr && !e.wr) then .trap 0x08 0 else walkAccess s d c va need
      | none => .trap 0x05 0

/-- Bytes of the context save area (R244). -/
def Ctx.saves (c : Ctx) (va n : Nat) : Bool := c.save ≤ va && va + n ≤ c.save + 0x10000 + 64 * 0x4000000

/-- One access of a node's code: the extents, for a handler the save area as a walked extent (R244), then the context's protected
objects. -/
def State.access (s : State) (d : Die) (node : NodeRef) (handler : Bool) (va n : Nat) (need : Need) : Acc :=
  match s.ctx? node.ctx with
  | none => .trap 0x05 0
  | some c =>
    let exts := match s.node? node with | some r => r.exts | none => []
    let r :=
      match classify s d c exts va n need with
      | .trap 0x05 b => if handler && va + n ≤ 2 ^ 56 && c.saves va n then walkAccess s d c va need else .trap 0x05 b
      | x => x
    match r with
    | .trap a b => .trap a b
    | .dev f pa => .dev f pa
    | r => if need.wr && c.protects va n then .trap 0x08 1 else r

/-! Ranges of engine commands (R130: every byte is checked). -/

/-- A part of a range within one page and under one extent. -/
structure Seg where
  va : Nat
  len : Nat
  acc : Acc
  deriving DecidableEq, Repr

/-- Bytes from va on, at most n, that one extent governs and one 64 KiB page holds. -/
def segLen (exts : List Extent) (va n : Nat) : Nat :=
  let page := min n (65536 - va % 65536)
  let cuts := exts.filterMap fun e => e.nextStart va
  let upto := cuts.foldl (fun m x => if va < x then min m (x - va) else m) page
  match exts.find? fun e => !e.walked && 0 < e.reach va with
  | some e => max 1 (min upto (e.reach va))
  | none =>
    match exts.find? fun e => e.walked && 0 < e.reach va with
    | some e => max 1 (min upto (e.reach va))
    | none => max 1 upto

/-- The parts of a range. -/
def segsGo (s : State) (d : Die) (node : NodeRef) (handler : Bool) (exts : List Extent) (need : Need) : Nat → Nat → Nat → List Seg
  | 0, _, _ => []
  | fuel + 1, va, n =>
    if n = 0 then []
    else
      let m := segLen exts va n
      ⟨va, m, s.access d node handler va m need⟩ :: segsGo s d node handler exts need fuel (va + m) (n - m)

def State.segs (s : State) (d : Die) (node : NodeRef) (handler : Bool) (va n : Nat) (need : Need) : List Seg :=
  let exts := match s.node? node with | some r => r.exts | none => []
  segsGo s d node handler exts need (n + 1) va n

/-! Code (R128). -/

/-- What fetching the word at a byte address finds: the word, the trap's cause, or what an address on the way meets. -/
inductive Fetched where
  | word (w : Word) (s : State)
  | trap (cause : Nat)
  | dev (f : PhysFault) (pa : Nat)

/-- Reads one code word at a physical address for a unit of die d. -/
def State.codeWord (s : State) (d : Die) (pa : Nat) (s' : State) : Fetched :=
  match s.meets d none pa 4 true with
  | .none => .word (BitVec.ofNat 32 (natOf (s.homeRead pa 4))) s'
  | f => .dev f pa

/-- Fetches one code word of a context for a unit of die d, walking the tables at the first fetch from a page. -/
def State.fetchWord (s : State) (d : Die) (c : Ctx) (wa : Nat) : Fetched :=
  let va := 4 * wa
  let page := va / 65536
  match c.codePages.find? fun p => p.1 = page with
  | some p => s.codeWord d (p.2 + va % 65536) s
  | none =>
    match s.walk d c va with
    | .leaf pa size _ _ true _ =>
      let base := pa + va % size / 65536 * 65536
      s.codeWord d (base + va % 65536) (s.modCtx c.num fun x => { x with codePages := x.codePages ++ [(page, base)] })
    | .leaf _ _ _ _ false _ => .trap 0x08
    | .dev f pa => .dev f pa
    | _ => .trap 0x07

end Sys2Proof.Machine
end

