-- ==== Sys2Proof/Machine/XLane.lean ====
section
/-! DEFINITION. Cross-lane exchange (spec 10 R231, 12 R258, R259, 21 R399 to R405): who is absent, when a wait completes, and the result of
each form for a member. -/

namespace Sys2Proof.Machine

/-- One gang position of a completed wait: none when absent or not named, else the operand words it brought. -/
abbrev Member := Option (List (List Word))

/-- Word i of operand k of a member. -/
def memberWord (m : List (List Word)) (k i : Nat) : Word := (m.getD k []).getD i 0

/-- The first operand of every present member, by position. -/
def presentVals (ms : List Member) : List Word := ms.filterMap fun m => m.map fun x => memberWord x 0 0

/-- The quieted F32 NaN of the lowest position that holds one. -/
def lowestNan (xs : List Word) : Option Word :=
  match firstNan (xs.map f32v) with
  | some (.nan s f) => some (BitVec.ofNat 32 (FTy.f32.nanCode s f))
  | _ => none

def addF32 (a b : Word) : Word := BitVec.ofNat 32 (rne .f32 (Val.add false (f32v a) (f32v b)))

/-- The binary tree of R258, one level at a time: neighbours add pairwise. -/
def treeLevel : List Word → List Word
  | a :: b :: r => addF32 a b :: treeLevel r
  | l => l

def treeSum : Nat → List Word → Word
  | 0, l => l.headD 0x80000000
  | n + 1, l => if l.length ≤ 1 then l.headD 0x80000000 else treeSum n (treeLevel l)

/-- RED.X32 over the contributions (R259). -/
def exactSum (xs : List Word) : Word :=
  match lowestNan xs with
  | some n => n
  | none =>
    let vs := xs.map f32v
    if vs.any (fun v => v = .inf false) && vs.any (fun v => v = .inf true) then 0x7FC00000
    else if vs.any (fun v => v = .inf false) then 0x7F800000
    else if vs.any (fun v => v = .inf true) then 0xFF800000
    else
      match vs.filterMap fun v => match v with | .num x => some x | _ => none with
      | [] => 0x80000000
      | x :: r => BitVec.ofNat 32 (rne .f32 (.num (r.foldl (fun a y => a.add y false) x)))

/-- The lesser or greater of two F32 words that are not NaN, −0 below +0. -/
def pickF32 (greater : Bool) (a b : Word) : Word := if Val.lt true (f32v a) (f32v b) = greater then b else a

/-- One step of the reductions that fold: OP 0 to 7, 10 and 11 (R403). -/
def redStep (op : Nat) (a b : Word) : Word :=
  match op with
  | 0 => a + b
  | 1 => a &&& b
  | 2 => a ||| b
  | 3 => a ^^^ b
  | 4 => if a.toInt ≤ b.toInt then a else b
  | 5 => if a.toInt ≤ b.toInt then b else a
  | 6 => if a.toNat ≤ b.toNat then a else b
  | 7 => if a.toNat ≤ b.toNat then b else a
  | 10 => pickF32 false a b
  | _ => pickF32 true a b

/-- The identities of R403. -/
def redIdentity (op : Nat) : Word :=
  match op with
  | 1 => 0xFFFFFFFF | 4 => 0x7FFFFFFF | 5 => 0x80000000 | 6 => 0xFFFFFFFF | 8 => 0x80000000 | 9 => 0x80000000
  | 10 => 0x7F800000 | 11 => 0xFF800000 | _ => 0

/-- A fold of the present values, the NaN of the lowest position first for the floating orders. -/
def redFold (op : Nat) (xs : List Word) : Word :=
  match op = 10 || op = 11, lowestNan xs with
  | true, some n => n
  | _, _ => xs.foldl (redStep op) (redIdentity op)

/-- RED (R403). -/
def redOf (op : Nat) (ms : List Member) : Word :=
  let xs := presentVals ms
  match op with
  | 8 =>
    match lowestNan xs with
    | some n => n
    | none => treeSum 8 (ms.map fun m => match m with | some x => memberWord x 0 0 | none => 0x80000000)
  | 9 => exactSum xs
  | _ => redFold op xs

/-- SCAN over the values of a prefix (R404). -/
def scanOf (op : Nat) (xs : List Word) : Word :=
  match op with
  | 8 => xs.foldl addF32 0x80000000
  | 9 => exactSum xs
  | _ => redFold op xs

/-- A mask of the positions that a test admits. -/
def maskWhere (n : Nat) (f : Nat → Bool) : Nat := (List.range n).foldl (fun m i => if f i then m + 2 ^ i else m) 0

/-- How a result stands in the destination: with ST, the result in two words and the absent mask (R400). -/
def xWords (st wide : Bool) (res absent : Nat) : List Word :=
  let lo := BitVec.ofNat 32 res
  let hi := BitVec.ofNat 32 (res / 2 ^ 32)
  if st then [lo, hi, BitVec.ofNat 32 absent, BitVec.ofNat 32 (absent / 2 ^ 32)] else if wide then [lo, hi] else [lo]

/-- The value a of a member: one word, or two under W64. -/
def memberA (m : List (List Word)) (w64 : Bool) : Nat :=
  (memberWord m 0 0).toNat + (if w64 then (memberWord m 0 1).toNat * 2 ^ 32 else 0)

/-- The source position of SHFL (R401). -/
def shflSrc (smode p b : Nat) : Option Nat :=
  match smode with
  | 0 => some b
  | 1 => if b ≤ p then some (p - b) else none
  | 2 => some (p + b)
  | _ => some (Nat.xor p b)

/-- The result words of a form for the member at position p. ms holds every position of the gang; mask names the members; absent the
named ones that are absent. -/
def xResult (i : Instr) (ms : List Member) (p mask absent : Nat) : List Word :=
  let own := ((ms.getD p none)).getD []
  let read (w64 : Bool) (q : Option Nat) (other : Nat) : Nat :=
    match q with
    | some q => if q < ms.length && bit mask q then (match ms.getD q none with | some m => memberA m w64 | none => 0) else other
    | none => other
  match i with
  | .shfl f =>
    let m := f.mode.toNat
    let w64 := bit m 5
    xWords (bit m 6) w64 (read w64 (shflSrc (m % 4) p (memberWord own 1 0).toNat) (memberA own w64)) absent
  | .bcast f =>
    let m := f.mode.toNat
    let w64 := bit m 5
    xWords (bit m 6) w64 (read w64 (some (memberWord own 1 0).toNat) 0) absent
  | .vote f =>
    let xs := presentVals ms
    let res :=
      match f.mode.toNat % 4 with
      | 0 => b2n (xs.any fun x => x != 0)
      | 1 => b2n (xs.all fun x => x != 0)
      | _ => maskWhere ms.length fun j => match ms.getD j none with | some m => memberWord m 0 0 != 0 | none => false
    xWords (bit f.mode.toNat 6) true res absent
  | .matchOp f =>
    let w64 := bit f.mode.toNat 5
    let res := maskWhere ms.length fun j => match ms.getD j none with | some m => memberA m w64 = memberA own w64 | none => false
    xWords (bit f.mode.toNat 6) true res absent
  | .red f => xWords (bit f.mode.toNat 6) false (redOf (f.mode.toNat % 16) ms).toNat absent
  | .scan f =>
    let n := if bit f.mode.toNat 4 then p + 1 else p
    xWords (bit f.mode.toNat 6) false (scanOf (f.mode.toNat % 16) (presentVals (ms.take n))).toNat absent
  | .elect f =>
    let low := (List.range ms.length).find? fun j => (ms.getD j none).isSome
    let l := low.getD 0
    xWords (bit f.mode.toNat 6) false (b2n (l = p) + 256 * l) absent
  | .swz _ =>
    let j := (memberWord own 1 0).toNat / 2 ^ (2 * (p % 4)) % 4
    [match ms.getD (p / 4 * 4 + j) none with | some m => memberWord m 0 0 | none => 0]
  | _ => []

/-! Waits (R399, R231). -/

/-- Position i of the gang of thread t holds no thread, or one that has ended. -/
def Block.absentAt (b : Block) (t g i : Nat) : Bool :=
  match b.threads[t / g * g + i]? with
  | some th => th.status = .ended
  | none => true

/-- The arrival of position i at the wait of an arrival x under grant g. -/
def Block.arrivedAt (b : Block) (t g i : Nat) (x : XArrival) : Option XArrival :=
  match b.threads[t / g * g + i]? with
  | some th =>
    match th.arrival with
    | some y => if th.status = .wait (.xlane none) && th.g.toNat = g && y.pc = x.pc && y.mask = x.mask then some y else none
    | none => none
  | none => none

/-- Completes the wait that thread t stands in, when every named member is absent or has arrived. -/
def Block.completeWait (b : Block) (t : Nat) : Block :=
  match b.threads[t]? with
  | none => b
  | some th =>
    match th.arrival with
    | none => b
    | some x =>
      let g := if th.g = 0 then 1 else th.g.toNat
      if th.status != .wait (.xlane none) then b
      else
        let named := (List.range g).filter fun i => x.mask.getLsbD i
        if named.all fun i => b.absentAt t g i || (b.arrivedAt t g i x).isSome then
          let ms : List Member := (List.range g).map fun i =>
            if x.mask.getLsbD i then (b.arrivedAt t g i x).map fun y => y.vals else none
          let absent := maskWhere g fun i => x.mask.getLsbD i && b.absentAt t g i
          { b with threads := b.threads.mapIdx fun u tu =>
              if u / g = t / g && x.mask.getLsbD (u % g) && (b.arrivedAt t g (u % g) x).isSome then
                { tu with status := .wait (.xlane (some (xResult x.instr ms (u % g) x.mask.toNat absent))), arrival := none }
              else tu }
        else b

/-- Completes every wait that an ended thread kept open. -/
def Block.completeWaits (b : Block) : Block := (List.range b.threads.length).foldl (fun b t => b.completeWait t) b

/-- The waiters of a gang that conflict with an arrival (R399). -/
def Block.conflicts (b : Block) (t g : Nat) (pc : CodeAddr) (mask : Dword) : List Nat :=
  (List.range g).filterMap fun i =>
    let u := t / g * g + i
    match b.threads[u]? with
    | some th =>
      match th.arrival with
      | some y =>
        if u ≠ t && th.status = .wait (.xlane none) && th.g.toNat = g && y.pc = pc && y.mask != mask &&
          (mask.getLsbD i || y.mask.getLsbD (t % g)) then some u else none
      | none => none
    | none => none

end Sys2Proof.Machine
end

