-- ==== Sys2Proof/Machine/Ops.lean ====
section
/-! DEFINITION. The named operations over blocks, threads, registers, events, locks and faults, taking an exception and returning
from one (spec 01 R28 to R30, 03 R75, 09 R189 to R213, 10 R217 to R231, 11 R233 to R246). -/

namespace Sys2Proof.Machine

/-! Cycles of a die (R5, R465). -/

def State.cycle (s : State) (d : Die) : Nat := match d with | .a => s.cycA.toNat | .b => s.cycB.toNat

/-- A fresh number for an access, operation, block or record. -/
def State.fresh (s : State) : Nat × State := (s.nextId, { s with nextId := s.nextId + 1 })

/-! Events to the host (R74, R75). -/

def Evt.size (e : Evt) : Nat := bits e.cfg.toNat 0 5

/-- Whether the buffer takes a record now. While SIZE is outside 6 to 20 it takes none: events stay on chip as they do with EN clear (DESIGN CHOICE, log entry 44). -/
def Evt.room (e : Evt) : Bool := bit e.cfg.toNat 8 && 6 ≤ e.size && e.size ≤ 20 && (e.tail - e.head).toNat != 2 ^ e.size

/-- Writes one record to the host's buffer. -/
def State.writeEvent (s : State) (r : EvRec) : State :=
  { s with
    out := s.out ++ [.event (32 * (s.evt.tail.toNat % 2 ^ s.evt.size)) r]
    evt := { s.evt with tail := s.evt.tail + 1 } }

/-- Writes held records, in ESEQ order, while there is room. -/
def drainGo : Nat → State → State
  | 0, s => s
  | n + 1, s =>
    match s.evt.held with
    | [] => s
    | r :: rest => if s.evt.room then drainGo n ({ s with evt := { s.evt with held := rest } }.writeEvent r) else s

def State.drainEvents (s : State) : State := drainGo s.evt.held.length s

/-- Posts an event raised on a die: written, held, or dropped and counted (R75). -/
def State.post (s : State) (d : Die) (type status : BitVec 8) (ctx : Nat) (a0 a1 a2 : Dword) : State :=
  let r : EvRec := ⟨d, type, status, BitVec.ofNat 16 ctx, s.evt.eseq, a0, a1, a2⟩
  let next : Word := if s.evt.eseq = 0xFFFFFFFF then 1 else s.evt.eseq + 1
  if s.evt.held.isEmpty && s.evt.room then ({ s with evt := { s.evt with eseq := next } }).writeEvent r
  else if (s.evt.held.filter fun x => x.die = d).length < 256 then
    { s with evt := { s.evt with eseq := next, held := s.evt.held ++ [r] } }
  else { s with evt := { s.evt with lost := if s.evt.lost = 0xFFFFFFFFFFFFFFFF then s.evt.lost else s.evt.lost + 1 } }

/-! Blocks, shares, threads, lead contexts. -/

def State.block? (s : State) (id : Nat) : Option Block := s.blocks.find? fun b => b.id = id

def State.modBlock (s : State) (id : Nat) (f : Block → Block) : State :=
  { s with blocks := s.blocks.map fun b => if b.id = id then f b else b }

def State.thread? (s : State) (r : ThreadRef) : Option Thread := (s.block? r.block).bind fun b => b.threads[r.t]?

def Block.modThread (b : Block) (t : Nat) (f : Thread → Thread) : Block := { b with threads := b.threads.modify t f }

def State.modThread (s : State) (r : ThreadRef) (f : Thread → Thread) : State := s.modBlock r.block fun b => b.modThread r.t f

def Block.modShare (b : Block) (j : Nat) (f : Share → Share) : Block := { b with shares := b.shares.modify j f }

def State.modShare (s : State) (id j : Nat) (f : Share → Share) : State := s.modBlock id fun b => b.modShare j f

def State.share? (s : State) (id j : Nat) : Option Share := (s.block? id).bind fun b => b.shares[j]?

def State.lead? (s : State) (r : LeadRef) : Option Lead := (s.share? r.block r.j).map fun x => x.lead

def State.modLead (s : State) (r : LeadRef) (f : Lead → Lead) : State :=
  s.modShare r.block r.j fun x => { x with lead := f x.lead }

/-- What happened before an agent's next access: its own stores among it (R170). -/
def State.knows (s : State) (a : Agent) : Clock :=
  (match a with
    | .lane r => match s.thread? r with | some th => th.know | none => []
    | .lead r => match s.lead? r with | some l => l.know | none => []).add (a, s.nextId)

/-- An agent has read from what a clock covers (R170). -/
def State.learn (s : State) (a : Agent) (k : Clock) : State :=
  match a with
  | .lane r => s.modThread r fun th => { th with know := th.know.join k }
  | .lead r => s.modLead r fun l => { l with know := l.know.join k }

/-- The node a block runs for. -/
def Block.nodeRef (b : Block) : NodeRef := ⟨b.ctx, b.seq, b.node⟩

/-- The core-in-block index of a thread (R109). -/
def Block.home (b : Block) (t : Nat) : Nat := if b.m = 0 then 0 else t / b.m

/-- Threads of a block on one of its cores, by level-0 index (R109). -/
def Block.onCore (b : Block) (j : Nat) : List Nat := (List.range b.threads.length).filter fun t => b.home t = j

/-- The work identifier of a thread (R105). -/
def Block.wid (b : Block) (t : Nat) : Nat := b.b * 2 ^ b.w0 + t

/-- Cores of a block. -/
def Block.c (b : Block) : Nat := b.shares.length

/-- The core number, within the die, of one of a block's cores. -/
def Block.coreNum (b : Block) (j : Nat) : Nat := match b.shares[j]? with | some x => x.core | none => 0

/-- The L1 a thread's accesses pass (R224). -/
def Block.cacheOf (b : Block) (t : Nat) (th : Thread) : Cache :=
  match th.carrel with
  | some i => .carrel b.die (i / 16)
  | none => .core b.die (b.coreNum (b.home t))

/-- The L1 of a lead context. -/
def Block.leadCache (b : Block) (j : Nat) : Cache := .core b.die (b.coreNum j)

/-- Lane registers a thread has (R85, R198). -/
def Block.regCount (b : Block) : Nat := (b.code.launch.regs + 1) * 16

/-- Issue lanes of a group (R108). -/
def Block.lanes (b : Block) : Nat := if b.pmode then 32 else 64

/-- Width of field k of the work identifier (R85). -/
def Launch.width (l : Launch) (k : Nat) : Nat := if k < l.levels then l.widths.getD k 0 else 0

/-! Registers (R198, R201, R202). -/

/-- The bank and index a lane register number names (R198). -/
def Thread.lreg (th : Thread) (r : BitVec 7) : LReg := ⟨th.inTrap && 112 ≤ r.toNat, r⟩

def Thread.v! (th : Thread) (r : BitVec 7) : Word := th.v[r.toNat]

/-- Register k(r − 112). -/
def Thread.k! (th : Thread) (r : BitVec 7) : Word := th.k[r.toNat % 16]'(Nat.mod_lt _ (by decide))

/-- Reads a register number. -/
def Thread.get (th : Thread) (r : BitVec 7) : Word := if th.inTrap && 112 ≤ r.toNat then th.k! r else th.v! r

/-- Writes one register; dirty says whether the dirty bit of a v register is set (poison leaves it, R199). -/
def Thread.putL (th : Thread) (l : LReg) (x : Word) (dirty : Bool) : Thread :=
  if l.bank then { th with k := th.k.set (l.i.toNat % 16) x (Nat.mod_lt _ (by decide)) }
  else
    let bitm : BitVec 128 := BitVec.ofNat 128 (2 ^ l.i.toNat)
    { th with
      v := th.v.set l.i.toNat x
      dirty := if dirty then th.dirty ||| bitm else th.dirty
      wrote := if th.carrel.isSome then th.wrote ||| bitm else th.wrote }

/-- Takes a register out of what a load still writes: a later write stays (R202). -/
def Load.without (ld : Load) (who : Agent) (l : LReg) : Load :=
  if ld.who = who then { ld with dst := ld.dst.map fun d => if d = some l then none else d } else ld

/-- An instruction's write of a register of a thread. -/
def State.putReg (s : State) (r : ThreadRef) (l : LReg) (x : Word) (dirty : Bool) : State :=
  let s1 := s.modThread r fun th => th.putL l x dirty
  { s1 with loads := s1.loads.map fun ld => ld.without (.lane r) l }

/-- Registers from number d on, a list of words. -/
def State.putRegs (s : State) (r : ThreadRef) (trap : Bool) (d : BitVec 7) : List Word → State
  | [] => s
  | x :: rest => (s.putReg r ⟨trap && 112 ≤ d.toNat, d⟩ x true).putRegs r trap (d + 1) rest

/-- The poison value (R199). -/
def poisonWord : Word := 0x7FF00BAD

/-- Scalar register; numbers 504 to 511 name lk0 to lk7 in a handler (R238). -/
def Lead.get (l : Lead) (r : BitVec 9) : Dword :=
  if l.inTrap && 504 ≤ r.toNat then l.lk[r.toNat % 8]'(Nat.mod_lt _ (by decide)) else l.s[r.toNat]

def Lead.put (l : Lead) (r : BitVec 9) (x : Dword) : Lead :=
  if l.inTrap && 504 ≤ r.toNat then { l with lk := l.lk.set (r.toNat % 8) x (Nat.mod_lt _ (by decide)) }
  else { l with s := l.s.set r.toNat x }

/-! Counters of outstanding operations (R203, R184). -/

/-- Takes finished operations off the front of an ordered count (R184). -/
def settleCount : List (Nat × Bool) → List (Nat × Bool)
  | (_, true) :: r => settleCount r
  | l => l

def doneIn (op : Nat) (l : List (Nat × Bool)) : List (Nat × Bool) :=
  settleCount (l.map fun e => if e.1 = op then (e.1, true) else e)

/-- The side log holds an unreplayed entry of the thread (R138). -/
def State.logged (s : State) (r : ThreadRef) : Bool := s.sideLog.any fun e => e.who = r

/-- The release waits of R138: no store outstanding, no entry in the side log. -/
def State.releaseReady (s : State) (r : ThreadRef) (th : Thread) : Bool := th.st = 0 && !s.logged r

/-! Locks (R182, R183, R209). -/

/-- Where a span begins, and how many bytes it has. -/
def Span.lo : Span → Nat
  | .phys lo _ => lo
  | .loc _ la _ => la
  | .virt _ lo _ => lo

def Span.len : Span → Nat
  | .phys _ n => n
  | .loc _ _ n => n
  | .virt _ _ n => n

/-- Whether two spans share a byte. -/
def Span.hits : Span → Span → Bool
  | .phys a n, .phys b m => a < b + m && b < a + n && 0 < n && 0 < m
  | .loc x a n, .loc y b m => x = y && a < b + m && b < a + n && 0 < n && 0 < m
  | .virt x a n, .virt y b m => x = y && a < b + m && b < a + n && 0 < n && 0 < m
  | _, _ => false

/-- Threads of the core, and the first level-0 index there, as s499 gives them (R113, R209). -/
def Lead.perEntry (l : Lead) : Nat := bits (l.s[499]).toNat 0 11
def Lead.firstIndex (l : Lead) : Nat := bits (l.s[499]).toNat 16 15

/-- Bytes of an entry of a queue. -/
def Queue.entryBytes (q : Queue) : Nat := if q.perThread then 4 * q.n else 4

/-- The ring of a set-up queue as a span of local space (R209). (DEDUCED, log entry 27) -/
def ringSpans (b : Block) : List Span :=
  (List.range b.shares.length).flatMap fun j =>
    match b.shares[j]? with
    | none => []
    | some sh =>
      sh.lead.queues.toList.filterMap fun q =>
        q.map fun q => .loc b.id (j * 2 ^ 18 + q.base) (q.d * q.entryBytes)

/-- What a lock of R183 makes of a span: 0 nothing, 1 a locked source only, 2 a locked destination. The rings of the block skip do not
count: its own save and resume handlers find them unlocked (R243). -/
def State.lock (s : State) (skip : Option Nat) (x : Span) : Nat :=
  if (s.ops.any fun o => o.lockDst.any x.hits) || (s.blocks.any fun b => skip != some b.id && (ringSpans b).any x.hits) then 2
  else if s.ops.any fun o => o.lockSrc.any x.hits then 1 else 0

/-! Barrier phases (R432). -/

/-- Phase n is complete when every thread has arrived at it or ended. -/
def Block.phaseDone (b : Block) : Bool :=
  (b.threads.any fun th => th.status != .ended) &&
  b.threads.all fun th => th.status = .ended || b.bp.toNat < th.ph.toNat

/-- A phase completes: its arrivals are what its waits acquire (R169). -/
def Block.nextPhase (b : Block) : Block :=
  { b with bp := b.bp + 1, barDone := b.barDone.join b.barIn, barIn := b.barNext, barNext := [] }

def Block.phases (b : Block) : Block :=
  let b1 := if b.phaseDone then b.nextPhase else b
  if b1.phaseDone then b1.nextPhase else b1

/-! Rejoin records (R217 to R220). -/

/-- The thread goes on after its REJOIN: the word after it (R219). -/
def Thread.goOn (th : Thread) : Thread := { th with pc := th.pc + 1, status := .ready }

/-- Frees a record; its arrived threads lose it from their chains and go on. -/
def Block.freeRec (b : Block) (r : RejoinRec) : Block :=
  { b with
    recs := b.recs.filter fun x => x.id != r.id
    threads := b.threads.map fun th =>
      let th1 := { th with chain := th.chain.filter fun i => i != r.id }
      if th.status = .wait (.rejoin r.id) then th1.goOn else th1 }

/-- Completes every record whose members have all arrived or been removed (R219, R230). -/
def Block.checkRecs (b : Block) : Block :=
  b.recs.foldl (fun b r => if r.members.all fun t => r.arrived.contains t || r.removed.contains t then b.freeRec r else b) b

/-- Adds a thread to the removed set of every record in its chain, and pops them (R228, R230). -/
def Block.removeFrom (b : Block) (t : Nat) (ids : List Nat) : Block :=
  let b1 := { b with recs := b.recs.map fun (r : RejoinRec) => if ids.contains r.id then { r with removed := r.removed ++ [t] } else r }
  (b1.modThread t fun th => { th with chain := th.chain.filter fun i => !ids.contains i }).checkRecs

/-! Ends (R207, R230, R241). -/

/-- The end of a batch that a block took without BFDONE: its entries return 0xFFFF_FFFF (R452). -/
def Channel.abandon (c : Channel) (block : Nat) : Channel × List (ThreadRef × Nat) :=
  let mine := (c.batches.filter fun x => x.taker = some block).map fun x => x.num
  let back := c.entries.filter fun e => match e.batch with | some n => mine.contains n | none => false
  ({ c with
     batches := c.batches.filter fun x => x.taker != some block
     entries := c.entries.filter fun e => match e.batch with | some n => !mine.contains n | none => true },
   back.map fun e => (e.who, e.id))

/-- Gives a joined thread its returned value, and what happened before the return (R123). -/
def State.joinReturn (s : State) (r : ThreadRef) (id : Nat) (v : Word) (k : Clock) : State :=
  s.modThread r fun th =>
    if th.status = .wait (.join id none) then { th with status := .wait (.join id (some v)), know := th.know.join k } else th

/-- A thread whose command has not let it go on: the operation that stands for it has no effect yet. -/
def Thread.heldOp (th : Thread) : Option Nat := match th.status with | .wait (.op id) => some id | _ => none

/-- Takes an operation that had no effect yet out of its thread's counts (R203, R204). -/
def State.uncount (s : State) (r : ThreadRef) : State :=
  match (s.thread? r).bind Thread.heldOp with
  | none => s
  | some id =>
    let stash := s.ops.any fun o => o.id = id && o.phase != .waiting && (match o.work with | .stash _ => true | _ => false)
    { s.modThread r fun th => { th with
        cp := th.cp.filter fun e => e.1 != id
        tl := th.tl.filter fun e => e.1 != id
        st := if stash then th.st - 1 else th.st } with
      ops := s.ops.filter fun o => o.id != id }

/-- Removes a thread from the wake tables, the batch-forming channels' queues of takers, and entries not yet in a batch; drops what
it waits to see issued (R123, R241, R431, R450). (DEDUCED, log entry 27) -/
def State.leaveWaits (s0 : State) (r : ThreadRef) : State :=
  let s := s0.uncount r
  { s with
    wakes := s.wakes.filter fun w => w.who != r
    channels := s.channels.map fun c =>
      { c with
        takers := c.takers.filter fun x => x.who != r
        entries := c.entries.filter fun e => !(e.who = r && e.batch.isNone) }
    ops := s.ops.filter fun o => !(o.issuer = .agent (.lane r) && o.phase = .waiting)
    holds := s.holds.filter fun h => h.who != .agent (.lane r) }

/-- The block of an agent. -/
def Agent.block : Agent → Nat
  | .lane r => r.block
  | .lead l => l.block

/-- Whether a block's threads or lead contexts have an engine operation outstanding (R207, R397). -/
def State.leadBusy (s : State) (id : Nat) : Bool :=
  s.ops.any fun o => match o.issuer with | .agent a => a.block = id && o.phase != .waiting | .node _ => false

/-- Whether a block has ended (R207). (DEDUCED, log entry 40) -/
def State.blockOver (s : State) (b : Block) : Bool :=
  (b.threads.all fun th => th.status = .ended) && (b.shares.all fun x => x.lead.status = .ended) && !s.leadBusy b.id

/-- Removes a block that has ended and frees its budgets; batches it took and had not done are returned, its save slot is freed. -/
def State.dropBlock (s : State) (b : Block) : State :=
  let s1 := { s with blocks := s.blocks.filter fun x => x.id != b.id }
  let s2 := s1.channels.foldl (fun (acc : State) c =>
      let (c', back) := c.abandon b.id
      let acc1 := { acc with channels := acc.channels.map fun x => if x.die = c.die && x.ch = c.ch then c' else x }
      back.foldl (fun a e => a.joinReturn e.1 e.2 0xFFFFFFFF []) acc1) s1
  let s3 := s2.modNode b.nodeRef fun n => { n with ended := n.ended + 1, again := n.again.filter fun i => i != b.id }
  match b.slot with
  | some k => s3.modCtx b.ctx fun c => { c with saveSlots := c.saveSlots.filter fun i => i != k }
  | none => s3

/-- An entry with CAUSE PREEMPT at a resume: TRAPCAUSE has RESUME set (R234, R245). -/
def resumeCause (w : Word) : Bool := w.toNat % 256 = 0x13 && w.getLsbD 19

/-- An entry with CAUSE PREEMPT for a save. -/
def saveCause (w : Word) : Bool := w.toNat % 256 = 0x13 && !w.getLsbD 19

/-- Whether a thread or lead context of a block is still in its resume handler. -/
def Block.resumes (b : Block) : Bool :=
  (b.threads.any fun th => th.status != .ended && th.inTrap && resumeCause th.cause) ||
  b.shares.any fun x => x.lead.status != .ended && x.lead.inTrap && resumeCause x.lead.cause

/-- The last resume RTE of a block frees its save slot (R244). -/
def State.resumeOver (s : State) (b : Block) : State :=
  if b.stage = .resuming && !b.resumes then
    (s.modBlock b.id fun x => { x with stage := .running, slot := none }).modCtx b.ctx fun c =>
      { c with saveSlots := c.saveSlots.filter fun i => b.slot != some i }
  else s

/-- Ends the block if nothing of it is left. -/
def State.checkEnd (s : State) (id : Nat) : State :=
  match s.block? id with
  | some b => if s.blockOver b then s.dropBlock b else s.resumeOver b
  | none => s

/-- What an agent of a node had done when it ended (R169). -/
def State.noteEnd (s : State) (a : Agent) : State :=
  match s.block? a.block with
  | some b => s.modNode b.nodeRef fun n => { n with ends := n.ends.join (s.knows a) }
  | none => s

/-- Ends one thread: R230 at once, and everything a thread's end completes. (DEDUCED, log entry 40) -/
def State.endThread (s : State) (r : ThreadRef) : State :=
  match s.thread? r with
  | none => s
  | some th =>
    if th.status = .ended then s
    else
      let s0 := (s.leaveWaits r).noteEnd (.lane r)
      let s1 := s0.modBlock r.block fun b =>
        let b1 := { b with bins := b.bins.filterMap fun (x : Bin) =>
          let l := x.threads.filter fun (e : Nat × Nat) => e.1 != r.t
          if l.isEmpty then none else some { x with threads := l } }
        let b2 := b1.modThread r.t fun th => { th with status := .ended, carrel := none, arrival := none }
        (b2.removeFrom r.t th.chain).phases.completeWaits
      s1.checkEnd r.block

/-- Ends one lead context (R207): its records are discarded. -/
def State.endLead (s : State) (r : LeadRef) : State :=
  ((({ s with holds := s.holds.filter fun h => h.who != .agent (.lead r) } : State).noteEnd (.lead r)).modLead r
    fun l => { l with status := .ended, evq := [] }).checkEnd r.block

/-- KILL for every thread and lead context of a block (R241): between instructions it takes effect at once. A stop of the block ends with it (R308). -/
def State.killBlock (s : State) (id : Nat) : State :=
  match s.block? id with
  | none => s
  | some b =>
    let s0 : State := { s with ops := s.ops.filter fun o => match o.issuer with
      | .agent (.lead l) => !(l.block = id && o.phase = .waiting)
      | _ => true }
    let s1 := (List.range b.threads.length).foldl (fun a t => a.endThread ⟨id, t⟩) (s0.modBlock id fun b => { b with stop := none })
    (List.range b.shares.length).foldl (fun a j => a.endLead ⟨id, j⟩) s1

/-- KILL for every block of a node. A saved block, which issues nothing, ends with it. -/
def State.killNode (s : State) (n : NodeRef) : State :=
  (s.blocks.filter fun b => b.nodeRef = n).foldl (fun a b => a.killBlock b.id) s

/-- A node fails: the status it completes with, and no block of it is placed any more (R72, R111). -/
def State.failNode (s : State) (n : NodeRef) (status : BitVec 8) : State :=
  s.modNode n fun x => { x with status := match x.status with | some y => some y | none => some status, again := [] }

/-! Device faults (R28, R29). -/

/-- Bytes of a span. -/
def State.readSpan (s : State) (x : Span) : List Byte :=
  match x with
  | .phys lo n => s.homeRead lo n
  | .loc b la n =>
    match s.share? b (la / 2 ^ 18) with
    | some sh => sh.loc.read (la % 2 ^ 18) n
    | none => []
  | .virt _ _ n => List.replicate n 0

/-- Writes bytes at the start of a span. -/
def State.writeSpan (s : State) (x : Span) (bs : List Byte) : State :=
  match x with
  | .phys lo _ => s.homeWrite lo bs
  | .loc b la _ => s.modShare b (la / 2 ^ 18) fun (sh : Share) => { sh with loc := sh.loc.write (la % 2 ^ 18) bs }
  | .virt _ _ _ => s

/-- Bytes laid over spans in turn, as far as they go. -/
def laySpans : List Span → List Byte → List (Span × List Byte)
  | [], _ => []
  | x :: r, bs => (x, bs.take x.len) :: laySpans r (bs.drop x.len)

/-- The part of a span at an address, of n bytes. -/
def Span.at (x : Span) (a n : Nat) : Span :=
  match x with
  | .phys _ _ => .phys a n
  | .loc b _ _ => .loc b a n
  | .virt c _ _ => .virt c a n

/-- The bytes k up to k + n of spans in turn. -/
def subSpans : List Span → Nat → Nat → List Span
  | [], _, _ => []
  | x :: r, k, n =>
    if n = 0 then []
    else if x.len ≤ k then subSpans r (k - x.len) n
    else
      let m := min n (x.len - k)
      x.at (x.lo + k) m :: subSpans r 0 (n - m)

/-- What a copy of source spans, from byte k of its destination on, may have written; an absent page gave nothing. -/
def State.copied (s : State) (dst : List Span) : Nat → List Span → List (Span × List Byte)
  | _, [] => []
  | k, x :: r =>
    (match x with | .virt _ _ _ => [] | _ => laySpans (subSpans dst k x.len) (s.readSpan x)) ++ s.copied dst (k + x.len) r

/-- What an operation may have written of its destination when its work is discarded: where, and the bytes. A collective's writes stand as they were
made. (DEDUCED, log entry 10) -/
def Op.written (o : Op) (s : State) : List (Span × List Byte) :=
  match o.work with
  | .copy _ _ _ _ => s.copied o.lockDst 0 o.lockSrc
  | .stash st =>
    match st.rows with
    | some rows =>
      laySpans o.lockDst (rows ++ (List.range 64).flatMap fun j => (List.range 64).flatMap fun i => (rows.drop (128 * i + 2 * j)).take 2)
    | none => []
  | .tile t => laySpans o.lockDst (t.bytes.getD [])
  | _ => []

/-- What work that does not come to its end in order leaves in bytes that it was writing: each aligned word of k bytes keeps its value or takes the one
written, as the hardware chooses; k is 4 for discarded work (R29; DEDUCED, log entry 10). -/
def State.scratch (s : State) (k i : Nat) (x : Span × List Byte) : State :=
  let lo := x.1.lo
  (cuts k x.2.length lo x.2.length).foldl (fun a p =>
    if Config.coin s.tick (i + p.1 - lo) then a.writeSpan (x.1.at p.1 p.2) ((x.2.drop (p.1 - lo)).take p.2) else a) s

/-- What a context's discarded work was writing: destinations of operations, stores not yet visible. -/
def State.writing (s : State) (ctx : Nat) : List (Span × List Byte) :=
  (s.ops.filter fun o => o.ctx = ctx).flatMap (fun o => o.written s) ++
    (s.stores.filter fun x => x.node.ctx = ctx && x.atom.isNone && !x.discard).map (fun x => (.phys x.pa x.bytes.length, x.bytes))

/-- Leaves every span of a list in that condition. -/
def scratchAll (k : Nat) : Nat → List (Span × List Byte) → State → State
  | _, [], s => s
  | i, x :: r, s => scratchAll k (i + x.2.length + 1) r (s.scratch k i x)

/-- Discards the work of a context (R29, R82). A replay that ends so posts no REPLAY_DONE (DESIGN CHOICE, log entry 44). -/
def State.dropCtxWork (s : State) (ctx : Nat) : State :=
  let gone (id : Nat) : Bool := s.blocks.any fun b => b.id = id && b.ctx = ctx
  let goneT (r : ThreadRef) : Bool := gone r.block
  let goneA (a : Agent) : Bool := match a with | .lane r => gone r.block | .lead l => gone l.block
  { s with
    blocks := s.blocks.filter fun b => b.ctx != ctx
    ops := s.ops.filter fun o => o.ctx != ctx
    loads := s.loads.filter fun l => !goneA l.who && l.node.ctx != ctx
    stores := s.stores.filter fun l => !goneA l.who && l.node.ctx != ctx
    wakes := s.wakes.filter fun w => !goneT w.who
    sideLog := s.sideLog.filter fun e => e.ctx != ctx
    faults := s.faults.filter fun f => f.ctx != ctx
    holds := s.holds.filter fun f => f.ctx != ctx
    ckpts := s.ckpts.filter fun a => a.node.ctx != ctx
    owed := s.owed.filter fun w => w.node.ctx != ctx
    replays := s.replays.filter fun r => r.ctx != ctx
    channels := s.channels.map fun c =>
      { c with
        takers := c.takers.filter fun x => !goneT x.who
        entries := c.entries.filter fun e => e.ctx != ctx || e.batch.isSome } }

/-- A step of a core's tile engine, still to start or started (R293). -/
def Op.stepsOn (o : Op) (core : Nat) (started : Bool) : Bool :=
  match o.work with | .tile t => o.core = core && t.fn = 5 && t.started = started | _ => false

/-- The cores whose tile engines hold leave, run no step, and are not known to be idle. -/
def Gov.newIdle (g : Gov) (here : List Op) : List Nat :=
  g.held.filterMap fun r =>
    match r with
    | .tile c => if (here.any fun o => o.stepsOn c true) || (g.idle.any fun e => e.1 = c) then none else some c
    | _ => none

/-- After operations have gone: leaves and requests that no engine has an operation for any more end, and a tile engine that runs no step any more
is idle from now on (R14). -/
def Gov.tidy (g : Gov) (ops : List Op) (d : Die) (now : Nat) : Gov :=
  let here := ops.filter fun o => o.die = d
  let colls := (here.filter fun o => match o.work with | .coll c => c.leave | _ => false).length
  let keep (r : Requester) : Bool := match r with | .copy e => here.any fun o => o.engine = some e | _ => true
  let asks (r : Requester) : Bool := match r with | .tile c => here.any fun o => o.stepsOn c false | r => keep r
  let held := g.held.filter keep
  let extra := (held.filter fun r => r = .coll).length - colls
  let cut := (List.range extra).foldl (fun (l : List Requester) _ => l.erase .coll) held
  { g with held := cut, pending := g.pending.filter (fun e => asks e.1), idle := g.idle ++ (g.newIdle here).map fun c => (c, now) }

/-- Tidies both governors. -/
def State.tidyGovs (s : State) : State :=
  { s with govA := s.govA.tidy s.ops .a (s.cycle .a), govB := s.govB.tidy s.ops .b (s.cycle .b) }

/-- A device fault charged to a context: the record goes to the host, the context's work in flight is discarded, stores that were
visible stay (R29). A kick being taken goes without an event (DESIGN CHOICE, log entry 44). -/
def State.deviceFault (s : State) (ctx cause : Nat) (d : Die) (unit : BitVec 8) : State :=
  let r := ctx % 65536 + unit.toNat * 2 ^ 16 + cause * 2 ^ 24 + d.num * 2 ^ 32
  let s1 := ((scratchAll 4 ((ctx + 2) * 2 ^ 44) (s.writing ctx) s).dropCtxWork ctx).post d 0x07 0 ctx (BitVec.ofNat 64 r) 0 0
  (s1.modCtx ctx fun c => { c with saveSlots := [], taking := none }).tidyGovs

/-- The device fault of an access (R28); nothing where it may wait or meets nothing. u is the accessing unit. -/
def State.physTrap (s : State) (ctx : Nat) (f : PhysFault) (d : Die) (u : BitVec 8) (pa : Nat) : State :=
  match f with
  | .none | .clear => s
  | .noMemory => s.deviceFault ctx 5 d u
  | .poisoned => s.deviceFault ctx 1 (homeDie pa) (memUnit pa)
  | .failed h x => s.deviceFault ctx 4 h x

/-! Faults on pages (R131, R132). -/

/-- CORE of a fault record. -/
def FUnit.coreNum : FUnit → Nat
  | .core _ c => c
  | _ => 0xFF

def FUnit.die : FUnit → Die
  | .core d _ | .copy d _ | .coll d | .graph d => d
  | .port p => if p < 8 then .a else .b

/-- UNIT of a device fault of the unit (R30). -/
def FUnit.unit : FUnit → BitVec 8
  | .core _ c => BitVec.ofNat 8 c
  | .copy _ e => BitVec.ofNat 8 (0x80 + e)
  | .coll _ => 0x90
  | .graph _ => 0x91
  | .port p => BitVec.ofNat 8 (0xA0 + p % 8)

/-- A write of the device for its own purposes at a physical address of a context's records; where no memory is, the context takes the device fault
(R12). A write that must wait for a unit across the link (R22) is done (DEDUCED, log entry 23). -/
def State.recordWrite (s : State) (ctx : Nat) (u : FUnit) (pa : Nat) (bs : List Byte) : State :=
  match s.meets u.die none pa bs.length false with
  | .none | .clear => s.ownWrite pa bs
  | f => s.physTrap ctx f u.die u.unit pa

/-- Writes one fault record into the context's ring, or counts it lost (R132). -/
def State.faultRecord (s : State) (u : FUnit) (n : NodeRef) (kind va : Nat) : State :=
  match s.ctx? n.ctx with
  | none => s
  | some c =>
    let head : Word := BitVec.ofNat 32 (s.dword (c.root + 16))
    if c.fqSize < 4 || 20 < c.fqSize || (c.fqTail - head).toNat = 2 ^ c.fqSize then
      let lost : Word := if c.fqLost = 0xFFFFFFFF then c.fqLost else c.fqLost + 1
      (s.modCtx c.num fun x => { x with fqLost := lost }).recordWrite c.num u (c.root + 28) (bytesOf 4 lost.toNat)
    else
      let at_ := c.fqBase + 32 * (c.fqTail.toNat % 2 ^ c.fqSize)
      let w0 := va % 2 ^ 56 + kind * 2 ^ 56
      let w1 := n.ctx + u.coreNum * 2 ^ 16 + u.die.num * 2 ^ 24 + n.node * 2 ^ 32
      let rec_ := bytesOf 8 w0 ++ bytesOf 8 w1 ++ bytesOf 8 n.seq.toNat ++ bytesOf 8 (s.cycle u.die)
      let tail := c.fqTail + 1
      ((s.modCtx c.num fun x => { x with fqTail := tail }).recordWrite c.num u at_ rec_).recordWrite c.num u (c.root + 24) (bytesOf 4 tail.toNat)

/-- A unit faults on a page: one record while the page stays unresolved, and the fault is held (R132, R134). -/
def State.raise (s : State) (u : FUnit) (n : NodeRef) (kind va : Nat) (wr : Bool) : State :=
  if s.faults.any fun f => f.unit = u && f.ctx = n.ctx && f.va / 65536 = va / 65536 then s
  else
    let s1 := s.faultRecord u n kind va
    { s1 with faults := s1.faults ++ [⟨u, n.ctx, n, kind, va, wr, s.cycle u.die, 0⟩] }

/-! Taking a trap (R233 to R239). -/

/-- A cause of R235 with its subcode and address; async for a cause delivered at a boundary, resume for the entry of R245. -/
structure Trap where
  cause : Nat
  sub : Nat
  addr : Nat
  async : Bool
  resume : Bool
  deriving DecidableEq, Repr

def Trap.sync (cause sub addr : Nat) : Trap := ⟨cause, sub, addr, false, false⟩

/-- The priority of R235; PAGE_FATAL has one for a dropped log entry and one for a held load. -/
def Trap.priority (t : Trap) : Nat :=
  match t.cause with
  | 0x14 => 1 | 0x13 => 3 | 0x11 => 4 | 0x03 => 5 | 0x02 => 6 | 0x01 => 7 | 0x0F => 8 | 0x0B => 9 | 0x09 => 10
  | 0x0A => 11 | 0x0D => 12 | 0x04 => 13 | 0x05 => 14 | 0x08 => 15 | 0x06 => 16 | 0x12 => 17 | 0x0C => 19 | 0x0E => 20 | 0x10 => 21
  | 0x07 => if t.async then 2 else 18
  | _ => 22

/-- The trap of highest priority among those that apply, the earlier one among equals. -/
def firstTrap : List Trap → Option Trap
  | [] => none
  | t :: r =>
    match firstTrap r with
    | some u => if u.priority < t.priority then some u else some t
    | none => some t

/-- The address of a save slot's core share (R244). -/
def shareAddr (c : Ctx) (slot j : Nat) : Nat := c.save + 0x10000 + slot * 0x4000000 + j * 0x200000

/-- The save address of R233 and R238 for a block's core. -/
def State.saveAddr (s : State) (b : Block) (j : Nat) : Nat :=
  match s.ctx? b.ctx, b.slot with
  | some c, some k => shareAddr c k j
  | _, _ => 0

/-- TRAPCAUSE (R234); slot and chain are of the trapping unit and 0 for an asynchronous cause. -/
def causeWord (t : Trap) (slot : Nat) (chained carrel : Bool) : Word :=
  BitVec.ofNat 32 (t.cause + t.sub * 2 ^ 8 + (if t.async then 0 else slot % 4) * 2 ^ 16 + b2n (chained && !t.async) * 2 ^ 18 +
    b2n t.resume * 2 ^ 19 + b2n carrel * 2 ^ 20 + b2n t.async * 2 ^ 21)

/-! Records that the device owes (R95, R239, R244). -/

/-- A record waits for an absent page of the save area. -/
def State.owedHold (s : State) (w : Owed) (c : Ctx) (va : Nat) : State :=
  let u : FUnit := .graph c.home
  let s1 := s.raise u w.node 2 va true
  let s2 : State := if s1.owed.contains w then s1 else { s1 with owed := s1.owed ++ [w] }
  if s2.holds.any fun h => h.who = .owed w.node w.trap then s2
  else { s2 with holds := s2.holds ++ [⟨.owed w.node w.trap, u, w.node.ctx, va, w.trap, true, none⟩] }

/-- A record is owed no longer. -/
def State.owedDone (s : State) (w : Owed) : State :=
  { s with owed := s.owed.erase w, holds := s.holds.filter fun h => h.who != .owed w.node w.trap }

/-- A record that the device writes through a context's translation: at once, held on an absent page, or given up where the page does not take it. An
unhandled-trap record is written only while the one there is not valid (R239). (DEDUCED, log entry 35) -/
def State.owe (s : State) (w : Owed) : State :=
  match s.ctx? w.node.ctx with
  | none => s.owedDone w
  | some c =>
    let verdict := (s.holds.find? fun h => h.who = .owed w.node w.trap).bind fun h => h.verdict
    match s.vread c.home c w.va 8, s.vwrite c.home c w.va w.data with
    | .dev f pa, _ | _, .dev f pa =>
      match f with
      | .clear => if s.owed.contains w then s else { s with owed := s.owed ++ [w] }
      | f => (s.owedDone w).physTrap c.num f c.home 0x91 pa
    | .absent va, _ | _, .absent va =>
      match verdict with
      | none => s.owedHold w c va
      | some (.ok page) =>
        let pa := page + w.va % 65536
        if w.trap && bit (s.dword pa) 63 then s.owedDone w else (s.ownWrite pa w.data).owedDone w
      | some _ => s.owedDone w
    | .ok bs, .ok s1 => if w.trap && bit (natOf bs) 63 then s.owedDone w else s1.owedDone w
    | .bad _, .ok s1 => if w.trap then s.owedDone w else s1.owedDone w
    | _, .bad _ => s.owedDone w

/-- Every record that is owed tries again. -/
def State.oweAll (s : State) : State := s.owed.foldl (fun a w => a.owe w) s

/-- The unhandled-trap record of R239. -/
def State.unhandledRecord (s : State) (n : NodeRef) (t : Trap) (lead : Bool) (pc wid : Nat) : State :=
  match s.ctx? n.ctx with
  | none => s
  | some c =>
    s.owe ⟨n, c.save + 0x40, bytesOf 8 (t.cause + t.sub * 2 ^ 8 + b2n lead * 2 ^ 16 + 2 ^ 63) ++ bytesOf 8 pc ++ bytesOf 8 wid ++
      bytesOf 8 (n.node + n.seq.toNat * 2 ^ 32), true⟩

/-- R239: the record, KILL for the node, and its failure. The rest of a group completes its instruction before the KILL takes effect (R233, R241). -/
def State.unhandled (s : State) (n : NodeRef) (t : Trap) (lead : Bool) (pc wid : Nat) : State :=
  let s1 := (s.unhandledRecord n t lead pc wid).failNode n 0x37
  if s1.issue.rest = [] then s1.killNode n else { s1 with issue := { s1.issue with kills := s1.issue.kills ++ [n] } }

/-- The KILLs that waited for the group in hand. -/
def State.settleKills (s : State) : State :=
  s.issue.kills.foldl (fun a n => a.killNode n) { s with issue := { s.issue with kills := [] } }

/-- A thread takes a trap (R233, R239). pc is the return address, slot and chained describe the trapping unit. -/
def State.takeTrap (s : State) (r : ThreadRef) (t : Trap) (pc : CodeAddr) (slot : Nat) (chained : Bool) : State :=
  match s.block? r.block with
  | none => s
  | some b =>
    match b.threads[r.t]? with
    | none => s
    | some th =>
      if th.status = .ended then s
      else if th.trapVec = 0 || (th.inTrap && !t.async) then s.unhandled b.nodeRef t false pc.toNat (b.wid r.t)
      else
        let cw := causeWord t slot chained th.carrel.isSome
        let sv := if t.cause = 0x13 then s.saveAddr b (b.home r.t) else 0
        let pos := if th.g = 0 then 0 else r.t % th.g.toNat
        let s1 := s.leaveWaits r
        let s2 : State := { s1 with loads := s1.loads.map fun ld => (List.range 4).foldl (fun (x : Load) i => x.without (.lane r) ⟨true, BitVec.ofNat 7 (112 + i)⟩) ld }
        s2.modThread r fun th =>
          { th with
            cause := cw
            trapPc := pc
            trapMask := BitVec.ofNat 64 (2 ^ pos)
            trapAddr := BitVec.ofNat 64 t.addr
            k := (((th.k.set 0 cw).set 1 0).set 2 (BitVec.ofNat 32 sv)).set 3 (BitVec.ofNat 32 (sv / 2 ^ 32))
            inTrap := true
            status := .ready
            arrival := none
            pass := false
            stale := if t.cause = 0x09 then false else th.stale
            pc := BitVec.ofNat 48 (b.code.word0 + th.trapVec.toNat) }

/-- The lead handler's entry: s495 (R238). -/
def Lead.vec (l : Lead) : Dword := l.s[495]

/-- A lead context takes a trap (R238, R239); chained as for a thread. -/
def State.takeLeadTrap (s : State) (r : LeadRef) (t : Trap) (pc : CodeAddr) (slot : Nat) (chained : Bool) : State :=
  match s.block? r.block with
  | none => s
  | some b =>
    match s.lead? r with
    | none => s
    | some l =>
      if l.vec = 0 || (l.inTrap && !t.async) then s.unhandled b.nodeRef t true pc.toNat (l.s[497]).toNat
      else
        let cw := causeWord t slot chained false
        let sv := if t.cause = 0x13 then s.saveAddr b r.j else 0
        let s1 : State := { s with
          ops := s.ops.filter fun o => !(o.issuer = Issuer.agent (.lead r) && o.phase = .waiting)
          holds := s.holds.filter fun h => h.who != .agent (.lead r) }
        s1.modLead r fun l =>
          { l with
            lk := (((l.lk.set 0 (cw.setWidth 64)).set 1 (pc.setWidth 64)).set 2 (BitVec.ofNat 64 t.addr)).set 3 (BitVec.ofNat 64 sv)
            cause := cw
            vecKept := if t.cause = 0x13 then l.vec else l.vecKept
            inTrap := true
            status := .ready
            pass := false
            pc := BitVec.ofNat 48 (b.code.word0 + l.vec.toNat) }

/-! Where control may go (R392, R128, R237). -/

/-- Code word addresses of a code object before its guard packet (R84). -/
def Code.holds (c : Code) (wa : Nat) : Bool := c.word0 ≤ wa && wa + 3 < c.word0 + c.words

/-- Code word addresses of a code object, the guard packet included. -/
def Code.inside (c : Code) (wa : Nat) : Bool := c.word0 ≤ wa && wa < c.word0 + c.words

/-! Stops (R306). -/

/-- A block begins to stop. -/
def State.stopBlock (s : State) (id reason : Nat) : State :=
  s.modBlock id fun b => match b.stop with
    | some _ => b
    | none => { b with stop := some ⟨reason, false, s.cycle b.die⟩ }

/-- Whether a block's threads and lead contexts issue: it is placed and not stopping (R306). -/
def Block.issues (b : Block) : Bool :=
  b.stop.isNone && (b.stage = .running || b.stage = .saving || b.stage = .resuming)

/-- DBGCFG.EN holds for a context (R305). -/
def State.debugged (s : State) (ctx : Nat) : Bool := bits s.dbg.cfg.toNat 0 10 = ctx && bit s.dbg.cfg.toNat 10

/-- The index of a WATCH range that an access matches (R305). -/
def State.watched (s : State) (ctx va n : Nat) (wr : Bool) : Bool :=
  bits s.dbg.cfg.toNat 0 10 = ctx &&
  s.dbg.watch.toList.any fun w =>
    let base := bits w.toNat 0 56
    let mode := bits w.toNat 60 2
    (if wr then mode = 2 || mode = 3 else mode = 1 || mode = 3) && va < base + 2 ^ bits w.toNat 56 4 && base < va + n

/-! Records of a lead context (R205, R416, R439). -/

/-- Puts a completion record into a lead context's queue; one that it did not issue is dropped when the queue is full. -/
def State.postRecord (s : State) (r : LeadRef) (rec_ : Record) : State :=
  s.modLead r fun l =>
    if l.status = .ended then l
    else if rec_.own || l.evq.length < 256 then { l with evq := l.evq ++ [rec_], status := if l.status = .wait then .ready else l.status }
    else { l with lost := l.lost + 1 }

end Sys2Proof.Machine
end

