-- ==== Sys2Proof/Machine/Operands.lean ====
section
/-! DEFINITION. Operand shapes (spec 17 R315 to R328, 18 R337 to R344): for every lane instruction its pipe, its sources with their
kinds, widths and hints, its destination, and the checks that decode makes of its fields; and how sources are read. -/

namespace Sys2Proof.Machine

/-- The pipe a unit takes (R187, R337): v is either vector pipe; lead forms take L; unassigned encodings and NOP take none. -/
inductive Pipe where
  | v | va | sf | ls | xl | bc | ec | lead | none
  deriving DecidableEq, Repr

/-- One source: kind 0 a lane register, 1 an s register, 2 a queue; register number; registers covered; hint. -/
structure Src where
  kind : Nat
  n : Nat
  w : Nat
  hint : Nat
  deriving DecidableEq, Repr

/-- What decode knows of a lane unit. ok fails for a nonzero unused field, an unassigned MODE or a kind not admitted (subcode 0x02);
lim fails for an operand field outside its limits (subcode 0x05). dw registers from d on are written, none for 0. -/
structure Shape where
  pipe : Pipe
  ok : Bool
  lim : Bool
  d : Nat
  dw : Nat
  srcs : List Src
  deriving DecidableEq, Repr

/-- What a long-form source position admits (R337): nothing, so that all is zero; one word of any kind; one word of v or s; one word
of v only; a pair of v or s; a set of v only. -/
inductive Pos where
  | no | any | vs | v | pair | set
  deriving DecidableEq, Repr

/-- Whether a position's field, hint and kind suit it (R319, R337, R341). -/
def Pos.fits (p : Pos) (k : BitVec 2) (f : BitVec 7) (h : BitVec 2) : Bool :=
  let q := k = 2 && f.toNat ≤ 8 && h = 0
  match p with
  | .no => k = 0 && f = 0 && h = 0
  | .any => k = 0 || k = 1 || q
  | .vs | .pair => k = 0 || k = 1
  | .v | .set => k = 0

def Pos.width : Pos → Nat
  | .no => 0
  | .any | .vs | .v => 1
  | .pair => 2
  | .set => 4

/-- The source a position names (R319). -/
def Pos.src (p : Pos) (k : BitVec 2) (f : BitVec 7) (h : BitVec 2) : List Src :=
  match p with
  | .no => []
  | _ =>
    if k = 1 then [⟨1, f.toNat + 128 * h.toNat, p.width, 0⟩]
    else if k = 2 then [⟨2, f.toNat, p.width, 0⟩]
    else [⟨0, f.toNat, p.width, h.toNat⟩]

/-- A lane register source of a short form. -/
def vsrc (f : BitVec 7) (h : BitVec 2) (w : Nat) : Src := ⟨0, f.toNat, w, h.toNat⟩

/-- R-format with widths of destination and sources; a width of 0 means that the field is unused and must be zero. -/
def shR (f : ShortR) (pipe : Pipe) (dw aw bw : Nat) : Shape :=
  { pipe := pipe
    ok := (dw != 0 || f.d = 0) && (aw != 0 || (f.a = 0 && f.ha = 0)) && (bw != 0 || (f.b = 0 && f.hb = 0))
    lim := true
    d := f.d.toNat
    dw := dw
    srcs := (if aw = 0 then [] else [vsrc f.a f.ha aw]) ++ (if bw = 0 then [] else [vsrc f.b f.hb bw]) }

/-- I-format likewise. -/
def shI (f : ShortI) (pipe : Pipe) (dw aw : Nat) : Shape :=
  { pipe := pipe
    ok := (dw != 0 || f.d = 0) && (aw != 0 || (f.a = 0 && f.ha = 0))
    lim := true
    d := f.d.toNat
    dw := dw
    srcs := if aw = 0 then [] else [vsrc f.a f.ha aw] }

/-- I-format whose VD is read as data and carries no hint (R420). -/
def shIst (f : ShortI) (pipe : Pipe) (aw : Nat) : Shape :=
  { pipe := pipe, ok := true, lim := true, d := 0, dw := 0, srcs := [vsrc f.a f.ha aw, vsrc f.d 0 1] }

/-- X3 with a destination width and three positions; modeOk says that MODE is assigned. -/
def sh3 (f : X3) (pipe : Pipe) (dw : Nat) (a b c : Pos) (modeOk : Bool) : Shape :=
  { pipe := pipe
    ok := f.c0 = 1 && (dw != 0 || f.d = 0) && a.fits f.ka f.a f.ha && b.fits f.kb f.b f.hb && c.fits f.ke f.e f.he && modeOk
    lim := true
    d := f.d.toNat
    dw := dw
    srcs := a.src f.ka f.a f.ha ++ b.src f.kb f.b f.hb ++ c.src f.ke f.e f.he }

/-- XI likewise; source a is a lane register (R318). -/
def shXI (f : XI) (pipe : Pipe) (dw aw : Nat) (immOk : Bool) : Shape :=
  { pipe := pipe
    ok := f.c0 = 1 && (dw != 0 || f.d = 0) && (aw != 0 || (f.a = 0 && f.ha = 0)) && immOk
    lim := true
    d := f.d.toNat
    dw := dw
    srcs := if aw = 0 then [] else [vsrc f.a f.ha aw] }

/-- XM likewise. -/
def shM (f : XM) (dw : Nat) (a b : Pos) (modeOk : Bool) : Shape :=
  { pipe := .ls
    ok := f.c0 = 1 && (dw != 0 || f.d = 0) && a.fits f.ka f.a f.ha && b.fits f.kb f.b f.hb && modeOk
    lim := true
    d := f.d.toNat
    dw := dw
    srcs := a.src f.ka f.a f.ha ++ b.src f.kb f.b f.hb }

/-- XB: a lane register decides, no destination, a rejoin point in 1 to 4,095 (R318). The chain bit is judged with the chain (R327). -/
def shB (f : XB) : Shape :=
  { pipe := .bc, ok := f.c0 = 1 && f.d = 0, lim := f.rejoin != 0, d := 0, dw := 0, srcs := [vsrc f.a f.ha 1] }

/-- The data position of a store of 2^w bytes (R422). -/
def dataPos (w : Nat) : Pos := if w ≤ 2 then .any else if w = 3 then .pair else .set

/-- The b position of an atomic (R423). -/
def atomPos (op : Nat) : Pos := if op = 14 then .no else if op = 13 then .set else if op = 9 || op = 11 || op = 12 then .pair else .any

/-- Registers an atomic writes. -/
def atomDw (op : Nat) : Nat := if op = 15 then 0 else if op = 11 || op = 12 || op = 13 then 2 else 1

/-- ORD values that OP 14 and OP 15 refuse (R423). -/
def ordOk (op ord : Nat) : Bool := !(op = 14 && (ord = 2 || ord = 3)) && !(op = 15 && (ord = 1 || ord = 3))

/-- OPs that GRED takes (R423). -/
def gredOk (op : Nat) : Bool := op ≤ 7 || op = 10 || op = 11

/-- Numbers of the system registers that lane code names (R196). -/
def laneSys (n : Nat) : Bool := n ≤ 5 || (8 ≤ n && n ≤ 11) || (16 ≤ n && n ≤ 24) || n = 28 || n = 29 || n = 64

/-- Widths of CVT's type codes (R367), 0 for a code that is none. -/
def cvtWidth (c : Nat) : Nat :=
  match c with
  | 0 => 32 | 1 => 64 | 2 => 16 | 3 => 16 | 4 => 8 | 5 => 8 | 6 => 6 | 7 => 6 | 8 => 4
  | 0x10 => 8 | 0x11 => 16 | 0x12 => 32 | 0x13 => 64 | 0x14 => 8 | 0x15 => 16 | 0x16 => 32 | 0x17 => 64
  | _ => 0

/-- CVT: DST in the b field, CTL in the c field, source type in MODE (R366, R367). -/
def cvtShape (f : X3) : Shape :=
  let dst := f.b.toNat
  let src := f.mode.toNat
  let ctl := f.e.toNat
  let a : Pos := if cvtWidth src = 64 then .pair else .any
  { pipe := .v
    ok := f.c0 = 1 && f.hb = 0 && f.kb = 0 && f.he = 0 && f.ke = 0 && a.fits f.ka f.a f.ha && cvtWidth dst ≠ 0 &&
      cvtWidth src ≠ 0 && dst ≠ src && ctl < 16 && ctl % 8 ≤ 4 && !(16 ≤ dst && 16 ≤ src && ctl % 8 ≠ 0)
    lim := true
    d := f.d.toNat
    dw := if cvtWidth dst = 64 then 2 else 1
    srcs := a.src f.ka f.a f.ha }

/-- Whether a code is a destination of MVCVT (R378). -/
def mvcvtDst (c : Nat) : Bool := (2 ≤ c && c ≤ 8) || (0x10 ≤ c && c ≤ 0x12) || (0x14 ≤ c && c ≤ 0x16)

/-- MVCVT: the scale in b, CTL in the c field (R378). -/
def mvcvtShape (f : X3) : Shape :=
  let m := f.mode.toNat
  let b : Pos := if m / 32 % 2 = 1 then .any else .no
  { pipe := .v
    ok := f.c0 = 1 && f.he = 0 && f.ke = 0 && Pos.pair.fits f.ka f.a f.ha && b.fits f.kb f.b f.hb && m < 64 && mvcvtDst (m % 32) &&
      f.e.toNat < 16 && f.e.toNat % 8 ≤ 4
    lim := true
    d := f.d.toNat
    dw := 2
    srcs := Pos.pair.src f.ka f.a f.ha ++ b.src f.kb f.b f.hb }

/-- A unit that is none of the lane's: it takes no pipe and names nothing (R344). -/
def Shape.none (p : Pipe) : Shape := { pipe := p, ok := true, lim := true, d := 0, dw := 0, srcs := [] }

/-- GRANT's widths (R398). -/
def grantOk (w : Nat) : Bool := w = 8 || w = 16 || w = 32 || w = 64 || w = 128

/-- REJOIN, REFORM, YIELD, EXIT and END with a field that is not zero (R396, R397). -/
def nullFields (w : Word) : Bool :=
  let p := primaryOf w
  p = 0x23 || p = 0x24 || p = 0x25 || p = 0x27 || p = 0x28

/-- The subcode for an encoding that no row assigns (R344, R396). -/
def unassignedSub (w : Word) : Nat :=
  if nullFields w then 2 else if primaryOf w = 0x3A && funcOf w = 0x00F then 1 else 0

def unassignedShape (w : Word) : Shape := .none (if nullFields w then .bc else .none)

/-- The shape of every lane unit (R339, R340); lead forms take pipe L. -/
def shape (i : Instr) : Shape :=
  match i with
  | .nop f => { pipe := .none, ok := f.x = 0, lim := true, d := 0, dw := 0, srcs := [] }
  | .add f => shR f .v 1 1 1
  | .addi f => shI f .v 1 1
  | .sub f => shR f .v 1 1 1
  | .mul f => shR f .v 1 1 1
  | .and f => shR f .v 1 1 1
  | .or f => shR f .v 1 1 1
  | .xor f => shR f .v 1 1 1
  | .andi f => shI f .v 1 1
  | .ori f => shI f .v 1 1
  | .xori f => shI f .v 1 1
  | .shli f => { shI f .v 1 1 with lim := f.imm.toNat ≤ 31 }
  | .shri f => { shI f .v 1 1 with lim := f.imm.toNat ≤ 31 }
  | .sari f => { shI f .v 1 1 with lim := f.imm.toNat ≤ 31 }
  | .mov f => shR f .v 1 1 0
  | .movi f => shI f .v 1 0
  | .cmpeq f => shR f .v 1 1 1
  | .cmplt f => shR f .v 1 1 1
  | .adda f => shR f .v 2 2 1
  | .addai f => shI f .v 2 2
  | .fadd f => shR f .v 1 1 1
  | .fsub f => shR f .v 1 1 1
  | .fmul f => shR f .v 1 1 1
  | .fmin f => shR f .v 1 1 1
  | .fmax f => shR f .v 1 1 1
  | .ld f => shI f .ls 1 2
  | .st f => shIst f .ls 2
  | .ldl f => shI f .ls 1 1
  | .stl f => shIst f .ls 1
  | .bz f => { pipe := .bc, ok := true, lim := true, d := 0, dw := 0, srcs := [vsrc f.v 0 1] }
  | .bnz f => { pipe := .bc, ok := true, lim := true, d := 0, dw := 0, srcs := [vsrc f.v 0 1] }
  | .guardWord _ => { pipe := .none, ok := true, lim := true, d := 0, dw := 0, srcs := [] }
  | .bra f => { pipe := .bc, ok := f.v = 0, lim := true, d := 0, dw := 0, srcs := [] }
  | .call f => { pipe := .bc, ok := true, lim := true, d := f.v.toNat, dw := 2, srcs := [] }
  | .ret f => shR f .bc 0 2 0
  | .rejoin => { pipe := .bc, ok := true, lim := true, d := 0, dw := 0, srcs := [] }
  | .reform => { pipe := .bc, ok := true, lim := true, d := 0, dw := 0, srcs := [] }
  | .yield => { pipe := .bc, ok := true, lim := true, d := 0, dw := 0, srcs := [] }
  | .setpri f => { shI f .bc 0 0 with lim := f.imm.toNat < 16 }
  | .exitOp => { pipe := .bc, ok := true, lim := true, d := 0, dw := 0, srcs := [] }
  | .endOp => { pipe := .bc, ok := true, lim := true, d := 0, dw := 0, srcs := [] }
  | .grant f => { shI f .xl 1 0 with lim := grantOk f.imm.toNat }
  | .rdsr f => { shI f .va 1 0 with lim := laneSys f.imm.toNat }
  | .wrsr f => { shI f .va 0 1 with lim := laneSys f.imm.toNat }
  | .discard f => shI f .ls 0 2
  | .swz f => shR f .xl 1 1 1
  | .guard f => { pipe := .none, ok := f.c = 1 && f.x = 0, lim := true, d := 0, dw := 0, srcs := [vsrc f.g 0 1] }
  | .fcmplt f => shR f .v 1 1 1
  | .addLong f => sh3 f .v 1 .any .any .no (f.mode.toNat = 0 || f.mode.toNat = 2 || f.mode.toNat = 3)
  | .subLong f => sh3 f .v 1 .any .any .no (f.mode.toNat = 0 || f.mode.toNat = 2 || f.mode.toNat = 3)
  | .mulLong f => sh3 f .v 1 .any .any .no (f.mode = 0)
  | .mulhi f => sh3 f .v 1 .any .any .no (f.mode.toNat ≤ 1)
  | .mad f => sh3 f .v 1 .any .any .any (f.mode.toNat = 0 || f.mode.toNat = 2 || f.mode.toNat = 3)
  | .andLong f => sh3 f .v 1 .any .any .no (f.mode.toNat ≤ 1)
  | .orLong f => sh3 f .v 1 .any .any .no (f.mode.toNat ≤ 1)
  | .xorLong f => sh3 f .v 1 .any .any .no (f.mode.toNat ≤ 1)
  | .shl f => sh3 f .v 1 .any .any .no (f.mode = 0)
  | .shr f => sh3 f .v 1 .any .any .no (f.mode = 0)
  | .sar f => sh3 f .v 1 .any .any .no (f.mode = 0)
  | .min f => sh3 f .v 1 .any .any .no (f.mode.toNat ≤ 1)
  | .max f => sh3 f .v 1 .any .any .no (f.mode.toNat ≤ 1)
  | .popc f => sh3 f .v 1 .any .no .no (f.mode = 0)
  | .clz f => sh3 f .v 1 .any .no .no (f.mode = 0)
  | .bfe f => sh3 f .v 1 .any .any .no (f.mode.toNat ≤ 1)
  | .bfi f => sh3 f .v 1 .any .any .any (f.mode = 0)
  | .sel f => sh3 f .v 1 .any .any .any (f.mode = 0)
  | .cmp f => sh3 f .v 1 .any .any .no (f.mode.toNat ≤ 15 && f.mode.toNat % 8 ≤ 5)
  | .addaLong f => sh3 f .v 2 .pair .any .no (f.mode.toNat ≤ 15 && f.mode.toNat / 2 ≤ 4)
  | .movLong f => sh3 f .v 1 .any .no .no (f.mode = 0)
  | .movp f => sh3 f .v 2 .pair .no .no (f.mode = 0)
  | .moviLong f => shXI f .v 1 0 (true)
  | .addiLong f => shXI f .v 1 1 (true)
  | .andiLong f => shXI f .v 1 1 (true)
  | .oriLong f => shXI f .v 1 1 (true)
  | .xoriLong f => shXI f .v 1 1 (true)
  | .addaiLong f => shXI f .v 2 2 (true)
  | .faddLong f => sh3 f .v 1 .any .any .no (f.mode.toNat ≤ 15 && f.mode.toNat % 8 ≤ 4)
  | .fsubLong f => sh3 f .v 1 .any .any .no (f.mode.toNat ≤ 15 && f.mode.toNat % 8 ≤ 4)
  | .fmulLong f => sh3 f .v 1 .any .any .no (f.mode.toNat ≤ 15 && f.mode.toNat % 8 ≤ 4)
  | .fma f => sh3 f .v 1 .any .any .any (f.mode.toNat ≤ 15 && f.mode.toNat % 8 ≤ 4)
  | .fminLong f => sh3 f .v 1 .any .any .no (f.mode.toNat ≤ 1)
  | .fmaxLong f => sh3 f .v 1 .any .any .no (f.mode.toNat ≤ 1)
  | .fcmp f => sh3 f .v 1 .any .any .no (f.mode.toNat ≤ 7)
  | .fclass f => sh3 f .v 1 .any .no .no (f.mode = 0)
  | .fround f => sh3 f .v 1 .any .no .no (f.mode.toNat ≤ 3)
  | .fabs f => sh3 f .v 1 .any .no .no (f.mode = 0)
  | .fneg f => sh3 f .v 1 .any .no .no (f.mode = 0)
  | .dadd f => sh3 f .v 2 .pair .pair .no (f.mode.toNat ≤ 15 && f.mode.toNat % 8 ≤ 4)
  | .dsub f => sh3 f .v 2 .pair .pair .no (f.mode.toNat ≤ 15 && f.mode.toNat % 8 ≤ 4)
  | .dmul f => sh3 f .v 2 .pair .pair .no (f.mode.toNat ≤ 15 && f.mode.toNat % 8 ≤ 4)
  | .dfma f => sh3 f .v 2 .pair .pair .pair (f.mode.toNat ≤ 15 && f.mode.toNat % 8 ≤ 4)
  | .dmin f => sh3 f .v 2 .pair .pair .no (f.mode.toNat ≤ 1)
  | .dmax f => sh3 f .v 2 .pair .pair .no (f.mode.toNat ≤ 1)
  | .dcmp f => sh3 f .v 1 .pair .pair .no (f.mode.toNat ≤ 7)
  | .hadd2 f => sh3 f .v 1 .any .any .no (f.mode.toNat ≤ 31 && f.mode.toNat % 8 ≤ 4)
  | .hmul2 f => sh3 f .v 1 .any .any .no (f.mode.toNat ≤ 31 && f.mode.toNat % 8 ≤ 4)
  | .hfma2 f => sh3 f .v 1 .any .any .any (f.mode.toNat ≤ 31 && f.mode.toNat % 8 ≤ 4)
  | .hmin2 f => sh3 f .v 1 .any .any .no (f.mode.toNat ≤ 31 && f.mode.toNat % 16 ≤ 1)
  | .hmax2 f => sh3 f .v 1 .any .any .no (f.mode.toNat ≤ 31 && f.mode.toNat % 16 ≤ 1)
  | .cvt f => cvtShape f
  | .rcp f => sh3 f .sf 1 .any .no .no (f.mode = 0)
  | .rsq f => sh3 f .sf 1 .any .no .no (f.mode = 0)
  | .sqrt f => sh3 f .sf 1 .any .no .no (f.mode = 0)
  | .log2 f => sh3 f .sf 1 .any .no .no (f.mode = 0)
  | .exp2 f => sh3 f .sf 1 .any .no .no (f.mode = 0)
  | .sin f => sh3 f .sf 1 .any .no .no (f.mode = 0)
  | .cos f => sh3 f .sf 1 .any .no .no (f.mode = 0)
  | .tanh f => sh3 f .sf 1 .any .no .no (f.mode = 0)
  | .mvadd f => sh3 f .v 2 .pair (if f.mode.toNat / 32 % 2 = 1 then .any else .pair) .no (f.mode.toNat / 4 % 8 ≤ 4 && f.mode.toNat < 64)
  | .mvsub f => sh3 f .v 2 .pair (if f.mode.toNat / 32 % 2 = 1 then .any else .pair) .no (f.mode.toNat / 4 % 8 ≤ 4 && f.mode.toNat < 64)
  | .mvmul f => sh3 f .v 2 .pair (if f.mode.toNat / 32 % 2 = 1 then .any else .pair) .no (f.mode.toNat / 4 % 8 ≤ 4 && f.mode.toNat < 64)
  | .mvfma f => sh3 f .v 2 .pair (if f.mode.toNat / 32 % 2 = 1 then .any else .pair) (if f.mode.toNat / 64 = 1 then .any else .pair) (f.mode.toNat / 4 % 8 ≤ 4)
  | .mvdiv f => sh3 f .v 2 .pair (if f.mode.toNat / 32 % 2 = 1 then .any else .pair) .no (f.mode.toNat / 4 % 8 ≤ 4 && f.mode.toNat < 64)
  | .mvneg f => sh3 f .v 2 .pair .no .no (f.mode = 0 || f.mode = 2)
  | .mvabs f => sh3 f .v 2 .pair .no .no (f.mode = 0 || f.mode = 2)
  | .mvsf f => sh3 f .v 2 .pair .no .no (f.mode.toNat < 32 && f.mode.toNat % 2 = 0)
  | .mvcvt f => mvcvtShape f
  | .mvset f => sh3 f .v 2 .any .any .no (f.mode = 0)
  | .mvvar f => sh3 f .v 1 .pair .no .no (f.mode.toNat ≤ 1)
  | .svadd f => sh3 f .v 4 .set (if f.mode.toNat / 16 % 2 = 1 then .any else .set) .no (f.mode.toNat / 2 % 8 ≤ 4 && f.mode.toNat < 32)
  | .svsub f => sh3 f .v 4 .set (if f.mode.toNat / 16 % 2 = 1 then .any else .set) .no (f.mode.toNat / 2 % 8 ≤ 4 && f.mode.toNat < 32)
  | .svmul f => sh3 f .v 4 .set (if f.mode.toNat / 16 % 2 = 1 then .any else .set) .no (f.mode.toNat / 2 % 8 ≤ 4 && f.mode.toNat < 32)
  | .svfma f => sh3 f .v 4 .set (if f.mode.toNat / 16 % 2 = 1 then .any else .set) (if f.mode.toNat / 32 = 1 then .any else .set) (f.mode.toNat / 2 % 8 ≤ 4 && f.mode.toNat < 64)
  | .svsf f => sh3 f .v 4 .set .no .no (f.mode.toNat < 16)
  | .svstat f => sh3 f .v 2 .set .no .no (f.mode.toNat ≤ 1)
  | .svset f => sh3 f .v 4 (if f.mode.toNat / 2 % 2 = 1 then .pair else .any) .no .no (f.mode.toNat < 32 && f.mode.toNat / 4 ≤ (if f.mode.toNat / 2 % 2 = 1 then 0 else 4))
  | .svsort f => sh3 f .v 4 .set .no .no (f.mode = 0)
  | .rnd f => { sh3 f .v 1 (if f.mode.toNat % 2 = 1 then .pair else .no) .no .no (f.mode.toNat < 8 && (f.mode.toNat % 2 = 1 || f.mode = 0)) with lim := f.mode.toNat / 2 % 4 ≠ 3 }
  | .rndf f => { sh3 f .v 1 (if f.mode.toNat % 2 = 1 then .pair else .no) .no .no (f.mode.toNat < 8 && (f.mode.toNat % 2 = 1 || f.mode = 0)) with lim := f.mode.toNat / 2 % 4 ≠ 3 }
  | .rndmask f => sh3 f .v 1 .any .no .no (f.mode.toNat < 32)
  | .rndgauss f => sh3 f .v 2 .no .no .no (f.mode = 0)
  | .rndskip f => sh3 f .v 0 .pair .no .no (f.mode = 0)
  | .rndget f => sh3 f .v 2 .no .no .no (f.mode = 0)
  | .rndset f => sh3 f .v 0 .pair .no .no (f.mode = 0)
  | .minp f => sh3 f .ec 1 .pair .pair .any (f.mode = 0)
  | .hdig f => sh3 f .v 1 .any .no .no (f.mode.toNat < 4)
  | .catdraw f => { sh3 f .ec 2 .any .any .pair (f.mode.toNat < 4) with lim := f.mode.toNat ≠ 3 }
  | .shfl f => sh3 f .xl (if 64 ≤ f.mode.toNat then 4 else if f.mode.toNat / 32 % 2 = 1 then 2 else 1) (if f.mode.toNat / 32 % 2 = 1 then .pair else .any) .any .pair (f.mode.toNat / 4 % 8 = 0)
  | .bcast f => sh3 f .xl (if 64 ≤ f.mode.toNat then 4 else if f.mode.toNat / 32 % 2 = 1 then 2 else 1) (if f.mode.toNat / 32 % 2 = 1 then .pair else .any) .any .pair (f.mode.toNat % 32 = 0)
  | .vote f => sh3 f .xl (if 64 ≤ f.mode.toNat then 4 else 2) .any .no .pair (f.mode.toNat % 64 ≤ 2)
  | .matchOp f => sh3 f .xl (if 64 ≤ f.mode.toNat then 4 else 2) (if f.mode.toNat / 32 % 2 = 1 then .pair else .any) .no .pair (f.mode.toNat % 32 = 0)
  | .red f => sh3 f .xl (if 64 ≤ f.mode.toNat then 4 else 1) .any .no .pair (f.mode.toNat % 64 ≤ 11)
  | .scan f => sh3 f .xl (if 64 ≤ f.mode.toNat then 4 else 1) .any .no .pair (f.mode.toNat % 64 < 32 && f.mode.toNat % 16 ≤ 11)
  | .elect f => sh3 f .xl (if 64 ≤ f.mode.toNat then 4 else 1) .no .no .pair (f.mode.toNat % 64 = 0)
  | .bzLong f => shB f
  | .bnzLong f => shB f
  | .brx f => sh3 f .bc 0 .pair .no .no (f.mode = 0)
  | .callr f => sh3 f .bc 2 .pair .no .no (f.mode = 0)
  | .ldLong f => shM f (if f.mode.toNat % 8 ≤ 2 then 1 else if f.mode.toNat % 8 = 3 then 2 else 4) .pair .no (f.mode.toNat ≤ 31 && f.mode.toNat % 8 ≤ 4 && (f.mode.toNat / 8 % 2 = 0 || f.mode.toNat % 8 ≤ 1))
  | .stLong f => shM f 0 .pair (dataPos f.mode.toNat) (f.mode.toNat ≤ 4)
  | .ldlLong f => shM f (if f.mode.toNat % 8 ≤ 2 then 1 else if f.mode.toNat % 8 = 3 then 2 else 4) .vs .no (f.mode.toNat ≤ 15 && f.mode.toNat % 8 ≤ 4 && (f.mode.toNat / 8 % 2 = 0 || f.mode.toNat % 8 ≤ 1))
  | .stlLong f => shM f 0 .vs (dataPos f.mode.toNat) (f.mode.toNat ≤ 4)
  | .atom f => shM f (atomDw (f.mode.toNat % 16)) .pair (atomPos (f.mode.toNat % 16)) (ordOk (f.mode.toNat % 16) (f.mode.toNat / 16))
  | .atoml f => shM f (atomDw (f.mode.toNat % 16)) .vs (atomPos (f.mode.toNat % 16)) (ordOk (f.mode.toNat % 16) (f.mode.toNat / 16))
  | .gred f => shM f 0 .pair (atomPos (f.mode.toNat % 16)) (f.mode.toNat ≤ 15 && gredOk f.mode.toNat)
  | .fence f => shM f 0 .no .no (1 ≤ f.mode.toNat && f.mode.toNat ≤ 3 && f.off = 0)
  | .waita f => shM f (if f.mode = 0 then 1 else 2) .pair (if f.mode = 0 then .any else .pair) (f.mode.toNat ≤ 1)
  | .wake f => shM f 1 .pair .any (f.mode = 0)
  | .discardLong f => shM f 0 .pair .no (f.mode = 0)
  | .stt f => { sh3 f .ls 0 .vs .pair .pair (f.mode = 0) with
    ok := f.c0 = 1 && Pos.vs.fits f.ka f.a f.ha && Pos.pair.fits f.kb f.b f.hb && Pos.pair.fits f.ke f.e f.he && f.mode = 0
    srcs := Pos.vs.src f.ka f.a f.ha ++ Pos.pair.src f.kb f.b f.hb ++ Pos.pair.src f.ke f.e f.he ++ [vsrc f.d 0 2] }
  | .barrierarrive f => shM f 0 .no .no (f.mode = 0 && f.off = 0)
  | .barrierwait f => shM f 0 .no .no (f.mode.toNat ≤ 1 && f.off = 0)
  | .mbinit f => shM f 0 (if f.mode = 1 then .pair else .vs) .any (f.mode.toNat ≤ 1 && f.off.toNat ≤ 31)
  | .mbput f => shM f 0 .no (if 2 ≤ f.mode.toNat then .any else .no) (f.mode.toNat ≤ 3 && f.off.toNat ≤ 31)
  | .mbget f => shM f 2 .no (if 2 ≤ f.mode.toNat then .any else .no) (f.mode.toNat ≤ 3 && f.off.toNat ≤ 31)
  | .waitc f => shXI f .ls 0 0 (f.imm.toNat < 2 ^ 20)
  | .cwait f => sh3 f .ls 1 .any .any .no (f.mode.toNat ≤ 1)
  | .copy f => sh3 f .ec 0 .pair .pair .pair (f.mode = 0)
  | .copyf f => sh3 f .ec 0 .pair .pair .pair (f.mode = 0)
  | .coll f => sh3 f .ec 0 .pair .no .no (f.mode = 0)
  | .tsend f => sh3 f .ec 1 .pair .no .no (f.mode = 0)
  | .tdisarm f => sh3 f .ec 1 .any .no .no (f.mode = 0)
  | .ctrrd f => sh3 f .ec 1 .any .no .no (f.mode = 0)
  | .ctrrst f => sh3 f .ec 1 .any .no .no (f.mode = 0)
  | .bfjoin f => sh3 f .ec 1 .any .pair .no (f.mode.toNat ≤ 7)
  | .bftake f => sh3 f .ec 1 .any .no .no (f.mode.toNat ≤ 7)
  | .bfdone f => sh3 f .ec 0 .any .any .no (f.mode = 0)
  | .kvlook f => sh3 f .ec 4 .pair .no .no (f.mode.toNat ≤ 1)
  | .kvins f => sh3 f .ec 4 .pair .pair .any (f.mode = 0)
  | .kvunref f => sh3 f .ec 4 .pair .no .no (f.mode = 0)
  | .tclaim f => sh3 f .ec 1 .any .no .no (f.mode = 0)
  | .tfree f => sh3 f .ec 0 .any .no .no (f.mode = 0)
  | .tshape f => sh3 f .ec 0 .pair .no .no (f.mode.toNat ≤ 3)
  | .tldw f => sh3 f .ec 0 .any .pair .pair (f.mode.toNat ≤ 3)
  | .tswap f => sh3 f .ec 0 .no .no .no (f.mode = 0)
  | .tmma f => sh3 f .ec 0 .any .pair .pair (true)
  | .tst f => sh3 f .ec 0 .any .pair .no (true)
  | .tsave f => sh3 f .ec 0 .pair .no .no (f.mode.toNat % 4 = 0)
  | .tload f => sh3 f .ec 0 .pair .no .no (f.mode.toNat % 4 = 0)
  | .rte f => sh3 f .bc 0 .no .no .no (f.mode = 0)
  | .breakOp f => sh3 f .bc 0 .no .no .no (f.mode = 0)
  | .swtrap f => shXI f .bc 0 0 (f.imm.toNat ≤ 255)
  | .rdcyc f => sh3 f .va 2 .no .no .no (f.mode = 0)
  | .rdsrLong f => { sh3 f .va 1 .no .no .no true with lim := laneSys f.mode.toNat }
  | .wrsrLong f => { sh3 f .va 0 .any .no .no true with lim := laneSys f.mode.toNat }
  | .leadAdd _ => .none .lead
  | .leadSub _ => .none .lead
  | .leadMul _ => .none .lead
  | .leadMulhi _ => .none .lead
  | .leadAnd _ => .none .lead
  | .leadOr _ => .none .lead
  | .leadXor _ => .none .lead
  | .leadShl _ => .none .lead
  | .leadShr _ => .none .lead
  | .leadSar _ => .none .lead
  | .leadMin _ => .none .lead
  | .leadMax _ => .none .lead
  | .leadSel _ => .none .lead
  | .leadCmp _ => .none .lead
  | .leadAddi _ => .none .lead
  | .leadLd _ => .none .lead
  | .leadSt _ => .none .lead
  | .leadMovi _ => .none .lead
  | .movhi _ => .none .lead
  | .bp _ => .none .lead
  | .leadBra _ => .none .lead
  | .leadEnd _ => .none .lead
  | .dpush _ => .none .lead
  | .ewait _ => .none .lead
  | .lrte _ => .none .lead
  | .qset _ => .none .lead
  | .qstart _ => .none .lead
  | .bfcfg _ => .none .lead
  | .ckpt _ => .none .lead
  | .leadCopy _ => .none .lead
  | .leadCopyf _ => .none .lead
  | .leadColl _ => .none .lead
  | .leadTsend _ => .none .lead
  | .leadTdisarm _ => .none .lead
  | .leadCtrrd _ => .none .lead
  | .leadCtrrst _ => .none .lead
  | .leadTclaim _ => .none .lead
  | .leadTfree _ => .none .lead
  | .leadTshape _ => .none .lead
  | .leadTldw _ => .none .lead
  | .leadTswap _ => .none .lead
  | .leadTmma _ => .none .lead
  | .leadTst _ => .none .lead
  | .leadTsave _ => .none .lead
  | .leadTload _ => .none .lead
  | .stash _ => .none .lead
  | .leadRdsr _ => .none .lead
  | .leadWrsr _ => .none .lead
  | .leadRdcyc _ => .none .lead
  | .leadBreak _ => .none .lead
  | .leadSwtrap _ => .none .lead
  | .unassignedEncoding w _ => unassignedShape w
  | .packageReset => .none .none
  | .unitSelfTestDone => .none .none
  | .firmwareVerify => .none .none
  | .firmwareUpdate => .none .none
  | .securityVersionRaise => .none .none
  | .measurementExtend => .none .none
  | .attestationRequest => .none .none
  | .attestationReport => .none .none
  | .d2dLost => .none .none
  | .memEccCorrected => .none .none
  | .memEccUncorrectable => .none .none
  | .sramSoftError => .none .none
  | .internalTimeout => .none .none
  | .leaveGrant => .none .none
  | .tileLeaveRelease => .none .none
  | .govstatRead => .none .none
  | .coolingSample => .none .none
  | .portLinkUp => .none .none
  | .portLinkDown => .none .none
  | .portstatRead => .none .none
  | .malformedFrame => .none .none
  | .uetUnsupportedRequest => .none .none
  | .incomingRmaWrite => .none .none
  | .incomingRmaRead => .none .none
  | .incomingFetchAtomic => .none .none
  | .heldLandingRelease => .none .none
  | .uetAck => .none .none
  | .uetNak => .none .none
  | .uetRetransmit => .none .none
  | .peerLostTimeout => .none .none
  | .collectiveData => .none .none
  | .collectivePhaseTimeout => .none .none
  | .collectiveComplete => .none .none
  | .bridgeForward => .none .none
  | .registerWrite => .none .none
  | .wdiscardRead => .none .none
  | .kick => .none .none
  | .kickTake => .none .none
  | .kickReread => .none .none
  | .replayStart => .none .none
  | .nodeComplete => .none .none
  | .hostNotify => .none .none
  | .evtheadWrite => .none .none
  | .evtcfgWrite => .none .none
  | .evtlostRead => .none .none
  | .fpcountWrite => .none .none
  | .fpthreshWrite => .none .none
  | .ctxCreate => .none .none
  | .ctxDestroy => .none .none
  | .ctxDestroyDone => .none .none
  | .ctxPartition => .none .none
  | .ctxPartitionDone => .none .none
  | .graphRegister => .none .none
  | .graphRelease => .none .none
  | .ctxLimits => .none .none
  | .regionSet => .none .none
  | .regionFree => .none .none
  | .counterSetAssign => .none .none
  | .counterSetRelease => .none .none
  | .counterSetValue => .none .none
  | .poolEntry => .none .none
  | .nodeAging => .none .none
  | .nodeDispatch => .none .none
  | .kernelPassedOver => .none .none
  | .blockPlace => .none .none
  | .batchForm => .none .none
  | .faultRewalk => .none .none
  | .hotPageInterval => .none .none
  | .catalogueOp => .none .none
  | .loadReturn => .none .none
  | .storeVisible => .none .none
  | .rangeRegistration => .none .none
  | .copyComplete => .none .none
  | .followOnEntry => .none .none
  | .stashComplete => .none .none
  | .samplerOpComplete => .none .none
  | .tileStepStart => .none .none
  | .tileStepBoundary => .none .none
  | .tileOpComplete => .none .none
  | .streamEntry => .none .none
  | .rejoinTimeout => .none .none
  | .ejectHandover => .none .none
  | .carrelReturn => .none .none
  | .reformDraw => .none .none
  | .preemptEntry => .none .none
  | .saveComplete => .none .none
  | .dbgstop => .none .none
  | .dbgresume => .none .none
  | .stopComplete => .none .none
  | .samplostRead => .none .none
  | .accheadWrite => .none .none
  | .rrReadRelease => .none .none
  | .rrReadTimeout => .none .none
  | .d2dFlitRetry => .none .none
  | .fecCodeword => .none .none
  | .cmdUnassignedOp => .none .none
  | .sttStageLoaded => .none .none
  | .tileSourceUnlock => .none .none

/-- What decode knows of a lead unit: whether its extension's chain bit is set (PACKET), whether its fields pass (0x02), and whether
its register run stays within s511 (0x05). -/
structure LeadShape where
  packet : Bool
  ok : Bool
  lim : Bool
  deriving DecidableEq, Repr

/-- Y3 with the fields a form uses. -/
def ly3 (f : Y3) (d a b c mode lim : Bool) : LeadShape :=
  ⟨f.c = 1, f.c0 = 1 && f.x = 0 && (d || f.d = 0) && (a || f.a = 0) && (b || f.b = 0) && (c || f.e = 0) && mode, lim⟩

/-- The shape of every lead unit (R342, R407 to R416, R454, R461 to R466). -/
def leadShape (i : Instr) : LeadShape :=
  match i with
  | .nop _ => ⟨false, true, true⟩
  | .add _ => ⟨false, true, true⟩
  | .addi _ => ⟨false, true, true⟩
  | .sub _ => ⟨false, true, true⟩
  | .mul _ => ⟨false, true, true⟩
  | .and _ => ⟨false, true, true⟩
  | .or _ => ⟨false, true, true⟩
  | .xor _ => ⟨false, true, true⟩
  | .andi _ => ⟨false, true, true⟩
  | .ori _ => ⟨false, true, true⟩
  | .xori _ => ⟨false, true, true⟩
  | .shli _ => ⟨false, true, true⟩
  | .shri _ => ⟨false, true, true⟩
  | .sari _ => ⟨false, true, true⟩
  | .mov _ => ⟨false, true, true⟩
  | .movi _ => ⟨false, true, true⟩
  | .cmpeq _ => ⟨false, true, true⟩
  | .cmplt _ => ⟨false, true, true⟩
  | .adda _ => ⟨false, true, true⟩
  | .addai _ => ⟨false, true, true⟩
  | .fadd _ => ⟨false, true, true⟩
  | .fsub _ => ⟨false, true, true⟩
  | .fmul _ => ⟨false, true, true⟩
  | .fmin _ => ⟨false, true, true⟩
  | .fmax _ => ⟨false, true, true⟩
  | .ld _ => ⟨false, true, true⟩
  | .st _ => ⟨false, true, true⟩
  | .ldl _ => ⟨false, true, true⟩
  | .stl _ => ⟨false, true, true⟩
  | .bz _ => ⟨false, true, true⟩
  | .bnz _ => ⟨false, true, true⟩
  | .guardWord _ => ⟨false, true, true⟩
  | .bra _ => ⟨false, true, true⟩
  | .call _ => ⟨false, true, true⟩
  | .ret _ => ⟨false, true, true⟩
  | .rejoin => ⟨false, true, true⟩
  | .reform => ⟨false, true, true⟩
  | .yield => ⟨false, true, true⟩
  | .setpri _ => ⟨false, true, true⟩
  | .exitOp => ⟨false, true, true⟩
  | .endOp => ⟨false, true, true⟩
  | .grant _ => ⟨false, true, true⟩
  | .rdsr _ => ⟨false, true, true⟩
  | .wrsr _ => ⟨false, true, true⟩
  | .discard _ => ⟨false, true, true⟩
  | .swz _ => ⟨false, true, true⟩
  | .guard _ => ⟨false, true, true⟩
  | .fcmplt _ => ⟨false, true, true⟩
  | .addLong _ => ⟨false, true, true⟩
  | .subLong _ => ⟨false, true, true⟩
  | .mulLong _ => ⟨false, true, true⟩
  | .mulhi _ => ⟨false, true, true⟩
  | .mad _ => ⟨false, true, true⟩
  | .andLong _ => ⟨false, true, true⟩
  | .orLong _ => ⟨false, true, true⟩
  | .xorLong _ => ⟨false, true, true⟩
  | .shl _ => ⟨false, true, true⟩
  | .shr _ => ⟨false, true, true⟩
  | .sar _ => ⟨false, true, true⟩
  | .min _ => ⟨false, true, true⟩
  | .max _ => ⟨false, true, true⟩
  | .popc _ => ⟨false, true, true⟩
  | .clz _ => ⟨false, true, true⟩
  | .bfe _ => ⟨false, true, true⟩
  | .bfi _ => ⟨false, true, true⟩
  | .sel _ => ⟨false, true, true⟩
  | .cmp _ => ⟨false, true, true⟩
  | .addaLong _ => ⟨false, true, true⟩
  | .movLong _ => ⟨false, true, true⟩
  | .movp _ => ⟨false, true, true⟩
  | .moviLong _ => ⟨false, true, true⟩
  | .addiLong _ => ⟨false, true, true⟩
  | .andiLong _ => ⟨false, true, true⟩
  | .oriLong _ => ⟨false, true, true⟩
  | .xoriLong _ => ⟨false, true, true⟩
  | .addaiLong _ => ⟨false, true, true⟩
  | .faddLong _ => ⟨false, true, true⟩
  | .fsubLong _ => ⟨false, true, true⟩
  | .fmulLong _ => ⟨false, true, true⟩
  | .fma _ => ⟨false, true, true⟩
  | .fminLong _ => ⟨false, true, true⟩
  | .fmaxLong _ => ⟨false, true, true⟩
  | .fcmp _ => ⟨false, true, true⟩
  | .fclass _ => ⟨false, true, true⟩
  | .fround _ => ⟨false, true, true⟩
  | .fabs _ => ⟨false, true, true⟩
  | .fneg _ => ⟨false, true, true⟩
  | .dadd _ => ⟨false, true, true⟩
  | .dsub _ => ⟨false, true, true⟩
  | .dmul _ => ⟨false, true, true⟩
  | .dfma _ => ⟨false, true, true⟩
  | .dmin _ => ⟨false, true, true⟩
  | .dmax _ => ⟨false, true, true⟩
  | .dcmp _ => ⟨false, true, true⟩
  | .hadd2 _ => ⟨false, true, true⟩
  | .hmul2 _ => ⟨false, true, true⟩
  | .hfma2 _ => ⟨false, true, true⟩
  | .hmin2 _ => ⟨false, true, true⟩
  | .hmax2 _ => ⟨false, true, true⟩
  | .cvt _ => ⟨false, true, true⟩
  | .rcp _ => ⟨false, true, true⟩
  | .rsq _ => ⟨false, true, true⟩
  | .sqrt _ => ⟨false, true, true⟩
  | .log2 _ => ⟨false, true, true⟩
  | .exp2 _ => ⟨false, true, true⟩
  | .sin _ => ⟨false, true, true⟩
  | .cos _ => ⟨false, true, true⟩
  | .tanh _ => ⟨false, true, true⟩
  | .mvadd _ => ⟨false, true, true⟩
  | .mvsub _ => ⟨false, true, true⟩
  | .mvmul _ => ⟨false, true, true⟩
  | .mvfma _ => ⟨false, true, true⟩
  | .mvdiv _ => ⟨false, true, true⟩
  | .mvneg _ => ⟨false, true, true⟩
  | .mvabs _ => ⟨false, true, true⟩
  | .mvsf _ => ⟨false, true, true⟩
  | .mvcvt _ => ⟨false, true, true⟩
  | .mvset _ => ⟨false, true, true⟩
  | .mvvar _ => ⟨false, true, true⟩
  | .svadd _ => ⟨false, true, true⟩
  | .svsub _ => ⟨false, true, true⟩
  | .svmul _ => ⟨false, true, true⟩
  | .svfma _ => ⟨false, true, true⟩
  | .svsf _ => ⟨false, true, true⟩
  | .svstat _ => ⟨false, true, true⟩
  | .svset _ => ⟨false, true, true⟩
  | .svsort _ => ⟨false, true, true⟩
  | .rnd _ => ⟨false, true, true⟩
  | .rndf _ => ⟨false, true, true⟩
  | .rndmask _ => ⟨false, true, true⟩
  | .rndgauss _ => ⟨false, true, true⟩
  | .rndskip _ => ⟨false, true, true⟩
  | .rndget _ => ⟨false, true, true⟩
  | .rndset _ => ⟨false, true, true⟩
  | .minp _ => ⟨false, true, true⟩
  | .hdig _ => ⟨false, true, true⟩
  | .catdraw _ => ⟨false, true, true⟩
  | .shfl _ => ⟨false, true, true⟩
  | .bcast _ => ⟨false, true, true⟩
  | .vote _ => ⟨false, true, true⟩
  | .matchOp _ => ⟨false, true, true⟩
  | .red _ => ⟨false, true, true⟩
  | .scan _ => ⟨false, true, true⟩
  | .elect _ => ⟨false, true, true⟩
  | .bzLong _ => ⟨false, true, true⟩
  | .bnzLong _ => ⟨false, true, true⟩
  | .brx _ => ⟨false, true, true⟩
  | .callr _ => ⟨false, true, true⟩
  | .ldLong _ => ⟨false, true, true⟩
  | .stLong _ => ⟨false, true, true⟩
  | .ldlLong _ => ⟨false, true, true⟩
  | .stlLong _ => ⟨false, true, true⟩
  | .atom _ => ⟨false, true, true⟩
  | .atoml _ => ⟨false, true, true⟩
  | .gred _ => ⟨false, true, true⟩
  | .fence _ => ⟨false, true, true⟩
  | .waita _ => ⟨false, true, true⟩
  | .wake _ => ⟨false, true, true⟩
  | .discardLong _ => ⟨false, true, true⟩
  | .stt _ => ⟨false, true, true⟩
  | .barrierarrive _ => ⟨false, true, true⟩
  | .barrierwait _ => ⟨false, true, true⟩
  | .mbinit _ => ⟨false, true, true⟩
  | .mbput _ => ⟨false, true, true⟩
  | .mbget _ => ⟨false, true, true⟩
  | .waitc _ => ⟨false, true, true⟩
  | .cwait _ => ⟨false, true, true⟩
  | .copy _ => ⟨false, true, true⟩
  | .copyf _ => ⟨false, true, true⟩
  | .coll _ => ⟨false, true, true⟩
  | .tsend _ => ⟨false, true, true⟩
  | .tdisarm _ => ⟨false, true, true⟩
  | .ctrrd _ => ⟨false, true, true⟩
  | .ctrrst _ => ⟨false, true, true⟩
  | .bfjoin _ => ⟨false, true, true⟩
  | .bftake _ => ⟨false, true, true⟩
  | .bfdone _ => ⟨false, true, true⟩
  | .kvlook _ => ⟨false, true, true⟩
  | .kvins _ => ⟨false, true, true⟩
  | .kvunref _ => ⟨false, true, true⟩
  | .tclaim _ => ⟨false, true, true⟩
  | .tfree _ => ⟨false, true, true⟩
  | .tshape _ => ⟨false, true, true⟩
  | .tldw _ => ⟨false, true, true⟩
  | .tswap _ => ⟨false, true, true⟩
  | .tmma _ => ⟨false, true, true⟩
  | .tst _ => ⟨false, true, true⟩
  | .tsave _ => ⟨false, true, true⟩
  | .tload _ => ⟨false, true, true⟩
  | .rte _ => ⟨false, true, true⟩
  | .breakOp _ => ⟨false, true, true⟩
  | .swtrap _ => ⟨false, true, true⟩
  | .rdcyc _ => ⟨false, true, true⟩
  | .rdsrLong _ => ⟨false, true, true⟩
  | .wrsrLong _ => ⟨false, true, true⟩
  | .leadAdd f => ly3 f true true true false (f.mode = 0) (true)
  | .leadSub f => ly3 f true true true false (f.mode = 0) (true)
  | .leadMul f => ly3 f true true true false (f.mode = 0) (true)
  | .leadMulhi f => ly3 f true true true false (f.mode.toNat ≤ 1) (true)
  | .leadAnd f => ly3 f true true true false (f.mode.toNat ≤ 1) (true)
  | .leadOr f => ly3 f true true true false (f.mode.toNat ≤ 1) (true)
  | .leadXor f => ly3 f true true true false (f.mode.toNat ≤ 1) (true)
  | .leadShl f => ly3 f true true true false (f.mode = 0) (true)
  | .leadShr f => ly3 f true true true false (f.mode = 0) (true)
  | .leadSar f => ly3 f true true true false (f.mode = 0) (true)
  | .leadMin f => ly3 f true true true false (f.mode.toNat ≤ 1) (true)
  | .leadMax f => ly3 f true true true false (f.mode.toNat ≤ 1) (true)
  | .leadSel f => ly3 f true true true true (f.mode = 0) (true)
  | .leadCmp f => ly3 f true true true false (f.mode.toNat < 16 && f.mode.toNat % 8 ≤ 5 && f.d.toNat < 8) (true)
  | .leadAddi f => ⟨f.c = 1, f.c0 = 1 && f.mode = 0, true⟩
  | .leadLd f => ⟨f.c = 1, f.c0 = 1 && f.mode.toNat < 16 && !(f.mode.toNat / 4 % 2 = 1 && f.mode.toNat % 4 = 3), true⟩
  | .leadSt f => ⟨f.c = 1, f.c0 = 1 && f.mode.toNat < 16 && f.mode.toNat / 4 % 2 = 0, true⟩
  | .leadMovi f => ⟨f.c = 1, f.c0 = 1 && f.mode.toNat < 4, true⟩
  | .movhi f => ⟨f.c = 1, f.c0 = 1 && f.mode.toNat < 2, true⟩
  | .bp f => ⟨f.c = 1, f.c0 = 1 && f.d = 0 && f.mode = 0 && f.x = 0, true⟩
  | .leadBra f => ⟨f.c = 1, f.c0 = 1 && f.d = 0 && f.mode = 0 && f.x = 0 && f.cp = 0 && f.n = 0, true⟩
  | .leadEnd f => ly3 f false false false false (f.mode = 0) (true)
  | .dpush f => ly3 f false true false false (f.mode = 0) (true)
  | .ewait f => ly3 f true false false false (f.mode.toNat ≤ 1) (f.d.toNat ≤ 510)
  | .lrte f => ly3 f false false false false (f.mode = 0) (true)
  | .qset f => ly3 f false true false false (f.mode.toNat < 8) (true)
  | .qstart f => ly3 f false true false false (f.mode.toNat < 8) (f.a.toNat + 6 ≤ 511)
  | .bfcfg f => ly3 f false true false false (f.mode.toNat < 8) (true)
  | .ckpt f => ly3 f false true true false (f.mode = 0) (true)
  | .leadCopy f => ly3 f false true true true (f.mode = 0) (true)
  | .leadCopyf f => ly3 f false true true true (f.mode = 0) (true)
  | .leadColl f => ly3 f false true false false (f.mode = 0) (f.a.toNat + 7 ≤ 511)
  | .leadTsend f => ly3 f true true false false (f.mode = 0) (f.a.toNat + 3 ≤ 511)
  | .leadTdisarm f => ly3 f true true false false (f.mode = 0) (true)
  | .leadCtrrd f => ly3 f true true false false (f.mode = 0) (true)
  | .leadCtrrst f => ly3 f true true false false (f.mode = 0) (true)
  | .leadTclaim f => ly3 f true true false false (f.mode = 0) (true)
  | .leadTfree f => ly3 f false true false false (f.mode = 0) (true)
  | .leadTshape f => ly3 f false true false false (f.mode.toNat < 4) (true)
  | .leadTldw f => ly3 f false true true true (f.mode.toNat < 4) (true)
  | .leadTswap f => ly3 f false false false false (f.mode = 0) (true)
  | .leadTmma f => ly3 f false true true true (true) (true)
  | .leadTst f => ly3 f false true true false (true) (true)
  | .leadTsave f => ly3 f false true false false (f.mode.toNat % 4 = 0) (true)
  | .leadTload f => ly3 f false true false false (f.mode.toNat % 4 = 0) (true)
  | .stash f => ly3 f true true true true (f.mode = 0) (true)
  | .leadRdsr f => ly3 f true false false false (true) (f.mode = 0x40)
  | .leadWrsr f => ly3 f false true false false (true) (f.mode = 0x40)
  | .leadRdcyc f => ly3 f true false false false (f.mode = 0) (true)
  | .leadBreak f => ly3 f false false false false (f.mode = 0) (true)
  | .leadSwtrap f => ⟨f.c = 1, f.c0 = 1 && f.d = 0 && f.mode = 0 && f.imm.toNat ≤ 255, true⟩
  | .unassignedEncoding _ _ => ⟨false, true, true⟩
  | .packageReset => ⟨false, true, true⟩
  | .unitSelfTestDone => ⟨false, true, true⟩
  | .firmwareVerify => ⟨false, true, true⟩
  | .firmwareUpdate => ⟨false, true, true⟩
  | .securityVersionRaise => ⟨false, true, true⟩
  | .measurementExtend => ⟨false, true, true⟩
  | .attestationRequest => ⟨false, true, true⟩
  | .attestationReport => ⟨false, true, true⟩
  | .d2dLost => ⟨false, true, true⟩
  | .memEccCorrected => ⟨false, true, true⟩
  | .memEccUncorrectable => ⟨false, true, true⟩
  | .sramSoftError => ⟨false, true, true⟩
  | .internalTimeout => ⟨false, true, true⟩
  | .leaveGrant => ⟨false, true, true⟩
  | .tileLeaveRelease => ⟨false, true, true⟩
  | .govstatRead => ⟨false, true, true⟩
  | .coolingSample => ⟨false, true, true⟩
  | .portLinkUp => ⟨false, true, true⟩
  | .portLinkDown => ⟨false, true, true⟩
  | .portstatRead => ⟨false, true, true⟩
  | .malformedFrame => ⟨false, true, true⟩
  | .uetUnsupportedRequest => ⟨false, true, true⟩
  | .incomingRmaWrite => ⟨false, true, true⟩
  | .incomingRmaRead => ⟨false, true, true⟩
  | .incomingFetchAtomic => ⟨false, true, true⟩
  | .heldLandingRelease => ⟨false, true, true⟩
  | .uetAck => ⟨false, true, true⟩
  | .uetNak => ⟨false, true, true⟩
  | .uetRetransmit => ⟨false, true, true⟩
  | .peerLostTimeout => ⟨false, true, true⟩
  | .collectiveData => ⟨false, true, true⟩
  | .collectivePhaseTimeout => ⟨false, true, true⟩
  | .collectiveComplete => ⟨false, true, true⟩
  | .bridgeForward => ⟨false, true, true⟩
  | .registerWrite => ⟨false, true, true⟩
  | .wdiscardRead => ⟨false, true, true⟩
  | .kick => ⟨false, true, true⟩
  | .kickTake => ⟨false, true, true⟩
  | .kickReread => ⟨false, true, true⟩
  | .replayStart => ⟨false, true, true⟩
  | .nodeComplete => ⟨false, true, true⟩
  | .hostNotify => ⟨false, true, true⟩
  | .evtheadWrite => ⟨false, true, true⟩
  | .evtcfgWrite => ⟨false, true, true⟩
  | .evtlostRead => ⟨false, true, true⟩
  | .fpcountWrite => ⟨false, true, true⟩
  | .fpthreshWrite => ⟨false, true, true⟩
  | .ctxCreate => ⟨false, true, true⟩
  | .ctxDestroy => ⟨false, true, true⟩
  | .ctxDestroyDone => ⟨false, true, true⟩
  | .ctxPartition => ⟨false, true, true⟩
  | .ctxPartitionDone => ⟨false, true, true⟩
  | .graphRegister => ⟨false, true, true⟩
  | .graphRelease => ⟨false, true, true⟩
  | .ctxLimits => ⟨false, true, true⟩
  | .regionSet => ⟨false, true, true⟩
  | .regionFree => ⟨false, true, true⟩
  | .counterSetAssign => ⟨false, true, true⟩
  | .counterSetRelease => ⟨false, true, true⟩
  | .counterSetValue => ⟨false, true, true⟩
  | .poolEntry => ⟨false, true, true⟩
  | .nodeAging => ⟨false, true, true⟩
  | .nodeDispatch => ⟨false, true, true⟩
  | .kernelPassedOver => ⟨false, true, true⟩
  | .blockPlace => ⟨false, true, true⟩
  | .batchForm => ⟨false, true, true⟩
  | .faultRewalk => ⟨false, true, true⟩
  | .hotPageInterval => ⟨false, true, true⟩
  | .catalogueOp => ⟨false, true, true⟩
  | .loadReturn => ⟨false, true, true⟩
  | .storeVisible => ⟨false, true, true⟩
  | .rangeRegistration => ⟨false, true, true⟩
  | .copyComplete => ⟨false, true, true⟩
  | .followOnEntry => ⟨false, true, true⟩
  | .stashComplete => ⟨false, true, true⟩
  | .samplerOpComplete => ⟨false, true, true⟩
  | .tileStepStart => ⟨false, true, true⟩
  | .tileStepBoundary => ⟨false, true, true⟩
  | .tileOpComplete => ⟨false, true, true⟩
  | .streamEntry => ⟨false, true, true⟩
  | .rejoinTimeout => ⟨false, true, true⟩
  | .ejectHandover => ⟨false, true, true⟩
  | .carrelReturn => ⟨false, true, true⟩
  | .reformDraw => ⟨false, true, true⟩
  | .preemptEntry => ⟨false, true, true⟩
  | .saveComplete => ⟨false, true, true⟩
  | .dbgstop => ⟨false, true, true⟩
  | .dbgresume => ⟨false, true, true⟩
  | .stopComplete => ⟨false, true, true⟩
  | .samplostRead => ⟨false, true, true⟩
  | .accheadWrite => ⟨false, true, true⟩
  | .rrReadRelease => ⟨false, true, true⟩
  | .rrReadTimeout => ⟨false, true, true⟩
  | .d2dFlitRetry => ⟨false, true, true⟩
  | .fecCodeword => ⟨false, true, true⟩
  | .cmdUnassignedOp => ⟨false, true, true⟩
  | .sttStageLoaded => ⟨false, true, true⟩
  | .tileSourceUnlock => ⟨false, true, true⟩

/-! Checks of R328 on one lane unit. -/

/-- Whether a run of registers is aligned and within the declared count; 112 to 127 are exempt in trap state (R198). -/
def regsOk (count : Nat) (trap : Bool) (n w : Nat) : Bool :=
  w = 0 || (n % w = 0 && (n + w ≤ count || (trap && 112 ≤ n)))

def Src.regOk (s : Src) (count : Nat) (trap : Bool) : Bool := s.kind != 0 || regsOk count trap s.n s.w

/-- The subcode of the first ILLEGAL cause in R328's order, if any. -/
def Shape.illegal (x : Shape) (count : Nat) (trap : Bool) : Option Nat :=
  if !x.ok then some 2
  else if x.srcs.any fun s => s.kind = 0 && s.hint = 3 then some 4
  else if !(regsOk count trap x.d x.dw && x.srcs.all fun s => s.regOk count trap) then some 3
  else if !x.lim then some 5
  else Option.none

/-- Queues a unit names, each once (R210). -/
def Shape.queues (x : Shape) : List Nat := ((x.srcs.filter fun s => s.kind = 2).map fun s => s.n).eraseDups

/-! Reading sources (R345, R206, R208 to R210). -/

/-- How a queue stands for a thread: an entry to pop with its value, nothing yet, or nothing any more. -/
inductive Pop where
  | value (w : Word)
  | wait
  | isOver
  deriving DecidableEq, Repr

/-- The number of the entry that a thread pops next of a queue whose entries are numbered from 0, if it has been written. The thread holds that number
modulo 2^16 (R244), and at most 64 entries are unpopped. -/
def Queue.next (q : Queue) (r : BitVec 16) : Option Nat :=
  let left := (BitVec.ofNat 16 q.written - r).toNat
  if left = 0 then none else some (q.written - left)

/-- The value of entry e of a queue for a thread. Element i of a per-thread entry is that of the thread's index minus s499 bits 30:16; no rule states
the value where the entry has no such element (DESIGN CHOICE, log entry 6). -/
def queueValue (sh : Share) (q : Queue) (e t : Nat) : Word :=
  let slot := e % (if q.d = 0 then 1 else q.d)
  if q.perThread then
    let first := sh.lead.firstIndex
    if first ≤ t && t - first < q.n then BitVec.ofNat 32 (sh.loc.nat (q.base + slot * q.entryBytes + 4 * (t - first)) 4)
    else (Config.freeDword e t).setWidth 32
  else BitVec.ofNat 32 (sh.loc.nat (q.base + 4 * slot) 4)

/-- What a pop of queue n (8 is the decision queue) finds for a thread of a share. -/
def popOf (sh : Share) (t : Nat) (th : Thread) (n : Nat) : Pop :=
  let l := sh.lead
  if n = 8 then
    if th.dqr != l.dqw then .value (l.dq[th.dqr.toNat % 64]'(Nat.mod_lt _ (by decide)))
    else if l.status = .ended then .isOver else .wait
  else
    match (l.queues.toList)[n]? with
    | some (some q) =>
      match q.next ((th.qr.toList)[n]?.getD 0) with
      | some e => .value (queueValue sh q e t)
      | none =>
        if l.status = .ended && !(match q.stream with | some st => st.running | none => false) then .isOver else .wait
    | _ => if l.status = .ended then .isOver else .wait

/-- Pops a queue: the read index moves on by one entry. -/
def Thread.pop (th : Thread) (n : Nat) : Thread :=
  if n = 8 then { th with dqr := th.dqr + 1 } else { th with qr := Vector.ofFn fun i => if i.val = n then th.qr[i] + 1 else th.qr[i] }

/-- The words of one source, with a stand-in where a queue has nothing to pop. (DEDUCED, log entry 26) -/
def readSrcWith (stand : Word) (sh : Share) (t : Nat) (th : Thread) (s : Src) : List Word :=
  match s.kind with
  | 0 => (List.range s.w).map fun i => th.get (BitVec.ofNat 7 (s.n + i))
  | 1 =>
    let x := sh.lead.s[s.n % 512]'(Nat.mod_lt _ (by decide))
    [x.setWidth 32, (x >>> 32).setWidth 32].take s.w
  | _ => match popOf sh t th s.n with | .value w => [w] | _ => [stand]

/-- The words of one source. -/
def readSrc (sh : Share) (t : Nat) (th : Thread) (s : Src) : List Word := readSrcWith 0 sh t th s

/-- Applies the last-use poison of a unit's sources (R199). -/
def poisonRegs (s : State) (r : ThreadRef) (trap : Bool) : List Src → State
  | [] => s
  | x :: rest =>
    let s1 :=
      if x.kind = 0 && x.hint = 2 then
        (List.range x.w).foldl (fun a i =>
          let n := BitVec.ofNat 7 (x.n + i)
          a.putReg r ⟨trap && 112 ≤ n.toNat, n⟩ poisonWord false) s
      else s
    poisonRegs s1 r trap rest

end Sys2Proof.Machine
end

