-- ==== Sys2Proof/Machine/Lane.lean ====
section
/-! DEFINITION. How one unit issues for one lane thread or lead context (spec 11 R233, 17 R323 to R329, 09 R199, R210): decode checks,
queue pops, poison, guard, effect, trap or wait. -/

namespace Sys2Proof.Machine

/-- How a unit's own effect comes out. done leaves the state after its effect, to go on at the next word; jump goes to a word;
gone has dealt with the thread's status itself; trap leaves no effect, trapWith none but for what befalls others; wait leaves none either but for the note it makes; stop halts
the block at the unit (R306). -/
inductive UnitRes where
  | done (s : State)
  | jump (s : State) (pc : CodeAddr)
  | gone (s : State)
  | trap (t : Trap)
  | trapWith (note : State → State) (t : Trap)
  | wait (note : State → State) (w : Wait)
  | stop (reason : Nat)

/-- What a lane unit works with: the thread, its block and share as they were before the unit, the words of its sources, its
destination, and the addresses of the unit and the word after it. -/
structure LaneEnv where
  r : ThreadRef
  b : Block
  j : Nat
  sh : Share
  th : Thread
  vals : List (List Word)
  d : Nat
  pc : CodeAddr
  next : CodeAddr

/-- Word i of source k. -/
def LaneEnv.w (e : LaneEnv) (k i : Nat) : Word := (e.vals.getD k []).getD i 0

/-- Source k as one 32-bit value. -/
def LaneEnv.x (e : LaneEnv) (k : Nat) : Word := e.w k 0

/-- Source k as a pair, low word first. -/
def LaneEnv.pair (e : LaneEnv) (k : Nat) : Dword := e.w k 1 ++ e.w k 0

/-- Writes the destination registers. -/
def LaneEnv.write (e : LaneEnv) (s : State) (ws : List Word) : State := s.putRegs e.r e.th.inTrap (BitVec.ofNat 7 e.d) ws

/-- A 64-bit value as two words. -/
def two (x : Dword) : List Word := [x.setWidth 32, (x >>> 32).setWidth 32]

/-- Threads that took the same cause at the same instruction, each for its own gang: the bits of their gang positions make TRAPMASK (R234). -/
def State.noteTrap (s : State) (r : ThreadRef) (cause : Word) (pc : CodeAddr) : State :=
  let l := s.issue.trapped ++ [(r.t, cause, pc)]
  let same := (l.filter fun e => e.2.1 = cause && e.2.2 = pc).map fun e => e.1
  let maskOf (g t : Nat) : Nat := (same.filter fun u => u / g = t / g).foldl (fun m u => m ||| 2 ^ (u % g)) 0
  same.foldl (fun a t => a.modThread ⟨r.block, t⟩ fun th =>
      { th with trapMask := BitVec.ofNat 64 (maskOf (if th.g = 0 then 1 else th.g.toNat) t) })
    { s with issue := { s.issue with trapped := l } }

/-- Sets how the unit ended. -/
def State.ended (s : State) (x : IResult) : State := { s with issue := { s.issue with result := x } }

/-- Notes the trap taken. -/
def State.noteTaken (s : State) (t : Trap) : State := { s with issue := { s.issue with taken := some (t.cause, t.sub, t.addr) } }

/-- A synchronous trap of a lane unit: the chain's first word is the return address (R233). -/
def State.unitTrap (s : State) (r : ThreadRef) (t : Trap) : State :=
  let slot := s.issue.unit.toNat % 3
  let s1 := s.takeTrap r t s.issue.start slot s.issue.chained
  ((s1.noteTrap r (BitVec.ofNat 32 t.cause) s.issue.start).noteTaken t).ended .trapped

/-- The thread after a unit that went through. -/
def Thread.done (th : Thread) (pc : CodeAddr) : Thread := { th with pc := pc, status := .ready, pass := false }

/-- Words of a unit without its guard (R315, R316). -/
def unitLen (i : Instr) : Nat :=
  match i with
  | .unassignedEncoding w _ => if isLongPrimary (primaryOf w) then 2 else 1
  | _ => if (encode i).length = 2 then 2 else 1

/-- What the pops of a unit come to: the first queue that is over, or whether one has nothing yet. -/
def popsOf (sh : Share) (t : Nat) (th : Thread) (qs : List Nat) : Option Nat × Bool :=
  let f (q : Nat) := popOf sh t th q
  (qs.find? fun q => f q = .isOver, qs.any fun q => f q = .wait)

/-- Pops every queue of a list for a thread. -/
def State.popAll (s : State) (r : ThreadRef) (qs : List Nat) : State :=
  qs.foldl (fun a q => a.modThread r fun th => th.pop q) s

/-- The unit's effect settled into the thread. -/
def State.settleUnit (s0 : State) (r : ThreadRef) (next : CodeAddr) (res : UnitRes) : State :=
  match res with
  | .done s => (s.modThread r fun th => th.done next).ended .done
  | .jump s pc => (s.modThread r fun th => th.done pc).ended .done
  | .gone s => s.ended .done
  | .trap t => s0.unitTrap r t
  | .trapWith note t => (note s0).unitTrap r t
  | .wait note w => (note (s0.modThread r fun th => { th with status := .wait w })).ended .blocked
  | .stop n => ((s0.stopBlock r.block n).modThread r fun th => { th with pass := true }).ended .blocked

/-- A trap that stands above QUEUE in R235. -/
def UnitRes.above (res : UnitRes) : Option Trap :=
  match res with
  | .trap t | .trapWith _ t => if t.cause = 0x01 || t.cause = 0x0F || t.cause = 0x0B || t.cause = 0x09 || t.cause = 0x0A then some t else none
  | _ => none

/-- Stand-ins for a value that a queue does not give. -/
def standIns : List Word := [0, 1, 2, 3, 16, 64, 128, 4096, 0xFFFFFFFF]

/-- The trap above QUEUE that a unit takes although a queue has nothing to pop: one that it takes whatever the queue would give (R235). (DEDUCED, log entry 26) -/
def aboveQueue (res : Word → UnitRes) : Option Trap :=
  if standIns.all fun w => (res w).above.isSome then (res 0).above else none

/-- Notes that a thread went through a unit of the LS pipe with a true guard (R309). -/
def State.noteLs (s : State) (p : Pipe) (t : Nat) (pc : CodeAddr) : State :=
  if p = .ls && s.issue.result = .done && s.issue.guard != some false then
    { s with issue := { s.issue with ls := s.issue.ls ++ [t], lsPc := pc } }
  else s

/-- What the thread's own guard leaves of the effect (R323). (DEDUCED, log entry 31) -/
def guarded (s : State) (res : State → UnitRes) : UnitRes :=
  if s.issue.guard = some false then .done s else res s

/-- One lane unit for the thread in hand (R199, R210, R323, R326, R328, R237). (DEDUCED, log entry 31) -/
def laneUnit (i : Instr) (body : LaneEnv → State → UnitRes) (r : ThreadRef) (b : Block) (th : Thread) (s : State) : State :=
  let j := b.home r.t
  match b.shares[j]? with
  | none => s
  | some sh =>
    let x := shape i
    let next : Nat := th.pc.toNat + unitLen i
    let env (vals : List (List Word)) : LaneEnv := ⟨r, b, j, sh, th, vals, x.d, th.pc, BitVec.ofNat 48 next⟩
    if 2 ^ 48 ≤ next then s.unitTrap r (.sync 0x03 0 0)
    else
      match x.illegal b.regCount th.inTrap with
      | some sub => s.unitTrap r (.sync 0x01 sub 0)
      | none =>
        match s.issue.latch with
        | some l => (s.settleUnit r (BitVec.ofNat 48 next) (guarded s (body (env l.vals)))).noteLs x.pipe r.t th.pc
        | none =>
          let vals := x.srcs.map fun y => readSrc sh r.t th y
          match popsOf sh r.t th x.queues with
          | (none, false) =>
            (s.settleUnit r (BitVec.ofNat 48 next)
              (guarded (poisonRegs (s.popAll r x.queues) r th.inTrap x.srcs) (body (env vals)))).noteLs x.pipe r.t th.pc
          | (isOver, _) =>
            match aboveQueue (fun w => guarded s (body (env (x.srcs.map fun y => readSrcWith w sh r.t th y)))), isOver with
            | some t, _ => s.unitTrap r t
            | none, some q => s.unitTrap r (.sync 0x0D q 0)
            | none, none => (s.modThread r fun th => { th with status := .wait .retry }).ended .blocked

/-- A synchronous trap of a lead unit (R238). -/
def State.leadTrap (s : State) (r : LeadRef) (t : Trap) : State :=
  ((s.takeLeadTrap r t s.issue.start (s.issue.unit.toNat % 3) s.issue.chained).noteTaken t).ended .trapped

/-- A unit of the other slice traps ILLEGAL with subcode 0x00 (R328). (DEDUCED, log entry 39) -/
def State.wrongSlice (s : State) : State :=
  match s.issue.agent with
  | some (.lane r) => s.unitTrap r (.sync 0x01 0 0)
  | some (.lead l) => s.leadTrap l (.sync 0x01 0 0)
  | none => s

/-- A lane instruction: for the thread in hand; for a lead context it is a word of the other slice; with nobody in hand it does nothing. (DEDUCED, log entry 39) -/
def lane (i : Instr) (body : LaneEnv → State → UnitRes) (s : State) : Host.Outcome State Fault Refusal :=
  match s.issue.agent with
  | some (.lane r) =>
    match s.block? r.block with
    | none => .next s
    | some b =>
      match b.threads[r.t]? with
      | none => .next s
      | some th => .next (laneUnit i body r b th s)
  | some (.lead _) => .next s.wrongSlice
  | none => .next s

/-- What a lead unit works with. -/
structure LeadEnv where
  r : LeadRef
  b : Block
  sh : Share
  l : Lead
  pc : CodeAddr
  next : CodeAddr

/-- How a lead unit comes out. -/
inductive LeadRes where
  | done (s : State)
  | jump (s : State) (pc : CodeAddr)
  | gone (s : State)
  | trap (t : Trap)
  | wait (note : State → State) (w : LStatus)
  | stop (reason : Nat)

def State.settleLead (s0 : State) (r : LeadRef) (next : CodeAddr) (res : LeadRes) : State :=
  match res with
  | .done s => (s.modLead r fun l => { l with pc := next, status := .ready, pass := false }).ended .done
  | .jump s pc => (s.modLead r fun l => { l with pc := pc, status := .ready, pass := false }).ended .done
  | .gone s => s.ended .done
  | .trap t => s0.leadTrap r t
  | .wait note w => (note (s0.modLead r fun l => { l with status := w })).ended .blocked
  | .stop n => ((s0.stopBlock r.block n).modLead r fun l => { l with pass := true }).ended .blocked

/-- One lead unit for a lead context (R320, R327, R328, R407). -/
def leadUnit (i : Instr) (body : LeadEnv → State → LeadRes) (r : LeadRef) (b : Block) (sh : Share) (s : State) : State :=
  let x := leadShape i
  let next := sh.lead.pc.toNat + 2
  if x.packet then s.leadTrap r (.sync 0x02 0 0)
  else if !x.ok then s.leadTrap r (.sync 0x01 2 0)
  else if !x.lim then s.leadTrap r (.sync 0x01 5 0)
  else if 2 ^ 48 ≤ next then s.leadTrap r (.sync 0x03 0 0)
  else s.settleLead r (BitVec.ofNat 48 next) (body ⟨r, b, sh, sh.lead, sh.lead.pc, BitVec.ofNat 48 next⟩ s)

/-- A lead instruction: for the lead context in hand; for a lane thread it is a word of the other slice. (DEDUCED, log entry 39) -/
def lead (i : Instr) (body : LeadEnv → State → LeadRes) (s : State) : Host.Outcome State Fault Refusal :=
  match s.issue.agent with
  | some (.lead r) =>
    match s.block? r.block with
    | none => .next s
    | some b =>
      match b.shares[r.j]? with
      | none => .next s
      | some sh => .next (leadUnit i body r b sh s)
  | some (.lane _) => .next s.wrongSlice
  | none => .next s

/-- Writes one scalar register. -/
def LeadEnv.put (e : LeadEnv) (s : State) (d : BitVec 9) (x : Dword) : State := s.modLead e.r fun l => l.put d x

/-- An event of the engines, the host side or the environment: what it does to the state, nothing where it does not apply. (DESIGN CHOICE, log entry 38, DEDUCED, log entry 39) -/
def event (f : State → State) (s : State) : Host.Outcome State Fault Refusal := .next (f s)

end Sys2Proof.Machine
end

