-- ==== Sys2Proof/Machine/Flags.lean ====
section
/-! DEFINITION. Floating-point events (spec 12 R260 to R262, 03 R76, R77): the counters and thresholds of a context, and a thread's
FPCTR. -/

namespace Sys2Proof.Machine

/-- Event e of the table of R260. -/
def FpEvents.at_ (v : FpEvents) (e : Nat) : Bool :=
  match e with | 0 => v.nan | 1 => v.inf | 2 => v.ovf | _ => v.unf

/-- Posts FP_THRESH and clears the threshold when counter k has met a threshold that is not 0 (R77). -/
def State.fpCheck (s : State) (ctx k : Nat) (d : Die) : State :=
  match s.ctx? ctx with
  | none => s
  | some c =>
    let cnt := (c.fpCount.toList)[k]?.getD 0
    let th := (c.fpThresh.toList)[k]?.getD 0
    if th != 0 && th.toNat ≤ cnt.toNat then
      (s.modCtx ctx fun c => { c with fpThresh := c.fpThresh.set! k 0 }).post d 0x06 0 ctx
        (BitVec.ofNat 64 k) (cnt.setWidth 64) 0
    else s

/-- Counter k of a context takes one event more and saturates (R261). -/
def State.fpBump (s : State) (ctx k : Nat) (d : Die) : State :=
  (s.modCtx ctx fun c =>
    let x := (c.fpCount.toList)[k]?.getD 0
    { c with fpCount := c.fpCount.set! k (if x = 0xFFFFFFFF then x else x + 1) }).fpCheck ctx k d

/-- The counters of one result of a format (R260, R261). -/
def State.fpCount (s : State) (ctx : Nat) (d : Die) (t : FTy) (v : FpEvents) : State :=
  [0, 1, 2, 3].foldl (fun a e => if v.at_ e then a.fpBump ctx (4 * t.index + e) d else a) s

/-- STICKY with the events of one result (R262). -/
def stickyOf (w : Word) (v : FpEvents) : Word :=
  w ||| BitVec.ofNat 32 (b2n v.nan + 2 * b2n v.inf + 4 * b2n v.ovf + 8 * b2n v.unf)

/-- One result element of a lane instruction (R260, R262): STICKY, and unless NOCNT is set the context's counters. -/
def LaneEnv.fp (e : LaneEnv) (s : State) (t : FTy) (v : FpEvents) : State :=
  if v = .none then s
  else
    let s1 := s.modThread e.r fun th => { th with fpctr := stickyOf th.fpctr v }
    if e.th.fpctr.toNat / 16 % 2 = 1 then s1 else s1.fpCount e.b.ctx e.b.die t v

/-- The events of several results of one format. -/
def LaneEnv.fps (e : LaneEnv) (s : State) (t : FTy) (vs : List FpEvents) : State := vs.foldl (fun a v => e.fp a t v) s

end Sys2Proof.Machine
end

