-- ==== Sys2Proof/Machine/Window.lean ====
section
/-! DEFINITION. The management window (spec 03 R61, R66, R68, R74 to R78, 01 R17, R20, R22, 02 R32, R38, R41, 16 R305, R306, R308): its
registers as the host and the device reach them, and the steps that are such an access. -/

namespace Sys2Proof.Machine

/-- A discarded access is counted (R61). -/
def State.discard (s : State) : State :=
  { s with pkg := { s.pkg with wdiscard := if s.pkg.wdiscard = 0xFFFFFFFFFFFFFFFF then s.pkg.wdiscard else s.pkg.wdiscard + 1 } }

/-! Readiness (R20). -/

/-- The package's number of a core (READYC, CTX_PARTITION): die B's cores follow the 128 of die A. -/
def coreBit (d : Die) (c : Nat) : Nat := 128 * d.num + c

def State.coreReady (s : State) (d : Die) (c : Nat) : Bool := s.pkg.readyC.getLsbD (coreBit d c)

/-- A context that commands and debugging find live: CTXSTAT 1 or 2. (DEDUCED, log entry 33) -/
def State.live (s : State) (n : Nat) : Bool :=
  match s.ctx? n with
  | some c => c.stat = 1 || c.stat = 2
  | none => false

/-! Kicks (R66, R68). -/

def kickHandle (k : Kick) : Nat := bits k.toNat 0 32
def kickSeq (k : Kick) : Word := BitVec.ofNat 32 (bits k.toNat 32 32)
def kickPatch (k : Kick) : Nat := bits k.toNat 64 56
def kickCrc (k : Kick) : Word := BitVec.ofNat 32 (bits k.toNat 128 32)
def kickN (k : Kick) : Nat := bits k.toNat 160 13
def kickTag (k : Kick) : Word := BitVec.ofNat 32 (bits k.toNat 192 32)

/-- A kick of 32 bytes reaches its context's slot (R66, R68). -/
def State.kickWrite (s : State) (n : Nat) (k : Kick) : State :=
  match s.ctx? n with
  | none => s.discard
  | some c =>
    if c.stat = 3 || !s.readyBit (bitGc c.home) then s.discard
    else
      let q := kickSeq k
      if (q - c.e).toNat < 16 && !(c.kicks.any fun x => kickSeq x = q) then
        s.modCtx n fun c => { c with kicks := c.kicks ++ [k] }
      else s.post c.home 0x04 0 n (q.setWidth 64) (c.e.setWidth 64) 0

/-! Commands (R78). -/

/-- The 64 bytes of a command. -/
def cmdOf (v : Nat) : QCmd :=
  let w (i : Nat) : Dword := BitVec.ofNat 64 (bits v (64 * i) 64)
  ⟨BitVec.ofNat 8 (bits v 0 8), BitVec.ofNat 8 (bits v 8 8), BitVec.ofNat 16 (bits v 16 16), BitVec.ofNat 32 (bits v 32 32),
    w 1, w 2, w 3, w 4, w 5, w 6, w 7⟩

/-- CMD_DONE (R75). -/
def State.cmdDone (s : State) (q : QCmd) (status : BitVec 8) (detail : Nat) : State :=
  s.post .a 0x0B status q.c.ctx.toNat (BitVec.ofNat 64 (q.c.tag.toNat + q.op.toNat * 2 ^ 32)) (BitVec.ofNat 64 detail) 0

/-- A command arrives: queued, or refused as the seventeenth waiting. (DEDUCED, log entry 18) -/
def State.cmdArrive (s : State) (q : QCmd) : State :=
  if 16 ≤ s.cmdq.length then s.cmdDone q 0x30 0 else { s with cmdq := s.cmdq ++ [q] }

/-! Stops (R306, R308). -/

/-- Whether a stop request names a block. -/
def StopReq.names (q : StopReq) (b : Block) : Bool :=
  b.ctx = q.ctx && (q.seq = 0xFFFFFFFF || b.seq = q.seq) && (q.all || (b.node = q.node && b.b = q.block))

/-- Whether a block is on its cores. -/
def Block.resident (b : Block) : Bool := b.stage = .running || b.stage = .saving || b.stage = .resuming

def State.dbgStop (s : State) (v : Nat) : State :=
  let q : StopReq := ⟨bits s.dbg.cfg.toNat 0 10, BitVec.ofNat 32 (bits s.dbg.seq.toNat 0 32), bit v 63, bits v 32 16, bits v 0 32⟩
  let hit := s.blocks.filter fun b => b.resident && q.names b
  let s1 := hit.foldl (fun a b => a.stopBlock b.id 1) s
  if q.all || hit.isEmpty then { s1 with dbg := { s1.dbg with stops := s1.dbg.stops ++ [q] } } else s1

/-- A block goes on: what R306 froze counts on. -/
def Block.unstop (b : Block) (now : Nat) : Block :=
  match b.stop with
  | none => b
  | some st =>
    let later (c : Nat) : Nat := c + (now - max st.since c)
    { b with
      stop := none
      threads := b.threads.map fun th => { th with readyAt := th.readyAt.map later }
      shares := b.shares.map fun (x : Share) => { x with lead := { x.lead with readyAt := x.lead.readyAt.map later } }
      recs := b.recs.map fun (r : RejoinRec) => { r with first := r.first.map later }
      bins := b.bins.map fun (x : Bin) => { x with threads := x.threads.map fun e => (e.1, later e.2) } }

def State.dbgResume (s : State) : State :=
  let n := bits s.dbg.cfg.toNat 0 10
  { s with
    blocks := s.blocks.map fun b => if b.ctx = n then b.unstop (s.cycle b.die) else b
    dbg := { s.dbg with stops := s.dbg.stops.filter fun q => !(q.ctx = n && q.all) } }

/-! Registers by offset (R61, R74, R305). -/

/-- PORTSTAT (R32). -/
def Port.word (p : Port) : Nat :=
  b2n p.up + 2 * b2n p.an + 4 * b2n p.llr + p.fecCor.toNat * 2 ^ 8 + p.fecUnc.toNat * 2 ^ 32 + p.drops.toNat * 2 ^ 48

/-- GOVSTAT (R17). -/
def Gov.word (g : Gov) (thermal : BitVec 2) : Nat :=
  g.held.length % 256 + g.pending.length % 256 * 2 ^ 8 + thermal.toNat * 2 ^ 16 + g.longest.toNat * 2 ^ 32

def State.gov (s : State) (d : Die) : Gov := match d with | .a => s.govA | .b => s.govB

def State.setGov (s : State) (d : Die) (g : Gov) : State := match d with | .a => { s with govA := g } | .b => { s with govB := g }

/-- The number of a RW register that a map of masks lists. -/
def rwMask (off : Nat) : Option Nat :=
  match off with
  | 0x100 => some (2 ^ 21 - 1)
  | 0x108 => some (2 ^ 56 - 2 ^ 16)
  | 0x110 => some (2 ^ 64 - 1)
  | 0x600 | 0x608 => some (2 ^ 64 - 1)
  | 0x610 => some (2 ^ 56 - 1)
  | 0x618 => some 0x11F
  | 0x620 => some (2 ^ 32 - 1)
  | 0x900 => some (2 ^ 14 - 1)
  | 0x908 => some (2 ^ 32 - 1)
  | 0x910 => some (2 ^ 48 - 1 + 2 ^ 63)
  | 0x918 => some (2 ^ 64 - 1)
  | 0x920 => some (2 ^ 56 - 1)
  | 0x928 => some (2 ^ 40 - 1)
  | 0x930 | 0x938 | 0x940 | 0x948 => some (2 ^ 62 - 1)
  | 0x950 => some (2 ^ 24 - 1)
  | 0x958 | 0x978 => some (2 ^ 61 - 1)
  | 0x960 | 0x980 => some (2 ^ 64 - 1)
  | _ => if 0x400 ≤ off && off < 0x600 then some (2 ^ 22 - 1) else none

/-- Whether an offset is one of the debug registers. -/
def isDbg (off : Nat) : Bool := 0x900 ≤ off && off < 0x9A0

/-- The value of an 8-byte register, none where a read finds nothing listed or a register that is only written. -/
def State.regValue (s : State) (off : Nat) : Option Nat :=
  match off with
  | 0x0 => some s.pkg.readyF.toNat
  | 0x8 | 0x10 | 0x18 | 0x20 => some (bits s.pkg.readyC.toNat (64 * ((off - 8) / 8)) 64)
  | 0x40 => some (s.govA.word s.pkg.thermal)
  | 0x48 => some (s.govB.word s.pkg.thermal)
  | 0x100 => some s.pkg.devnum.toNat
  | 0x108 => some s.pkg.peerbase.toNat
  | 0x110 => some s.pkg.colltmo.toNat
  | 0x118 => some s.pkg.wdiscard.toNat
  | 0x600 => some s.evt.host0.toNat
  | 0x608 => some s.evt.host1.toNat
  | 0x610 => some s.evt.key.toNat
  | 0x618 => some s.evt.cfg.toNat
  | 0x620 => some s.evt.head.toNat
  | 0x628 => some s.evt.tail.toNat
  | 0x630 => some s.evt.lost.toNat
  | 0x900 => some s.dbg.cfg.toNat
  | 0x908 => some s.dbg.seq.toNat
  | 0x920 => some s.dbg.dump.toNat
  | 0x928 => some s.dbg.slot.toNat
  | 0x930 => some s.dbg.watch[0].toNat
  | 0x938 => some s.dbg.watch[1].toNat
  | 0x940 => some s.dbg.watch[2].toNat
  | 0x948 => some s.dbg.watch[3].toNat
  | 0x950 => some s.dbg.sampCfg.toNat
  | 0x958 => some s.dbg.sampBase.toNat
  | 0x960 => some s.dbg.sampHead.toNat
  | 0x968 => some s.dbg.sampTail.toNat
  | 0x970 => some s.dbg.sampLost.toNat
  | 0x978 => some s.dbg.accBase.toNat
  | 0x980 => some s.dbg.accHead.toNat
  | 0x988 => some s.dbg.accTail.toNat
  | 0x990 => some s.dbg.rrStat.toNat
  | 0x998 => some s.dbg.rrDiv.toNat
  | _ =>
    if 0x200 ≤ off && off < 0x280 then (s.pkg.ports.toList)[(off - 0x200) / 8]?.map fun p => p.word
    else if 0x400 ≤ off && off < 0x600 then (s.pkg.bridge.toList)[(off - 0x400) / 8]?.map fun e => e.toNat
    else none

/-- What a read clears (R17, R32, R61, R74, R305). -/
def State.readClears (s : State) (off : Nat) : State :=
  match off with
  | 0x40 => { s with govA := { s.govA with longest := 0 } }
  | 0x48 => { s with govB := { s.govB with longest := 0 } }
  | 0x118 => { s with pkg := { s.pkg with wdiscard := 0 } }
  | 0x630 => { s with evt := { s.evt with lost := 0 } }
  | 0x970 => { s with dbg := { s.dbg with sampLost := 0 } }
  | _ =>
    if 0x200 ≤ off && off < 0x280 then
      { s with pkg := { s.pkg with ports := s.pkg.ports.mapIdx fun i p =>
          if i = (off - 0x200) / 8 then { p with fecCor := 0, fecUnc := 0, drops := 0 } else p } }
    else s

/-! The accession log (R313, R314). -/

/-- RRMODE of a context: 1 record, 2 replay; recording has stopped once OVF is set. -/
def State.rrMode (s : State) (ctx : Nat) : Nat :=
  if bits s.dbg.cfg.toNat 0 10 != ctx then 0
  else
    match bits s.dbg.cfg.toNat 12 2 with
    | 1 => if s.dbg.rrStat.getLsbD 0 then 0 else 1
    | 2 => 2
    | _ => 0

def State.accSize (s : State) : Nat := bits s.dbg.accBase.toNat 56 5

/-- The virtual address of entry i of the accession log. -/
def State.accAt (s : State) (i : Nat) : Nat := bits s.dbg.accBase.toNat 0 56 + 32 * (i % 2 ^ s.accSize)

/-- The entries of the log from a number on, in order, up to the first that is none (R314). -/
def accEntries (s : State) (c : Ctx) : Nat → Nat → List Nat
  | 0, _ => []
  | n + 1, i =>
    match s.vread c.home c (s.accAt i) 32 with
    | .ok bs =>
      let v := natOf bs
      if bits v 0 8 = 1 || bits v 0 8 = 2 then v :: accEntries s c n (i + 1) else []
    | _ => []

def State.accSet (s : State) : Bool := 10 ≤ s.accSize && s.accSize ≤ 28

/-- What tag entries that ACCHEAD leaves behind name stays known (R314). -/
def State.keepTags (s : State) (head : Dword) : State :=
  match s.ctx? (bits s.dbg.cfg.toNat 0 10) with
  | some c =>
    if s.accSet && s.rrMode c.num = 2 then
      let l := accEntries s c (min (head - s.dbg.accHead).toNat (2 ^ s.accSize)) s.dbg.accHead.toNat
      { s with dbg := { s.dbg with tagLog := s.dbg.tagLog ++ l.filter fun v => bits v 0 8 = 2 } }
    else s
  | none => s

/-- A write of DBGCFG: where it names another context or another RRMODE, tags begin from 1 again (R310). -/
def State.setDbgCfg (s : State) (d : Dword) : State :=
  let same := bits d.toNat 0 10 = bits s.dbg.cfg.toNat 0 10 && bits d.toNat 12 2 = bits s.dbg.cfg.toNat 12 2
  { s with dbg :=
      if same then { s.dbg with cfg := d } else { s.dbg with cfg := d, nextTag := 1, tables := [], tagLog := [], tagsDue := [] } }

/-- A masked value goes into a RW register, with what the write brings about. (DEDUCED, log entry 33) -/
def State.setReg (s : State) (off v : Nat) : State :=
  let d := BitVec.ofNat 64 v
  match off with
  | 0x100 => { s with pkg := { s.pkg with devnum := BitVec.ofNat 21 v } }
  | 0x108 => { s with pkg := { s.pkg with peerbase := BitVec.ofNat 56 v } }
  | 0x110 => { s with pkg := { s.pkg with colltmo := d } }
  | 0x600 => { s with evt := { s.evt with host0 := d } }
  | 0x608 => { s with evt := { s.evt with host1 := d } }
  | 0x610 => { s with evt := { s.evt with key := d } }
  | 0x618 => ({ s with evt := { s.evt with cfg := d } } : State).drainEvents
  | 0x620 => ({ s with evt := { s.evt with head := BitVec.ofNat 32 v } } : State).drainEvents
  | 0x900 => s.setDbgCfg d
  | 0x908 => { s with dbg := { s.dbg with seq := d } }
  | 0x910 => s.dbgStop v
  | 0x918 => s.dbgResume
  | 0x920 => { s with dbg := { s.dbg with dump := d } }
  | 0x928 => { s with dbg := { s.dbg with slot := d } }
  | 0x930 => { s with dbg := { s.dbg with watch := s.dbg.watch.set 0 d } }
  | 0x938 => { s with dbg := { s.dbg with watch := s.dbg.watch.set 1 d } }
  | 0x940 => { s with dbg := { s.dbg with watch := s.dbg.watch.set 2 d } }
  | 0x948 => { s with dbg := { s.dbg with watch := s.dbg.watch.set 3 d } }
  | 0x950 => { s with dbg := { s.dbg with sampCfg := d } }
  | 0x958 => { s with dbg := { s.dbg with sampBase := d } }
  | 0x960 => { s with dbg := { s.dbg with sampHead := d } }
  | 0x978 => { s with dbg := { s.dbg with accBase := d } }
  | 0x980 => let s1 := s.keepTags d; { s1 with dbg := { s1.dbg with accHead := d } }
  | _ =>
    if 0x400 ≤ off && off < 0x600 then
      { s with pkg := { s.pkg with bridge := s.pkg.bridge.mapIdx fun i e => if i = (off - 0x400) / 8 then d else e } }
    else s

/-! Context blocks (R77). -/

/-- Register k of the counters or thresholds. -/
def Ctx.fpReg (c : Ctx) (thresh : Bool) (k : Nat) : Nat :=
  if thresh then ((c.fpThresh.toList)[k]?.getD 0).toNat else ((c.fpCount.toList)[k]?.getD 0).toNat

/-- A 4-byte write of FPCOUNT k or FPTHRESH k. An FP_THRESH that it raises comes from the context's home die (DESIGN CHOICE, log entry 44). -/
def State.fpWrite (s : State) (n : Nat) (thresh : Bool) (k : Nat) (v : Word) : State :=
  match s.ctx? n with
  | none => s.discard
  | some c =>
    (s.modCtx n fun c => if thresh then { c with fpThresh := c.fpThresh.set! k v } else { c with fpCount := c.fpCount.set! k v }).fpCheck
      n k c.home

/-- Offset o in a context block: a counter or threshold and its index. -/
def fpIndex (o : Nat) : Option (Bool × Nat) :=
  if o < 144 then some (false, o / 4) else if 0x100 ≤ o && o < 0x190 then some (true, (o - 0x100) / 4) else none

def State.ctxBlockWrite (s : State) (n o len : Nat) (v : Nat) : State :=
  match len = 4 && o % 4 = 0, fpIndex o with
  | true, some (t, k) => s.fpWrite n t k (BitVec.ofNat 32 v)
  | _, _ => s.discard

/-- An aligned read of a context block: one register of 4 bytes, two of 8, or CTXSTAT. -/
def State.ctxBlockRead (s : State) (n o len : Nat) : Nat × State :=
  match s.ctx? n, fpIndex o with
  | some c, some (t, k) =>
    if len = 4 && o % 4 = 0 then (c.fpReg t k, s)
    else if len = 8 && o % 8 = 0 then (c.fpReg t k + c.fpReg t (k + 1) * 2 ^ 32, s) else (0, s.discard)
  | none, some _ => if (len = 4 || len = 8) && o % len = 0 then (0, s) else (0, s.discard)
  | c, none =>
    if o = 0x1F0 && len = 8 then ((match c with | some c => c.stat | none => 0), s) else (0, s.discard)

/-! Accesses (R61). -/

/-- A write of len bytes at an offset of the window; none is taken while the service or its firmware is not ready (R22, R25). (DEDUCED, log entry 23) -/
def State.windowWrite (s : State) (off len v : Nat) : State :=
  if !s.readyBit bitMgmt || !s.readyBit bitFw then s.discard
  else if 0x10000 ≤ off && off < 0x18000 then
    if len = 32 && off % 32 = 0 then s.kickWrite ((off - 0x10000) / 32) (BitVec.ofNat 256 v) else s.discard
  else if 0x800 ≤ off && off < 0x840 then
    if len = 64 && off = 0x800 then s.cmdArrive (cmdOf v) else s.discard
  else if 0x80000 ≤ off && off < 0x100000 then s.ctxBlockWrite ((off - 0x80000) / 512) (off % 512) len v
  else if len ≠ 8 || off % 8 ≠ 0 then s.discard
  else if isDbg off && !s.live (bits s.dbg.cfg.toNat 0 10) then s.discard
  else
    match rwMask off with
    | some m => s.setReg off (v &&& m)
    | none => s.discard

/-- A read of len bytes at an offset of the window, with what it clears. -/
def State.windowRead (s : State) (off len : Nat) : Nat × State :=
  if 0x80000 ≤ off && off < 0x100000 then s.ctxBlockRead ((off - 0x80000) / 512) (off % 512) len
  else if len ≠ 8 || off % 8 ≠ 0 then (0, s.discard)
  else if isDbg off && !s.live (bits s.dbg.cfg.toNat 0 10) then (0, s.discard)
  else
    match s.regValue off with
    | some v => (v, s.readClears off)
    | none => (0, s.discard)

/-- A read that the host makes: the value leaves the device. -/
def State.hostRead (s : State) (off len : Nat) : State :=
  let (v, s1) := s.windowRead off len
  { s1 with out := s1.out ++ [.value (BitVec.ofNat 64 v)] }

/-! The steps that are one such access. -/

def execRegisterWrite (s : State) : Host.Outcome State Fault Refusal :=
  event (fun s => match s.arg with | .window w => s.windowWrite w.off w.len w.val | _ => s) s

def execKick (s : State) : Host.Outcome State Fault Refusal :=
  event (fun s => match s.arg with | .kick n k => s.windowWrite (0x10000 + 32 * (n % 1024)) 32 k.toNat | _ => s) s

def execEvtheadWrite (s : State) : Host.Outcome State Fault Refusal :=
  event (fun s => match s.arg with | .dword v => s.windowWrite 0x620 8 v.toNat | _ => s) s

def execEvtcfgWrite (s : State) : Host.Outcome State Fault Refusal :=
  event (fun s => match s.arg with | .dword v => s.windowWrite 0x618 8 v.toNat | _ => s) s

def execDbgstop (s : State) : Host.Outcome State Fault Refusal :=
  event (fun s => match s.arg with | .dword v => s.windowWrite 0x910 8 v.toNat | _ => s) s

def execDbgresume (s : State) : Host.Outcome State Fault Refusal :=
  event (fun s => match s.arg with | .dword v => s.windowWrite 0x918 8 v.toNat | _ => s) s

def execAccheadWrite (s : State) : Host.Outcome State Fault Refusal :=
  event (fun s => match s.arg with | .dword v => s.windowWrite 0x980 8 v.toNat | _ => s) s

def execFpcountWrite (s : State) : Host.Outcome State Fault Refusal :=
  event (fun s => match s.arg with
    | .fp n k v => if k < 36 then s.windowWrite (0x80000 + 512 * (n % 1024) + 4 * k) 4 v.toNat else s
    | _ => s) s

def execFpthreshWrite (s : State) : Host.Outcome State Fault Refusal :=
  event (fun s => match s.arg with
    | .fp n k v => if k < 36 then s.windowWrite (0x80000 + 512 * (n % 1024) + 0x100 + 4 * k) 4 v.toNat else s
    | _ => s) s

def execGovstatRead (s : State) : Host.Outcome State Fault Refusal :=
  event (fun s => match s.arg with | .die d => s.hostRead (0x40 + 8 * d.num) 8 | _ => s) s

def execPortstatRead (s : State) : Host.Outcome State Fault Refusal :=
  event (fun s => match s.arg with | .num k => if k < 16 then s.hostRead (0x200 + 8 * k) 8 else s | _ => s) s

def execWdiscardRead (s : State) : Host.Outcome State Fault Refusal :=
  event (fun s => s.hostRead 0x118 8) s

def execEvtlostRead (s : State) : Host.Outcome State Fault Refusal :=
  event (fun s => s.hostRead 0x630 8) s

def execSamplostRead (s : State) : Host.Outcome State Fault Refusal :=
  event (fun s => s.hostRead 0x970 8) s

/-! Physical accesses of the device's own agents to the window (R61). -/

/-- A write of bytes to the window by the device: the 8-byte accesses it is made of. -/
def State.windowBytes (s : State) (pa : Nat) (bs : List Byte) : State := s.windowWrite (pa - 0x6000000000) bs.length (natOf bs)

end Sys2Proof.Machine
end

