-- ==== Sys2Proof/Machine/Access.lean ====
section
/-! DEFINITION. Accesses of lane threads and lead contexts to global and local space (spec 06 R130 to R138, 07 R151, R152, 08 R183, 09 R202 to
R204, 16 R305 to R312, 22 R418 to R425): the checks, holding on an absent page, the side log, and what an issued load or store leaves
outstanding. -/

namespace Sys2Proof.Machine

/-! What an access waits for (R171, R172). -/

/-- Whether two runs of bytes share one. -/
def overlaps (a n b m : Nat) : Bool := a < b + m && b < a + n

/-- Whether an access is synchronising: an atomic with an order (R171). -/
def isSync (o : Option AtomOp) : Bool := match o with | some o => o.ord != 0 | none => false

/-- No load of an agent is outstanding. -/
def State.noLoads (s : State) (a : Agent) : Bool := s.loads.all fun l => l.who != a

/-- No synchronising store of an agent is outstanding. -/
def State.noSyncStores (s : State) (a : Agent) : Bool := s.stores.all fun x => !(x.who = a && isSync x.atom)

/-! Who accesses. -/

/-- An agent as its accesses see it. -/
structure Acor where
  who : Agent
  b : Block
  j : Nat
  cache : Cache
  handler : Bool
  saving : Bool
  pass : Bool

/-- A handler entered by PREEMPT (R243). -/
def Thread.saves (th : Thread) : Bool := th.inTrap && th.cause.toNat % 256 = 0x13

def Lead.saves (l : Lead) : Bool := l.inTrap && l.cause.toNat % 256 = 0x13

def LaneEnv.acor (e : LaneEnv) : Acor :=
  ⟨.lane e.r, e.b, e.j, e.b.cacheOf e.r.t e.th, e.th.inTrap, e.th.saves, e.th.pass⟩

def LeadEnv.acor (e : LeadEnv) : Acor :=
  ⟨.lead e.r, e.b, e.r.j, e.b.leadCache e.r.j, e.l.inTrap, e.l.saves, e.l.pass⟩

/-- The block whose own rings do not lock an access (R243). -/
def Acor.skip (a : Acor) : Option Nat := if a.saving then some a.b.id else none

/-- The unit that faults for an agent: its home core (R132, R224). -/
def Acor.unit (a : Acor) : FUnit := .core a.b.die (a.b.coreNum a.j)

/-! Clocks and stamps (R310 to R312). -/

/-- An agent's number within its block (R310). -/
def Agent.num : Agent → BitVec 16
  | .lane r => BitVec.ofNat 16 r.t
  | .lead l => BitVec.ofNat 16 (0x8000 + l.j)

/-- The WCLK and RCLK of an agent. -/
def State.clocks (s : State) (a : Agent) : Word × Word :=
  match a with
  | .lane r => match s.thread? r with | some th => (th.wclk, th.rclk) | none => (0, 0)
  | .lead l => match s.lead? l with | some x => (x.wclk, x.rclk) | none => (0, 0)

/-- Sets OVF when a clock of the context that is recorded would pass its end (R312). -/
def State.clockOver (s : State) (a : Agent) (isOver : Bool) : State :=
  if isOver && bits s.dbg.cfg.toNat 12 2 = 1 && (s.block? a.block).any fun b => b.ctx = bits s.dbg.cfg.toNat 0 10 then
    { s with dbg := { s.dbg with rrStat := s.dbg.rrStat ||| 1 } }
  else s

/-- One tick of WCLK, of RCLK. -/
def State.tick2 (s : State) (a : Agent) (w r : Bool) : State :=
  let up (x : Word) (on : Bool) : Word := if on && x != 0xFFFFFFFF then x + 1 else x
  let (cw, cr) := s.clocks a
  let s1 := s.clockOver a ((w && cw = 0xFFFFFFFF) || (r && cr = 0xFFFFFFFF))
  match a with
  | .lane t => s1.modThread t fun th => { th with wclk := up th.wclk w, rclk := up th.rclk r }
  | .lead l => s1.modLead l fun x => { x with wclk := up x.wclk w, rclk := up x.rclk r }

/-- The stamp of an agent's write of a line, with the clock after its tick. -/
def State.stampFor (s : State) (a : Acor) (pa : Nat) : Stamp := ⟨pa / 128 * 128, a.b.tag, a.who.num, (s.clocks a.who).1⟩

/-- A line takes a stamp; tag 0 stands for none (R310, R311). -/
def State.stamp (s : State) (x : Stamp) : State :=
  let rest := s.stamps.filter fun y => y.line != x.line
  { s with stamps := if x.tag = 0 then rest else rest ++ [x] }

/-! Checks of a global access (R130, R134, R183, R235, R305). -/

/-- How the checks of an access come out. -/
inductive Chk where
  | ok (pa : Nat)
  | absent
  | fatal
  | trap (t : Trap)
  | stop
  | dev (f : PhysFault) (pa : Nat)
  deriving DecidableEq, Repr

/-- What a re-walk decided for an access of this agent to a page, if it did. -/
def State.verdict (s : State) (who : Holder) (ctx va : Nat) : Option Verdict :=
  (s.holds.find? fun h => h.who = who && h.ctx = ctx && h.va / 65536 = va / 65536).bind fun h => h.verdict

/-- The strongest lock that any of some spans meets. -/
def State.lockAny (s : State) (skip : Option Nat) (l : List Span) : Nat := l.foldl (fun m x => max m (s.lock skip x)) 0

/-- The first byte, of n, of an access that meets a lock of at least a level; at_ gives the spans of each. -/
def State.firstLocked (s : State) (skip : Option Nat) (level n : Nat) (at_ : Nat → List Span) : Nat :=
  ((List.range n).find? fun i => level ≤ s.lockAny skip (at_ i)).getD 0

/-- Whether an access is in a WATCH range by what it needs. -/
def State.watches (s : State) (a : Acor) (va n : Nat) (need : Need) : Bool :=
  (need.rd && s.watched a.b.ctx va n false) || (need.wr && s.watched a.b.ctx va n true)

/-- The first byte of an access that is in a WATCH range (R234). -/
def State.firstWatched (s : State) (a : Acor) (va n : Nat) (need : Need) : Nat :=
  va + ((List.range n).find? fun i => s.watches a (va + i) 1 need).getD 0

/-- Locks and watched ranges over an access that translation lets pass, to the spans it touches; level 2 for a load, 1 for every other access, 3 for
none. -/
def State.chkRest (s : State) (a : Acor) (va n : Nat) (need : Need) (level : Nat) (xs : List Span) (ok : Chk) : Chk :=
  let hit := s.lockAny a.skip xs
  if level ≤ hit then
    .trap (.sync 0x06 (hit - 1) (va + s.firstLocked a.skip level n fun i => xs.map fun y => y.at (y.lo + i) 1))
  else if level ≠ 3 && !a.pass && s.watches a va n need then
    if s.debugged a.b.ctx then .stop else .trap (.sync 0x12 0 (s.firstWatched a va n need))
  else ok

/-- The checks of one access in the order of R235. -/
def State.chk (s : State) (a : Acor) (va n : Nat) (need : Need) (level align : Nat) : Chk :=
  if va % align ≠ 0 then .trap (.sync 0x04 0 (va % 2 ^ 56))
  else
    match s.access a.b.die a.b.nodeRef a.handler va n need with
    | .trap c sub => .trap (.sync c sub (va % 2 ^ 56))
    | .dev f pa => .dev f pa
    | .pa pa _ => s.chkRest a va n need level [.phys pa n, .virt a.b.ctx va n] (.ok pa)
    | other =>
      match s.verdict (.agent a.who) a.b.ctx va with
      | some (.ok page) => let pa := page + va % 65536; s.chkRest a va n need level [.phys pa n, .virt a.b.ctx va n] (.ok pa)
      | some .denied => .trap (.sync 0x08 0 va)
      | some .fatal => s.chkRest a va n need level [] .fatal
      | none =>
        if other = .absent then s.chkRest a va n need level [.virt a.b.ctx va n] .absent else s.chkRest a va n need level [] .fatal

/-- The class of the page of an access (R156): that of its leaf, or of the leaf now where a re-walk resolved it. -/
def State.pageClass (s : State) (a : Acor) (va n : Nat) (need : Need) : Nat :=
  match s.access a.b.die a.b.nodeRef a.handler va n need, s.ctx? a.b.ctx with
  | .pa _ cls, _ => cls
  | _, some c => match s.walk a.b.die c va with | .leaf _ _ _ _ _ cls => cls | _ => 3
  | _, none => 3

/-- The tables are walked for an access that no declared extent covers; a core may have that walk in its cache (R130). -/
def State.walkedFor (s : State) (a : Acor) (va n : Nat) : State :=
  let exts := match s.node? a.b.nodeRef with | some r => r.exts | none => []
  if (exts.any fun e => !e.walked && n ≤ e.reach va) || Config.coin s.tick 40 then s
  else match s.ctx? a.b.ctx with | some c => s.noteWalk c va | none => s

/-- What an agent's write of an atomic releases, if it does: by its order, or after a release fence (R169). -/
def State.releases (s : State) (a : Agent) (o : Option AtomOp) : Option Clock :=
  match o with
  | none => none
  | some o =>
    if o.rel then some (s.knows a)
    else match a with | .lane r => (s.thread? r).bind fun th => th.relClk | .lead _ => none

/-- An agent holds on an absent page (R131, R132). -/
def State.holdOn (s : State) (a : Acor) (kind va : Nat) (need : Need) : State :=
  let s1 := s.raise a.unit a.b.nodeRef kind va need.wr
  if s1.holds.any fun h => h.who = .agent a.who && h.va / 65536 = va / 65536 then s1
  else { s1 with holds := s1.holds ++ [⟨.agent a.who, a.unit, a.b.ctx, va, need.rd, need.wr, none⟩] }

/-- An agent's access went through: it holds on no page. -/
def State.unhold (s : State) (who : Agent) : State := { s with holds := s.holds.filter fun h => h.who != .agent who }

/-- A page with an unreplayed entry in the side log of an agent's core (R136, R138). -/
def State.logHas (s : State) (a : Acor) (va : Nat) : Bool :=
  s.sideLog.any fun e => e.die = a.b.die && e.core = a.b.coreNum a.j && e.ctx = a.b.ctx && e.va / 65536 = va / 65536

/-- Whether the side log of an agent's core has a free entry (R135). -/
def State.logRoom (s : State) (a : Acor) : Bool :=
  let mine := s.sideLog.filter fun e => e.die = a.b.die && e.core = a.b.coreNum a.j
  mine.length < 256 && (!a.b.pmode || (mine.filter fun e => e.ctx = a.b.ctx).length < 128)

/-! Issuing (R202, R203). -/

/-- Sizes of the single-copy atomic parts of an access (R168). -/
def partsOf (n : Nat) : List (Nat × Nat) := if n = 16 then [(0, 8), (8, 8)] else [(0, n)]

/-- The words that the part of a load at offset o fills, of the destinations given. -/
def partDst (n o m : Nat) (dst : List LReg) : List (Option LReg) :=
  (if n = 16 then (dst.drop (o / 4)).take (m / 4) else dst).map some

/-- A register's dirty bit is set as a load for it issues (R201). -/
def Thread.markDirty (th : Thread) (l : LReg) : Thread :=
  if l.bank then th else { th with dirty := th.dirty ||| BitVec.ofNat 128 (2 ^ l.i.toNat) }

/-- The group issue and the unit that an atomic of a lane thread belongs to (R424). -/
def State.atomInst (s : State) (who : Agent) (atom : Option AtomOp) : Option (Nat × CodeAddr) :=
  match who, atom with
  | .lane _, some _ => some (s.issue.mark, s.issue.unit)
  | _, _ => none

/-- A load or atomic with return is outstanding from now on; one that holds its agent is not counted (R203, R411, R425). (DEDUCED, log entry 25) -/
def State.issueLoad (s : State) (a : Acor) (pa va n : Nat) (sext : Bool) (atom : Option AtomOp) (dst : List LReg) (sd : BitVec 9)
    (hold lu : Bool) : State :=
  let need : Need := if atom.isSome then .both else .load
  let s1 := (s.walkedFor a va n).tick2 a.who atom.isSome true
  let grp := s1.nextId
  let st := s1.stampFor a pa
  let loads : List Load := (partsOf n).mapIdx fun i p =>
    { seq := grp + i, grp := grp, who := a.who, node := a.b.nodeRef, cache := a.cache, pa := pa + p.1, va := va + p.1, n := p.2,
      sext := sext, atom := atom, dst := partDst n p.1 p.2 dst, sd := sd, hold := hold, rclk := (s1.clocks a.who).2,
      stamp := st, since := none, cls := s.pageClass a va n need, lu := lu, rel := s.releases a.who atom,
      inst := s.atomInst a.who atom }
  let s2 : State := { s1 with loads := s1.loads ++ loads, nextId := grp + loads.length }
  match a.who with
  | .lane r => s2.modThread r fun th => dst.foldl Thread.markDirty { th with ld := if hold then th.ld else th.ld + 1 }
  | .lead _ => s2

/-- A store, reduction, atomic without return or discard is outstanding from now on (R203). -/
def State.issueStore (s : State) (a : Acor) (pa va : Nat) (bytes : List Byte) (atom : Option AtomOp) (discard : Bool) : State :=
  let s1 := (s.walkedFor a va bytes.length).tick2 a.who true false
  let grp := s1.nextId
  let st := s1.stampFor a pa
  let stores : List Store := (partsOf bytes.length).mapIdx fun i p =>
    { seq := grp + i, grp := grp, who := a.who, node := a.b.nodeRef, cache := a.cache, pa := pa + p.1, va := va + p.1,
      bytes := (bytes.drop p.1).take p.2, atom := atom, discard := discard, stamp := st,
      cls := s.pageClass a va bytes.length .store, rel := s.releases a.who atom, inst := s.atomInst a.who atom }
  let s2 : State := { s1 with stores := s1.stores ++ stores, nextId := grp + stores.length }
  match a.who with
  | .lane r => s2.modThread r fun th => { th with st := th.st + 1 }
  | .lead _ => s2

/-- A store or reduction of a lane thread enters the side log (R135, R136): its page faults now, or has resolved to an address since an entry of the page
was logged. -/
def State.logStore (s : State) (a : Acor) (r : ThreadRef) (va : Nat) (bytes : List Byte) (atom : Option AtomOp) (rfunc : Nat) (pa : Option Nat) : State :=
  let s1 := s.tick2 a.who true false
  let (id, s2) := s1.fresh
  let s3 := if pa.isNone then s2.raise a.unit a.b.nodeRef 2 va true else s2
  let o := va % 16
  let e : SideEntry :=
    { seq := id, pa := pa, die := a.b.die, core := a.b.coreNum a.j, ctx := a.b.ctx, who := r, va := va, red := atom.isSome,
      rfunc := BitVec.ofNat 8 rfunc, byteEn := BitVec.ofNat 16 ((2 ^ bytes.length - 1) * 2 ^ o),
      data := BitVec.ofNat 128 (natOf bytes * 2 ^ (8 * o)), node := a.b.nodeRef, stamp := s3.stampFor a 0,
      cls := s.pageClass a va bytes.length .store, rel := s.releases a.who atom }
  { s3 with sideLog := s3.sideLog ++ [e] }

/-! Local space (R151, R152). -/

/-- The share and offset of a valid local access. -/
def Block.local? (b : Block) (la n : Nat) : Option (Nat × Nat) :=
  let j := la / 2 ^ 18
  let o := la % 2 ^ 18
  if la < 2 ^ 23 && j < b.shares.length && o + n ≤ b.loc then some (j, o) else none

/-- The first byte of a local access that is not one of its share (R152, R234). -/
def Block.firstOut (b : Block) (la n : Nat) : Nat :=
  la + ((List.range n).find? fun i => (la + i) / 2 ^ 18 != la / 2 ^ 18 || (b.local? (la + i) 1).isNone).getD 0

/-- The checks of a local access: its share and offset, or a trap. -/
def State.locChk (s : State) (a : Acor) (la n level align : Nat) : Trap ⊕ (Nat × Nat) :=
  if la % align ≠ 0 then .inl (.sync 0x04 0 la)
  else
    match a.b.local? la n with
    | none => .inl (.sync 0x05 0 (a.b.firstOut la n))
    | some jo =>
      let hit := s.lock a.skip (.loc a.b.id la n)
      if level ≤ hit then .inl (.sync 0x06 (hit - 1) (la + s.firstLocked a.skip level n fun i => [.loc a.b.id (la + i) 1]))
      else .inr jo

/-- Bytes of a block's local store. -/
def State.locRead (s : State) (id j o n : Nat) : List Byte :=
  match s.share? id j with
  | some sh => sh.loc.read o n
  | none => List.replicate n 0

/-- A write of local bytes: what an acquire of their words reads from is this write, no release (R169). -/
def State.locWrite (s : State) (id j o : Nat) (bs : List Byte) : State :=
  s.modShare id j fun sh =>
    { sh with loc := sh.loc.write o bs, syncs := sh.syncs.filter fun v => !overlaps v.1 4 o bs.length }

/-- What an acquire of n local bytes reads from. -/
def Share.sync (sh : Share) (o n : Nat) : Clock :=
  (sh.syncs.filter fun v => overlaps v.1 4 o n).foldl (fun k v => k.join v.2) []

/-- Sets what an acquire of n local bytes reads from. -/
def Share.setSync (sh : Share) (o n : Nat) (k : Clock) : Share :=
  let rest := sh.syncs.filter fun v => !overlaps v.1 4 o n
  { sh with syncs := if k = [] then rest else rest ++ (syncWords o n).map fun w => (w, k) }

/-- An acquire of an agent from what it read (R169, R170, R177 to R179). -/
def State.acquireBy (s : State) (a : Agent) (c : Cache) (x : Rel) : State := (s.acquire c x).learn a x.clk

end Sys2Proof.Machine
end

