-- ==== Sys2Proof/Machine/Debug.lean ====
section
/-! DEFINITION. What debugging shows and keeps (spec 09 R197, 10 R214, 16 R304 to R314): a thread's status words, dumps, sampled
instructions, record and replay. -/

namespace Sys2Proof.Machine

/-! Status words of a thread (R197, R214). -/

def Thread.grantWord (th : Thread) : Word := BitVec.ofNat 32 (th.g.toNat + b2n th.stale * 2 ^ 7 + th.req.toNat * 2 ^ 8)

def Thread.gangpos (th : Thread) (t : Nat) : Word :=
  let g := if th.g = 0 then 1 else th.g.toNat
  BitVec.ofNat 32 (t % g + t / g * 2 ^ 16)

/-- Effective path priority (R214). -/
def Thread.eff (th : Thread) : Nat := if th.yld then 15 else th.pri.toNat

def Thread.ppri (th : Thread) : Word :=
  BitVec.ofNat 32 (th.pri.toNat + th.eff * 2 ^ 4 + b2n th.yld * 2 ^ 8 + b2n th.carrel.isSome * 2 ^ 9 + b2n th.late * 2 ^ 10 +
    th.chain.length % 8 * 2 ^ 11)

def Thread.outcnt (th : Thread) : Word :=
  BitVec.ofNat 32 (th.ld % 64 + th.st % 64 * 2 ^ 8 + th.cp.length % 16 * 2 ^ 16 + th.tl.length % 16 * 2 ^ 24)

/-! Dumps (R307). -/

/-- The state field of a dumped thread. -/
def Thread.dumpState (th : Thread) : Nat :=
  match th.status with
  | .ended | .parked => 4
  | .filed _ => 3
  | .ready => if th.carrel.isSome then 2 else 0
  | .wait _ => if th.carrel.isSome then 2 else 1

def dumpThread (b : Block) (t : Nat) (th : Thread) : List Byte :=
  bytesOf 8 (th.pc.toNat + th.dumpState * 2 ^ 48 + b2n th.inTrap * 2 ^ 51) ++ bytesOf 4 th.ppri.toNat ++ bytesOf 4 th.grantWord.toNat ++
    bytesOf 4 th.outcnt.toNat ++ bytesOf 4 (th.gangpos t).toNat ++ bytesOf 16 th.dirty.toNat ++ bytesOf 8 (b.wid t) ++
    bytesOf 4 th.wclk.toNat ++ bytesOf 4 th.rclk.toNat ++ bytesOf 8 0

def dumpRegs (th : Thread) : List Byte :=
  (List.range 128).flatMap fun i => bytesOf 4 (if th.dirty.getLsbD i then ((th.v.toList)[i]?.getD 0).toNat else 0)

def dumpLead (l : Lead) : List Byte := l.s.toList.flatMap fun x => bytesOf 8 x.toNat

def leadPcWord (l : Lead) : Nat := l.pc.toNat + l.p.toNat * 2 ^ 48 + b2n (l.status = .ended) * 2 ^ 56

/-- The bytes of a dump by offset, VALID left out. -/
def dumpParts (b : Block) (reason : Nat) : List (Nat × List Byte) :=
  let t := b.threads.length
  let arrive := maskWhere t fun i => match b.threads[i]? with | some th => b.bp.toNat < th.ph.toNat | none => false
  [(0, bytesOf 8 (b.node + b.seq.toNat * 2 ^ 32) ++ bytesOf 8 b.b ++ bytesOf 8 b.bp.toNat ++
      bytesOf 8 (reason + b.c * 2 ^ 8 + (t - 1) * 2 ^ 16 + b.loc * 2 ^ 32) ++ bytesOf 8 0),
   (0x100, bytesOf 4096 arrive)] ++
  (b.shares.mapIdx fun j sh => (0x1100 + 8 * j, bytesOf 8 (leadPcWord sh.lead))) ++
  (b.shares.mapIdx fun j sh => (0x4000 + 0x1000 * j, dumpLead sh.lead)) ++
  (b.threads.mapIdx fun i th => (0x24000 + 64 * i, dumpThread b i th)) ++
  (b.threads.mapIdx fun i th => (0x24000 + 64 * t + 512 * i, dumpRegs th)) ++
  (b.shares.mapIdx fun j sh => (0x24000 + 576 * t + j * b.loc, sh.loc.read 0 b.loc))

def Block.dumpLen (b : Block) : Nat := 0x24000 + 576 * b.threads.length + b.c * b.loc

/-- Writes parts at a virtual base for a unit of die d, all or nothing of each, up to one that cannot be written. -/
def State.vwriteParts (s : State) (d : Die) (c : Ctx) (base : Nat) : List (Nat × List Byte) → VRes State
  | [] => .ok s
  | (o, bs) :: r =>
    match s.vwrite d c (base + o) bs with
    | .ok s1 => s1.vwriteParts d c base r
    | x => x

/-- The number of the first free dump slot of those the registers give (R307). (DEDUCED, log entry 33) -/
def State.freeSlot (s : State) (d : Die) (c : Ctx) : Option Nat :=
  let n := bits s.dbg.slot.toNat 0 8
  let size := bits s.dbg.slot.toNat 8 32 * 65536
  (List.range n).find? fun i =>
    match s.vread d c (s.dbg.dump.toNat + i * size + 0x38) 8 with
    | .ok bs => natOf bs = 0
    | _ => false

/-- Writes a dump and its VALID word last; the slot, or 0xFF_FFFF where none was written. (DEDUCED, log entry 33) -/
def State.writeDump (s : State) (b : Block) (reason : Nat) : Nat × State :=
  let size := bits s.dbg.slot.toNat 8 32 * 65536
  match s.ctx? b.ctx with
  | none => (0xFFFFFF, s)
  | some c =>
    if size < b.dumpLen then (0xFFFFFF, s)
    else
      match s.freeSlot b.die c with
      | none => (0xFFFFFF, s)
      | some k =>
        let base := s.dbg.dump.toNat + k * size
        match s.vwriteParts b.die c base (dumpParts b reason ++ [(0x38, bytesOf 8 1)]) with
        | .ok s1 => (k, s1)
        | .dev f pa => (0xFFFFFF, s.physTrap c.num f b.die (BitVec.ofNat 8 (b.coreNum 0)) pa)
        | _ => (0xFFFFFF, s)

/-- Whether a stopped block has drained (R306). -/
def State.drained (s : State) (b : Block) : Bool :=
  (b.threads.all fun th => th.ld = 0 && th.st = 0) &&
  (s.loads.all fun l => l.who.block != b.id) && (s.stores.all fun l => l.who.block != b.id) &&
  (s.sideLog.all fun e => e.who.block != b.id)

def execStopComplete (s : State) : Host.Outcome State Fault Refusal :=
  event (fun s => match s.arg with
    | .num id =>
      match s.block? id with
      | some b =>
        match b.stop with
        | some st =>
          if st.done || !s.drained b then s
          else
            let (k, s1) := s.writeDump b st.reason
            (s1.modBlock id fun b => { b with stop := some { st with done := true } }).post b.die 0x0C 0 b.ctx
              (BitVec.ofNat 64 (b.node + b.b * 2 ^ 32)) (b.seq.setWidth 64) (BitVec.ofNat 64 (st.reason + k * 2 ^ 8))
        | none => s
      | none => s
    | _ => s) s

/-! Sampled memory instructions (R309). -/

/-- Whether a context's memory instructions are sampled. -/
def State.sampling (s : State) (ctx : Nat) : Bool :=
  bits s.dbg.cfg.toNat 0 10 = ctx && bit s.dbg.cfg.toNat 11 && s.dbg.sampCfg != 0

/-- Writes a record into the ring, or counts it dropped. -/
def State.sampleWrite (s : State) (ctx : Nat) (rec_ : BitVec 512) : State :=
  let size := bits s.dbg.sampBase.toNat 56 5
  let lost : State := { s with dbg := { s.dbg with sampLost := s.dbg.sampLost + 1 } }
  match s.ctx? ctx with
  | none => lost
  | some c =>
    if size < 6 || 20 < size || (s.dbg.sampTail - s.dbg.sampHead).toNat = 2 ^ size then lost
    else
      match s.vwrite c.home c (bits s.dbg.sampBase.toNat 0 56 + 64 * (s.dbg.sampTail.toNat % 2 ^ size)) (bytesOf 64 rec_.toNat) with
      | .ok s1 => { s1 with dbg := { s1.dbg with sampTail := s1.dbg.sampTail + 1 } }
      | .dev f pa => s.physTrap ctx f c.home 0xFF pa
      | _ => lost

/-- Counts a memory instruction of a core; true for one to sample. (DEDUCED, log entry 33) -/
def State.sampleCount (s : State) (d : Die) (core : Nat) : Bool × State :=
  let old := ((s.dbg.counts.find? fun e => e.1 = d && e.2.1 = core).map fun e => e.2.2).getD 0
  let n := old + 1
  let rest := s.dbg.counts.filter fun e => !(e.1 = d && e.2.1 = core)
  (n % s.dbg.sampCfg.toNat = 0, { s with dbg := { s.dbg with counts := rest ++ [(d, core, n)] } })

/-- Lines that accesses from a number on touch; a logged store on an absent page by its virtual line. -/
def State.linesFrom (s : State) (mark : Nat) : List Nat :=
  let ls := (s.loads.filter fun (l : Load) => mark ≤ l.seq).map fun (l : Load) => l.pa / 128
  let ss := (s.stores.filter fun (l : Store) => mark ≤ l.seq).map fun (l : Store) => l.pa / 128
  let gs := (s.sideLog.filter fun (e : SideEntry) => mark ≤ e.seq).map fun (e : SideEntry) => e.pa.getD (2 ^ 56 + e.va) / 128
  (ls ++ ss ++ gs).eraseDups

/-- The record of a sampled instruction as it issues; its queue times are free. (DEDUCED, log entry 33) -/
def State.sampleBits (s : State) (b : Block) (j : Nat) (pc : CodeAddr) (lanes : Nat) (isLead : Bool) (sectors last : Nat) : BitVec 512 :=
  BitVec.ofNat 512 (b.node + b.seq.toNat * 2 ^ 32 + b.b * 2 ^ 64 + b.bp.toNat % 2 ^ 32 * 2 ^ 96 + pc.toNat * 2 ^ 128 +
    (b.coreNum j + b.die.num * 128) * 2 ^ 176 + lanes % 128 * 2 ^ 184 + b2n isLead * 2 ^ 191 + sectors % 256 * 2 ^ 192 +
    (sectors - 1) % 256 * 2 ^ 200 + (Config.freeDword s.tick 0).toNat * 2 ^ 208 + last % 2 ^ 16 * 2 ^ 272 + s.cycle b.die * 2 ^ 288)

/-- A memory instruction has issued: when it is the one to sample, its record is begun, and written at once when nothing is awaited. -/
def State.sampleIssue (s : State) (b : Block) (j : Nat) (pc : CodeAddr) (lanes : Nat) (isLead : Bool) (mark last : Nat) : State :=
  if !s.sampling b.ctx then s
  else
    let (hit, s1) := s.sampleCount b.die (b.coreNum j)
    if !hit then s1
    else
      let ls := (s1.loads.filter fun (l : Load) => mark ≤ l.seq).map fun (l : Load) => l.seq
      let ss := (s1.stores.filter fun (l : Store) => mark ≤ l.seq).map fun (l : Store) => l.seq
      let gs := (s1.sideLog.filter fun (e : SideEntry) => mark ≤ e.seq).map fun (e : SideEntry) => e.seq
      let waits := ls ++ ss ++ gs
      let rec_ := s1.sampleBits b j pc lanes isLead ((s1.linesFrom mark).length + s.issue.lsLoc.eraseDups.length) last
      if waits.isEmpty then s1.sampleWrite b.ctx rec_ else { s1 with dbg := { s1.dbg with samples := s1.dbg.samples ++ [⟨b.ctx, rec_, waits⟩] } }

/-- The LAST field of a record. -/
def withLast (x : BitVec 512) (last : Nat) : BitVec 512 :=
  BitVec.ofNat 512 (x.toNat - bits x.toNat 272 16 * 2 ^ 272 + last % 2 ^ 16 * 2 ^ 272)

/-- An access has completed: samples that await it alone are written. -/
def State.sampleDone (s : State) (seq : Nat) (who : Agent) : State :=
  let last := match who with | .lane r => r.t | .lead _ => 0
  let upd := s.dbg.samples.map fun x => if x.waits.contains seq then { x with waits := x.waits.filter fun w => w != seq, bits := withLast x.bits last } else x
  let s1 : State := { s with dbg := { s.dbg with samples := upd.filter fun x => !x.waits.isEmpty } }
  (upd.filter fun x => x.waits.isEmpty).foldl (fun a x => a.sampleWrite x.ctx x.bits) s1

/-- The sample of an issue group whose threads have all issued (R309). -/
def State.sampleGroup (s : State) : State :=
  match s.issue.agent, s.issue.ls with
  | some (.lane r), t :: ts =>
    match s.block? r.block with
    | some b => s.sampleIssue b (b.home t) s.issue.lsPc (ts.length + 1) false s.issue.mark (ts.getLastD t)
    | none => s
  | _, _ => s

/-! Record and replay (R310 to R314). -/

/-- Whether the log has room, and is set up at all. -/
def State.accRoom (s : State) : Bool := (s.dbg.accTail - s.dbg.accHead).toNat != 2 ^ s.accSize

/-- Appends an entry of 32 bytes. -/
def State.accWrite (s : State) (ctx : Nat) (v : Nat) : State :=
  match s.ctx? ctx with
  | none => s
  | some c =>
    match s.vwrite c.home c (s.accAt s.dbg.accTail.toNat) (bytesOf 32 v) with
    | .ok s1 => { s1 with dbg := { s1.dbg with accTail := s1.dbg.accTail + 1 } }
    | .dev f pa => s.physTrap ctx f c.home 0xFF pa
    | _ => s

/-- Tag entries that wait are written while the log has room. -/
def State.accFlush (s : State) (ctx : Nat) : State :=
  s.dbg.tagsDue.foldl (fun a v =>
    if a.accRoom then { (a.accWrite ctx v) with dbg := { (a.accWrite ctx v).dbg with tagsDue := a.dbg.tagsDue.drop 1 } } else a) s

/-- A tag entry, at first placement: it comes before any pair that names the tag, and waits where the log is full (R313). -/
def State.accTag (s : State) (b : Block) : State :=
  if s.rrMode b.ctx = 1 && s.accSet then
    ({ s with dbg := { s.dbg with
      tagsDue := s.dbg.tagsDue ++ [2 + b.tag.toNat * 2 ^ 16 + b.node * 2 ^ 64 + b.b * 2 ^ 128 + b.seq.toNat * 2 ^ 160] } } : State).accFlush b.ctx
  else s

/-- A pair entry (R313). -/
def pairEntry (x : Stamp) (tag agent : BitVec 16) (rclk : Word) : Nat :=
  1 + x.tag.toNat * 2 ^ 16 + x.agent.toNat * 2 ^ 32 + x.clock.toNat * 2 ^ 64 + tag.toNat * 2 ^ 96 + agent.toNat * 2 ^ 112 + rclk.toNat * 2 ^ 128

/-- The stamp found on the line of an address. -/
def State.stampAt (s : State) (pa : Nat) : Option Stamp := s.stamps.find? fun x => x.line = pa / 128 * 128

/-- The clocks a reading agent has seen (R313). -/
def State.accSeen (s : State) (tag agent : BitVec 16) : List (BitVec 16 × BitVec 16 × Word) :=
  match s.dbg.tables.find? fun t => t.tag = tag && t.agent = agent with
  | some t => t.seen
  | none => []

/-- Puts a writer's clock first in the reader's table of four, most recently used first. -/
def State.accUse (s : State) (tag agent : BitVec 16) (x : Stamp) (w : Word) : State :=
  let seen := ((x.tag, x.agent, w) :: ((s.accSeen tag agent).filter fun e => !(e.1 = x.tag && e.2.1 = x.agent))).take 4
  let rest := s.dbg.tables.filter fun t => !(t.tag = tag && t.agent = agent)
  { s with dbg := { s.dbg with tables := rest ++ [⟨tag, agent, seen⟩] } }

/-- A pair is appended and the table takes it; none on a full log. -/
def State.accPair (s : State) (b : Block) (agent : BitVec 16) (rclk : Word) (x : Stamp) : Option State :=
  let s1 := s.accFlush b.ctx
  if s1.dbg.tagsDue.isEmpty && s1.accRoom then some ((s1.accWrite b.ctx (pairEntry x b.tag agent rclk)).accUse b.tag agent x x.clock) else none

/-- A read under record: logged, already ordered, or held on a full log (none). (DEDUCED, log entry 33) -/
def State.recordRead (s : State) (b : Block) (agent : BitVec 16) (rclk : Word) (pa : Nat) : Option State :=
  match s.stampAt pa with
  | none => some s
  | some x =>
    if x.tag = b.tag || !s.accSet then some s
    else
      match (s.accSeen b.tag agent).find? fun e => e.1 = x.tag && e.2.1 = x.agent with
      | some e =>
        if x.clock.toNat ≤ e.2.2.toNat then some (s.accUse b.tag agent x e.2.2)
        else s.accPair b agent rclk x
      | none => s.accPair b agent rclk x

def State.accLog (s : State) (ctx : Nat) : List Nat :=
  match s.ctx? ctx with
  | some c => if s.accSet then s.dbg.tagLog ++ accEntries s c (2 ^ s.accSize) s.dbg.accHead.toNat else []
  | none => []

/-- The recorded tag of a block: that of the tag entry that names it. -/
def recordedTag (log : List Nat) (b : Block) : Option Nat :=
  (log.find? fun v => bits v 0 8 = 2 && bits v 64 32 = b.node && bits v 128 32 = b.b && bits v 160 32 = b.seq.toNat).map fun v => bits v 16 16

/-- The pair that names a read (R314). -/
def State.replayPair (s : State) (b : Block) (agent : BitVec 16) (rclk : Word) : Option Nat :=
  let log := s.accLog b.ctx
  (recordedTag log b).bind fun t =>
    log.find? fun v => bits v 0 8 = 1 && bits v 96 16 = t && bits v 112 16 = agent.toNat && bits v 128 32 = rclk.toNat

/-- The block that a recorded tag names in this run. -/
def State.blockOfTag (s : State) (ctx : Nat) (tag : Nat) : Option Block :=
  let log := s.accLog ctx
  s.blocks.find? fun b => b.ctx = ctx && recordedTag log b = some tag

/-- Whether the block that a recorded tag names has been placed in this run: it stands behind the next block of its node, or its node or replay is
over. A tag without an entry names none that is still to come. -/
def State.tagPlaced (s : State) (ctx : Nat) (tag : Nat) : Bool :=
  match (s.accLog ctx).find? fun v => bits v 0 8 = 2 && bits v 16 16 = tag with
  | none => true
  | some v =>
    match s.node? ⟨ctx, BitVec.ofNat 32 (bits v 160 32), bits v 64 32⟩ with
    | some n => n.phase = .done || bits v 128 32 < n.nextBlock
    | none => true

/-- Whether a pair's writer has passed its clock and that write is visible at its home. A writer whose block has ended has. -/
def State.pairReady (s : State) (ctx : Nat) (v : Nat) : Bool :=
  let w := bits v 64 32
  match s.blockOfTag ctx (bits v 16 16) with
  | some b =>
    let n := bits v 32 16
    let who : Agent := if n < 0x8000 then .lane ⟨b.id, n⟩ else .lead ⟨b.id, n - 0x8000⟩
    decide (w ≤ (s.clocks who).1.toNat) &&
    (s.stores.all fun x => !(x.who = who && x.stamp.clock.toNat ≤ w)) &&
    (s.loads.all fun x => !(x.who = who && x.atom.isSome && x.stamp.clock.toNat ≤ w))
  | none => s.tagPlaced ctx (bits v 16 16)

/-- A replayed read has found its stamp: a stamp other than the logged one diverges (R314). (DEDUCED, log entry 33) -/
def State.replayRead (s : State) (b : Block) (agent : BitVec 16) (rclk : Word) (pa v : Nat) (late : Bool) : State :=
  let s1 : State := { s with dbg := { s.dbg with accTail := s.dbg.accTail + 1 } }
  let same : Bool :=
    match s.stampAt pa, s.blockOfTag b.ctx (bits v 16 16) with
    | some x, some wb => x.tag = wb.tag && x.agent.toNat = bits v 32 16 && x.clock.toNat = bits v 64 32
    | some x, none => x.tag.toNat = bits v 16 16 && x.agent.toNat = bits v 32 16 && x.clock.toNat = bits v 64 32
    | none, _ => false
  if same && !late then s1
  else
    { s1 with dbg := { s1.dbg with
      rrDiv := if s1.dbg.rrStat.getLsbD 1 then s1.dbg.rrDiv
        else BitVec.ofNat 64 (b.tag.toNat + agent.toNat * 2 ^ 16 + rclk.toNat * 2 ^ 32)
      rrStat := s1.dbg.rrStat ||| 2 } }

end Sys2Proof.Machine
end

