-- ==== Sys2Proof/Machine/Diverge.lean ====
section
/-! DEFINITION. Divergence (spec 10 R214 to R232): rejoin records, ejection to carrel cores and the way back, reform bins. -/

namespace Sys2Proof.Machine

/-! Rejoin records (R217 to R220). -/

/-- Records that a test admits among those of a core of a die. -/
def State.recsOn (s : State) (d : Die) (core : Nat) (ok : Block → Bool) : Nat :=
  (s.blocks.filter fun b => b.die = d && ok b).foldl (fun n b => n + (b.recs.filter fun r => b.coreNum r.core = core).length) 0

/-- Whether a core has a record free for a block (R218). -/
def State.recFree (s : State) (b : Block) (j : Nat) : Bool :=
  s.recsOn b.die (b.coreNum j) (fun _ => true) < 256 &&
  (!b.pmode || s.recsOn b.die (b.coreNum j) (fun x => x.ctx = b.ctx) < 128)

/-- The carrel contexts of a die in use or promised (R222). -/
def State.carrelsUsed (s : State) (d : Die) : List Nat :=
  (s.blocks.filter fun b => b.die = d).flatMap fun b => b.threads.filterMap fun th =>
    match th.carrel, th.status with
    | some i, _ => some i
    | none, .wait (.toCarrel i) => some i
    | _, _ => none

/-- The free contexts, ascending by carrel core and context. -/
def State.carrelsFree (s : State) (d : Die) : List Nat :=
  let used := s.carrelsUsed d
  (List.range 512).filter fun i => !used.contains i

/-- The minor side of R221: the side of fewer threads, the taken one when both are as many. (DEDUCED, log entry 36) -/
def minorSide (taken other : List Nat) : List Nat := if other.length < taken.length then other else taken

/-- Sends the minor side on its way to carrel contexts, lowest first (R222). -/
def State.ejectAll (s : State) (id : Nat) (ts free : List Nat) : State :=
  (ts.zip free).foldl (fun a e => a.modThread ⟨id, e.1⟩ fun th => { th with status := .wait (.toCarrel e.2) }) s

/-- Ejects the minor side where R221 allows it. (DEDUCED, log entry 36) -/
def State.eject (s : State) (b : Block) (rp : CodeAddr) (taken other : List Nat) : State :=
  let minor := minorSide taken other
  let free := s.carrelsFree b.die
  let at_ := fun t => b.threads[t]?
  if minor.length ≤ b.code.launch.eject &&
    minor.all (fun t => match at_ t with | some th => th.pc != rp && !th.inTrap | none => false) &&
    minor.length ≤ free.length then
    s.ejectAll b.id minor free
  else s

/-- A long branch that split its group opens a record of the threads that completed it, and then may eject (R217, R218, R221). (DEDUCED, log entry 36) -/
def State.openRec (s : State) (b : Block) (votes : List (Nat × Bool)) (rp : CodeAddr) (ej : Bool) : State :=
  let taken := (votes.filter fun v => v.2).map fun v => v.1
  let other := (votes.filter fun v => !v.2).map fun v => v.1
  let all := votes.map fun v => v.1
  let j := b.home (all.headD 0)
  let full := all.any fun t => match b.threads[t]? with | some th => 7 ≤ th.chain.length | none => true
  if taken.isEmpty || other.isEmpty || full || !s.recFree b j then s
  else
    let (id, s1) := s.fresh
    let s2 := s1.modBlock b.id fun b =>
      { b with
        recs := b.recs ++ [⟨id, j, rp, all, [], [], none⟩]
        threads := b.threads.mapIdx fun t th => if all.contains t then { th with chain := id :: th.chain } else th }
    if ej then s2.eject b rp taken other else s2

/-- At the end of an issue group the votes of a long branch are counted. (DEDUCED, log entry 36) -/
def State.resolveSplit (s : State) : State :=
  match s.issue.agent, s.issue.split with
  | some (.lane r), some (rp, ej) =>
    let votes := s.issue.votes
    let s1 : State := { s with issue := { s.issue with votes := [], split := none } }
    match s1.block? r.block with
    | none => s1
    | some b =>
      s1.openRec b (votes.filter fun v => match b.threads[v.1]? with | some th => th.status != .ended | none => false) rp ej
  | _, _ => s

/-- The ids of a chain before the first record with a rejoin address, and that record (R219). -/
def Block.findRec (b : Block) (chain : List Nat) (p : CodeAddr) : Option (List Nat × Nat) :=
  let hit (i : Nat) : Bool := b.recs.any fun r => r.id = i && r.rp = p
  (chain.find? hit).map fun i => (chain.takeWhile fun x => !hit x, i)

/-- A thread on its home core executes REJOIN at its address (R219). -/
def State.rejoinAt (s : State) (r : ThreadRef) (p : CodeAddr) : State :=
  s.modBlock r.block fun b =>
    match b.threads[r.t]? with
    | none => b
    | some th =>
      match b.findRec th.chain p with
      | none => b.modThread r.t fun th => th.goOn
      | some (inner, id) =>
        let b1 := b.removeFrom r.t inner
        let b2 := b1.modThread r.t fun th => { th with pc := p, status := .wait (.rejoin id) }
        { b2 with recs := b2.recs.map fun (x : RejoinRec) =>
            if x.id = id then
              { x with arrived := x.arrived ++ [r.t], first := match x.first with | some c => some c | none => some (s.cycle b.die) }
            else x }.checkRecs

/-! Reform bins (R228, R229). -/

/-- Bins that a test admits among those of a core of a die. -/
def State.binsOn (s : State) (d : Die) (core : Nat) (ok : Block → Bool) : Nat :=
  (s.blocks.filter fun b => b.die = d && ok b).foldl (fun n b => n + (b.bins.filter fun x => b.coreNum x.core = core).length) 0

/-- Whether a core has a bin free for a block. -/
def State.binFree (s : State) (b : Block) (j : Nat) : Bool :=
  s.binsOn b.die (b.coreNum j) (fun _ => true) < 16 &&
  (!b.pmode || s.binsOn b.die (b.coreNum j) (fun x => x.ctx = b.ctx) < 8)

/-- Files a thread under a key address, or lets it go on there when no bin is free (R228). -/
def State.fileThread (s : State) (r : ThreadRef) (key : CodeAddr) : State :=
  match s.block? r.block with
  | none => s
  | some b =>
    match b.threads[r.t]? with
    | none => s
    | some th =>
      let j := b.home r.t
      let now := s.cycle b.die
      let into (id : Nat) (b : Block) : Block :=
        (b.modThread r.t fun th => { th with pc := key, status := .filed id }).removeFrom r.t th.chain
      match b.bins.find? fun x => x.core = j && x.pc = key with
      | some x =>
        s.modBlock b.id fun b =>
          into x.id { b with bins := b.bins.map fun (y : Bin) =>
            if y.id = x.id then { y with threads := y.threads ++ [(r.t, now)] } else y }
      | none =>
        if s.binFree b j then
          let (id, s1) := s.fresh
          s1.modBlock b.id fun b => into id { b with bins := b.bins ++ [⟨id, j, key, [(r.t, now)]⟩] }
        else s.modThread r fun th => { th with pc := key, status := .ready }

/-! REJOIN and REFORM as a thread executes them. -/

/-- A REJOIN returns an ejected thread when it finds its record, or when the thread is late there (R226). -/
def Block.returnsAt (b : Block) (th : Thread) (p : CodeAddr) : Bool :=
  (b.findRec th.chain p).isSome || (th.late && th.lateRp.contains p)

/-- REJOIN (R215, R219, R226). -/
def State.execRejoinAt (s : State) (r : ThreadRef) (b : Block) (th : Thread) : State :=
  let s1 := s.modThread r fun th => { th with yld := false, status := .ready, pass := false }
  if th.carrel.isSome then
    if b.returnsAt th th.pc then s1.modThread r fun th => { th with status := .wait (.fromCarrel false) }
    else s1.modThread r fun th => th.goOn
  else s1.rejoinAt r th.pc

/-- REFORM (R215, R226, R228). -/
def State.execReformAt (s : State) (r : ThreadRef) (th : Thread) : State :=
  let s1 := s.modThread r fun th => { th with yld := false, status := .ready, pass := false }
  if th.carrel.isSome then s1.modThread r fun th => { th with status := .wait (.fromCarrel true) }
  else s1.fileThread r (th.pc + 1)

/-! Events. -/

/-- A record times out (R220): its members that are missing are late, and those that arrived go on. (DEDUCED, log entry 36) -/
def State.timeoutRec (s : State) (b : Block) (r : RejoinRec) : State :=
  s.modBlock b.id fun b =>
    { b with
      recs := b.recs.filter fun x => x.id != r.id
      threads := b.threads.mapIdx fun t th =>
        let th1 := { th with chain := th.chain.filter fun i => i != r.id }
        if th.status = .wait (.rejoin r.id) then th1.goOn
        else if r.members.contains t && !r.arrived.contains t && !r.removed.contains t then
          { th1 with late := true, lateRp := r.rp :: th1.lateRp }
        else th1 }

/-- Whether a record's time is over (R220). -/
def Block.recDue (b : Block) (r : RejoinRec) (now : Nat) : Bool :=
  match r.first with
  | some c => c + b.code.launch.rejoinTmo + 1 ≤ now
  | none => false

def execRejoinTimeout (s : State) : Host.Outcome State Fault Refusal :=
  event (fun s => match s.arg with
    | .record id k =>
      match s.block? id with
      | some b =>
        match b.recs.find? fun r => r.id = k with
        | some r => if b.stop.isNone && b.recDue r (s.cycle b.die) then s.timeoutRec b r else s
        | none => s
      | none => s
    | _ => s) s

/-- Registers of a thread with a clear dirty bit that hold something: what last-use poison left (R199). -/
def Thread.cleanHeld (th : Thread) : BitVec 128 :=
  BitVec.ofNat 128 (maskWhere 128 fun i => !th.dirty.getLsbD i && (th.v.toList)[i]?.getD 0 != 0)

/-- The thread as it starts on its carrel context (R223). -/
def Thread.onCarrel (th : Thread) (i : Nat) : Thread :=
  { th with
    carrel := some i
    status := .ready
    wrote := 0
    homePoison := th.cleanHeld
    v := th.v.mapIdx fun i x => if th.dirty.getLsbD i then x else 0 }

/-- The hand-over (R223). Copies that the carrel core's L1 has held from before are too old for the thread's own program order (R167, DEDUCED, log entry 9). -/
def State.handOver (s : State) (r : ThreadRef) (i : Nat) : State := s.modThread r fun th => { th.onCarrel i with floor := s.tick }

/-- A thread on its way to or from a carrel core goes on: its block does not stop (R306), and no PREEMPT has reached it (R232). -/
def State.mayMove (s : State) (r : ThreadRef) (th : Thread) : Bool :=
  th.ld = 0 && th.st = 0 && !th.preempt && match s.block? r.block with | some b => b.stop.isNone | none => false

def execEjectHandover (s : State) : Host.Outcome State Fault Refusal :=
  event (fun s => match s.arg with
    | .thread r =>
      match s.thread? r with
      | some th =>
        match th.status with
        | .wait (.toCarrel i) =>
          if s.mayMove r th then s.handOver r i else s
        | _ => s
      | none => s
    | _ => s) s

/-- The thread as its home core takes it back (R226): registers it wrote or poisoned come back, dirty from then on (R201), the others stand as at
hand-over. -/
def Thread.backHome (th : Thread) : Thread :=
  { th with
    carrel := none
    status := .ready
    dirty := th.dirty ||| th.wrote
    wrote := 0
    homePoison := 0
    v := th.v.mapIdx fun i x => if th.homePoison.getLsbD i && !th.wrote.getLsbD i then poisonWord else x }

/-- A thread's way back ends: it arrives, or is filed (R226). (DEDUCED, log entry 36) -/
def State.carrelReturn (s : State) (r : ThreadRef) (reform : Bool) : State :=
  match s.block? r.block with
  | none => s
  | some b =>
    match b.threads[r.t]? with
    | none => s
    | some th =>
      let s1 := s.modThread r fun th => { th.backHome with floor := s.tick }
      if reform then (s1.modBlock r.block fun b => b.removeFrom r.t th.chain).fileThread r (th.pc + 1)
      else if (b.findRec th.chain th.pc).isSome then s1.rejoinAt r th.pc
      else s1.fileThread r (th.pc + 1)

def execCarrelReturn (s : State) : Host.Outcome State Fault Refusal :=
  event (fun s => match s.arg with
    | .thread r =>
      match s.thread? r with
      | some th =>
        match th.status with
        | .wait (.fromCarrel f) => if s.mayMove r th then s.carrelReturn r f else s
        | _ => s
      | none => s
    | _ => s) s

/-- Whether a bin is drawn from (R229). -/
def Block.binDue (b : Block) (x : Bin) (now : Nat) : Bool :=
  match x.threads with
  | [] => false
  | (t, c) :: _ =>
    let g := match b.threads[t]? with | some th => th.g.toNat | none => 64
    g ≤ x.threads.length || c + b.code.launch.reformAge ≤ now

/-- Draws the oldest entries of a bin, up to the lanes of a group (R229). (DEDUCED, log entry 36) -/
def State.drawBin (s : State) (b : Block) (x : Bin) : State :=
  let out := (x.threads.take b.lanes).map fun e => e.1
  let rest := x.threads.drop b.lanes
  s.modBlock b.id fun b =>
    { b with
      bins := b.bins.filterMap fun (y : Bin) => if y.id = x.id then (if rest.isEmpty then none else some { y with threads := rest }) else some y
      threads := b.threads.mapIdx fun t th =>
        if out.contains t then { th with status := .ready, pc := x.pc, late := false, lateRp := [], yld := false } else th }

def execReformDraw (s : State) : Host.Outcome State Fault Refusal :=
  event (fun s => match s.arg with
    | .record id k =>
      match s.block? id with
      | some b =>
        match b.bins.find? fun x => x.id = k with
        | some x => if b.stop.isNone && b.binDue x (s.cycle b.die) then s.drawBin b x else s
        | none => s
      | none => s
    | _ => s) s

end Sys2Proof.Machine
end

