-- ==== Sys2Proof/Machine/Control.lean ====
section
/-! DEFINITION. Control forms, GRANT, cross-lane forms and words without a meaning of their own (spec 17 R323, R324, R344, 21 R392 to
R405). -/

namespace Sys2Proof.Machine

/-! Transfers of control (R392 to R395). -/

/-- The word an offset from a branch word names, when it lies in the code section below the guard packet (R392). -/
def Code.target (c : Code) (pc : CodeAddr) (off : Int) : Option CodeAddr :=
  let t : Int := (pc.toNat : Int) + off
  if 0 ≤ t && c.holds t.toNat then some (BitVec.ofNat 48 t.toNat) else none

/-- A transfer by an offset, RUNOFF outside the code (R392). (DEDUCED, log entry 31) -/
def LaneEnv.direct (e : LaneEnv) (s : State) (off : Int) : UnitRes :=
  match e.b.code.target e.pc off with
  | some t => .jump s t
  | none => .trap (.sync 0x03 0 0)

/-- A transfer when a condition holds; else the thread goes on. -/
def LaneEnv.branch (e : LaneEnv) (s : State) (cond : Bool) (off : Int) : UnitRes := if cond then e.direct s off else .done s

/-- A transfer through a pair, STACK outside the code or with bits 63:48 set (R392). (DEDUCED, log entry 31) -/
def LaneEnv.indirect (e : LaneEnv) (s : State) (p : Dword) : UnitRes :=
  if p.toNat < 2 ^ 48 && e.b.code.holds p.toNat then .jump s (p.setWidth 48) else .trap (.sync 0x0F 0 0)

/-- The return pair of CALL and CALLR (R393). -/
def LaneEnv.link (e : LaneEnv) (s : State) : State := e.write s (two (e.next.setWidth 64))

def execBz (f : ShortB) (s : State) : Host.Outcome State Fault Refusal :=
  lane (.bz f) (fun e s => e.branch s (e.x 0 = 0) f.off.toInt) s

def execBnz (f : ShortB) (s : State) : Host.Outcome State Fault Refusal :=
  lane (.bnz f) (fun e s => e.branch s (e.x 0 != 0) f.off.toInt) s

def execBra (f : ShortB) (s : State) : Host.Outcome State Fault Refusal :=
  lane (.bra f) (fun e s => e.direct s f.off.toInt) s

def execCall (f : ShortB) (s : State) : Host.Outcome State Fault Refusal :=
  lane (.call f) (fun e s => e.direct (e.link s) f.off.toInt) s

def execRet (f : ShortR) (s : State) : Host.Outcome State Fault Refusal :=
  lane (.ret f) (fun e s => e.indirect s (e.pair 0)) s

def execBrx (f : X3) (s : State) : Host.Outcome State Fault Refusal :=
  lane (.brx f) (fun e s => e.indirect s (e.pair 0)) s

def execCallr (f : X3) (s : State) : Host.Outcome State Fault Refusal :=
  lane (.callr f) (fun e s => e.indirect (e.link s) (e.pair 0)) s

/-- The rejoin point of a long branch (R318). -/
def rejoinPoint (pc : CodeAddr) (k : BitVec 12) : CodeAddr := BitVec.ofNat 48 (pc.toNat - pc.toNat % 3 + 3 * k.toNat)

/-- Notes that a thread completed a long branch and on which side (R217). -/
def State.vote (s : State) (t : Nat) (cond : Bool) (rp : CodeAddr) (ej : Bool) : State :=
  { s with issue := { s.issue with votes := s.issue.votes ++ [(t, cond)], split := some (rp, ej) } }

/-- A long branch of one thread (R394). The record that the group opens comes when its last thread has issued (State.resolveSplit). -/
def LaneEnv.fork (e : LaneEnv) (s : State) (f : XB) (cond : Bool) : UnitRes :=
  e.branch (s.vote e.r.t cond (rejoinPoint e.pc f.rejoin) (f.ej = 1)) cond f.target.toInt

def execBzLong (f : XB) (s : State) : Host.Outcome State Fault Refusal :=
  lane (.bzLong f) (fun e s => e.fork s f (e.x 0 = 0)) s

def execBnzLong (f : XB) (s : State) : Host.Outcome State Fault Refusal :=
  lane (.bnzLong f) (fun e s => e.fork s f (e.x 0 != 0)) s

/-! Path priority, rejoining, ends (R396, R397). -/

def execSetpri (f : ShortI) (s : State) : Host.Outcome State Fault Refusal :=
  lane (.setpri f) (fun e s => .done (s.modThread e.r fun th => { th with pri := f.imm.setWidth 4 })) s

def execYield (s : State) : Host.Outcome State Fault Refusal :=
  lane .yield (fun e s => .done (s.modThread e.r fun th => { th with yld := true })) s

def execRejoin (s : State) : Host.Outcome State Fault Refusal :=
  lane .rejoin (fun e s => .gone (s.execRejoinAt e.r e.b e.th)) s

def execReform (s : State) : Host.Outcome State Fault Refusal :=
  lane .reform (fun e s => .gone (s.execReformAt e.r e.th)) s

/-- A thread waits at EXIT or END, its chain's first word kept (R242). -/
def LaneEnv.exitWait (e : LaneEnv) (s : State) : UnitRes :=
  .wait id (.exit (match e.th.status with | .wait (.exit pc) => pc | _ => s.issue.start))

/-- EXIT: the release waits of R138, then the end (R397). (DEDUCED, log entry 40) -/
def LaneEnv.exit (e : LaneEnv) (s : State) : UnitRes :=
  if s.releaseReady e.r e.th then .gone (s.endThread e.r) else e.exitWait s

def execExitOp (s : State) : Host.Outcome State Fault Refusal :=
  lane .exitOp (fun e s => e.exit s) s

def execEndOp (s : State) : Host.Outcome State Fault Refusal :=
  lane .endOp (fun e s => if e.th.cp = [] && e.th.tl = [] then e.exit s else e.exitWait s) s

/-! GRANT (R193, R398). -/

/-- The grant for a requested width under a partition mode. -/
def grantOf (pmode : Bool) (w : Nat) : BitVec 7 := BitVec.ofNat 7 (Nat.min w (if pmode then 32 else 64))

def execGrant (f : ShortI) (s : State) : Host.Outcome State Fault Refusal :=
  lane (.grant f) (fun e s =>
    if e.th.carrel.isSome then .trap (.sync 0x0B 0 0)
    else
      let g := grantOf e.b.pmode f.imm.toNat
      .done (e.write (s.modThread e.r fun th => { th with g := g, req := f.imm.setWidth 8, stale := false }) [g.setWidth 32])) s

/-! Cross-lane forms (R399 to R405). -/

/-- The operand words of the mask, the last source; SWZ names its quad (R399, R405). -/
def LaneEnv.xmask (e : LaneEnv) (i : Instr) (p : Nat) : Dword :=
  match i with
  | .swz _ => BitVec.ofNat 64 (15 * 2 ^ (p / 4 * 4))
  | _ => e.pair (e.vals.length - 1)

/-- Whether a mask is one of R399's step 3, and for BCAST its position (R401). -/
def LaneEnv.xmaskOk (e : LaneEnv) (i : Instr) (mask : Dword) (g p : Nat) : Bool :=
  mask != 0 && mask.toNat < 2 ^ g && mask.getLsbD p &&
  match i with
  | .bcast _ => decide ((e.x 1).toNat < g) && mask.getLsbD (e.x 1).toNat
  | _ => true

/-- The conflicting waiters trap XLANE_MASK at their instruction (R399). -/
def State.trapWaiters (s : State) (b : Block) (ts : List Nat) : State :=
  ts.foldl (fun a u =>
    match b.threads[u]? with
    | some th =>
      match th.arrival with
      | some y =>
        (a.takeTrap ⟨b.id, u⟩ (.sync 0x0A 0 0) th.pc (y.pc.toNat % 3) y.chained).noteTrap ⟨b.id, u⟩ 0x0A th.pc
      | none => a
    | none => a) s

/-- A thread arrives, and completes the wait when it is the last (R399). -/
def LaneEnv.arrive (e : LaneEnv) (i : Instr) (mask : Dword) (s : State) : State :=
  s.modBlock e.b.id fun b =>
    (b.modThread e.r.t fun th => { th with arrival := some ⟨i, e.pc, mask, e.vals, s.issue.chained⟩ }).completeWait e.r.t

/-- A cross-lane form (R399). -/
def LaneEnv.xlane (e : LaneEnv) (i : Instr) (s : State) : UnitRes :=
  match e.th.status with
  | .wait (.xlane (some res)) => .done (e.write s res)
  | _ =>
    if e.th.carrel.isSome then .trap (.sync 0x0B 0 0)
    else if e.th.stale then .trap (.sync 0x09 0 0)
    else
      let g := if e.th.g = 0 then 1 else e.th.g.toNat
      let p := e.r.t % g
      let mask := e.xmask i p
      if !e.xmaskOk i mask g p then .trap (.sync 0x0A 0 0)
      else
        match e.b.conflicts e.r.t g e.pc mask with
        | [] => .wait (e.arrive i mask) (.xlane none)
        | ws => .trapWith (fun s => s.trapWaiters e.b ws) (.sync 0x0A 0 0)

def execShfl (f : X3) (s : State) : Host.Outcome State Fault Refusal := lane (.shfl f) (fun e s => e.xlane (.shfl f) s) s
def execBcast (f : X3) (s : State) : Host.Outcome State Fault Refusal := lane (.bcast f) (fun e s => e.xlane (.bcast f) s) s
def execVote (f : X3) (s : State) : Host.Outcome State Fault Refusal := lane (.vote f) (fun e s => e.xlane (.vote f) s) s
def execMatchOp (f : X3) (s : State) : Host.Outcome State Fault Refusal := lane (.matchOp f) (fun e s => e.xlane (.matchOp f) s) s
def execRed (f : X3) (s : State) : Host.Outcome State Fault Refusal := lane (.red f) (fun e s => e.xlane (.red f) s) s
def execScan (f : X3) (s : State) : Host.Outcome State Fault Refusal := lane (.scan f) (fun e s => e.xlane (.scan f) s) s
def execElect (f : X3) (s : State) : Host.Outcome State Fault Refusal := lane (.elect f) (fun e s => e.xlane (.elect f) s) s
def execSwz (f : ShortR) (s : State) : Host.Outcome State Fault Refusal := lane (.swz f) (fun e s => e.xlane (.swz f) s) s

/-! Words that are no unit of their own. -/

/-- A GUARD read alone leaves its value to the next unit (R323); issue reads it together with that unit (Guarded.guard). -/
def execGuard (f : GuardW) (s : State) : Host.Outcome State Fault Refusal :=
  lane (.guard f) (fun e s =>
    .done { s with issue := { s.issue with guard := some (if f.n = 0 then e.x 0 != 0 else e.x 0 = 0) } }) s

/-- A guard word traps RUNOFF for whoever issues it (R84, R237). -/
def execGuardWord (_ : ShortN) (s : State) : Host.Outcome State Fault Refusal :=
  match s.issue.agent with
  | some (.lane r) => .next (s.unitTrap r (.sync 0x03 0 0))
  | some (.lead l) => .next (s.leadTrap l (.sync 0x03 0 0))
  | none => .next s

/-- An encoding that no row assigns traps ILLEGAL (R344): subcode 0x02 for a nonzero field of R396 and R397, 0x01 for TDUMP of another
stepping, else 0x00; in a lead context 0x00 (R328). -/
def execUnassignedEncoding (w0 _w1 : Word) (s : State) : Host.Outcome State Fault Refusal :=
  match s.issue.agent with
  | some (.lane r) => .next (s.unitTrap r (.sync 0x01 (unassignedSub w0) 0))
  | some (.lead l) => .next (s.leadTrap l (.sync 0x01 0 0))
  | none => .next s

end Sys2Proof.Machine
end

