-- ==== Sys2Proof/Machine/Ckpt.lean ====
section
/-! DEFINITION. Checkpoint records (spec 04 R95, R96, 23 R466): rounds of arrivals of a node's lead contexts, and the record that a whole round
leaves in the context save area. -/

namespace Sys2Proof.Machine

/-- The arrivals of a node's round: the first that each lead context has made since the last round closed. -/
def roundOf (l : List CkptArrival) (n : NodeRef) : List CkptArrival :=
  (l.filter fun a => a.node = n).foldl (fun acc a => if acc.any fun x => x.b = a.b && x.j = a.j then acc else acc ++ [a]) []

/-- Whether every lead context of the node's blocks, total in all, has arrived at a round (R113, R466). (DEDUCED, log entry 35) -/
def roundWhole (r : List CkptArrival) (total : Nat) : Bool :=
  (List.range total).all fun b =>
    match r.find? fun a => a.b = b with
    | some a => (List.range a.c).all fun j => r.any fun x => x.b = b && x.j = j
    | none => false

/-- The 64 bytes of a checkpoint record (R95). -/
def ckptBytes (a : CkptArrival) (handle : Nat) : List Byte :=
  bytesOf 8 a.step.toNat ++ bytesOf 8 a.desc.toNat ++ bytesOf 4 a.node.seq.toNat ++ bytesOf 4 a.node.node ++ bytesOf 4 handle ++
    bytesOf 4 (1 + Config.stepping * 2 ^ 16) ++ bytesOf 32 0

/-- Closes a node's round. (DEDUCED, log entry 35) -/
def State.closeRound (s : State) (n : NodeRef) : State :=
  { s with ckpts := (roundOf s.ckpts n).foldl (fun l a => l.erase a) s.ckpts }

/-- A round of a node that is whole closes: its record is written when all agree, after every store made before the arrivals is at its home; it waits
for an absent page whether or not the node goes on. (DEDUCED, log entry 35) -/
def State.ckptRound (s : State) (n : NodeRef) : State :=
  match s.node? n, s.replay? n.ctx n.seq, s.ctx? n.ctx with
  | some x, some p, some c =>
    let r := roundOf s.ckpts n
    match r with
    | [] => s
    | a :: _ =>
      if !roundWhole r x.blocks then s
      else
        let s1 := s.closeRound n
        if r.any fun y => y.step != a.step || y.desc != a.desc then s1
        else (s1.settle (r.foldl (fun k y => k.join y.clk) [])).owe ⟨n, c.save, ckptBytes a p.handle, false⟩
  | _, _, _ => s

/-- What the threads of a block know, all together. -/
def State.blockKnows (s : State) (b : Block) : Clock :=
  (List.range b.threads.length).foldl (fun k t => k.join (s.knows (.lane ⟨b.id, t⟩))) []

/-- A lead context arrives. (DEDUCED, log entry 35) -/
def State.ckptArrive (s : State) (b : Block) (j : Nat) (step desc : Dword) : State :=
  ({ s with ckpts := s.ckpts ++ [⟨b.nodeRef, b.b, b.c, j, step, desc, s.blockKnows b⟩] } : State).ckptRound b.nodeRef

end Sys2Proof.Machine
end

