-- ==== Sys2Proof/Machine/Memory.lean ====
section
/-! DEFINITION. Lane loads, stores, atomics, reductions and discards (spec 22 R418 to R427). -/

namespace Sys2Proof.Machine

/-! Operands. -/

/-- The global address of source k and an offset (R418). -/
def LaneEnv.gaddr {n : Nat} (e : LaneEnv) (k : Nat) (off : BitVec n) : Nat := (e.pair k + off.signExtend 64).toNat

/-- The local address likewise. -/
def LaneEnv.laddr {n : Nat} (e : LaneEnv) (k : Nat) (off : BitVec n) : Nat := (e.x k + off.signExtend 32).toNat

/-- n destination registers. -/
def LaneEnv.dsts (e : LaneEnv) (n : Nat) : List LReg := (List.range n).map fun i => e.th.lreg (BitVec.ofNat 7 (e.d + i))

/-- The first n bytes of source k. -/
def LaneEnv.data (e : LaneEnv) (k n : Nat) : List Byte := ((e.vals.getD k []).flatMap fun w => bytesOf 4 w.toNat).take n

/-- The registers that n loaded bytes give (R421). -/
def loadWords (sext : Bool) (bs : List Byte) : List Word :=
  match bs.length with
  | 1 => [if sext then (BitVec.ofNat 8 (natOf bs)).signExtend 32 else BitVec.ofNat 32 (natOf bs)]
  | 2 => [if sext then (BitVec.ofNat 16 (natOf bs)).signExtend 32 else BitVec.ofNat 32 (natOf bs)]
  | _ => wordsOf bs

/-- Destination registers of a load of n bytes. -/
def loadCount (n : Nat) : Nat := if n ≤ 4 then 1 else n / 4

/-! Global forms. -/

/-- Holds the thread on an absent page. (DEDUCED, log entry 25) -/
def LaneEnv.hold (e : LaneEnv) (kind va : Nat) (need : Need) : UnitRes := .wait (fun s => s.holdOn e.acor kind va need) .held

/-- A fatal page under a held access (R131, R134). -/
def fatalAt (va : Nat) : UnitRes := .trap (.sync 0x07 0 va)

/-- What an address on an access's way meets: it waits for a unit across the link, or its context takes a device fault (R12, R13, R22). -/
def LaneEnv.meets (e : LaneEnv) (s : State) (f : PhysFault) (pa : Nat) : UnitRes :=
  if f = .clear then .wait id .retry else .gone (s.physTrap e.b.ctx f e.b.die (coreUnit e.acor.cache) pa)

/-- A global load of n bytes (R421). LU marks the line for replacement and never changes a value (R159). -/
def LaneEnv.gload (e : LaneEnv) (s : State) (va n : Nat) (sext lu : Bool) : UnitRes :=
  match s.chk e.acor va n .load 2 n with
  | .ok pa =>
    if s.logHas e.acor va || 63 ≤ e.th.ld then .wait id .retry
    else .done ((s.unhold (.lane e.r)).issueLoad e.acor pa va n sext none (e.dsts (loadCount n)) 0 false lu)
  | .absent => e.hold 1 va .load
  | .fatal => fatalAt va
  | .trap t => .trap t
  | .stop => .stop 3
  | .dev f pa => e.meets s f pa

/-- A store or reduction that its page's fault, or entries of its page, send into the side log (R136). -/
def LaneEnv.logged (e : LaneEnv) (s : State) (va : Nat) (bs : List Byte) (atom : Option AtomOp) (rfunc : Nat) (pa : Option Nat) : UnitRes :=
  if s.logRoom e.acor then .done (s.logStore e.acor e.r va bs atom rfunc pa) else .wait id .retry

/-- A plain store or a reduction of the bytes given (R422, R425). -/
def LaneEnv.gstore (e : LaneEnv) (s : State) (va : Nat) (bs : List Byte) (atom : Option AtomOp) (rfunc : Nat) : UnitRes :=
  match s.chk e.acor va bs.length .store 1 bs.length with
  | .ok pa =>
    if s.logHas e.acor va then e.logged s va bs atom rfunc (some pa)
    else if 63 ≤ e.th.st then .wait id .retry
    else .done (s.issueStore e.acor pa va bs atom false)
  | .absent => e.logged s va bs atom rfunc none
  | .fatal => .done (s.modThread e.r fun th => { th with pfatal := match th.pfatal with | some a => some a | none => some va })
  | .trap t => .trap t
  | .stop => .stop 3
  | .dev f pa => e.meets s f pa

/-- The operation of an atomic from its MODE and the words of source k (R423). -/
def LaneEnv.atomOp (e : LaneEnv) (k mode : Nat) : AtomOp :=
  let op := mode % 16
  let b : Dword := if op = 11 || op = 12 || op = 13 then e.pair k else (e.x k).setWidth 64
  let new : Dword := if op = 13 then e.w k 3 ++ e.w k 2 else (e.w k 1).setWidth 64
  ⟨op, b, new, mode / 16⟩

/-- Operand bytes that an atomic without return carries. -/
def AtomOp.bytes (o : AtomOp) : List Byte := bytesOf o.size o.b.toNat

/-- ATOM (R423 to R425): a release waits before issue, an acquire holds the thread after it. -/
def LaneEnv.atom (e : LaneEnv) (s : State) (va : Nat) (o : AtomOp) : UnitRes :=
  let st := o.op = 15
  let need : Need := if st then .store else .both
  match s.chk e.acor va o.size need 1 o.size with
  | .ok pa =>
    if s.logHas e.acor va || (o.rel && !s.releaseReady e.r e.th) || (if st then 63 ≤ e.th.st else !o.acq && 63 ≤ e.th.ld) then .wait id .retry
    else
      let s1 := s.unhold (.lane e.r)
      if st then .done (s1.issueStore e.acor pa va o.bytes (some o) false)
      else .done (s1.issueLoad e.acor pa va o.size false (some o) (e.dsts (o.size / 4)) 0 o.acq false)
  | .absent => e.hold (if st then 2 else 1) va need
  | .fatal => fatalAt va
  | .trap t => .trap t
  | .stop => .stop 3
  | .dev f pa => e.meets s f pa

/-- DISCARD (R157, R427): nothing happens on an absent or fatal page (R131). -/
def LaneEnv.discardLine (e : LaneEnv) (s : State) (va : Nat) : UnitRes :=
  match s.chk e.acor va 128 .store 1 128 with
  | .ok pa =>
    if s.logHas e.acor va || 63 ≤ e.th.st then .wait id .retry
    else .done (s.issueStore e.acor pa va (List.replicate 128 0) none true)
  | .absent => .done s
  | .fatal => .done s
  | .trap t => .trap t
  | .stop => .stop 3
  | .dev f pa => e.meets s f pa

def execLd (f : ShortI) (s : State) : Host.Outcome State Fault Refusal :=
  lane (.ld f) (fun e s => e.gload s (e.gaddr 0 f.imm) 4 false false) s

def execSt (f : ShortI) (s : State) : Host.Outcome State Fault Refusal :=
  lane (.st f) (fun e s => e.gstore s (e.gaddr 0 f.imm) (e.data 1 4) none 0) s

def execLdLong (f : XM) (s : State) : Host.Outcome State Fault Refusal :=
  lane (.ldLong f) (fun e s => e.gload s (e.gaddr 0 f.off) (2 ^ (f.mode.toNat % 8)) (f.mode.getLsbD 3) (f.mode.getLsbD 4)) s

def execStLong (f : XM) (s : State) : Host.Outcome State Fault Refusal :=
  lane (.stLong f) (fun e s => e.gstore s (e.gaddr 0 f.off) (e.data 1 (2 ^ (f.mode.toNat % 8))) none 0) s

def execAtom (f : XM) (s : State) : Host.Outcome State Fault Refusal :=
  lane (.atom f) (fun e s => e.atom s (e.gaddr 0 f.off) (e.atomOp 1 f.mode.toNat)) s

def execGred (f : XM) (s : State) : Host.Outcome State Fault Refusal :=
  lane (.gred f) (fun e s =>
    let o := e.atomOp 1 f.mode.toNat
    e.gstore s (e.gaddr 0 f.off) o.bytes (some o) f.mode.toNat) s

def execDiscard (f : ShortI) (s : State) : Host.Outcome State Fault Refusal :=
  lane (.discard f) (fun e s => e.discardLine s (e.gaddr 0 f.imm)) s

def execDiscardLong (f : XM) (s : State) : Host.Outcome State Fault Refusal :=
  lane (.discardLong f) (fun e s => e.discardLine s (e.gaddr 0 f.off)) s

/-! Local forms (R420 to R425): performed before the thread's next instruction. -/

/-- Whether an access of n local bytes goes by its 8-byte halves, at different times, as the hardware chooses (R152, R168). The units of a chain do not. -/
def byHalves (s : State) (n : Nat) : Bool := n = 16 && !s.issue.chained && Config.coin s.tick 41

/-- The 128-byte sector of local space that an access touches (R309). -/
def State.touchLoc (s : State) (la : Nat) : State := { s with issue := { s.issue with lsLoc := s.issue.lsLoc ++ [la / 128] } }

/-- A local load of n bytes. -/
def LaneEnv.lload (e : LaneEnv) (s : State) (la n : Nat) (sext : Bool) : UnitRes :=
  let words (o m : Nat) : List Word := loadWords sext (s.locRead e.b.id (la / 2 ^ 18) o m)
  match e.th.status with
  | .wait (.half upper ws) =>
    let o := la % 2 ^ 18
    .done ((e.write s (if upper then words o 8 ++ ws else ws ++ words (o + 8) 8)).touchLoc la)
  | _ =>
    match s.locChk e.acor la n 2 n with
    | .inl t => .trap t
    | .inr (_, o) =>
      if byHalves s n then
        let upper := Config.coin s.tick 42
        .wait id (.half upper (words (if upper then o + 8 else o) 8))
      else .done ((e.write s (words o n)).touchLoc la)

/-- A local store: every earlier load of the thread has returned (R172). -/
def LaneEnv.lstore (e : LaneEnv) (s : State) (la : Nat) (bs : List Byte) : UnitRes :=
  let put (upper : Bool) (s : State) : State :=
    s.locWrite e.b.id (la / 2 ^ 18) (la % 2 ^ 18 + (if upper then 8 else 0)) ((bs.drop (if upper then 8 else 0)).take 8)
  match e.th.status with
  | .wait (.half upper _) => .done ((put (!upper) s).touchLoc la)
  | _ =>
    match s.locChk e.acor la bs.length 1 bs.length with
    | .inl t => .trap t
    | .inr (j, o) =>
      if !s.noLoads (.lane e.r) then .wait id .retry
      else if byHalves s bs.length then let upper := Config.coin s.tick 42; .wait (put upper) (.half upper [])
      else .done ((s.locWrite e.b.id j o bs).touchLoc la)

/-- What a local atomic has read from is acquired, or kept for an acquire fence (R169). -/
def LaneEnv.localRead (e : LaneEnv) (s : State) (acq : Bool) (k : Clock) : State :=
  if acq then s.acquireBy (.lane e.r) e.acor.cache ⟨false, false, k⟩
  else s.modThread e.r fun th => { th with seen := th.seen.join ⟨false, false, k⟩ }

/-- A local atomic, with the release waits and the acquire of its order (R424, R425); every earlier load of the thread has returned (R172), and before a
synchronising one every earlier synchronising store is performed (R171). -/
def LaneEnv.latom (e : LaneEnv) (s : State) (la : Nat) (op : AtomOp) : UnitRes :=
  match s.locChk e.acor la op.size 1 op.size with
  | .inl t => .trap t
  | .inr (j, o) =>
    if (op.rel && !s.releaseReady e.r e.th) || !s.noLoads (.lane e.r) || (op.ord != 0 && !s.noSyncStores (.lane e.r)) then .wait id .retry
    else
      let m := natOf (s.locRead e.b.id j o op.size)
      let k := match s.share? e.b.id j with | some sh => sh.sync o op.size | none => []
      let out := match s.releases (.lane e.r) (some op) with | some x => x.join (if op.op != 15 then k else []) | none => if op.op != 15 then k else []
      let s1 := match op.apply m with
        | some v => ((s.touchLoc la).locWrite e.b.id j o (bytesOf op.size v)).modShare e.b.id j fun sh => sh.setSync o op.size out
        | none => s.touchLoc la
      .done (if op.op = 15 then s1 else e.write (e.localRead s1 op.acq k) (wordsOf (bytesOf op.size m)))

def execLdl (f : ShortI) (s : State) : Host.Outcome State Fault Refusal :=
  lane (.ldl f) (fun e s => e.lload s (e.laddr 0 f.imm) 4 false) s

def execStl (f : ShortI) (s : State) : Host.Outcome State Fault Refusal :=
  lane (.stl f) (fun e s => e.lstore s (e.laddr 0 f.imm) (e.data 1 4)) s

def execLdlLong (f : XM) (s : State) : Host.Outcome State Fault Refusal :=
  lane (.ldlLong f) (fun e s => e.lload s (e.laddr 0 f.off) (2 ^ (f.mode.toNat % 8)) (f.mode.getLsbD 3)) s

def execStlLong (f : XM) (s : State) : Host.Outcome State Fault Refusal :=
  lane (.stlLong f) (fun e s => e.lstore s (e.laddr 0 f.off) (e.data 1 (2 ^ (f.mode.toNat % 8)))) s

def execAtoml (f : XM) (s : State) : Host.Outcome State Fault Refusal :=
  lane (.atoml f) (fun e s => e.latom s (e.laddr 0 f.off) (e.atomOp 1 f.mode.toNat)) s

end Sys2Proof.Machine
end

