-- ==== Sys2Proof/Machine/Return.lean ====
section
/-! DEFINITION. What completes outstanding accesses (spec 06 R134 to R139, 07 R147 to R158, 08 R167 to R180, 09 R202, R203, 16 R309 to
R314): loads return, stores become visible, side-log entries replay, held faults are walked again. -/

namespace Sys2Proof.Machine

/-! What an access waits for (R167, R171 to R173). -/

/-- No atomic that a thread before this one issued with the same unit of the same group still has to be performed on these bytes: they
are performed in ascending work identifier, which is the order of issue within a group (R424). -/
def State.instReady (s : State) (inst : Option (Nat × CodeAddr)) (seq pa n : Nat) : Bool :=
  inst.isNone ||
    ((s.loads.all fun x => !(x.inst = inst && x.seq < seq && overlaps x.pa x.n pa n)) &&
     s.stores.all fun x => !(x.inst = inst && x.seq < seq && overlaps x.pa x.bytes.length pa n))

/-- A load may return: loads of its agent that it follows on the same bytes, and for an atomic every earlier load, have returned; earlier
atomics and discards of the same bytes have been performed, and for an atomic every earlier store of them; synchronising accesses keep
their order. -/
def State.loadReady (s : State) (l : Load) : Bool :=
  s.instReady l.inst l.seq l.pa l.n &&
  (s.loads.all fun x => !(x.who = l.who && x.seq < l.seq && (overlaps x.pa x.n l.pa l.n || l.atom.isSome))) &&
  s.stores.all fun x => !(x.who = l.who && x.seq < l.seq &&
    ((overlaps x.pa x.bytes.length l.pa l.n && (x.atom.isSome || x.discard || l.atom.isSome)) || (isSync x.atom && isSync l.atom)))

/-- A store may become visible: every earlier load of its agent has returned (R172), and earlier stores of the same bytes, or of
synchronising accesses both, are visible. -/
def State.storeReady (s : State) (x : Store) : Bool :=
  s.instReady x.inst x.seq x.pa x.bytes.length &&
  (s.loads.all fun l => !(l.who = x.who && l.seq < x.seq)) &&
  s.stores.all fun y => !(y.who = x.who && y.seq < x.seq &&
    (overlaps y.pa y.bytes.length x.pa x.bytes.length || (isSync y.atom && isSync x.atom)))

/-! Bytes. -/

/-- The byte that an agent's own earlier store, not yet visible, gives at an address (R167). -/
def State.ownByte? (s : State) (l : Load) (pa : Nat) : Option Byte :=
  ((s.stores.filter fun x => x.who = l.who && x.seq < l.seq && x.atom.isNone && !x.discard &&
      x.pa ≤ pa && pa < x.pa + x.bytes.length).getLast?).bind fun x => x.bytes[pa - x.pa]?

/-- The bytes a plain load reads. -/
def State.loadBytes (s : State) (l : Load) : List Byte :=
  (List.range l.n).map fun i => (s.ownByte? l (l.pa + i)).getD (s.cacheRead l.cache (l.pa + i))

/-! Loads. -/

/-- Puts loaded words into registers; an earlier load of a register no longer writes it (R202). (DEDUCED, log entry 25) -/
def State.landRegs (s : State) (r : ThreadRef) (seq : Nat) : List (Option LReg) → List Word → State
  | some l :: ds, w :: ws =>
    let s1 := s.modThread r fun th => th.putL l w true
    let s2 : State := { s1 with loads := s1.loads.map fun x => if x.seq < seq then x.without (.lane r) l else x }
    s2.landRegs r seq ds ws
  | none :: ds, _ :: ws => s.landRegs r seq ds ws
  | _, _ => s

/-- The scalar value of a lead load (R411). -/
def leadValue (sext : Bool) (bs : List Byte) : Dword :=
  if sext then BitVec.ofInt 64 (sval (8 * bs.length) (natOf bs)) else BitVec.ofNat 64 (natOf bs)

/-- A load is out of the list: its bytes go to its registers and LD falls with its last part (R203). -/
def State.landLoad (s : State) (l : Load) (bs : List Byte) : State :=
  let s1 : State := { s with loads := s.loads.filter fun x => x.seq != l.seq }
  let last := s1.loads.all fun x => x.grp != l.grp
  let s2 :=
    match l.who with
    | .lane r =>
      let s2 := s1.landRegs r l.seq l.dst (loadWords l.sext bs)
      if last && !l.hold then s2.modThread r fun th => { th with ld := th.ld - 1 } else s2
    | .lead r => s1.modLead r fun x => x.put l.sd (leadValue l.sext bs)
  s2.sampleDone l.seq l.who

/-- An agent has read from releases: an acquire applies R177 to R179 at once, another read leaves them for an acquire
fence (R169). (DEDUCED, log entry 24) -/
def State.readFrom (s : State) (a : Agent) (c : Cache) (acq : Bool) (x : Rel) : State :=
  if acq then s.acquireBy a c x
  else
    match a with
    | .lane r => s.modThread r fun th => { th with seen := th.seen.join x }
    | .lead _ => s

/-- Performs an atomic with return. -/
def State.doAtom (s : State) (l : Load) (o : AtomOp) : State :=
  let x := s.atomAt l.cache l.pa o l.rel l.cls
  let s1 := if (o.apply x.old).isSome then x.s.stamp l.stamp else x.s
  (s1.readFrom l.who l.cache o.acq x.rel).landLoad l (bytesOf o.size x.old)

/-- An access to the management window (R61): reads it, and for an atomic writes what the operation makes of that. -/
def State.windowLoad (s : State) (l : Load) : State :=
  let (v, s1) := s.windowRead (l.pa - 0x6000000000) l.n
  let s2 :=
    match l.atom.bind fun o => o.apply v with
    | some x => s1.windowWrite (l.pa - 0x6000000000) l.n x
    | none => s1
  s2.landLoad l (bytesOf l.n v)

/-- The step before whose end copies are too old for an agent's loads. -/
def State.floorOf (s : State) (a : Agent) : Nat :=
  match a with
  | .lane r => match s.thread? r with | some th => th.floor | none => 0
  | .lead r => match s.lead? r with | some l => l.floor | none => 0

/-- What a load meets (R12, R13, R22). -/
def State.loadMeets (s : State) (l : Load) : PhysFault :=
  s.meets l.cache.die (if l.atom.isSome then none else some l.cache) l.pa l.n true

/-- A load reads its bytes and lands. -/
def State.finishLoad (s : State) (l : Load) : State :=
  if homeOf l.pa = .window then s.windowLoad l
  else
    match l.atom with
    | some o => s.doAtom l o
    | none => let s1 := s.fill l.cache l.pa l.n l.cls l.lu; s1.landLoad l (s1.loadBytes l)

/-- A load is performed, once what it needs of the other die is there (R22); copies that its agent has gone beyond serve it no more. -/
def State.performLoad (s0 : State) (l : Load) : State :=
  let s := s0.refresh l.cache l.pa l.n (s0.floorOf l.who)
  match s.loadMeets l with
  | .none => s.finishLoad l
  | f => s.physTrap l.node.ctx f l.cache.die (coreUnit l.cache) l.pa

/-- No unit across the link stands against a load for now. -/
def State.loadOpen (s : State) (l : Load) : Bool :=
  (s.refresh l.cache l.pa l.n (s.floorOf l.who)).loadMeets l != .clear

/-- The block of a load whose read record and replay treat (R313, R314). -/
def State.rrBlock (s : State) (l : Load) : Option Block := s.block? l.who.block

/-- The pair that a replayed load must await. -/
def State.rrPair (s : State) (l : Load) : Option (Block × Nat) :=
  (s.rrBlock l).bind fun b =>
    if s.rrMode b.ctx = 2 then (s.replayPair b l.who.num l.rclk).map fun v => (b, v) else none

/-- A load returns, is held by record or replay, or is not ready yet. (DEDUCED, log entry 25) -/
def State.returnLoad (s : State) (l : Load) : State :=
  if !s.loadReady l || !s.loadOpen l || l.since.isSome then s
  else
    match s.rrPair l with
    | some (b, v) =>
      if s.pairReady b.ctx v then (s.replayRead b l.who.num l.rclk l.pa v false).performLoad l
      else { s with loads := s.loads.map fun x => if x.seq = l.seq then { x with since := some (s.cycle b.die) } else x }
    | none =>
      match s.rrBlock l with
      | some b =>
        if s.rrMode b.ctx = 1 then
          match s.recordRead b l.who.num l.rclk l.pa with
          | some s1 => s1.performLoad l
          | none => s
        else s.performLoad l
      | none => s.performLoad l

def State.load? (s : State) (seq : Nat) : Option Load := s.loads.find? fun l => l.seq = seq

def execLoadReturn (s : State) : Host.Outcome State Fault Refusal :=
  event (fun s => match s.arg with
    | .num n => match s.load? n with | some l => s.returnLoad l | none => s
    | _ => s) s

/-- A replay-held read goes on (R314): late when its time ran out. -/
def State.endHold (s : State) (l : Load) (late : Bool) : State :=
  if !s.loadOpen l then s
  else
    match s.rrPair l with
    | some (b, v) => (s.replayRead b l.who.num l.rclk l.pa v late).performLoad l
    | none => s.performLoad l

def execRrReadRelease (s : State) : Host.Outcome State Fault Refusal :=
  event (fun s => match s.arg with
    | .num n =>
      match s.load? n with
      | some l =>
        match s.rrPair l with
        | some (b, v) => if l.since.isSome && s.pairReady b.ctx v then s.endHold l false else s
        | none => if l.since.isSome then s.endHold l false else s
      | none => s
    | _ => s) s

def execRrReadTimeout (s : State) : Host.Outcome State Fault Refusal :=
  event (fun s => match s.arg with
    | .num n =>
      match s.load? n with
      | some l =>
        match l.since, s.rrBlock l with
        | some c, some b => if c + s.pkg.colltmo.toNat < s.cycle b.die then s.endHold l true else s
        | _, _ => s
      | none => s
    | _ => s) s

/-! Stores. -/

/-- A discard: every word keeps its last value or the one at its home, as the hardware chooses (R157). Nothing is written, so a poisoned line stays
poisoned (R13). -/
def State.discardAt (s : State) (pa : Nat) : State :=
  let word (i : Nat) : List Byte :=
    if Config.coin s.tick (16 + i) then s.homeRead (pa + 4 * i) 4 else s.mem.read (pa + 4 * i) 4
  { (s.dropLine pa).homeWrite pa ((List.range 32).flatMap word) with poison := s.poison }

/-- Writes the bytes of a store, reduction or discard of an agent where it is performed, in a page of a class; seq is its number, rel what it
releases. (DEDUCED, log entry 24) -/
def State.performStore (s : State) (who : Agent × Nat) (c : Cache) (pa : Nat) (bs : List Byte) (atom : Option AtomOp) (discard : Bool)
    (cls : Nat) (rel : Option Clock) : State :=
  if homeOf pa = .window then
    match atom with
    | some o =>
      let (v, s1) := s.windowRead (pa - 0x6000000000) bs.length
      match o.apply v with | some x => s1.windowWrite (pa - 0x6000000000) bs.length x | none => s1
    | none => s.windowBytes pa bs
  else if discard then s.discardAt pa
  else
    match atom with
    | some o => (s.atomAt c pa o rel cls).s
    | none => s.cacheStore c pa bs who cls

/-- What a store meets: an address with no memory, a unit across the link; for a read-modify-write, a poisoned line. -/
def State.storeMeets (s : State) (d : Die) (pa n : Nat) (atom : Option AtomOp) : PhysFault :=
  s.meets d none pa n (match atom with | some o => o.op != 15 | none => false)

/-- A store leaves the list, and ST falls with its last part (R203). -/
def State.landStore (s : State) (x : Store) : State :=
  let s1 : State := { s with stores := s.stores.filter fun y => y.seq != x.seq }
  let last := s1.stores.all fun y => y.grp != x.grp
  let s2 := match x.who with
    | .lane r => if last then s1.modThread r fun th => { th with st := th.st - 1 } else s1
    | .lead _ => s1
  s2.sampleDone x.seq x.who

/-- A store becomes visible (R150, R175, R203), with its stamp (R311). -/
def State.showStore (s : State) (x : Store) : State :=
  if !s.storeReady x then s
  else
    match s.storeMeets x.cache.die x.pa x.bytes.length x.atom with
    | .none =>
      ((s.performStore (x.who, x.seq) x.cache x.pa x.bytes x.atom x.discard x.cls x.rel).stamp { x.stamp with line := x.pa / 128 * 128 }).landStore x
    | f => s.physTrap x.node.ctx f x.cache.die (coreUnit x.cache) x.pa

/-! The side log (R135 to R139). -/

/-- The offset of an entry's first byte in its 16 bytes, and how many it has. -/
def SideEntry.run (e : SideEntry) : Nat × Nat :=
  let on := (List.range 16).filter fun i => e.byteEn.getLsbD i
  (on.headD 0, on.length)

/-- An entry may replay: its page has resolved, the earlier entries of its page have replayed, and what its thread did before is done. -/
def State.sideReady (s : State) (e : SideEntry) : Bool :=
  (s.sideLog.all fun x => !(x.seq < e.seq && x.die = e.die && x.core = e.core && x.ctx = e.ctx && x.va / 65536 = e.va / 65536)) &&
  (s.loads.all fun l => !(l.who = .lane e.who && l.seq < e.seq)) &&
  s.stores.all fun y => !(y.who = .lane e.who && y.seq < e.seq &&
    overlaps y.pa y.bytes.length (e.pa.getD 0) 16)

/-- The reduction of a logged entry (R135). -/
def SideEntry.op (e : SideEntry) (n : Nat) (bs : List Byte) : Option AtomOp :=
  if e.red then some ⟨e.rfunc.toNat % 16, BitVec.ofNat 64 (natOf (bs.take n)), 0, e.rfunc.toNat / 16⟩ else none

/-- The L1 that an entry's thread has now, or that of the entry's core (R224). -/
def State.entryCache (s : State) (e : SideEntry) : Cache :=
  match s.block? e.who.block, s.thread? e.who with
  | some b, some th => b.cacheOf e.who.t th
  | _, _ => .core e.die e.core

/-- An entry leaves the log (R137). -/
def State.landEntry (s : State) (e : SideEntry) : State :=
  ({ s with sideLog := s.sideLog.filter fun x => x.seq != e.seq } : State).sampleDone e.seq (.lane e.who)

/-- An entry replays as its access would have been performed; a 16-byte store by its halves, in an order and at times the hardware chooses
(R137, R168). -/
def State.replayEntry (s : State) (e : SideEntry) : State :=
  match e.pa with
  | none => s
  | some pa =>
    if !s.sideReady e then s
    else
      let (o, n) := e.run
      let half := n = 16 && Config.coin s.tick 4
      let lo := if half && Config.coin s.tick 5 then 8 else o
      let m := if half then 8 else n
      let bs := (bytesOf 16 e.data.toNat).drop lo |>.take m
      let at_ := pa / 16 * 16 + lo
      match s.storeMeets e.die at_ m (e.op m bs) with
      | .none =>
        let s1 := (s.performStore (.lane e.who, e.seq) (s.entryCache e) at_ bs (e.op m bs) false e.cls e.rel).stamp
          { e.stamp with line := at_ / 128 * 128 }
        if half then
          { s1 with sideLog := s1.sideLog.map fun (x : SideEntry) =>
              if x.seq = e.seq then { x with byteEn := if lo = 8 then 0x00FF else 0xFF00 } else x }
        else s1.landEntry e
      | f => s.physTrap e.ctx f e.die (coreUnit (.core e.die e.core)) at_

def execStoreVisible (s : State) : Host.Outcome State Fault Refusal :=
  event (fun s => match s.arg with
    | .num n =>
      match s.stores.find? fun x => x.seq = n with
      | some x => s.showStore x
      | none => match s.sideLog.find? fun e => e.seq = n with | some e => s.replayEntry e | none => s
    | _ => s) s

/-! Held faults (R134). -/

/-- What a re-walk makes of a page for an access: nothing yet, or a verdict. -/
def rewalkVerdict (w : Walk) (va : Nat) (late : Bool) (rd wr : Bool) : Option Verdict :=
  match w with
  | .leaf pa size r wl _ _ => some (if (rd && !r) || (wr && !wl) then .denied else .ok (pa + va % size / 65536 * 65536))
  | .pend _ => if late then some .fatal else none
  | .bad _ => some .fatal
  | .dev _ _ => none

/-- An agent that holds goes on to try again. -/
def State.unholdStatus (s : State) (a : Agent) : State :=
  match a with
  | .lane r => s.modThread r fun th => if th.status = .wait .held then { th with status := .wait .retry } else th
  | .lead r => s.modLead r fun l => if l.status = .held then { l with status := .wait } else l

/-- The node whose extents a holder's access went by. -/
def State.holderNode (s : State) (h : Holder) : Option NodeRef :=
  match h with
  | .agent a => (s.block? a.block).map fun b => b.nodeRef
  | .stream l _ => (s.block? l.block).map fun b => b.nodeRef
  | .node n => some n
  | _ => none

/-- A resolved or dropped page in the side log of a core (R137, R139), with the class of a page that has resolved. -/
def State.settleLog (s : State) (f : HeldFault) (v : Verdict) (cls : Nat) : State :=
  match f.unit with
  | .core d c =>
    let mine (e : SideEntry) : Bool := e.die = d && e.core = c && e.ctx = f.ctx && e.va / 65536 = f.va / 65536 && e.pa.isNone
    match v with
    | .ok page =>
      { s with sideLog := s.sideLog.map fun (e : SideEntry) => if mine e then { e with pa := some (page + e.va % 65536), cls := cls } else e }
    | _ =>
      let dropped := s.sideLog.filter mine
      let s1 : State := { s with sideLog := s.sideLog.filter fun e => !mine e }
      dropped.foldl (fun a e => (a.modThread e.who fun th =>
        { th with pfatal := match th.pfatal with | some x => some x | none => some e.va }).sampleDone e.seq (.lane e.who)) s1
  | _ => s

/-- What a re-walk settles of the extent tables of the nodes that held on the page. -/
def State.settleExtents (s : State) (f : HeldFault) (w : Walk) : State :=
  let lo := f.va / 65536 * 65536
  let nodes := f.node :: (s.holds.filter fun h => h.unit = f.unit && h.ctx = f.ctx && h.va / 65536 = f.va / 65536).filterMap (fun h => s.holderNode h.who) ++
    (s.sideLog.filter fun e => f.unit = .core e.die e.core && e.ctx = f.ctx && e.va / 65536 = f.va / 65536).map fun e => e.node
  let page (e : Extent) : Option PageRec :=
    match recordOf e.rd e.wr w with
    | .mapped pa cls => some (.mapped (pa + lo % w.size) cls)
    | .absent => none
    | .fatal => match w with | .bad _ => some .fatal | _ => none
  nodes.eraseDups.foldl (fun a n => a.modNode n fun x =>
    { x with exts := x.exts.map fun e => match page e with | some p => e.settle lo (lo + 65536) p | none => e }) s

/-- Ranges of a page of a context that its absence left without physical bytes have them now (R131, R182). -/
def Span.found (ctx page pa : Nat) (x : Span) : Span :=
  match x with
  | .virt c lo n => if c = ctx && lo / 65536 = page then .phys (pa + lo % 65536) n else x
  | x => x

def State.findSpans (s : State) (ctx page pa : Nat) : State :=
  { s with ops := s.ops.map fun (o : Op) =>
      { o with lockSrc := o.lockSrc.map (Span.found ctx page pa), lockDst := o.lockDst.map (Span.found ctx page pa) } }

/-- The cache of an agent's loads. -/
def State.agentCache (s : State) (a : Agent) : Option Cache :=
  match a with
  | .lane r => match s.block? r.block, s.thread? r with | some b, some th => some (b.cacheOf r.t th) | _, _ => none
  | .lead r => (s.block? r.block).map fun b => b.leadCache r.j

/-- An agent that has its L1 acquires. -/
def State.acquireFor (s : State) (a : Agent) (x : Rel) : State :=
  match s.agentCache a with
  | some c => s.acquireBy a c x
  | none => s

/-- A unit's own acquire (R127, R178): a core's is its L1's. -/
def State.unitAcquire (s : State) (u : FUnit) (x : Rel) : State :=
  match u with
  | .core d c => s.acquire (.core d c) x
  | u => if x.other u.die then s.crossAcquire u.die x.clk else s

/-- What the read of a page's entries acquires (R127). -/
def State.walkSync (s : State) (c : Ctx) (va : Nat) : Rel :=
  (walkPath s va c.l0 walkLevels).foldl (fun x pa => x.join (s.syncN pa 8)) .none

/-- A held fault of a unit on a page of a context. -/
def HeldFault.same (f g : HeldFault) : Bool := g.unit = f.unit && g.ctx = f.ctx && g.va / 65536 = f.va / 65536

def HeldFault.holds (f : HeldFault) (h : HeldAcc) : Bool :=
  h.unit = f.unit && h.ctx = f.ctx && h.va / 65536 = f.va / 65536 && h.verdict.isNone

/-- A re-walk has settled a page: log entries, extent tables, ranges and held accesses go by it (R134, R137). -/
def State.pageSettled (s : State) (f : HeldFault) (w : Walk) (logV : Verdict) (late : Bool) : State :=
  let cls := match w with | .leaf _ _ _ _ _ k => k | _ => 3
  let s0 := (s.settleExtents f w).settleLog f logV cls
  let s1 := match w with | .leaf pa size _ _ _ _ => s0.findSpans f.ctx (f.va / 65536) (pa + f.va % size / 65536 * 65536) | _ => s0
  { s1 with
    faults := s1.faults.filter fun g => !f.same g
    holds := s1.holds.map fun (h : HeldAcc) => if f.holds h then { h with verdict := rewalkVerdict w f.va late h.rd h.wr } else h }

/-- One re-walk of a held fault: an acquire of the unit and of the agents that hold on the page (R127). -/
def State.rewalk (s : State) (f : HeldFault) : State :=
  match s.ctx? f.ctx with
  | none => { s with faults := s.faults.filter fun g => !f.same g }
  | some c =>
    let w := s.walk f.unit.die c f.va
    let late := c.pfTmo ≤ s.cycle f.unit.die - f.since
    match w, rewalkVerdict w f.va late false true with
    | .dev x pa, _ => s.physTrap c.num x f.unit.die f.unit.unit pa
    | _, none => { s with faults := s.faults.map fun (g : HeldFault) => if f.same g then { g with walks := g.walks + 1 } else g }
    | _, some logV =>
      let x := s.walkSync c f.va
      let woken := s.holds.filterMap fun h => if f.holds h then (match h.who with | .agent a => some a | .stream l _ => some (.lead l) | _ => none) else none
      let s1 := ((s.noteWalk c f.va).pageSettled f w logV late).unitAcquire f.unit x
      (woken.foldl (fun a i => (a.acquireFor i x).unholdStatus i) s1).oweAll

def execFaultRewalk (s : State) : Host.Outcome State Fault Refusal :=
  event (fun s => match s.arg with
    | .num i =>
      match s.faults[i]? with
      | some f => if f.since + 4096 * (f.walks + 1) ≤ s.cycle f.unit.die then s.rewalk f else s
      | none => s
    | _ => s) s

end Sys2Proof.Machine
end

