-- ==== Sys2Proof/Machine/Lead.lean ====
section
/-! DEFINITION. The lead slice (spec 09 R205 to R212, 21 R407 to R416): scalar arithmetic, loads and stores, branches, decisions, operand
queues and their streams, the event queue. -/

namespace Sys2Proof.Machine

/-! Scalar arithmetic (R408 to R410). -/

/-- A scalar form: sd takes a function of sa, sb and sc. -/
def alu (i : Instr) (f : Y3) (fn : Dword → Dword → Dword → Dword) (s : State) : Host.Outcome State Fault Refusal :=
  lead i (fun e s => .done (e.put s f.d (fn (e.l.get f.a) (e.l.get f.b) (e.l.get f.e)))) s

/-- The value of a scalar under T: UI64 when u, SI64 otherwise (R408). -/
def scalarOf (u : Bool) (x : Dword) : Int := if u then (x.toNat : Int) else x.toInt

def mulhi64 (u : Bool) (a b : Dword) : Dword := BitVec.ofInt 64 (scalarOf u a * scalarOf u b / 2 ^ 64)

/-- The shifts of R408: 64 and above give 0, or the sign for SAR. -/
def shl64 (a n : Dword) : Dword := if n.toNat < 64 then a <<< n.toNat else 0
def shr64 (a n : Dword) : Dword := if n.toNat < 64 then a >>> n.toNat else 0
def sar64 (a n : Dword) : Dword := BitVec.sshiftRight a (Nat.min n.toNat 63)

def execLeadAdd (f : Y3) (s : State) : Host.Outcome State Fault Refusal := alu (.leadAdd f) f (fun a b _ => a + b) s
def execLeadSub (f : Y3) (s : State) : Host.Outcome State Fault Refusal := alu (.leadSub f) f (fun a b _ => a - b) s
def execLeadMul (f : Y3) (s : State) : Host.Outcome State Fault Refusal := alu (.leadMul f) f (fun a b _ => a * b) s
def execLeadMulhi (f : Y3) (s : State) : Host.Outcome State Fault Refusal :=
  alu (.leadMulhi f) f (fun a b _ => mulhi64 (f.mode.getLsbD 0) a b) s

/-- b, inverted under INV. -/
def inverted (f : Y3) (b : Dword) : Dword := if f.mode.getLsbD 0 then ~~~b else b

def execLeadAnd (f : Y3) (s : State) : Host.Outcome State Fault Refusal := alu (.leadAnd f) f (fun a b _ => a &&& inverted f b) s
def execLeadOr (f : Y3) (s : State) : Host.Outcome State Fault Refusal := alu (.leadOr f) f (fun a b _ => a ||| inverted f b) s
def execLeadXor (f : Y3) (s : State) : Host.Outcome State Fault Refusal := alu (.leadXor f) f (fun a b _ => a ^^^ inverted f b) s
def execLeadShl (f : Y3) (s : State) : Host.Outcome State Fault Refusal := alu (.leadShl f) f (fun a b _ => shl64 a b) s
def execLeadShr (f : Y3) (s : State) : Host.Outcome State Fault Refusal := alu (.leadShr f) f (fun a b _ => shr64 a b) s
def execLeadSar (f : Y3) (s : State) : Host.Outcome State Fault Refusal := alu (.leadSar f) f (fun a b _ => sar64 a b) s

def min64 (u : Bool) (a b : Dword) : Dword := if scalarOf u b < scalarOf u a then b else a
def max64 (u : Bool) (a b : Dword) : Dword := if scalarOf u a < scalarOf u b then b else a

def execLeadMin (f : Y3) (s : State) : Host.Outcome State Fault Refusal :=
  alu (.leadMin f) f (fun a b _ => min64 (f.mode.getLsbD 0) a b) s
def execLeadMax (f : Y3) (s : State) : Host.Outcome State Fault Refusal :=
  alu (.leadMax f) f (fun a b _ => max64 (f.mode.getLsbD 0) a b) s
def execLeadSel (f : Y3) (s : State) : Host.Outcome State Fault Refusal := alu (.leadSel f) f (fun a b c => if c != 0 then a else b) s

/-- The conditions of R409. -/
def cond64 (k : Nat) (a b : Int) : Bool :=
  match k with
  | 0 => a = b
  | 1 => a ≠ b
  | 2 => a < b
  | 3 => a ≤ b
  | 4 => b < a
  | _ => b ≤ a

/-- Sets bit i of p0 to p7. -/
def Lead.setP (l : Lead) (i : Nat) (v : Bool) : Lead :=
  { l with p := if v then l.p ||| BitVec.ofNat 8 (2 ^ i) else l.p &&& ~~~BitVec.ofNat 8 (2 ^ i) }

def execLeadCmp (f : Y3) (s : State) : Host.Outcome State Fault Refusal :=
  lead (.leadCmp f) (fun e s =>
    let u := f.mode.getLsbD 3
    let v := cond64 (f.mode.toNat % 8) (scalarOf u (e.l.get f.a)) (scalarOf u (e.l.get f.b))
    .done (s.modLead e.r fun l => l.setP (f.d.toNat % 8) v)) s

def execLeadAddi (f : YS) (s : State) : Host.Outcome State Fault Refusal :=
  lead (.leadAddi f) (fun e s => .done (e.put s f.d (e.l.get f.a + f.imm.signExtend 64))) s

/-- The 32-bit constant of MOVI and MOVHI. -/
def constOf (f : YI) : Word := BitVec.ofNat 32 (f.imm.toNat + b2n (f.mode.getLsbD 0) * 2 ^ 31)

def execLeadMovi (f : YI) (s : State) : Host.Outcome State Fault Refusal :=
  lead (.leadMovi f) (fun e s => .done (e.put s f.d (if f.mode.getLsbD 1 then (constOf f).signExtend 64 else (constOf f).setWidth 64))) s

def execMovhi (f : YI) (s : State) : Host.Outcome State Fault Refusal :=
  lead (.movhi f) (fun e s => .done (e.put s f.d (constOf f ++ (e.l.get f.d).setWidth 32))) s

/-! Loads and stores (R411). -/

/-- A lead memory instruction has gone through: it may be sampled (R309). -/
def LeadEnv.sampled (e : LeadEnv) (mark : Nat) (loc : List Nat) (s : State) : State :=
  ({ s with issue := { s.issue with lsLoc := loc } } : State).sampleIssue e.b e.r.j e.pc 0 true mark 0

/-- The address of a lead load or store. -/
def LeadEnv.addr (e : LeadEnv) (f : YS) : Nat := (e.l.get f.a + f.imm.signExtend 64).toNat

/-- A local access of lead code: ALIGN first, then EXTENT for set high bits (R411), then R152 and R183. -/
def LeadEnv.locChk (e : LeadEnv) (s : State) (la n level : Nat) : Trap ⊕ (Nat × Nat) :=
  if la % n ≠ 0 then .inl (.sync 0x04 0 (la % 2 ^ 32))
  else if 2 ^ 32 ≤ la then .inl (.sync 0x05 0 (la % 2 ^ 32))
  else s.locChk e.acor la n level n

/-- A lead context holds on an absent page. -/
def LeadEnv.hold (e : LeadEnv) (kind va : Nat) (need : Need) : LeadRes := .wait (fun s => s.holdOn e.acor kind va need) .held

/-- What an address on a lead access's way meets, as for a lane thread (R12, R13, R22). -/
def LeadEnv.meets (e : LeadEnv) (s : State) (f : PhysFault) (pa : Nat) : LeadRes :=
  if f = .clear then .wait id .wait else .gone (s.physTrap e.b.ctx f e.b.die (coreUnit e.acor.cache) pa)

def execLeadLd (f : YS) (s : State) : Host.Outcome State Fault Refusal :=
  lead (.leadLd f) (fun e s =>
    let n := 2 ^ (f.mode.toNat % 4)
    let sext := f.mode.getLsbD 2
    let a := e.addr f
    if f.mode.getLsbD 3 then
      match e.locChk s a n 2 with
      | .inl t => .trap t
      | .inr (j, o) => .done (e.sampled s.nextId [a / 128] (e.put s f.d (leadValue sext (s.locRead e.b.id j o n))))
    else
      match s.chk e.acor a n .load 2 n with
      | .ok pa => .done (e.sampled s.nextId [] ((s.unhold (.lead e.r)).issueLoad e.acor pa a n sext none [] f.d true false))
      | .absent => e.hold 1 a .load
      | .fatal => .trap (.sync 0x07 0 a)
      | .trap t => .trap t
      | .stop => .stop 3
      | .dev x pa => e.meets s x pa) s

def execLeadSt (f : YS) (s : State) : Host.Outcome State Fault Refusal :=
  lead (.leadSt f) (fun e s =>
    let n := 2 ^ (f.mode.toNat % 4)
    let a := e.addr f
    let bs := bytesOf n (e.l.get f.d).toNat
    if f.mode.getLsbD 3 then
      match e.locChk s a n 1 with
      | .inl t => .trap t
      | .inr (j, o) => .done (e.sampled s.nextId [a / 128] (s.locWrite e.b.id j o bs))
    else
      match s.chk e.acor a n .store 1 n with
      | .ok pa => .done (e.sampled s.nextId [] ((s.unhold (.lead e.r)).issueStore e.acor pa a bs none false))
      | .absent => e.hold 2 a .store
      | .fatal => .trap (.sync 0x07 0 a)
      | .trap t => .trap t
      | .stop => .stop 3
      | .dev x pa => e.meets s x pa) s

/-! Branches and END (R410, R412). -/

/-- A lead branch: RUNOFF outside the code (R392). -/
def LeadEnv.branch (e : LeadEnv) (s : State) (cond : Bool) (off : Int) : LeadRes :=
  if cond then (match e.b.code.target e.pc off with | some t => .jump s t | none => .trap (.sync 0x03 0 0)) else .done s

def execBp (f : YB) (s : State) : Host.Outcome State Fault Refusal :=
  lead (.bp f) (fun e s => e.branch s (e.l.p.getLsbD f.cp.toNat != (f.n = 1)) f.off.toInt) s

def execLeadBra (f : YB) (s : State) : Host.Outcome State Fault Refusal :=
  lead (.leadBra f) (fun e s => e.branch s true f.off.toInt) s

def execLeadEnd (f : Y3) (s : State) : Host.Outcome State Fault Refusal :=
  lead (.leadEnd f) (fun e s => .gone (s.endLead e.r)) s

/-! Decisions (R208, R413). -/

/-- Threads of a lead context's core that have not ended. -/
def Block.liveOn (b : Block) (j : Nat) : List Thread :=
  ((b.onCore j).filterMap fun t => b.threads[t]?).filter fun th => th.status != .ended

def execDpush (f : Y3) (s : State) : Host.Outcome State Fault Refusal :=
  lead (.dpush f) (fun e s =>
    if (e.b.liveOn e.r.j).any fun th => (e.l.dqw - th.dqr).toNat = 64 then .wait id .wait
    else
      .done (s.modLead e.r fun l =>
        { l with dq := l.dq.set (l.dqw.toNat % 64) ((e.l.get f.a).setWidth 32) (Nat.mod_lt _ (by decide)), dqw := l.dqw + 1 })) s

/-! Operand queues (R209, R414). -/

/-- A queue of a lead context. -/
def Lead.queue (l : Lead) (n : Nat) : Option Queue := (l.queues.toList.getD n none)

def Lead.setQueue (l : Lead) (n : Nat) (q : Queue) : Lead := { l with queues := l.queues.set! n (some q) }

/-- Entries that some live thread of the core has not popped. -/
def Block.unpopped (b : Block) (j n : Nat) (q : Queue) : Nat :=
  (b.liveOn j).foldl (fun m th => max m (BitVec.ofNat 16 q.written - (th.qr.toList.getD n 0)).toNat) 0

/-- Whether a queue's stream runs. -/
def Queue.runs (q : Queue) : Bool := match q.stream with | some st => st.running | none => false

/-- The ring of a descriptor, or the trap of R414. -/
def LeadEnv.ring (e : LeadEnv) (v : Nat) : Trap ⊕ Queue :=
  let base := bits v 0 32
  let d := bits v 32 7
  let q : Queue := ⟨base % 2 ^ 18, d, bit v 40, e.l.perEntry, 0, none⟩
  if d < 2 || 64 < d || bit v 39 || bits v 41 23 != 0 then .inl (.sync 0x01 5 0)
  else if base % 16 ≠ 0 then .inl (.sync 0x04 0 base)
  else if base < 2 ^ 23 && base / 2 ^ 18 = e.r.j && base % 2 ^ 18 + d * q.entryBytes ≤ e.b.loc then .inr q
  else .inl (.sync 0x05 0 base)

/-- Sets the read index of a queue to zero in every thread of a core (R414). -/
def Block.clearIndex (b : Block) (j n : Nat) : Block :=
  { b with threads := b.threads.mapIdx fun t th => if b.home t = j then { th with qr := th.qr.set! n 0 } else th }

def execQset (f : Y3) (s : State) : Host.Outcome State Fault Refusal :=
  lead (.qset f) (fun e s =>
    let n := f.mode.toNat % 8
    match e.ring (e.l.get f.a).toNat with
    | .inl t => .trap t
    | .inr q =>
      let busy := match e.l.queue n with | some old => old.runs || e.b.unpopped e.r.j n old != 0 | none => false
      if busy then .wait id .wait
      else .done ((s.modBlock e.b.id fun b => b.clearIndex e.r.j n).modLead e.r fun l => l.setQueue n q)) s

/-! Streams (R211, R415). -/

/-- A stride of R415: an SI64 from −2^39 to 2^39 − 1. -/
def strideOk (x : Dword) : Bool := -(2 ^ 39) ≤ x.toInt && x.toInt < 2 ^ 39

/-- The stream of seven registers, for a queue that admits one (R415). -/
def LeadEnv.streamOf (e : LeadEnv) (a : BitVec 9) (q : Queue) : Option Stream :=
  let r (i : Nat) : Dword := e.l.get (BitVec.ofNat 9 (a.toNat + i))
  let w := (r 0).toNat
  let counts := (List.range 4).map fun i => bits (r 1).toNat (16 * i) 16 + 1
  let strides := (List.range 4).map fun i => r (2 + i)
  if q.stream.isSome || bits w 56 7 != 0 || !(strides.all strideOk) || !strideOk (r 6) || (!q.perThread && r 6 != 0) then none
  else some ⟨bits w 0 56, counts, strides.map fun x => x.toInt, (r 6).toInt, !bit w 63, 0, true⟩

/-- Entries of a stream in all. -/
def Stream.total (x : Stream) : Nat := x.counts.foldl (fun a c => a * c) 1

/-- The address of entry e: the lowest loop runs fastest (R211). -/
def Stream.entry (x : Stream) (e : Nat) : Nat :=
  let go := (x.counts.zip x.strides).foldl (fun (acc : Nat × Int) p => (acc.1 / p.1, acc.2 + (acc.1 % p.1 : Nat) * p.2)) (e, (x.base : Int))
  (go.2 % (2 ^ 56)).toNat

/-- The addresses that entry e reads, n of them under mode T (R209, R211). -/
def Stream.reads (x : Stream) (perThread : Bool) (n e : Nat) : List Nat :=
  let a := x.entry e
  if perThread then (List.range n).map fun k => (((a : Int) + (k : Int) * x.ts) % 2 ^ 64).toNat else [a]

/-- What the start of a stream finds wrong with one address. -/
def LeadEnv.streamTrap (e : LeadEnv) (s : State) (glob : Bool) (a : Nat) : Option Trap :=
  if a % 4 ≠ 0 then some (.sync 0x04 0 (a % 2 ^ 56))
  else if glob then
    match s.access e.b.die e.b.nodeRef e.l.inTrap a 4 .load with
    | .trap c sub => some (.sync c sub (a % 2 ^ 56))
    | _ => none
  else if (e.b.local? a 4).isNone then some (.sync 0x05 0 a)
  else none

/-- The first failing address of a stream, in the order of its entries. -/
def LeadEnv.streamBad (e : LeadEnv) (s : State) (q : Queue) (x : Stream) : Option Trap :=
  (List.range x.total).findSome? fun i =>
    (x.reads q.perThread q.n i).findSome? fun a => e.streamTrap s x.glob a

def execQstart (f : Y3) (s : State) : Host.Outcome State Fault Refusal :=
  lead (.qstart f) (fun e s =>
    let n := f.mode.toNat % 8
    match (e.l.queue n).bind fun q => (e.streamOf f.a q).map fun x => (q, x) with
    | none => .trap (.sync 0x01 5 0)
    | some (q, x) =>
      match e.streamBad s q x with
      | some t => .trap t
      | none => .done (s.modLead e.r fun l => l.setQueue n { q with stream := some x })) s

/-- What reading one element comes to: its bytes and the state after, a page to wait for, a fatal page, or the state that what an address on its way meets
leaves. -/
inductive Elem where
  | bytes (bs : List Byte) (s : State)
  | absent
  | fatal
  | gone (s : State)

/-- The bytes that a lead context's plain read of an address gives: its own stores not yet visible come first. -/
def State.leadBytes (s : State) (r : LeadRef) (c : Cache) (pa n : Nat) : List Byte :=
  (List.range n).map fun i =>
    let a := pa + i
    (((s.stores.filter fun x => x.who = .lead r && x.pa ≤ a && a < x.pa + x.bytes.length).getLast?).bind fun x => x.bytes[a - x.pa]?).getD
      (s.cacheRead c a)

/-- One element of a stream at a physical address of a page of a class. -/
def State.streamAt (s0 : State) (b : Block) (r : LeadRef) (pa cls : Nat) : Elem :=
  let c := b.leadCache r.j
  let s := s0.refresh c pa 4 (s0.floorOf (.lead r))
  if homeOf pa = .window then let (v, s1) := s.windowRead (pa - 0x6000000000) 4; .bytes (bytesOf 4 v) s1
  else
    match s.meets b.die (some c) pa 4 true with
    | .none => let s1 := s.fill c pa 4 cls false; .bytes (s1.leadBytes r c pa 4) s1
    | f => .gone (s.physTrap b.ctx f b.die (coreUnit c) pa)

/-- One element of a stream. -/
def State.streamElem (s : State) (b : Block) (r : LeadRef) (q : Nat) (glob handler : Bool) (a : Nat) : Elem :=
  if !glob then
    match b.local? a 4 with
    | some (j, o) => .bytes (s.locRead b.id j o 4) s
    | none => .fatal
  else
    match s.access b.die b.nodeRef handler a 4 .load with
    | .pa pa cls => s.streamAt b r pa cls
    | .dev f pa => .gone (s.physTrap b.ctx f b.die (coreUnit (b.leadCache r.j)) pa)
    | other =>
      match s.verdict (.stream r q) b.ctx a with
      | some (.ok page) => s.streamAt b r (page + a % 65536) 3
      | some _ => .fatal
      | none => if other = .absent then .absent else .fatal

/-- The elements of an entry, up to the first that is no value, with its address. -/
def entryElems (b : Block) (r : LeadRef) (q : Nat) (glob handler : Bool) : List Nat → State → List Byte → (State × List Byte) ⊕ (Nat × Elem)
  | [], s, acc => .inl (s, acc)
  | a :: rest, s, acc =>
    match s.streamElem b r q glob handler a with
    | .bytes bs s1 => entryElems b r q glob handler rest s1 (acc ++ bs)
    | x => .inr (a, x)

/-- Writes an entry into its ring and moves the stream on. -/
def State.putEntry (s : State) (b : Block) (r : LeadRef) (n : Nat) (q : Queue) (x : Stream) (bs : List Byte) : State :=
  let o := q.base + q.written % q.d * q.entryBytes
  let x1 : Stream := { x with pos := x.pos + 1, running := x.pos + 1 < x.total }
  ((s.locWrite b.id r.j o bs).modLead r fun l => l.setQueue n { q with written := q.written + 1, stream := some x1 })

/-- A stream ends on a fatal page: PAGE_FATAL at the lead context's next boundary (R211). -/
def State.streamFatal (s : State) (r : LeadRef) (n : Nat) (q : Queue) (x : Stream) (va : Nat) : State :=
  s.modLead r fun l =>
    { l.setQueue n { q with stream := some { x with running := false, pos := x.total } } with
      pfatal := match l.pfatal with | some a => some a | none => some va }

/-- A stream holds on an absent page. -/
def State.streamHold (s : State) (b : Block) (r : LeadRef) (n va : Nat) : State :=
  let u : FUnit := .core b.die (b.coreNum r.j)
  let s1 := s.raise u b.nodeRef 1 va false
  if s1.holds.any fun h => h.who = .stream r n && h.va / 65536 = va / 65536 then s1
  else { s1 with holds := s1.holds ++ [⟨.stream r n, u, b.ctx, va, true, false, none⟩] }

/-- One entry of a running stream, when it is free (R208, R211). -/
def State.streamStep (s : State) (b : Block) (r : LeadRef) (l : Lead) (n : Nat) : State :=
  match (l.queue n).bind fun q => q.stream.map fun x => (q, x) with
  | none => s
  | some (q, x) =>
    if !x.running || q.d ≤ b.unpopped r.j n q then s
    else
      match entryElems b r n x.glob l.inTrap (x.reads q.perThread q.n x.pos) s [] with
      | .inl (s1, bs) => ({ s1 with holds := s1.holds.filter fun h => h.who != .stream r n } : State).putEntry b r n q x bs
      | .inr (va, .absent) => s.streamHold b r n va
      | .inr (_, .gone s1) => s1
      | .inr (va, _) => s.streamFatal r n q x va

def execStreamEntry (s : State) : Host.Outcome State Fault Refusal :=
  event (fun s => match s.arg with
    | .stream r n =>
      match s.block? r.block, s.lead? r with
      | some b, some l => if b.issues && b.stage != .saving then s.streamStep b r l n else s
      | _, _ => s
    | _ => s) s

/-! The event queue (R416). -/

/-- The two words that EWAIT writes. -/
def LeadEnv.put2 (e : LeadEnv) (s : State) (d : BitVec 9) (w0 w1 : Dword) : State := e.put (e.put s d w0) (d + 1) w1

def execEwait (f : Y3) (s : State) : Host.Outcome State Fault Refusal :=
  lead (.ewait f) (fun e s =>
    let lost : Dword := if e.l.lost = 0 then 0 else 2 ^ 62
    let clear (s : State) : State := s.modLead e.r fun l => { l with lost := 0, evq := l.evq.tail }
    match e.l.evq with
    | x :: _ => .done ((e.put2 (clear s) f.d (x.w0 ||| lost) x.w1).acquireBy (.lead e.r) e.acor.cache ⟨false, false, x.clk⟩)
    | [] => if f.mode = 1 then .done (e.put2 (clear s) f.d lost 0) else .wait id .wait) s

end Sys2Proof.Machine
end

