-- ==== Sys2Proof/Machine/Sync.lean ====
section
/-! DEFINITION. Fences, waiting on an address, the block barrier, mailboxes and waiting on counters (spec 07 R162 to R164, 08 R169 to
R184, 09 R203, 22 R426 to R437). -/

namespace Sys2Proof.Machine

/-! What a release waits for (R138, R172). -/

/-- A release of a thread that is not an access of its own may take place: no store outstanding or logged (R138), and, so that no load reads
what the release lets happen later (R172), no load outstanding (DEDUCED, log entry 9). -/
def LaneEnv.released (e : LaneEnv) (s : State) : Bool := s.releaseReady e.r e.th && s.noLoads (.lane e.r)

/-- An acquire of the thread from what a clock covers on its own die (R169, R177). -/
def LaneEnv.acquired (e : LaneEnv) (s : State) (k : Clock) : State := s.acquireBy (.lane e.r) e.acor.cache ⟨false, false, k⟩

/-! Fences (R174, R426). -/

/-- The full fence's place in S: what its agent wrote is at its home, and what its die's caches copied is read anew (DEDUCED, log entry 11). -/
def State.fullFence (s : State) (a : Agent) (c : Cache) : State :=
  let s1 := s.writeBack fun e => e.covered [(a, s.nextId)]
  { s1 with cached := s1.cached.filter fun e => e.owned || (e.cache != c && e.cache != .far c.die) }

/-- An acquire fence: the reads before it that read from releases take effect as acquires (R169). -/
def LaneEnv.acqFence (e : LaneEnv) (s : State) : State :=
  (s.acquireBy (.lane e.r) e.acor.cache e.th.seen).modThread e.r fun th => { th with seen := .none }

/-- A fence: kind 1 acquire, 2 release, 3 both. What later atomics of the thread release is what the release fence has behind it (R169). -/
def LaneEnv.fence (e : LaneEnv) (s : State) (kind : Nat) : UnitRes :=
  let rel := kind = 2 || kind = 3
  let acq := kind = 1 || kind = 3
  if (rel && !s.releaseReady e.r e.th) || (acq && !(e.th.ld = 0 && s.noLoads (.lane e.r))) then .wait id .retry
  else
    let s1 := if acq then e.acqFence s else s
    let s2 := if rel then s1.modThread e.r fun th => { th with relClk := some (s1.knows (.lane e.r)) } else s1
    .done (if kind = 3 then s2.fullFence (.lane e.r) e.acor.cache else s2)

def execFence (f : XM) (s : State) : Host.Outcome State Fault Refusal :=
  lane (.fence f) (fun e s => e.fence s (f.mode.toNat % 4)) s

/-! Waiting on an address (R429 to R431). -/

/-- Nothing of an agent is outstanding that a read at an address's home must follow (R167, R171, R172). -/
def State.homeQuiet (s : State) (a : Agent) (pa n : Nat) : Bool :=
  (s.loads.all fun l => !(l.who = a && overlaps l.pa l.n pa n)) &&
  s.stores.all fun x => !(x.who = a && (overlaps x.pa x.bytes.length pa n || isSync x.atom))

/-- A read at its home as an acquire: the value and the state after it (R175, R177 to R179). -/
def State.acquireRead (s : State) (a : Acor) (pa n cls : Nat) : Nat × State :=
  if homeOf pa = .window then
    let (v, s1) := s.windowRead (pa - 0x6000000000) n
    (v, s1.acquireBy a.who a.cache .none)
  else (natOf (s.homeRead pa n), (s.useHomes pa n cls false).acquireBy a.who a.cache (s.syncN pa n))

/-- Registrations that a die's wake table holds (R431). -/
def State.wakeCount (s : State) (d : Die) : Nat := (s.wakes.filter fun w => w.die = d).length

/-- What a WAITA leaves in its destination. -/
def waitaWords (n v : Nat) : List Word := if n = 8 then two (BitVec.ofNat 64 v) else [BitVec.ofNat 32 v]

/-- The read of a WAITA, with what its address meets. -/
def LaneEnv.waitaRead (e : LaneEnv) (s : State) (va pa n : Nat) (go : Nat → State → UnitRes) : UnitRes :=
  match s.meets e.b.die none pa n true with
  | .none =>
    let (v, s1) := ((s.unhold (.lane e.r)).walkedFor e.acor va n).acquireRead e.acor pa n (s.pageClass e.acor va n .load)
    go v s1
  | f => e.meets s f pa

/-- WAITA up to its park (R429). (DEDUCED, log entry 25) -/
def LaneEnv.waita (e : LaneEnv) (s : State) (va n want : Nat) : UnitRes :=
  match s.chk e.acor va n .load 2 n with
  | .ok pa =>
    if s.logHas e.acor va || !s.homeQuiet (.lane e.r) pa n then .wait id .retry
    else
      e.waitaRead s va pa n fun v s1 =>
        if v ≠ want || 4096 ≤ s.wakeCount (homeDie pa) then .done (e.write s1 (waitaWords n v))
        else
          .wait (fun s0 =>
            let s2 := ((s0.unhold (.lane e.r)).acquireRead e.acor pa n (s.pageClass e.acor va n .load)).2
            { s2 with wakes := s2.wakes ++ [⟨homeDie pa, e.b.ctx, pa, e.r⟩] }) (.address false)
  | .absent => e.hold 1 va .load
  | .fatal => fatalAt va
  | .trap t => .trap t
  | .stop => .stop 3
  | .dev f pa => e.meets s f pa

/-- A woken WAITA reads again and returns. -/
def LaneEnv.waitaWoken (e : LaneEnv) (s : State) (va n want : Nat) : UnitRes :=
  match s.access e.b.die e.b.nodeRef e.th.inTrap va n .load with
  | .pa pa _ => e.waitaRead s va pa n fun v s1 => .done (e.write s1 (waitaWords n v))
  | _ => e.waita s va n want

def execWaita (f : XM) (s : State) : Host.Outcome State Fault Refusal :=
  lane (.waita f) (fun e s =>
    let n := if f.mode = 0 then 4 else 8
    let want := if f.mode = 0 then (e.x 1).toNat else (e.pair 1).toNat
    if e.th.status = .wait (.address true) then e.waitaWoken s (e.gaddr 0 f.off) n want
    else e.waita s (e.gaddr 0 f.off) n want) s

/-- Whether what a thread wrote has all been performed (R430). -/
def State.performed (s : State) (r : ThreadRef) : Bool :=
  (s.stores.all fun x => x.who != .lane r) && (s.loads.all fun l => !(l.who = .lane r && l.atom.isSome)) && !s.logged r

/-- The entries a WAKE may wake beside those it counts: other words of the line, same context (R431). -/
def State.alsoWoken (s : State) (ctx pa : Nat) : List WakeEntry :=
  (s.wakes.zipIdx.filter fun e => e.1.ctx = ctx && e.1.pa / 128 = pa / 128 && e.1.pa != pa && Config.coin s.tick (32 + e.2)).map fun e => e.1

/-- Wakes registered threads. -/
def State.wakeThem (s : State) (ws : List WakeEntry) : State :=
  ws.foldl (fun a w => a.modThread w.who fun th =>
      if th.status = .wait (.address false) then { th with status := .wait (.address true) } else th)
    { s with wakes := s.wakes.filter fun w => !ws.contains w }

/-- WAKE at the wake table of the die that homes the address: how many were woken, and the state (R430). -/
def State.wake (s : State) (ctx pa n : Nat) : Nat × State :=
  let all := s.wakes.filter fun w => w.ctx = ctx && w.pa = pa
  let mine := if n = 0 then all else all.take n
  (mine.length, s.wakeThem (mine ++ s.alsoWoken ctx pa))

def LaneEnv.wake (e : LaneEnv) (s : State) (va n : Nat) : UnitRes :=
  match s.chk e.acor va 4 .load 3 4 with
  | .ok pa =>
    if !s.performed e.r then .wait id .retry
    else
      let (k, s1) := (s.unhold (.lane e.r)).wake e.b.ctx pa n
      .done (e.write s1 [BitVec.ofNat 32 k])
  | .absent => e.hold 1 va .load
  | .fatal => fatalAt va
  | .trap t => .trap t
  | .stop => .stop 3
  | .dev f pa => e.meets s f pa

def execWake (f : XM) (s : State) : Host.Outcome State Fault Refusal :=
  lane (.wake f) (fun e s => e.wake s (e.gaddr 0 f.off) (e.x 1).toNat) s

/-! The block barrier (R432). -/

/-- The thread may arrive: it is not two phases ahead, and its release waits are met. -/
def LaneEnv.mayArrive (e : LaneEnv) (s : State) : Bool := e.th.ph - e.b.bp != 2 && e.released s

/-- The thread arrives, a release (R169), and a phase may complete. (DEDUCED, log entry 40) -/
def LaneEnv.arriveBar (e : LaneEnv) (s : State) : State :=
  let k := s.knows (.lane e.r)
  s.modBlock e.b.id fun b =>
    let b1 := if e.th.ph = b.bp then { b with barIn := b.barIn.join k } else { b with barNext := b.barNext.join k }
    (b1.modThread e.r.t fun th => { th with ph := th.ph + 1 }).phases

def execBarrierarrive (f : XM) (s : State) : Host.Outcome State Fault Refusal :=
  lane (.barrierarrive f) (fun e s => if e.mayArrive s then .done (e.arriveBar s) else .wait id .retry) s

/-- The wait for the phases a thread has arrived at. (DEDUCED, log entry 40) -/
def LaneEnv.awaitBar (e : LaneEnv) (s : State) (w : Wait) : UnitRes :=
  if e.th.ph.toNat ≤ e.b.bp.toNat then .done (e.acquired s e.b.barDone) else .wait id w

def execBarrierwait (f : XM) (s : State) : Host.Outcome State Fault Refusal :=
  lane (.barrierwait f) (fun e s =>
    if f.mode = 0 then e.awaitBar s .retry
    else if e.th.status = .wait .barrier then e.awaitBar s .barrier
    else if e.mayArrive s then .wait (fun s => e.arriveBar s) .barrier
    else .wait id .retry) s

/-! Mailboxes (R162 to R164, R434, R435). -/

/-- MAILBOX (R235). -/
def boxTrap : UnitRes := .trap (.sync 0x0E 0 0)

/-- The mailbox that an MBINIT's values set up, if R162 admits them. -/
def boxOf (b : Block) (glob : Bool) (base : Nat) (v : Nat) : Option Mailbox :=
  let size := 16 * bits v 0 11
  let k := bits v 11 7
  let core := bits v 18 5
  let slots := (List.range k).all fun i => glob || (b.local? (base + i * size) size).isSome
  if bits v 23 9 = 0 && 16 ≤ size && size ≤ 16384 && 1 ≤ k && k ≤ 64 && core < b.c && slots then
    some ⟨glob, base, size, k, core, 0, 0, 0, 0, [], []⟩
  else none

def execMbinit (f : XM) (s : State) : Host.Outcome State Fault Refusal :=
  lane (.mbinit f) (fun e s =>
    let m := f.off.toNat % 32
    let base := if f.mode = 1 then (e.pair 0).toNat else (e.x 0).toNat
    match decide (m < e.b.code.launch.boxes), boxOf e.b (f.mode = 1) base (e.x 1).toNat with
    | true, some x => .done (s.modBlock e.b.id fun b => { b with boxes := b.boxes.set m (some x) })
    | _, _ => boxTrap) s

/-- The block a mailbox form acts on: the thread's own, or a resident one of its cluster (R435). -/
def LaneEnv.boxBlock (e : LaneEnv) (s : State) (cross : Bool) (i : Nat) : Option Block :=
  if !cross then some e.b
  else
    let n := 2 ^ e.b.code.launch.width 1
    if n ≤ i then none else s.blocks.find? fun b => b.nodeRef = e.b.nodeRef && b.b = e.b.b / n * n + i && b.resident

/-- The mailbox that a form names, with its block (R164). -/
def LaneEnv.box? (e : LaneEnv) (s : State) (f : XM) : Option (Block × Nat × Mailbox) :=
  let cross := f.mode.getLsbD 1
  let m := f.off.toNat % 32
  (e.boxBlock s cross (e.x 0).toNat).bind fun b =>
    if b.code.launch.boxes ≤ m then none
    else ((b.boxes.getD m none).map fun x => (b, m, x)).filter fun x => !(cross && !x.2.2.glob)

/-- The parts of a range that lie in one 64 KiB page each. -/
def pageParts (va n : Nat) : List (Nat × Nat) :=
  let m := 65536 - va % 65536
  if n ≤ m then [(va, n)] else [(va, m), (va + m, n - m)]

/-- What the checks of a slot come to: the first outcome of its pages that is not ok (R131, R164, R183; DEDUCED, log entry 12 for the permission). -/
def LaneEnv.slotChk (e : LaneEnv) (s : State) (x : Mailbox) (i : Nat) : Option UnitRes :=
  let at_ := x.base + i * x.size
  if !x.glob then
    match s.locChk e.acor at_ x.size 1 1 with
    | .inl t => some (.trap t)
    | .inr _ => none
  else
    match s.access e.b.die e.b.nodeRef e.th.inTrap at_ x.size ⟨false, false⟩ with
    | .trap c sub => some (.trap (.sync c sub (at_ % 2 ^ 56)))
    | _ =>
      (pageParts at_ x.size).findSome? fun p =>
        match s.chk e.acor p.1 p.2 ⟨false, false⟩ 1 1 with
        | .ok _ => none
        | .absent => some (e.hold 1 p.1 ⟨false, false⟩)
        | .fatal => some (fatalAt p.1)
        | .trap t => some (.trap t)
        | .stop => some (.stop 3)
        | .dev f pa => some (e.meets s f pa)

/-- Changes a mailbox. -/
def State.modBox (s : State) (id m : Nat) (x : Mailbox) : State := s.modBlock id fun b => { b with boxes := b.boxes.set m (some x) }

/-- A box after a publication or a return by a thread that knows a clock (R163). -/
def Mailbox.put (x : Mailbox) (full : Bool) (k : Clock) : Mailbox :=
  if full then { x with pub := x.pub + 1, pubK := x.pubK.join k } else { x with ret := x.ret + 1, retK := x.retK.join k }

/-- MBPUT: publish or return a slot, as a release; MAILBOX gives way to the traps of the slot's address (R163, R235, R435). -/
def LaneEnv.mbput (e : LaneEnv) (s : State) (f : XM) : UnitRes :=
  match e.box? s f with
  | none => boxTrap
  | some (b, m, x) =>
    let full := f.mode.getLsbD 0
    if !e.released s then .wait id .retry
    else
      let none_ := (full && x.pub = x.claim) || (!full && x.ret = x.take)
      match e.slotChk s x ((if full then x.pub else x.ret).toNat % x.k), none_ with
      | some (.trap t), _ => .trap t
      | _, true => boxTrap
      | some r, false => r
      | none, false => .done ((s.unhold (.lane e.r)).modBox b.id m (x.put full (s.knows (.lane e.r))))

/-- MBGET: claim or take a slot, as an acquire. -/
def LaneEnv.mbget (e : LaneEnv) (s : State) (f : XM) : UnitRes :=
  match e.box? s f with
  | none => boxTrap
  | some (b, m, x) =>
    let full := f.mode.getLsbD 0
    let open_ := if full then x.pub != x.take else (x.claim - x.ret).toNat < x.k
    if !open_ || (x.glob && 63 ≤ e.th.ld) then .wait id .retry
    else
      let i := (if full then x.take else x.claim).toNat % x.k
      match e.slotChk s x i with
      | some r => r
      | none =>
        let s1 := (s.unhold (.lane e.r)).modBox b.id m (if full then { x with take := x.take + 1 } else { x with claim := x.claim + 1 })
        .done (e.write (e.acquired s1 (if full then x.pubK else x.retK)) (two (BitVec.ofNat 64 (x.base + i * x.size))))

def execMbput (f : XM) (s : State) : Host.Outcome State Fault Refusal := lane (.mbput f) (fun e s => e.mbput s f) s
def execMbget (f : XM) (s : State) : Host.Outcome State Fault Refusal := lane (.mbget f) (fun e s => e.mbget s f) s

/-! Waiting on counters (R436, R437). -/

def execWaitc (f : XI) (s : State) : Host.Outcome State Fault Refusal :=
  lane (.waitc f) (fun e s =>
    let v := f.imm.toNat
    if e.th.ld ≤ bits v 0 6 && e.th.st ≤ bits v 6 6 && e.th.cp.length ≤ bits v 12 4 && e.th.tl.length ≤ bits v 16 4 then
      .done (if bits v 12 8 = 255 then s else e.acquired s [])
    else .wait id .retry) s

def State.counter? (s : State) (d : Die) (i : Nat) : Option Counter := s.counters.find? fun c => c.die = d && c.idx = i

/-- The die of a bit. -/
def dieOf (b : Bool) : Die := if b then .b else .a

/-- An observation of a receive counter's value: an acquire of the landings that it includes (R46, R437). -/
def State.observe (s : State) (a : Acor) (c : Counter) : State := s.acquireBy a.who a.cache c.rel

def execCwait (f : X3) (s : State) : Host.Outcome State Fault Refusal :=
  lane (.cwait f) (fun e s =>
    let v := (e.x 0).toNat
    if 2 ^ 14 ≤ v then .trap (.sync 0x01 5 0)
    else
      match s.counter? (dieOf (bit v 13)) (bits v 0 13) with
      | some c =>
        if c.ctx != e.b.ctx then .trap (.sync 0x08 0 0)
        else if f.mode = 1 || (e.x 1).toNat ≤ c.val.toNat then .done (e.write (s.observe e.acor c) [c.val])
        else .wait id .retry
      | none => .trap (.sync 0x08 0 0)) s

end Sys2Proof.Machine
end

