-- ==== Sys2Proof/Machine/Engine.lean ====
section
/-! DEFINITION. Engine operations (spec 01 R14 to R16, R22, 05 R103, 08 R181 to R184, 23 R438, R439): issuing a command, range locks,
leave, completion and its record. -/

namespace Sys2Proof.Machine

/-! Operations by number. -/

def State.op? (s : State) (id : Nat) : Option Op := s.ops.find? fun o => o.id = id

def State.modOp (s : State) (id : Nat) (f : Op → Op) : State := { s with ops := s.ops.map fun o => if o.id = id then f o else o }

def State.dropOp (s : State) (id : Nat) : State := { s with ops := s.ops.filter fun o => o.id != id }

/-- The node whose extents an operation goes by, and whether a handler issued it (R244). -/
def State.opNode (s : State) (o : Op) : NodeRef × Bool :=
  match o.issuer with
  | .node n => (n, false)
  | .agent a => (match s.block? a.block with | some b => b.nodeRef | none => ⟨o.ctx, 0, 0⟩, o.handler)

/-! Units that may be absent (R22). -/

/-- The copy engine of a die that has failed its self-test, else the first (R30). -/
def State.copyUnit (s : State) (d : Die) : BitVec 8 :=
  (((List.range 16).map fun e => BitVec.ofNat 8 (0x80 + e)).find? fun u => s.pkg.failed.contains (d, u)).getD 0x80

/-- The unit and READYF bit of an operation's engine (R20, R30). -/
def State.unitOf (s : State) (o : Op) : Option (BitVec 8 × Nat) :=
  match o.work with
  | .copy _ _ _ _ => some (s.copyUnit o.die, bitCopy o.die)
  | .coll _ => some (0x90, bitColl o.die)
  | .tsend _ => some (0x90, bitColl o.die)
  | .sample _ => some (0x92, bitSamp o.die)
  | .cat _ => some (0x94, bitCat o.die)
  | _ => none

/-- How an operation finds its engine (DEDUCED, log entry 13: a command waits as a request of R22 does). -/
def State.opUnit (s : State) (o : Op) : UnitState :=
  match s.unitOf o with
  | some (u, b) => s.unitState o.die u b
  | none => .ready

/-! Ranges (R182). -/

/-- The rows of an area. -/
def Area.rowList (a : Area) : List (Loc × Nat) :=
  (List.range a.rows).map fun i =>
    (match a.at_ with | .glob va => .glob (va + i * a.pitch) | .loc b la => .loc b (la + i * a.pitch), a.len)

/-- The parts of a global row. -/
def State.rowSegs (s : State) (o : Op) (va n : Nat) (need : Need) : List Seg :=
  let (node, h) := s.opNode o
  s.segs o.die node h va n need

/-- The bytes that a range locks: every byte of local space, and of global space the physical bytes of mapped pages and the virtual ones of absent pages
(R131, R182). -/
def State.areaSpans (s : State) (o : Op) (need : Need) (a : Area) : List Span :=
  a.rowList.flatMap fun x =>
    match x.1 with
    | .loc b la => [.loc b la x.2]
    | .glob va => (s.rowSegs o va x.2 need).filterMap fun g =>
        match g.acc with
        | .pa pa _ => some (.phys pa g.len)
        | .absent => some (.virt o.ctx g.va g.len)
        | _ => none

def State.srcSpans (s : State) (o : Op) : List Span := o.src.flatMap fun a => s.areaSpans o .load a
def State.dstSpans (s : State) (o : Op) : List Span := o.dst.flatMap fun a => s.areaSpans o .store a

/-- Whether two lists of spans share a byte. -/
def spansHit (a b : List Span) : Bool := a.any fun x => b.any x.hits

/-- Ranges that registered operations hold in each die's table. (DEDUCED, log entry 27) -/
def State.lockEntries (s : State) : Nat :=
  (s.ops.filter fun o => o.phase != .waiting).foldl (fun n o => n + (if o.lockSrc.isEmpty then 0 else o.src.length) + (if o.lockDst.isEmpty then 0 else o.dst.length)) 0

/-- Side-log entries of a die that a range overlaps (R138). -/
def State.logHits (s : State) (o : Op) : Bool :=
  s.sideLog.any fun e =>
    let (off, n) := e.run
    let va := e.va / 16 * 16 + off
    e.die = o.die && ((e.ctx = o.ctx && (o.src ++ o.dst).any fun a => a.rowList.any fun x =>
        match x.1 with | .glob v => overlaps v x.2 va n | .loc _ _ => false) ||
      (match e.pa with | some pa => spansHit [.phys (pa / 16 * 16 + off) n] (s.srcSpans o ++ s.dstSpans o) | none => false))

/-- Accesses already checked that are still to be performed on a range (R182). -/
def State.accessHits (s : State) (src dst : List Span) : Bool :=
  (s.stores.any fun x => spansHit [.phys x.pa x.bytes.length] (src ++ dst)) ||
  s.loads.any fun l => spansHit [.phys l.pa l.n] (if l.atom.isSome then src ++ dst else dst)

/-- No held range, queue ring, waiting operation of those given, logged store or unperformed access stands against the ranges (R55, R138, R182). -/
def State.rangesOk (s : State) (o : Op) (earlier : List Op) : Bool :=
  let src := s.srcSpans o
  let dst := s.dstSpans o
  let all := src ++ dst
  (s.ops.all fun x => x.id = o.id || x.phase = .waiting || !spansHit all (x.lockSrc ++ x.lockDst)) &&
  (s.blocks.all fun b => !spansHit all (ringSpans b)) &&
  (earlier.all fun x => x.phase != .waiting || !spansHit all (s.srcSpans x ++ s.dstSpans x)) &&
  !s.logHits o && !s.accessHits src dst && s.lockEntries + o.src.length + o.dst.length ≤ 4096

/-- The operations issued before one. -/
def State.opsBefore (s : State) (o : Op) : List Op := s.ops.takeWhile fun x => x.id != o.id

/-- Nothing stands against an operation's ranges: of those that wait, the earlier ones count (R55, R182). -/
def State.rangesFree (s : State) (o : Op) : Bool := s.rangesOk o (s.opsBefore o)

/-! Engine entries (R103). -/

/-- Operations in a copy engine's queue; a node's copy has its entry from its acceptance on. -/
def State.engineLoad (s : State) (d : Die) (e : Nat) : Nat := (s.ops.filter fun o => o.die = d && o.engine = some e).length

/-- The engine that a copy takes: of the context's mask, else of 8 to 15, the lowest with a free entry. -/
def State.pickEngine (s : State) (d : Die) (ctx : Nat) : Option Nat :=
  let mask := match s.ctx? ctx with | some c => c.copyMask | none => 0
  let free (e : Nat) : Bool := s.engineLoad d e < 4
  match (List.range 8).find? fun e => mask.getLsbD (8 * d.num + e) && free e with
  | some e => some e
  | none => ((List.range 16).find? fun e => 8 ≤ e && free e)

/-- Whether an operation is a copy. -/
def Op.isCopy (o : Op) : Bool := match o.work with | .copy _ _ _ _ => true | _ => false

def Op.isColl (o : Op) : Bool := match o.work with | .coll _ => true | _ => false

/-- Whether a node issued an operation: its engine accepted it when it was dispatched (R103). -/
def Op.accepted (o : Op) : Bool := match o.issuer with | .node _ => true | .agent _ => false

/-- Collectives in flight on a die's engine. -/
def State.collLoad (s : State) (d : Die) : Nat :=
  (s.ops.filter fun o => o.die = d && o.isColl && (o.phase != .waiting || o.accepted)).length

/-- Whether the engine has an entry for an operation; held copies take them in the order in which they were held. -/
def State.entryFree (s : State) (o : Op) : Bool :=
  o.accepted ||
  match o.work with
  | .copy _ _ _ _ =>
    (s.pickEngine o.die o.ctx).isSome &&
    (s.opsBefore o).all fun x =>
      !(x.isCopy && x.phase = .waiting && !x.accepted && x.die = o.die && (s.pickEngine x.die x.ctx).isSome && s.rangesFree x)
  | .coll _ => s.collLoad o.die < 8
  | _ => true

/-! Issuers (R203, R204, R416). -/

/-- Which count of its thread an operation stands in: CP, TL or ST. -/
inductive Count where
  | cp
  | tl
  | st
  | no
  deriving DecidableEq, Repr

def Op.count (o : Op) : Count :=
  match o.work with
  | .copy _ _ _ _ | .coll _ | .tsend _ => .cp
  | .tile t => if 3 ≤ t.fn && t.fn != 4 then .tl else .no
  | .stash _ => .st
  | _ => .no

/-- Whether a completion record follows a lead issue (R438). -/
def Op.records (o : Op) : Bool := o.count != .no

/-- Operations of a lead context that will post a record. -/
def State.leadOut (s : State) (l : LeadRef) : Nat :=
  (s.ops.filter fun o => o.issuer = .agent (.lead l) && o.phase != .waiting && o.records &&
    s.ops.all fun x => x.phase != .followed o.id).length

/-- The issuer's count is below its limit. -/
def State.underLimit (s : State) (o : Op) : Bool :=
  match o.issuer with
  | .agent (.lane r) =>
    match s.thread? r with
    | some th =>
      match o.count with
      | .cp => th.cp.length < 15
      | .tl => th.tl.length < 15
      | .st => th.st < 63
      | .no => true
    | none => true
  | .agent (.lead l) =>
    match s.lead? l with
    | some x => !o.records || s.leadOut l + x.evq.length < 256
    | none => true
  | .node _ => true

/-- Counts an operation in its thread. -/
def State.countOp (s : State) (o : Op) : State :=
  match o.issuer with
  | .agent (.lane r) =>
    s.modThread r fun th =>
      match o.count with
      | .cp => { th with cp := th.cp ++ [(o.id, false)] }
      | .tl => { th with tl := th.tl ++ [(o.id, false)] }
      | .st => { th with st := th.st + 1 }
      | .no => th
  | _ => s

/-! Registration (R182, R438). -/

/-- Whether an operation may register now. -/
def State.mayRegister (s : State) (o : Op) : Bool :=
  o.phase = .waiting && s.opUnit o = .ready && s.underLimit o && s.entryFree o && s.rangesFree o

/-- An operation registers: its ranges lock, it has its engine, it is counted, and it stands last in the order of issue. A node's keeps the place
it took in its engine's queue. -/
def State.registerOp (s : State) (o : Op) : State :=
  let o1 : Op :=
    { o with
      lockSrc := s.srcSpans o
      lockDst := s.dstSpans o
      engine := if o.isCopy && o.engine.isNone then s.pickEngine o.die o.ctx else o.engine
      phase := .registered }
  if o.accepted then s.modOp o.id fun _ => o1
  else ({ s with ops := (s.ops.filter fun x => x.id != o.id) ++ [o1] } : State).countOp o1

/-! Leave (R14, R15). -/

/-- Asks a die's governor for leave; a requester has at most one request. -/
def State.askLeave (s : State) (d : Die) (r : Requester) : State :=
  let g := s.gov d
  if g.pending.any fun e => e.1 = r then s else s.setGov d { g with pending := g.pending ++ [(r, s.cycle d)] }

def State.hasLeave (s : State) (d : Die) (r : Requester) : Bool := (s.gov d).held.contains r

def State.dropLeave (s : State) (d : Die) (r : Requester) : State :=
  let g := s.gov d
  s.setGov d { g with held := g.held.erase r }

/-- The place of a requester among those of one cycle. -/
def Requester.key : Requester → Nat
  | .coll => 0
  | .copy e => 1 + e
  | .tile c => 32 + c

/-- The request to grant next. -/
def nextRequest : List (Requester × Nat) → Option (Requester × Nat)
  | [] => none
  | e :: r =>
    match nextRequest r with
    | some x => if x.2 < e.2 || (x.2 = e.2 && x.1.key < e.1.key) then some x else some e
    | none => some e

/-- Grants one request, when the window's rate lets it. -/
def State.grantLeave (s : State) (d : Die) : Option (Requester × State) :=
  let g := s.gov d
  let now := s.cycle d
  let made := if g.window = now / 64 then g.grants else 0
  match nextRequest g.pending with
  | some (r, c) =>
    if made < (if s.pkg.slow then 4 else 8) then
      let wait := Nat.min (now - c) (2 ^ 32 - 1)
      some (r, s.setGov d { g with
        pending := g.pending.erase (r, c)
        held := g.held ++ [r]
        window := now / 64
        grants := made + 1
        longest := if g.longest.toNat < wait then BitVec.ofNat 32 wait else g.longest })
    else none
  | none => none

/-! Completion (R184, R439). -/

/-- Word 0 of a record (R416). -/
def recordWord (tag : BitVec 16) (status kind detail : Nat) (lane : Bool) : Dword :=
  BitVec.ofNat 64 (tag.toNat + status % 256 * 2 ^ 16 + kind * 2 ^ 24 + detail % 2 ^ 29 * 2 ^ 32 + b2n lane * 2 ^ 61 + 2 ^ 63)

/-- The handle of a triggered send; 0xFFFF_FFFF where the table was full (R446). -/
def Tsend.handle (t : Tsend) (d : Die) : Nat :=
  if 2048 ≤ t.entry then 0xFFFFFFFF else t.entry + d.num * 2 ^ 11 + t.arm % 2 ^ 20 * 2 ^ 12

/-- KIND, DETAIL and word 1 of an operation's record. -/
def Op.detail (o : Op) : Nat × Nat × Dword :=
  match o.work with
  | .copy _ dst len _ => (1, len % 2 ^ 29, BitVec.ofNat 64 (match dst with | .glob va => va | .loc _ la => la))
  | .coll c => (2, 0, c.ctag)
  | .tsend t => (3, t.handle o.die % 2 ^ 29, BitVec.ofNat 64 t.src)
  | .tile t => (4, t.tile % 32 + t.shn % 4 * 2 ^ 5 + t.fn % 16 * 2 ^ 7, 0)
  | .stash st => (5, 0, BitVec.ofNat 64 st.a)
  | .sample _ => (6, 0, 0)
  | .cat _ => (7, 0, 0)

/-- A record that a lead context did not issue: dropped when its queue, with what its own operations will post, is full (R416). -/
def State.postForeign (s : State) (l : LeadRef) (w0 w1 : Dword) (k : Clock) : State :=
  match s.lead? l with
  | some x =>
    if x.evq.length + s.leadOut l < 256 then s.postRecord l ⟨w0, w1, false, k⟩ else s.modLead l fun y => if y.status = .ended then y else { y with lost := y.lost + 1 }
  | none => s

/-- An operation of a node is over: the node keeps a failing status (R72). -/
def State.nodeOver (s : State) (n : NodeRef) (id status : Nat) : State :=
  let s1 := s.modNode n fun x => if x.op = some id then { x with op := none } else x
  if status = 0 then s1 else s1.failNode n (BitVec.ofNat 8 status)

/-- A record goes to the issuer, or its count falls. (DEDUCED, log entry 27) -/
def State.report (s : State) (o : Op) (status : Nat) : State :=
  let (kind, detail, w1) := o.detail
  match o.issuer with
  | .node n => s.nodeOver n o.id status
  | .agent (.lead l) => if o.records then s.postRecord l ⟨recordWord o.tag status kind detail false, w1, true, o.clk⟩ else s
  | .agent (.lane r) =>
    let s1 := s.modThread r fun th =>
      { th with
        cp := doneIn o.id th.cp
        tl := doneIn o.id th.tl
        st := if o.count = .st then th.st - 1 else th.st }
    if status = 0 || status = 0x26 then s1
    else
      match s1.block? r.block with
      | some b => s1.postForeign ⟨r.block, b.home r.t⟩ (recordWord o.tag status kind detail true) (BitVec.ofNat 64 (b.wid r.t)) o.clk
      | none => s1

/-- The block of an issuer may end now. -/
def State.checkIssuer (s : State) (o : Op) : State :=
  match o.issuer with
  | .agent a => s.checkEnd a.block
  | .node _ => s

/-- An operation completes with a status: its ranges unlock, then its record is released (R184). (DEDUCED, log entry 27) -/
def State.finishOp (s : State) (o : Op) (status : Nat) : State := ((s.dropOp o.id).report o status).checkIssuer o

/-- A failed operation leaves the bytes it was writing in the condition of R29. -/
def State.failOp (s : State) (o : Op) (status : Nat) : State := (scratchAll 4 ((o.id + 1) * 2 ^ 64) (o.written s) s).finishOp o status

/-- An operation that its issuer still waits to see issued does not go on. (DEDUCED, log entry 27) -/
def State.issuerHeld (s : State) (o : Op) : Bool :=
  match o.issuer with
  | .agent (.lane r) => match s.thread? r with | some th => th.status = .wait (.op o.id) | none => false
  | .agent (.lead l) => match s.lead? l with | some x => x.status = .op o.id | none => false
  | .node _ => false

/-! Issue (R438). -/

/-- What an issued operation gives its issuer, once the issuer goes on: nothing while it is held. -/
def Op.result (o : Op) : Option (List Word) :=
  match o.phase with
  | .waiting => none
  | .finished r => some r
  | _ =>
    match o.work with
    | .sample _ | .cat _ => none
    | .tile t => if t.fn = 0 then none else some []
    | .stash st =>
      match o.issuer with
      | .agent (.lane _) => if st.rows.isSome then some [] else none
      | _ => some []
    | .tsend t => some [BitVec.ofNat 32 (t.handle o.die)]
    | _ => some []

/-- An issuer has its result. -/
def State.consume (s : State) (id : Nat) : State :=
  match s.op? id with
  | some o => match o.phase with | .finished _ => s.dropOp id | _ => s
  | none => s

/-- An operation of an agent as a command makes it, with the stamp that its issue's tick leaves (R311, R312). (DEDUCED, log entry 27) -/
def State.newOp (s : State) (a : Acor) (tag : BitVec 16) (w : Work) (src dst : List Area) : Op :=
  { id := s.nextId, issuer := .agent a.who, ctx := a.b.ctx, die := a.b.die, core := a.b.coreNum a.j, engine := none, tag := tag, work := w,
    src := src, dst := dst, lockSrc := [], lockDst := [], phase := .waiting,
    stamp := ⟨0, a.b.tag, a.who.num, ((s.tick2 a.who true false).clocks a.who).1⟩, handler := a.handler, clk := s.knows a.who }

/-- An operation joins those that wait, and registers at once if nothing stands against it. reg says what registering does. (DEDUCED, log entry 27) -/
def State.enter (s : State) (reg : State → Op → State) (o : Op) : State :=
  let s1 : State := { s with ops := s.ops ++ [o], nextId := s.nextId + 1 }
  if s1.mayRegister o then reg s1 o else s1

/-- A thread whose command is held keeps what its unit has not read yet: its registers, its queues and what its loads bring. (DEDUCED, log entry 25) -/
def LaneEnv.heldBy (e : LaneEnv) (id : Nat) (s s0 : State) : State :=
  { s.modThread e.r fun th =>
      { th with status := .wait (.op id), v := e.th.v, k := e.th.k, dirty := e.th.dirty, wrote := e.th.wrote, dqr := e.th.dqr, qr := e.th.qr } with
    loads := s0.loads }

/-- A command of a lane thread from its checks on: a held one goes on where it stands. (DEDUCED, log entry 27) -/
def LaneEnv.command (e : LaneEnv) (reg : State → Op → State) (s : State) (mk : Trap ⊕ Op) : UnitRes :=
  let go (id : Nat) (s : State) : UnitRes :=
    match s.op? id with
    | none => .done s
    | some o =>
      match o.result with
      | some r => .done (e.write (s.consume id) r)
      | none => .wait (e.heldBy id s) (.op id)
  match e.th.status with
  | .wait (.op id) => go id s
  | _ =>
    match mk with
    | .inl t => .trap t
    | .inr o =>
      match s.opUnit o, s.unitOf o with
      | .failed, some (u, _) => .gone (s.deviceFault o.ctx 4 o.die u)
      | _, _ => go o.id ((s.tick2 (.lane e.r) true false).enter reg o)

/-- A command of a lead context; words of its result are one scalar register. (DEDUCED, log entry 27) -/
def LeadEnv.command (e : LeadEnv) (reg : State → Op → State) (s : State) (d : Option (BitVec 9)) (mk : Trap ⊕ Op) : LeadRes :=
  let go (id : Nat) (s : State) : LeadRes :=
    match s.op? id with
    | none => .done s
    | some o =>
      match o.result with
      | some r => .done (match d with | some d => e.put (s.consume id) d ((r.headD 0).setWidth 64) | none => s.consume id)
      | none => .wait (fun _ => s.modLead e.r fun l => { l with status := .op id }) (.op id)
  match e.l.status with
  | .op id => go id s
  | _ =>
    match mk with
    | .inl t => .trap t
    | .inr o =>
      match s.opUnit o, s.unitOf o with
      | .failed, some (u, _) => .gone (s.deviceFault o.ctx 4 o.die u)
      | _, _ => go o.id ((s.tick2 (.lead e.r) true false).enter reg o)

/-! Checks of a command's ranges (R130, R152). -/

/-- A row of local space. -/
def Block.rowTraps (b : Block) (la n : Nat) : List Trap := if (b.local? la n).isSome then [] else [.sync 0x05 0 (b.firstOut la n)]

/-- Every byte of a global range, at issue. -/
def State.rangeTraps (s : State) (a : Acor) (va n : Nat) (need : Need) : List Trap :=
  (s.segs a.b.die a.b.nodeRef a.handler va n need).filterMap fun g =>
    match g.acc with | .trap c sub => some (.sync c sub (g.va % 2 ^ 56)) | _ => none

/-- The traps of an area. -/
def State.areaTraps (s : State) (a : Acor) (need : Need) (x : Area) : List Trap :=
  x.rowList.flatMap fun r =>
    match r.1 with
    | .loc _ la => a.b.rowTraps la r.2
    | .glob va => s.rangeTraps a va r.2 need

/-- The trap of a command's ranges that stands highest in R235, if any. -/
def State.areasTrap (s : State) (a : Acor) (src dst : List Area) : Option Trap :=
  firstTrap (src.flatMap (s.areaTraps a .load) ++ dst.flatMap (s.areaTraps a .store))

/-- ILLEGAL with subcode 0x05: a value outside its limits. -/
def limTrap : Trap := .sync 0x01 5 0

/-! Pages of a running operation (R131, R134). -/

/-- The unit that faults for an operation (R132). -/
def Op.funit (o : Op) : FUnit :=
  match o.work with
  | .copy _ _ _ _ => .copy o.die (o.engine.getD 0)
  | .coll _ | .tsend _ => .coll o.die
  | _ => .core o.die o.core

/-- UNIT of a device fault of an operation (R30). -/
def Op.unitCode (o : Op) : BitVec 8 :=
  match o.work with
  | .sample _ => 0x92
  | .cat _ => 0x94
  | _ => o.funit.unit

/-- Where a part of a global row lies: its address and its page's class, a page to wait for, a fatal one, or what the walk meets. -/
inductive Part where
  | pa (pa cls len : Nat)
  | dev (f : PhysFault) (pa : Nat)
  | absent (va : Nat)
  | fatal
  deriving DecidableEq, Repr

/-- The parts of a global row of an operation, held pages by what a re-walk made of them. -/
def State.rowParts (s : State) (o : Op) (va n : Nat) (need : Need) : List Part :=
  (s.rowSegs o va n need).map fun g =>
    match g.acc with
    | .pa pa cls => .pa pa cls g.len
    | .dev f pa => .dev f pa
    | other =>
      match s.verdict (.op o.id) o.ctx g.va with
      | some (.ok page) => .pa (page + g.va % 65536) 3 g.len
      | some _ => .fatal
      | none => if other = .absent then .absent g.va else .fatal

/-- All global parts of an operation's ranges, with whether they are written. -/
def State.opParts (s : State) (o : Op) : List (Part × Bool) :=
  let f (need : Need) (w : Bool) (a : Area) : List (Part × Bool) :=
    a.rowList.flatMap fun x => match x.1 with | .glob va => (s.rowParts o va x.2 need).map (·, w) | .loc _ _ => []
  (o.src.flatMap (f .load false)) ++ o.dst.flatMap (f .store true)

/-- How an operation's pages stand. -/
inductive Pages where
  | ready
  | hold (va : Nat) (wr : Bool)
  | fatal
  deriving DecidableEq, Repr

def State.opPages (s : State) (o : Op) : Pages :=
  let ps := s.opParts o
  if ps.any fun p => p.1 = .fatal then .fatal
  else
    match ps.findSome? fun p => match p.1 with | .absent va => some (va, p.2) | _ => none with
    | some (va, w) => .hold va w
    | none => .ready

/-- An operation holds on an absent page: kinds 0x03 and 0x04 (R132). -/
def State.holdOp (s : State) (o : Op) (va : Nat) (wr : Bool) : State :=
  let (node, _) := s.opNode o
  let s1 := s.raise o.funit node (if wr then 4 else 3) va wr
  if s1.holds.any fun h => h.who = .op o.id && h.va / 65536 = va / 65536 then s1
  else { s1 with holds := s1.holds ++ [⟨.op o.id, o.funit, o.ctx, va, !wr, wr, none⟩] }

/-- What an engine reads at a physical address: the latest bytes, or the management window's registers. -/
def State.engRead (s : State) (pa n : Nat) : List Byte :=
  if homeOf pa = .window then (cuts 8 n pa n).flatMap fun p => bytesOf p.2 (s.windowRead (p.1 - 0x6000000000) p.2).1
  else s.homeRead pa n

/-- What such a read leaves: registers of the window that it clears, lines that their homes have used (R140). -/
def State.engReadUse (s : State) (pa n cls : Nat) : State :=
  if homeOf pa = .window then (cuts 8 n pa n).foldl (fun a p => (a.windowRead (p.1 - 0x6000000000) p.2).2) s
  else s.useHomes pa n cls false

/-- An engine's write of bytes in a page of a class. -/
def State.engWrite (s : State) (pa cls : Nat) (bs : List Byte) : State :=
  if homeOf pa = .window then
    (cuts 8 bs.length pa bs.length).foldl (fun a p => a.windowBytes p.1 ((bs.drop (p.1 - pa)).take p.2)) s
  else (s.useHomes pa bs.length cls true).homeWrite pa bs

/-- The bytes at a place of one row: local space, or the latest value in each byte's coherence order (R184). -/
def State.readRow (s : State) (o : Op) (x : Loc) (n : Nat) : List Byte :=
  match x with
  | .loc b la => s.locRead b (la / 2 ^ 18) (la % 2 ^ 18) n
  | .glob va => (s.rowParts o va n .load).flatMap fun p => match p with | .pa pa _ m => s.engRead pa m | _ => []

/-- The stamps that writes of n bytes leave (R311). -/
def State.stampRange (s : State) (x : Stamp) (pa n : Nat) : State :=
  if x.tag = 0 then
    { s with stamps := s.stamps.filter fun y => !(pa / 128 * 128 ≤ y.line && y.line < pa + n) }
  else (List.range ((pa % 128 + n + 127) / 128)).foldl (fun a i => a.stamp { x with line := pa / 128 * 128 + 128 * i }) s

/-- Writes bytes to parts in turn. -/
def State.writePartsAt (s : State) (st : Stamp) : List Part → List Byte → State
  | .pa pa cls m :: r, bs => (((s.engWrite pa cls (bs.take m)).stampRange st pa m).writePartsAt st r (bs.drop m))
  | _ :: r, bs => s.writePartsAt st r bs
  | [], _ => s

/-- The parts of a place that an operation writes; none of a local one. -/
def State.partsOf (s : State) (o : Op) (x : Loc) (n : Nat) : List Part :=
  match x with
  | .loc _ _ => []
  | .glob va => s.rowParts o va n .store

/-- An operation writes bytes at a place whose parts were found. -/
def State.opWriteAt (s : State) (o : Op) (x : Loc) (ps : List Part) (bs : List Byte) : State :=
  match x with
  | .loc b la => s.locWrite b (la / 2 ^ 18) (la % 2 ^ 18) bs
  | .glob _ => s.writePartsAt o.stamp ps bs

/-- An operation writes bytes at a place. -/
def State.writeRow (s : State) (o : Op) (x : Loc) (bs : List Byte) : State := s.opWriteAt o x (s.partsOf o x bs.length) bs

/-- The bytes of areas in the order of their rows. -/
def State.readAreas (s : State) (o : Op) (as : List Area) : List Byte := as.flatMap fun a => a.rowList.flatMap fun x => s.readRow o x.1 x.2

/-- Writes bytes into rows in turn, each of them at the parts that were found for it. -/
def State.writeRows (s : State) (o : Op) : List (Loc × List Part × Nat) → List Byte → State
  | [], _ => s
  | x :: r, bs => (s.opWriteAt o x.1 x.2.1 (bs.take x.2.2)).writeRows o r (bs.drop x.2.2)

/-- Writes bytes into areas in the order of their rows; every page is found before the first byte is written. (DEDUCED, log entry 24) -/
def State.writeAreas (s : State) (o : Op) (as : List Area) (bs : List Byte) : State :=
  s.writeRows o ((as.flatMap Area.rowList).map fun x => (x.1, s.partsOf o x.1 x.2, x.2)) bs

/-- What an operation's reads leave behind them. -/
def State.readsUse (s : State) (o : Op) : State :=
  (s.opParts o).foldl (fun a p => match p with | (.pa pa cls n, false) => a.engReadUse pa n cls | _ => a) s

/-- What one physical part of an operation meets (R12, R13, R22). -/
def State.partMeets (s : State) (d : Die) (p : Part × Bool) : PhysFault × Nat :=
  match p.1 with
  | .pa pa _ m => (s.meets d none pa m (!p.2), pa)
  | .dev f pa => (f, pa)
  | _ => (.none, 0)

/-- What the physical parts of an operation meet: a fault of one of them before a wait for another. -/
def State.opMeets (s : State) (o : Op) : PhysFault × Nat :=
  let xs := (s.opParts o).map (s.partMeets o.die)
  match xs.find? fun x => x.1 != .none && x.1 != .clear with
  | some x => x
  | none => (xs.find? fun x => x.1 = .clear).getD (.none, 0)

/-- An operation whose pages are all there goes on; else it holds, or fails with XLATE_FATAL, or its context takes a device fault. (DEDUCED, log entry 24) -/
def State.withPages (s : State) (o : Op) (go : State → State) : State :=
  match s.opPages o with
  | .hold va wr => s.holdOp o va wr
  | .fatal => s.failOp { o with lockDst := s.dstSpans o } 0x40
  | .ready =>
    match s.opMeets o with
    | (.none, _) =>
      let s1 := go s
      { s1 with holds := s1.holds.filter fun h => h.who != .op o.id }
    | (f, pa) => s.physTrap o.ctx f o.die o.unitCode pa

end Sys2Proof.Machine
end

