-- ==== Sys2Proof/Machine/Copy.lean ====
section
/-! DEFINITION. Copies (spec 23 R440 to R442, 15 R301): COPY and COPYF of a lane thread or a lead context, and a copy's completion. -/

namespace Sys2Proof.Machine

/-- A place of a command: the low 32 bits name a local one. -/
def placeOf (b : Block) (isLoc : Bool) (a : Nat) : Loc := if isLoc then .loc b.id (a % 2 ^ 32) else .glob a

/-- One range of n bytes. -/
def rangeAt (x : Loc) (n : Nat) : Area := ⟨x, 1, n, 0⟩

/-- Whether two ranges of n bytes share an address of one space. -/
def placesMeet (x y : Loc) (n : Nat) : Bool :=
  match x, y with
  | .glob a, .glob b => a < b + n && b < a + n
  | .loc _ a, .loc _ b => a < b + n && b < a + n
  | _, _ => false

/-- COPY from its three operands (R440, R441). (DEDUCED, log entry 27) -/
def State.mkCopy (s : State) (a : Acor) (src dst c : Nat) : Trap ⊕ Op :=
  let len := bits c 0 41
  let sl := bit c 41
  let dl := bit c 42
  let x := placeOf a.b sl src
  let y := placeOf a.b dl dst
  if len = 0 || 2 ^ 40 < len || bits c 43 5 ≠ 0 || (sl && 2 ^ 32 ≤ src) || (dl && 2 ^ 32 ≤ dst) || placesMeet x y len then .inl limTrap
  else
    match s.areasTrap a [rangeAt x len] [rangeAt y len] with
    | some t => .inl t
    | none => .inr (s.newOp a (BitVec.ofNat 16 (c / 2 ^ 48)) (.copy x y len none) [rangeAt x len] [rangeAt y len])

/-- COPYF (R442, R301). (DEDUCED, log entry 27) -/
def State.mkCopyf (s : State) (a : Acor) (src b c : Nat) : Trap ⊕ Op :=
  let len := bits c 0 24
  let fk := bit c 24
  let tile := bits c 27 5
  let pitch := bits c 32 14
  let sl := bit c 46
  let dst := b % 2 ^ 32
  let x := placeOf a.b sl src
  let y := placeOf a.b true dst
  if len = 0 || 2 ^ 23 < len || (!fk && tile ≠ 0) || bit c 47 || (sl && 2 ^ 32 ≤ src) || placesMeet x y len ||
      (a.b.local? dst len).isNone then .inl limTrap
  else if pitch = 0 || 8192 < pitch then .inl (.sync 0x04 0 dst)
  else
    match s.areasTrap a [rangeAt x len] [rangeAt y len] with
    | some t => .inl t
    | none =>
      .inr (s.newOp a (BitVec.ofNat 16 (c / 2 ^ 48)) (.copy x y len (some ⟨fk, bits c 25 2, tile, 16 * pitch, b / 2 ^ 32 % 2 ^ 32⟩))
        [rangeAt x len] [rangeAt y len])

def execCopy (f : X3) (s : State) : Host.Outcome State Fault Refusal :=
  lane (.copy f) (fun e s => e.command State.registerOp s (s.mkCopy e.acor (e.pair 0).toNat (e.pair 1).toNat (e.pair 2).toNat)) s

def execCopyf (f : X3) (s : State) : Host.Outcome State Fault Refusal :=
  lane (.copyf f) (fun e s => e.command State.registerOp s (s.mkCopyf e.acor (e.pair 0).toNat (e.pair 1).toNat (e.pair 2).toNat)) s

def execLeadCopy (f : Y3) (s : State) : Host.Outcome State Fault Refusal :=
  lead (.leadCopy f) (fun e s =>
    e.command State.registerOp s none (s.mkCopy e.acor (e.l.get f.a).toNat (e.l.get f.b).toNat (e.l.get f.e).toNat)) s

def execLeadCopyf (f : Y3) (s : State) : Host.Outcome State Fault Refusal :=
  lead (.leadCopyf f) (fun e s =>
    e.command State.registerOp s none (s.mkCopyf e.acor (e.l.get f.a).toNat (e.l.get f.b).toNat (e.l.get f.e).toNat)) s

/-! Running (R14, R103, R441). -/

/-- The copy that an engine runs now: the first in its queue. -/
def State.copyHead (s : State) (o : Op) : Bool :=
  match o.engine with
  | some e => ((s.ops.find? fun x => x.die = o.die && x.engine = some e).map fun x => x.id) = some o.id
  | none => false

/-- Ends the leave that a copy held. -/
def State.endCopyLeave (s : State) (o : Op) : State :=
  match o.engine with
  | some e => s.dropLeave o.die (.copy e)
  | none => s

/-- A list in an order that the hardware chooses. -/
def anyOrder {α : Type} (tick : Nat) : Nat → List α → List α
  | 0, l => l
  | n + 1, l =>
    let k := Config.choose (n + 8) tick % l.length
    l[k]?.toList ++ anyOrder tick n (l.eraseIdx k)

/-- The bytes at physical parts now. -/
def State.readParts (s : State) (ps : List Part) : List Byte := ps.flatMap fun p => match p with | .pa pa _ m => s.engRead pa m | _ => []

/-- One aligned 8-byte word of a copy whose ranges meet in physical bytes, its parts found before: it takes the bytes its source had before the copy or
has now, and a word that the source shares may keep what it has, as the hardware chooses (R441). (DEDUCED, log entry 27) -/
def State.moveWord (o : Op) (bs : List Byte) (s : State) (p : Nat × List Part × List Part) : State :=
  let i := (o.id + 1) * 2 ^ 64 + 2 * p.1
  let now := s.readParts p.2.1
  let shared := p.2.2.any fun q => match q with | .pa pa _ m => o.lockSrc.any (Span.hits (.phys pa m)) | _ => false
  if shared && Config.coin s.tick i then s
  else s.writePartsAt o.stamp p.2.2 (if Config.coin s.tick (i + 1) then now else (bs.drop p.1).take now.length)

/-- The bytes move. Where global ranges meet in physical bytes, they move by the aligned 8-byte words of the destination in any order (R441). -/
def State.moveBytes (s : State) (o : Op) : State :=
  let bs := s.readAreas o o.src
  let moved :=
    match o.work, spansHit o.lockSrc o.lockDst with
    | .copy (.glob x) (.glob y) len _, true =>
      let words := (cuts 8 len y len).map fun (p : Nat × Nat) => (p.1 - y, s.rowParts o (x + (p.1 - y)) p.2 .load, s.rowParts o p.1 p.2 .store)
      (anyOrder s.tick words.length words).foldl (State.moveWord o bs) s
    | _, _ => s.writeAreas o o.dst bs
  moved.readsUse o

/-- A copy's last byte lands: it completes, or its follow-on is to be entered (R301). -/
def State.landCopy (s : State) (o : Op) (follows : Bool) : State :=
  let s1 := (s.moveBytes o).endCopyLeave o
  if follows then s1.modOp o.id fun x => { x with phase := .running, engine := none, lockSrc := [] } else s1.finishOp o 0

/-- A copy at the head of its queue goes on: for more than 1,048,576 bytes it asks leave first. -/
def State.copyStep (s : State) (o : Op) : State :=
  match o.work with
  | .copy _ _ len follow =>
    if o.phase != .registered || !s.copyHead o || s.issuerHeld o then s
    else
      match o.engine with
      | some e =>
        if 1048576 < len && !s.hasLeave o.die (.copy e) then s.askLeave o.die (.copy e)
        else
          match s.opPages o with
          | .fatal => (s.failOp { o with lockDst := s.dstSpans o } 0x40).endCopyLeave o
          | _ => s.withPages o fun s => s.landCopy o follow.isSome
      | none => s
  | _ => s

def execCopyComplete (s : State) : Host.Outcome State Fault Refusal :=
  event (fun s => match s.arg with
    | .num id => match s.op? id with | some o => s.copyStep o | none => s
    | _ => s) s

end Sys2Proof.Machine
end

