-- ==== Sys2Proof/Machine/Comm.lean ====
section
/-! DEFINITION. Communication by remote writes (spec 02 R33 to R51, 23 R445 to R448): landing, receive counters, triggered sends, and what the
transport brings. -/

namespace Sys2Proof.Machine

/-! Ports (R32, R33). -/

/-- A port carries traffic. -/
def State.portUp (s : State) (p : Nat) : Bool :=
  s.readyBit (bitPort p) && match s.pkg.ports.toList[p]? with | some x => x.up | none => false

/-- Counts a dropped frame or a refusal at its port. -/
def State.dropAt (s : State) (p : Nat) : State :=
  { s with pkg := { s.pkg with ports := s.pkg.ports.mapIdx fun i x =>
      if i = p then { x with drops := if x.drops = 0xFFFF then x.drops else x.drops + 1 } else x } }

/-! The peer table (R38, R39). -/

/-- Entry d of the peer table. -/
def State.peer (s : State) (d : Nat) : Nat := natOf (s.homeRead (s.pkg.peerbase.toNat + 32 * d) 32)

/-- A port of a die's own, or of the other die when the die-to-die link carries what crosses (R22, R31). -/
def portDie (p : Nat) : Die := if p < 8 then .a else .b

def State.reaches (s : State) (d : Die) (p : Nat) : Bool := s.portUp p && (portDie p = d || s.readyBit bitD2d)

/-- The ports that may carry a die's traffic to a peer: those of its mask that are up, its own before the other die's (R38, R40). -/
def State.portsTo (s : State) (d : Die) (dev : Nat) : List Nat :=
  let e := s.peer dev
  let l := if bit e 144 then (List.range 16).filter fun p => bit e (128 + p) && s.reaches d p else []
  if l.any fun p => portDie p = d then l.filter fun p => portDie p = d else l

/-- Whether some port may carry a die's traffic to a peer. -/
def State.hasRoute (s : State) (d : Die) (dev : Nat) : Bool := !(s.portsTo d dev).isEmpty

/-- How frame i of a die's traffic of a class to a peer leaves: by one of its ports, which the transport chooses, in the delivery mode of its
entry, under its key (R34, R38, R40). -/
def State.via (s : State) (d : Die) (dev cls i : Nat) : Option Via :=
  let l := s.portsTo d dev
  let e := s.peer dev
  l[Config.choose 3 (s.tick + i) % l.length]?.map fun p => ⟨p, cls, bit e 145, BitVec.ofNat 128 e, BitVec.ofNat 24 (e / 2 ^ 168)⟩

/-- Frames on their way, each by its own port; none go where no port carries them. -/
def State.sendOut (s : State) (d : Die) (dev cls : Nat) (fs : List (Via → Out)) : State :=
  { s with out := s.out ++ (fs.zipIdx.filterMap fun f => (s.via d dev cls f.2).map f.1) }

/-! Counters (R44, R46, R47). -/

def State.modCounter (s : State) (d : Die) (i : Nat) (f : Counter → Counter) : State :=
  { s with counters := s.counters.map fun c => if c.die = d && c.idx = i then f c else c }

/-- The 4,096-byte words of a list of ranges: whether every byte from lo up to hi lies in one of them. -/
def coveredGo (l : List (Nat × Nat)) : Nat → Nat → Nat → Bool
  | 0, lo, hi => hi ≤ lo
  | fuel + 1, lo, hi =>
    if hi ≤ lo then true
    else
      match l.find? fun r => r.1 ≤ lo && lo < r.2 with
      | some r => coveredGo l fuel r.2 hi
      | none => false

def covered (l : List (Nat × Nat)) (lo hi : Nat) : Bool := coveredGo l (l.length + 1) lo hi

/-! Sending (R39, R40, R48). -/

/-- The packets of a message: payloads of at most 4,096 bytes, with their offsets. (DEDUCED, log entry 28) -/
def packets (bs : List Byte) : List (Nat × List Byte) :=
  (List.range ((bs.length + 4095) / 4096)).map fun i => (4096 * i, (bs.drop (4096 * i)).take 4096)

/-- The landing-region selector that a send names (R45, R445). -/
def Tsend.sel (t : Tsend) : Nat := t.region + t.rdie.num * 2 ^ 10

def State.modSend (s : State) (id : Nat) (f : Tsend → Tsend) : State :=
  s.modOp id fun o => match o.work with | .tsend t => { o with work := .tsend (f t) } | _ => o

/-- A send is over: fresh says that its command is still being issued. One whose issuer has not gone on yet stays until it has. -/
def State.sendOver (s : State) (o : Op) (status : Nat) (fresh : Bool) : State :=
  if fresh || s.issuerHeld o then
    let h := match o.work with | .tsend t => t.handle o.die | _ => 0
    (s.modOp o.id fun x => { x with phase := .finished [BitVec.ofNat 32 h], lockSrc := [] }).report o status
  else s.finishOp o status

/-- A fired send reads its source and sends it, once: towards a peer over the ports, towards the device's own number to its own landing. (DEDUCED, log entry 28) -/
def State.trySend (s : State) (o : Op) (t : Tsend) (fresh : Bool) : State :=
  match s.opPages o, s.opMeets o with
  | .fatal, _ => s.sendOver o 0x40 fresh
  | .hold va w, _ => s.holdOp o va w
  | .ready, (.none, _) =>
    let ps := packets (s.readAreas o o.src)
    let s1 : State := (({ s with holds := s.holds.filter fun h => h.who != .op o.id } : State).readsUse o).modSend o.id fun x =>
      { x with sent := s.cycle o.die + 1 }
    if t.device = s.pkg.devnum.toNat then
      { s1 with heldPkts := s1.heldPkts ++ ps.map fun p =>
          .write ⟨16 + o.id, BitVec.ofNat 32 (64 * t.sel), t.device, none, o.id, t.off, t.len, p.1, p.2, .at_ o.die o.clk⟩ }
    else if s.hasRoute o.die t.device then
      s1.sendOut o.die t.device 0 (ps.map fun p v => .write v o.id t.device t.sel t.off p.1 p.2)
    else s1.sendOver o 0x24 fresh
  | .ready, (f, pa) => s.physTrap o.ctx f o.die o.unitCode pa

/-- An entry fires and is free (R48). -/
def State.fire (s : State) (o : Op) (t : Tsend) (fresh : Bool) : State :=
  let t1 : Tsend := { t with fired := true }
  let s1 : State := { s with fired := (s.fired.filter fun e => !(e.die = o.die && e.entry = t.entry)) ++ [⟨o.die, t.entry, o.ctx, t.arm % 2 ^ 20⟩] }
  (s1.modSend o.id fun _ => t1).trySend { o with work := .tsend t1 } t1 fresh

/-- Entries of a counter that its value brings to fire, in the order of arming (R50). -/
def dueSends (d : Die) (i v : Nat) (ops : List Op) : List (Op × Tsend) :=
  let l := ops.filterMap fun o => match o.work with
    | .tsend t => if o.die = d && o.phase = .registered && t.ctr = i && !t.fired && t.t.toNat ≤ v then some (o, t) else none
    | _ => none
  l.mergeSort fun a b => a.2.order ≤ b.2.order

/-- Fires what a counter's value brings to its threshold. -/
def State.fireDue (s : State) (d : Die) (i : Nat) : State :=
  match s.counter? d i with
  | none => s
  | some c => (dueSends d i c.val.toNat s.ops).foldl (fun a e => a.fire e.1 e.2 false) s

/-- A counter advances by landings that a sender released (R46, R169). -/
def State.advanceCtr (s : State) (d : Die) (i n : Nat) (x : Rel) : State :=
  match s.counter? d i with
  | none => s
  | some c =>
    if n = 0 then s
    else
      let s1 := s.modCounter d i fun c => { c with val := c.val + BitVec.ofNat 32 n, rel := c.rel.join x }
      let s2 := if 2 ^ 32 ≤ c.val.toNat + n then s1.post d 0x09 0 c.ctx (BitVec.ofNat 64 (i + d.num * 2 ^ 13)) 0 0 else s1
      s2.fireDue d i

/-! Landing (R35 to R37, R44, R45, R131, R183). -/

/-- What becomes of a packet: taken, with the bytes of its answer; refused, for its key or for protection; held where it is. -/
inductive Landing where
  | taken (s : State) (answer : List Byte)
  | refused (key : Bool)
  | held (s : State)
  | gone (s : State)

/-- The region that a selector names, or a refusal. -/
def State.regionOf (s : State) (key : Word) : Option Region :=
  let sel := key.toNat / 64
  if bits sel 11 15 ≠ 0 then none else s.regions.find? fun r => r.die = dieOf (bit sel 10) && r.idx = bits sel 0 10

/-- Whether a key names the management window. -/
def toWindow (key : Word) : Bool := key.toNat / 64 = 0x3FFFFFF

/-- The unit that holds a fault for a packet; an operation of the device's own has none but the landing's die. -/
def portUnit (p : Nat) (d : Die) : FUnit := if p < 16 then .port p else .coll d

/-- The parts of a packet's bytes under the region's context, for the region's die. -/
def rmaParts (s : State) (d : Die) (c : Ctx) (port : Nat) (need : Need) : Nat → Nat → Nat → List Part
  | 0, _, _ => []
  | fuel + 1, va, n =>
    if n = 0 then []
    else
      let m := min n (65536 - va % 65536)
      let p : Part :=
        match s.walk d c va with
        | .leaf pa size rd wr _ cls => if (need.rd && !rd) || (need.wr && !wr) then .fatal else .pa (pa + va % size) cls m
        | .dev f pa => .dev f pa
        | .pend _ =>
          match s.verdict (.port port) c.num va with
          | some (.ok page) => .pa (page + va % 65536) 3 m
          | some _ => .fatal
          | none => .absent va
        | .bad _ => .fatal
      p :: rmaParts s d c port need fuel (va + m) (n - m)

/-- The stamp of incoming traffic (R310). -/
def rmaStamp : Stamp := ⟨0, 0xFFFF, 0, 0⟩

/-- The die at which a packet comes in: its port's, or that of the operation of the device's own (R31, R39). -/
def State.portSide (s : State) (p : Nat) : Die :=
  if p < 16 then portDie p else match s.op? (p - 16) with | some o => o.die | none => .a

/-- Holds a packet on an absent page. -/
def State.landHold (s : State) (port : Nat) (r : Region) (va : Nat) (need : Need) : Landing :=
  let s1 := s.raise (portUnit port r.die) ⟨r.ctx, 0, 0⟩ 6 va need.wr
  if s1.holds.any fun h => h.who = .port port && h.ctx = r.ctx && h.va / 65536 = va / 65536 then .held s1
  else .held { s1 with holds := s1.holds ++ [⟨.port port, portUnit port r.die, r.ctx, va, need.rd, need.wr, none⟩] }

/-- What the parts of a packet meet on the way to their homes, a fault before a wait; a region of the other die lies beyond the link (R22, R45). -/
def State.landMeets (s : State) (port : Nat) (r : Region) (need : Need) (ps : List Part) : PhysFault × Nat :=
  let link : PhysFault :=
    if s.portSide port = r.die then .none
    else match s.unitState .a 0x9C bitD2d with | .ready => .none | .clear => .clear | .failed => .failed .a 0x9C
  let xs := (link, 0) :: ps.map fun p => s.partMeets r.die (p, !need.rd)
  match xs.find? fun x => x.1 != .none && x.1 != .clear with
  | some x => x
  | none => (xs.find? fun x => x.1 = .clear).getD (.none, 0)

/-- The checks of a packet's bytes, then what it does to their physical parts. reach is whether every byte of its operation lies in the
region; wr whether it writes, which a locked source holds too. (DEDUCED, log entry 28) -/
def State.land (s : State) (port : Nat) (r : Region) (off n : Nat) (reach : Bool) (need : Need)
    (go : List Part → State → State × List Byte) : Landing :=
  match s.ctx? r.ctx with
  | none => .refused false
  | some c =>
    let va := r.base + off
    let ps := rmaParts s r.die c port need (n / 65536 + 2) va n
    let level := if need.wr then 1 else 2
    if !reach || ps.contains .fatal || (need.wr && c.protects va n) then .refused false
    else if level ≤ s.lock none (.virt r.ctx va n) then .held s
    else
      match ps.findSome? fun p => match p with | .absent a => some a | _ => none with
      | some a => s.landHold port r a need
      | none =>
        if ps.any fun p => match p with | .pa pa _ m => level ≤ s.lock none (.phys pa m) | _ => false then .held s
        else
          match s.landMeets port r need ps with
          | (.none, _) => let (s1, a) := go ps s; .taken s1 a
          | (.clear, _) => .held s
          | (f, pa) => .gone (s.physTrap r.ctx f r.die (portUnit port r.die).unit pa)

/-- Marks bytes of a message landed and advances the region's counter (R44, R46). (DEDUCED, log entry 28) -/
def State.countLanding (s : State) (r : Region) (p : RmaWrite) : State :=
  let same (m : Msg) : Bool := m.src = p.src && m.msg = p.msg && m.die = r.die && m.idx = r.idx
  let old := match s.msgs.find? same with | some m => m.landed | none => []
  let rel := match s.msgs.find? same with | some m => m.rel.join p.rel | none => p.rel
  let now := old ++ [(p.off + p.at_, p.off + p.at_ + p.data.length)]
  let lo := p.off
  let hi := p.off + p.total
  let whole (l : List (Nat × Nat)) : Bool := covered l lo hi
  let chunk (l : List (Nat × Nat)) (i : Nat) : Bool := covered l (max lo (4096 * i)) (min hi (4096 * i + 4096))
  let n :=
    match r.unit with
    | 0 => b2n (whole now && !whole old)
    | 1 => ((List.range ((hi + 4095) / 4096 - lo / 4096)).filter fun k =>
        let i := lo / 4096 + k
        chunk now i && !chunk old i).length
    | _ => p.data.length
  let rest := s.msgs.filter fun m => !same m
  let s1 : State := { s with msgs := if whole now then rest else rest ++ [⟨p.src, p.msg, r.die, r.idx, p.off, p.total, now, rel⟩] }
  s1.advanceCtr r.die r.ctr n rel

/-- A write packet at the landing. An access of the window is one whole message (R61, R66, R78). One whose bytes have landed already is acknowledged again and does nothing. -/
def State.landWrite (s : State) (p : RmaWrite) : Landing :=
  if toWindow p.key then
    .taken (if p.data.length = p.total && p.at_ = 0 then s.windowWrite p.off p.total (natOf p.data) else if p.at_ = 0 then s.discard else s) []
  else
    match s.regionOf p.key with
    | none => .refused true
    | some r =>
      let again := s.msgs.any fun m => m.src = p.src && m.msg = p.msg && m.die = r.die && m.idx = r.idx &&
        covered m.landed (p.off + p.at_) (p.off + p.at_ + p.data.length)
      if again then .taken s []
      else
        s.land p.port r (p.off + p.at_) p.data.length
          (decide (p.at_ + p.data.length ≤ p.total) && decide (p.off + p.total ≤ r.len)) .store fun ps s =>
          ((s.writePartsAt rmaStamp ps p.data).countLanding r p, [])

/-- A read at the landing. -/
def State.landRead (s : State) (p : RmaRead) : Landing :=
  if toWindow p.key then let (v, s1) := s.windowRead p.off p.len; .taken s1 (bytesOf p.len v)
  else
    match s.regionOf p.key with
    | none => .refused true
    | some r =>
      s.land p.port r p.off p.len (decide (p.off + p.len ≤ r.len)) .load fun ps s =>
        (ps.foldl (fun a x => match x with | .pa pa cls n => a.engReadUse pa n cls | _ => a) s,
         ps.flatMap fun x => match x with | .pa pa _ n => s.engRead pa n | _ => [])

/-- The operation of an incoming fetching atomic (R34, R37). -/
def RmaAtomic.op (p : RmaAtomic) : AtomOp := if p.cas then ⟨13, p.cmp, p.val, 3⟩ else ⟨11, p.val, 0, 3⟩

/-- A fetching atomic at the landing: an acquire and a release at its home (R37, R169). One whose address is not 8-byte aligned is refused with
REMOTE_PROTECT (DESIGN CHOICE, log entry 46). -/
def State.landAtomic (s : State) (p : RmaAtomic) : Landing :=
  let window (off : Nat) (s : State) : State × List Byte :=
    let (v, s1) := s.windowRead off 8
    (match p.op.apply v with | some x => s1.windowWrite off 8 x | none => s1, bytesOf 8 v)
  if toWindow p.key then let (s1, a) := window p.off s; .taken s1 a
  else
    match s.regionOf p.key with
    | none => .refused true
    | some r =>
      s.land p.port r p.off 8 (decide (p.off + 8 ≤ r.len) && decide ((r.base + p.off) % 8 = 0)) .both fun ps s =>
        match ps with
        | .pa pa cls _ :: _ =>
          if homeOf pa = .window then window (pa - 0x6000000000) s
          else
            let d := homeDie pa
            let x := s.atomAt (.far d) pa p.op (some []) cls
            let s1 := if x.rel.other d then x.s.crossAcquire d x.rel.clk else x.s
            (if (p.op.apply x.old).isSome then s1.stamp { rmaStamp with line := pa / 128 * 128 } else s1, bytesOf 8 x.old)
        | _ => (s, [])

/-- The landing of any packet. -/
def State.landPkt (s : State) (p : HeldPkt) : Landing :=
  match p with
  | .write p => s.landWrite p
  | .read p => s.landRead p
  | .atomic p => s.landAtomic p

/-- Where a packet came from: its port and its sender. -/
def HeldPkt.from_ (p : HeldPkt) : Nat × Nat :=
  match p with
  | .write p => (p.port, p.src)
  | .read p => (p.port, p.src)
  | .atomic p => (p.port, p.src)

/-- The flow in which a packet is delivered in order, if it is (R35). -/
def HeldPkt.flow (p : HeldPkt) : Option (Nat × Nat) :=
  match p with
  | .write p => p.flow.map fun f => (p.src, f)
  | .read p => p.flow.map fun f => (p.src, f)
  | .atomic p => p.flow.map fun f => (p.src, f)

/-- Whether a packet stands behind another of its flow that is held (R35). -/
def behind (l : List HeldPkt) (p : HeldPkt) : Bool := p.flow.isSome && l.any fun q => q.flow = p.flow

/-- The answer to a packet: frames of at most 4,096 bytes, or an acknowledgement (R31). -/
def answerTo (src : Nat) (bs : List Byte) : List Out := if bs.isEmpty then [.reply src []] else (packets bs).map fun p => .reply src p.2

/-- A refused packet: its sender is told; a refused key counts in DROPS of the port (R45). (DEDUCED, log entry 28) -/
def State.refusePkt (s : State) (port src : Nat) (key : Bool) : State :=
  let s1 : State := { s with out := s.out ++ [.nak src (b2n key)] }
  if key then s1.dropAt port else s1

/-- A packet comes in at a port that carries traffic; in a flow delivered in order it waits behind those held. -/
def State.arrive (s : State) (p : HeldPkt) : State :=
  let (port, src) := p.from_
  if 16 ≤ port || !s.portUp port then s
  else if behind s.heldPkts p then { s with heldPkts := s.heldPkts ++ [p] }
  else
    match s.landPkt p with
    | .taken s1 a => { s1 with out := s1.out ++ answerTo src a }
    | .refused key => s.refusePkt port src key
    | .held s1 => { s1 with heldPkts := s1.heldPkts ++ [p] }
    | .gone s1 => s1

def execIncomingRmaWrite (s : State) : Host.Outcome State Fault Refusal :=
  event (fun s => match s.arg with | .rmaWrite p => s.arrive (.write p) | _ => s) s

def execIncomingRmaRead (s : State) : Host.Outcome State Fault Refusal :=
  event (fun s => match s.arg with | .rmaRead p => s.arrive (.read p) | _ => s) s

def execIncomingFetchAtomic (s : State) : Host.Outcome State Fault Refusal :=
  event (fun s => match s.arg with | .rmaAtomic p => s.arrive (.atomic p) | _ => s) s

/-- Packets of an operation towards the device's own number that have not landed. (DEDUCED, log entry 28) -/
def State.ownPkts (s : State) (port : Nat) : Bool := s.heldPkts.any fun p => p.from_.1 = port

/-- A held packet, or one of the device's own, tries to land: a send of the device's own is over with its last packet. -/
def State.landHeld (s : State) (i : Nat) : State :=
  match s.heldPkts[i]? with
  | none => s
  | some p =>
    if behind (s.heldPkts.take i) p then s
    else
    let (port, src) := p.from_
    let s0 : State := { s with heldPkts := s.heldPkts.eraseIdx i }
    let unhold (s : State) : State :=
      if s.ownPkts port then s else { s with holds := s.holds.filter fun h => h.who != .port port }
    match s0.landPkt p with
    | .taken s1 a =>
      let s2 := unhold s1
      if port < 16 then { s2 with out := s2.out ++ answerTo src a }
      else
        match s2.op? (port - 16) with
        | some o => if s2.ownPkts port then s2 else s2.sendOver o 0 false
        | none => s2
    | .refused key =>
      if port < 16 then (unhold s0).refusePkt port src key
      else
        let s1 := unhold { s0 with heldPkts := s0.heldPkts.filter fun p => p.from_.1 != port }
        match s1.op? (port - 16) with | some o => s1.sendOver o 0x25 false | none => s1
    | .held s1 => { s1 with heldPkts := s.heldPkts }
    | .gone s1 => s1

def execHeldLandingRelease (s : State) : Host.Outcome State Fault Refusal :=
  event (fun s => match s.arg with | .num i => s.landHeld i | _ => s) s

/-! Triggered sends (R445 to R447). -/

/-- TSEND from the four words of its record. -/
def State.mkSend (s : State) (a : Acor) (w0 w1 w2 w3 : Nat) : Trap ⊕ Op :=
  let len := bits w2 32 31
  let ctr := bits w3 32 13
  if bits w0 56 8 ≠ 0 || bits w1 51 13 ≠ 0 || bits w2 21 11 ≠ 0 || bit w2 63 || bits w3 46 2 ≠ 0 || len = 0 || 2 ^ 30 < len ||
      dieOf (bit w3 45) ≠ a.b.die then .inl limTrap
  else
    let src := bits w0 0 56
    let mine := (s.counter? a.b.die ctr).any fun c => c.ctx = a.b.ctx
    let t : Tsend := {
      src := src, off := bits w1 0 40, region := bits w1 40 10, rdie := dieOf (bit w1 50), device := bits w2 0 21, len := len
      t := BitVec.ofNat 32 w3, ctr := ctr, entry := 2048, arm := 0, order := 0, fired := false, sent := 0 }
    match firstTrap ((if mine then [] else [.sync 0x08 0 0]) ++ (s.areasTrap a [rangeAt (.glob src) len] []).toList) with
    | some t => .inl t
    | none => .inr (s.newOp a (BitVec.ofNat 16 (w3 / 2 ^ 48)) (.tsend t) [rangeAt (.glob src) len] [])

/-- The lowest free entry of a die's trigger table. (DEDUCED, log entry 28) -/
def State.freeEntry (s : State) (d : Die) : Option Nat :=
  (List.range 2048).find? fun i => s.ops.all fun o => match o.work with
    | .tsend t => !(o.die = d && o.phase = .registered && !t.fired && t.entry = i)
    | _ => true

/-- Arming (R49, R446): with no free entry TRIG_FULL is reported at once; a counter at the threshold fires the send. (DEDUCED, log entry 28) -/
def State.armSend (s : State) (o : Op) : State :=
  match o.work with
  | .tsend t =>
    match s.freeEntry o.die with
    | none => (s.registerOp o).sendOver o 0x23 true
    | some e =>
      let n := match o.die with | .a => s.armA | .b => s.armB
      let t1 : Tsend := { t with entry := e, arm := n % 2 ^ 20, order := n }
      let s1 := (s.registerOp o).modSend o.id fun _ => t1
      let s2 : State := match o.die with | .a => { s1 with armA := n + 1 } | .b => { s1 with armB := n + 1 }
      let s3 : State := { s2 with fired := s2.fired.filter fun x => !(x.die = o.die && x.entry = e) }
      match s3.counter? o.die t.ctr, s3.op? o.id with
      | some c, some o1 => if t.t.toNat ≤ c.val.toNat then s3.fire o1 t1 true else s3
      | _, _ => s3
  | _ => s

/-- The words of a command record in global memory: one plain load, checked as such (R438). -/
inductive RecRead where
  | words (ws : List Nat) (s : State)
  | res (r : UnitRes)

/-- The byte that a plain read of an agent's gives at an address: that of its own last store not yet visible, else its cache's. -/
def State.ownRead (s : State) (who : Agent) (c : Cache) (pa : Nat) : Byte :=
  (((s.stores.filter fun x => x.who = who && x.pa ≤ pa && pa < x.pa + x.bytes.length && x.atom.isNone && !x.discard).getLast?).bind fun x =>
    x.bytes[pa - x.pa]?).getD (s.cacheRead c pa)

/-- Whether a plain read of n bytes must wait for accesses of its own agent. -/
def State.readWaits (s : State) (who : Agent) (pa n : Nat) : Bool :=
  (s.stores.any fun x => x.who = who && overlaps x.pa x.bytes.length pa n && (x.atom.isSome || x.discard)) ||
    s.loads.any fun l => l.who = who && overlaps l.pa l.n pa n

/-- A plain read of n bytes at a physical address for an agent: what it meets, or the bytes and the state after. -/
def State.readNow (s0 : State) (a : Acor) (pa va n : Nat) : PhysFault ⊕ (List Byte × State) :=
  let s := s0.refresh a.cache pa n (s0.floorOf a.who)
  match s.meets a.b.die (some a.cache) pa n true with
  | .none =>
    let s1 := (s.walkedFor a va n).fill a.cache pa n (s.pageClass a va n .load) false
    .inr ((List.range n).map fun i => s1.ownRead a.who a.cache (pa + i), s1)
  | f => .inl f

/-- A read that a command makes, under record or replay: none while it is held (R313, R314). -/
def State.rrRead (s : State) (b : Block) (a : Agent) (pa : Nat) : Option State :=
  let rclk := (s.clocks a).2
  match s.rrMode b.ctx with
  | 1 => s.recordRead b a.num rclk pa
  | 2 =>
    match s.replayPair b a.num rclk with
    | some v => if s.pairReady b.ctx v then some (s.replayRead b a.num rclk pa v false) else none
    | none => some s
  | _ => some s

/-- Reads a record of n bytes at an address for a lane thread: one plain load, which RCLK counts (R312). -/
def LaneEnv.record (e : LaneEnv) (s : State) (va n : Nat) : RecRead :=
  match s.chk e.acor va n .load 2 n with
  | .ok pa =>
    if s.logHas e.acor va || s.readWaits (.lane e.r) pa n then .res (.wait id .retry)
    else
      match (s.unhold (.lane e.r)).readNow e.acor pa va n with
      | .inr (bs, s1) =>
        match (s1.tick2 (.lane e.r) false true).rrRead e.b (.lane e.r) pa with
        | some s2 => .words ((List.range (n / 8)).map fun i => natOf ((bs.drop (8 * i)).take 8)) s2
        | none => .res (.wait id .retry)
      | .inl f => .res (e.meets s f pa)
  | .absent => .res (e.hold 1 va .load)
  | .fatal => .res (fatalAt va)
  | .trap t => .res (.trap t)
  | .stop => .res (.stop 3)
  | .dev f pa => .res (e.meets s f pa)

/-- Consecutive scalar registers as numbers; none past s511 (R438). -/
def LeadEnv.record (e : LeadEnv) (a : BitVec 9) (n : Nat) : Option (List Nat) :=
  if 512 < a.toNat + n then none else some ((List.range n).map fun i => (e.l.get (BitVec.ofNat 9 (a.toNat + i))).toNat)

def execTsend (f : X3) (s : State) : Host.Outcome State Fault Refusal :=
  lane (.tsend f) (fun e s =>
    if e.th.heldOp.isSome then e.command State.armSend s (.inl limTrap)
    else
      match e.record s (e.pair 0).toNat 32 with
      | .words ws s1 => e.command State.armSend s1 (s1.mkSend e.acor (ws.getD 0 0) (ws.getD 1 0) (ws.getD 2 0) (ws.getD 3 0))
      | .res r => r) s

def execLeadTsend (f : Y3) (s : State) : Host.Outcome State Fault Refusal :=
  lead (.leadTsend f) (fun e s =>
    match e.record f.a 4 with
    | some ws => e.command State.armSend s (some f.d) (s.mkSend e.acor (ws.getD 0 0) (ws.getD 1 0) (ws.getD 2 0) (ws.getD 3 0))
    | none => .trap limTrap) s

/-- A disarm (R51, R447): its answer, and the state. -/
def State.disarm (s : State) (ctx h : Nat) : Nat × State :=
  let d := dieOf (bit h 11)
  let entry := bits h 0 11
  let arm := bits h 12 20
  let mine (o : Op) : Bool := match o.work with
    | .tsend t => o.die = d && o.ctx = ctx && o.phase = .registered && !t.fired && t.entry = entry && t.arm = arm
    | _ => false
  if 2 ^ 32 ≤ h then (2, s)
  else
    match s.ops.find? mine with
    | some o => (0, s.sendOver o 0x26 false)
    | none => (if s.fired.contains ⟨d, entry, ctx, arm⟩ then 1 else 2, s)

def execTdisarm (f : X3) (s : State) : Host.Outcome State Fault Refusal :=
  lane (.tdisarm f) (fun e s => 
    let (v, s1) := (s.tick2 (.lane e.r) true false).disarm e.b.ctx (e.x 0).toNat
    .done (e.write s1 [BitVec.ofNat 32 v])) s

def execLeadTdisarm (f : Y3) (s : State) : Host.Outcome State Fault Refusal :=
  lead (.leadTdisarm f) (fun e s =>
    let (v, s1) := (s.tick2 (.lead e.r) true false).disarm e.b.ctx (e.l.get f.a).toNat
    .done (e.put s1 f.d (BitVec.ofNat 64 v))) s

/-! Reading and resetting counters (R448). -/

/-- The counter that an operand names, or a trap. -/
def State.counterAt (s : State) (ctx v : Nat) : Trap ⊕ Counter :=
  if 2 ^ 14 ≤ v then .inl limTrap
  else
    match s.counter? (dieOf (bit v 13)) (bits v 0 13) with
    | some c => if c.ctx = ctx then .inr c else .inl (.sync 0x08 0 0)
    | none => .inl (.sync 0x08 0 0)

/-- The counter after a read, or a read and reset. -/
def State.readCtr (s : State) (c : Counter) (reset : Bool) : State :=
  if reset then s.modCounter c.die c.idx fun x => { x with val := 0, rel := .none } else s

def laneCtr (i : Instr) (reset : Bool) (s : State) : Host.Outcome State Fault Refusal :=
  lane i (fun e s =>
    match s.counterAt e.b.ctx (e.x 0).toNat with
    | .inl t => .trap t
    | .inr c => .done (e.write ((((s.tick2 (.lane e.r) true false).readCtr c reset).observe e.acor c)) [c.val])) s

def leadCtr (i : Instr) (f : Y3) (reset : Bool) (s : State) : Host.Outcome State Fault Refusal :=
  lead i (fun e s =>
    match s.counterAt e.b.ctx (e.l.get f.a).toNat with
    | .inl t => .trap t
    | .inr c => .done (e.put (((s.tick2 (.lead e.r) true false).readCtr c reset).observe e.acor c) f.d (c.val.setWidth 64))) s

def execCtrrd (f : X3) (s : State) : Host.Outcome State Fault Refusal := laneCtr (.ctrrd f) false s
def execCtrrst (f : X3) (s : State) : Host.Outcome State Fault Refusal := laneCtr (.ctrrst f) true s
def execLeadCtrrd (f : Y3) (s : State) : Host.Outcome State Fault Refusal := leadCtr (.leadCtrrd f) f false s
def execLeadCtrrst (f : Y3) (s : State) : Host.Outcome State Fault Refusal := leadCtr (.leadCtrrst f) f true s

end Sys2Proof.Machine
end

