-- ==== Sys2Proof/Machine/Coll.lean ====
section
/-! DEFINITION. Collectives (spec 02 R52 to R60, 23 R443, R444) and what the transport and the ports bring to operations (02 R33, R48, R56). -/

namespace Sys2Proof.Machine

/-! Elements (R53, R54). -/

/-- Bytes of an element by TYPE. -/
def collBytes (ty : Nat) : Nat := match ty with | 0 => 8 | 2 | 3 => 2 | _ => 4

/-- The type of an element, none for SI32. -/
def collTy (ty : Nat) : Option FTy := match ty with | 0 => some .f64 | 1 => some .f32 | 2 => some .bf16 | 3 => some .f16 | _ => none

/-- The type in which partials travel. -/
def wideTy (ty : Nat) : Option FTy := match ty with | 0 => some .f64 | 4 => none | _ => some .f32

/-- Widen: exact, the code itself where the types agree. -/
def widen (ty x : Nat) : Nat :=
  match ty with
  | 2 => rne .f32 (FTy.bf16.value x)
  | 3 => rne .f32 (FTy.f16.value x)
  | _ => x

/-- RoundRNE to the element type. -/
def narrow (ty acc : Nat) : Nat :=
  match ty with
  | 2 => rne .bf16 (FTy.f32.value acc)
  | 3 => rne .f16 (FTy.f32.value acc)
  | _ => acc

/-- The maximum or minimum of IEEE 754-2019 on codes of a type: the first NaN met, made quiet, otherwise. -/
def pickCode (t : FTy) (greater : Bool) (a b : Nat) : Nat :=
  match firstNan [t.value a, t.value b] with
  | some v => rne t v
  | none => if Val.lt true (t.value a) (t.value b) = greater then b else a

/-- Combine on travelling codes: 0 sum, 1 max, 2 min. -/
def combineCode (ty op a b : Nat) : Nat :=
  match wideTy ty with
  | some t => if op = 0 then rne t (Val.add false (t.value a) (t.value b)) else pickCode t (op = 1) a b
  | none =>
    if op = 0 then (a + b) % 2 ^ 32
    else if (sval 32 a < sval 32 b) = (op = 1) then b else a

/-- Where shard i of n elements in N shards begins. (DEDUCED, log entry 29) -/
def shardStart (n count i : Nat) : Nat := i * (n / count) + min i (n % count)

def shardLen (n count i : Nat) : Nat := n / count + (if i < n % count then 1 else 0)

/-- The codes in a list of bytes, k bytes each. -/
def codesOf (k : Nat) (bs : List Byte) : List Nat := (List.range (bs.length / k)).map fun i => natOf ((bs.drop (k * i)).take k)

/-! One member's part, on plain data. -/

/-- Members. -/
def Coll.count (c : Coll) : Nat := c.group.length

def Coll.start (c : Coll) (i : Nat) : Nat := shardStart c.n c.count i
def Coll.len (c : Coll) (i : Nat) : Nat := shardLen c.n c.count i

/-- The rank after this one. -/
def Coll.next (c : Coll) : Nat := (c.rank + 1) % c.count

/-- The shard that this rank begins. -/
def Coll.first (c : Coll) : Nat := (c.rank + c.count - 1) % c.count

/-- What a part of the work brings about: the collective after it, what is sent on, the elements written by index in the destination,
and whether the group disagrees. -/
structure CollOut where
  c : Coll
  sends : List CollData
  puts : List (Nat × List Nat)
  bad : Bool

/-- A list of codes in chunks of 4 KiB, with the index of the first element of each. -/
def chunksOf (k : Nat) (xs : List Nat) : List (Nat × List Nat) :=
  let m := 4096 / k
  (List.range ((xs.length + m - 1) / m)).map fun i => (m * i, (xs.drop (m * i)).take m)

/-- Bytes of a travelling partial. -/
def Coll.wideBytes (c : Coll) : Nat := if c.ty = 0 then 8 else 4

/-- Where an element of a shard lies in the destination. -/
def Coll.place (c : Coll) (shard first : Nat) : Nat := if c.coll = 0 then first else c.start shard + first

/-- The codes landed for a shard, in order. -/
def Coll.landedOf (c : Coll) (shard : Nat) : List Nat :=
  ((c.landed.filter fun e => e.1 = shard).mergeSort fun a b => a.2.1 ≤ b.2.1).flatMap fun e => e.2.2

/-- The partial q of R57. Where a shard holds a NaN and an infinity the NaN goes before, and of several NaNs the one of the lowest element: the rule
gives no precedence (DESIGN CHOICE, log entry 46). -/
def normPartial (ty : Nat) (ys : List Nat) : Dword :=
  match collTy ty with
  | none => 0
  | some t =>
    let vs := ys.map t.value
    match firstNan vs with
    | some v => BitVec.ofNat 64 (rne .f64 v)
    | none =>
      if vs.any Val.isInf then BitVec.ofNat 64 (FTy.f64.infinite false)
      else
        let sum := vs.foldl (fun (a : Exact) v => match v with | .num x => a.add (x.mul x) false | _ => a) (Exact.zero false)
        BitVec.ofNat 64 (rne .f64 (.num sum))

/-- g of R58, from the partials by rank. (DEDUCED, log entry 29) -/
def Coll.norm64 (c : Coll) : Dword :=
  let q (i : Nat) : Dword := ((c.norms.find? fun e => e.1 = i).map fun e => e.2).getD 0
  (List.range (c.count - 1)).foldl (fun g i =>
    BitVec.ofNat 64 (rne .f64 (Val.add false (f64v g) (f64v (q (i + 1)))))) (q 0)

/-- A phase begins: what this rank sends of its own, and what needs no neighbour. -/
def Coll.begin_ (c : Coll) : CollOut :=
  let c1 : Coll := { c with begun := true }
  let alone := c.count ≤ 1
  match c.phase with
  | 0 =>
    if alone then
      let ys := c.data.map fun x => narrow c.ty (widen c.ty x)
      ⟨{ c1 with landed := [(0, 0, ys)] }, [], [(0, ys)], false⟩
    else
      let xs := (c.data.drop (c.start c.first)).take (c.len c.first)
      ⟨c1, (chunksOf c.wideBytes (xs.map (widen c.ty))).map fun p => .reduce c.first p.1 p.2, [], false⟩
  | 1 =>
    let own := if c.coll = 1 then c.data else c.landedOf c.rank
    let sends := if alone then [] else (chunksOf (collBytes c.ty) own).map fun p => CollData.gather c.rank p.1 p.2
    ⟨{ c1 with landed := (c.landed.filter fun e => e.1 != c.rank) ++ [(c.rank, 0, own)] }, sends, [(c.place c.rank 0, own)], false⟩
  | _ =>
    let q := normPartial c.ty (c.landedOf c.rank)
    ⟨{ c1 with norms := c.norms ++ [(c.rank, q)] }, if alone then [] else [.norm c.rank q], [], false⟩

/-- A piece that comes a second time, or does not fit its shard. (DEDUCED, log entry 29) -/
def Coll.misfit (c : Coll) (shard first n : Nat) (have_ : List (Nat × Nat × Nat)) : Bool :=
  c.count ≤ shard || c.len shard < first + n || have_.any fun e => e.1 = shard && e.2.1 < first + n && first < e.2.1 + e.2.2

/-- One piece from the neighbour, in its phase (R54, R58). (DEDUCED, log entry 29) -/
def Coll.take1 (c : Coll) (d : CollData) : CollOut :=
  match d with
  | .reduce i first vals =>
    if i = c.first || c.misfit i first vals.length c.reduced then ⟨c, [], [], true⟩
    else
      let own := (c.data.drop (c.start i + first)).take vals.length
      let acc := (vals.zip own).map fun p => combineCode c.ty c.op p.1 (widen c.ty p.2)
      let c1 : Coll := { c with reduced := c.reduced ++ [(i, first, vals.length)] }
      if i = c.rank then
        let ys := acc.map (narrow c.ty)
        ⟨{ c1 with landed := c1.landed ++ [(i, first, ys)] }, [], [(c.place i first, ys)], false⟩
      else ⟨c1, [.reduce i first acc], [], false⟩
  | .gather i first vals =>
    if i = c.rank || c.misfit i first vals.length (c.landed.map fun e => (e.1, e.2.1, e.2.2.length)) then ⟨c, [], [], true⟩
    else
      ⟨{ c with landed := c.landed ++ [(i, first, vals)] }, if i = c.next then [] else [d], [(c.place i first, vals)], false⟩
  | .norm r q =>
    if c.count ≤ r || c.norms.any fun e => e.1 = r then ⟨c, [], [], true⟩
    else ⟨{ c with norms := c.norms ++ [(r, q)] }, if r = c.next then [] else [d], [], false⟩
  | .mismatch => ⟨c, [], [], true⟩

/-- The phase that a piece belongs to. -/
def CollData.phase : CollData → Nat
  | .reduce _ _ _ => 0
  | .gather _ _ _ => 1
  | .norm _ _ => 2
  | .mismatch => 0

/-- Treats what has come for the phase in hand. (DEDUCED, log entry 29) -/
def Coll.pump : List CollData → CollOut → CollOut
  | [], o => o
  | d :: r, o =>
    if o.bad then o
    else if d = .mismatch || d.phase = o.c.phase then
      let x := o.c.take1 d
      Coll.pump r ⟨x.c, o.sends ++ x.sends, o.puts ++ x.puts, x.bad⟩
    else Coll.pump r { o with c := { o.c with inq := o.c.inq ++ [d] } }

/-- Whether the phase in hand has all its input. -/
def Coll.phaseOver (c : Coll) : Bool :=
  c.begun && (c.count ≤ 1 ||
    match c.phase with
    | 0 => (List.range c.count).all fun i => i = c.first ||
        covered ((c.reduced.filter fun e => e.1 = i).map fun e => (e.2.1, e.2.1 + e.2.2)) 0 (c.len i)
    | 1 => (List.range c.count).all fun i =>
        covered ((c.landed.filter fun e => e.1 = i).map fun e => (e.2.1, e.2.1 + e.2.2.length)) 0 (c.len i)
    | _ => (List.range c.count).all fun i => c.norms.any fun e => e.1 = i)

/-- The phase after this one. -/
def Coll.nextPhase (c : Coll) : Option Nat :=
  if c.phase = 0 && c.coll = 2 then some 1 else if c.phase = 0 && c.norm then some 2 else none

/-! In the machine. -/

def State.modColl (s : State) (id : Nat) (f : Coll → Coll) : State :=
  s.modOp id fun o => match o.work with | .coll c => { o with work := .coll (f c) } | _ => o

/-- A collective fails, or ends: its leave ends with it (R14, R56). -/
def State.collOver (s : State) (o : Op) (c : Coll) (status : Nat) : State :=
  let s1 := if status = 0 then s.finishOp o 0 else s.failOp o status
  if c.leave then s1.dropLeave o.die .coll else s1

/-- What a collective's frames say of it (R52, R56). -/
def Coll.head (c : Coll) : CollHead := ⟨c.coll, c.op, c.ty, c.n, c.ctag, c.group⟩

/-- Sends data to the next member; without a route the collective ends with NO_ROUTE. -/
def State.collSend (s : State) (o : Op) (c : Coll) (ds : List CollData) : State :=
  if ds.isEmpty then s
  else
    let d := c.group.getD c.next 0
    if s.hasRoute o.die d then
      (s.sendOut o.die d 0 (ds.map fun x v => .coll v o.id d c.head x)).modColl o.id fun x =>
        { x with sent := match x.sent with | some t => some t | none => some (s.cycle o.die) }
    else s.collOver o c 0x24

/-- Writes elements into the destination. -/
def State.collPut (s : State) (o : Op) (c : Coll) (p : Nat × List Nat) : State :=
  let k := collBytes c.ty
  s.writeRow o (.glob (c.dst + k * p.1)) (p.2.flatMap fun x => bytesOf k x)

/-- What a part of the work brings about takes effect. -/
def State.collApply (s : State) (o : Op) (x : CollOut) : State :=
  let s1 := (x.puts.foldl (fun a p => a.collPut o x.c p) s).modColl o.id fun _ => x.c
  if x.bad then s1.collOver o x.c 0x22 else s1.collSend o x.c x.sends

/-- Treats the input of a phase that has begun. -/
def State.collPump (s : State) (o : Op) (c : Coll) : State :=
  if !c.leave || !c.begun then s
  else
    let x := Coll.pump c.inq ⟨{ c with inq := [] }, [], [], false⟩
    s.collApply o { x with c := { x.c with waitFrom := if x.c.inq = c.inq then c.waitFrom else s.cycle o.die } }

/-- A collective goes on: it asks leave for its phase, begins it, or ends it and goes to the next, or is done. -/
def State.collStep (s : State) (o : Op) (c : Coll) : State :=
  if o.phase != .registered || s.issuerHeld o then s
  else if !c.leave then s.askLeave o.die .coll
  else if !c.begun then
    let data := if c.phase = 0 || (c.phase = 1 && c.coll = 1) then codesOf (collBytes c.ty) (s.readAreas o o.src) else c.data
    s.collApply o ({ c with data := data, waitFrom := s.cycle o.die }).begin_
  else if c.phaseOver && c.sent.isNone then
    let s1 := s.dropLeave o.die .coll
    match c.nextPhase with
    | some p => s1.modColl o.id fun x => { x with phase := p, leave := false, begun := false }
    | none =>
      let s2 := if c.phase = 2 then s1.writeRow o (.glob c.nslot) (bytesOf 8 c.norm64.toNat) else s1
      (s2.readsUse o).finishOp o 0
  else s.collPump o c

/-- A collective and its operation, while it runs and its pages are there. -/
def State.withColl (s : State) (id : Nat) (go : State → Op → Coll → State) : State :=
  match s.op? id with
  | some o =>
    match o.work with
    | .coll c =>
      if o.phase != .registered || s.issuerHeld o then s
      else
        match s.opPages o with
        | .fatal => s.collOver { o with lockDst := s.dstSpans o } c 0x40
        | _ => s.withPages o fun s => go s o c
    | _ => s
  | none => s

def execCollectiveComplete (s : State) : Host.Outcome State Fault Refusal :=
  event (fun s => match s.arg with | .num id => s.withColl id fun s o c => s.collStep o c | _ => s) s

/-- Data of a neighbour reaches an operation at a port that carries traffic (R33); data of another collective than this one shows that the members disagree
(R56). -/
def execCollectiveData (s : State) : Host.Outcome State Fault Refusal :=
  event (fun s => match s.arg with
    | .coll p id h d =>
      let s1 := if s.portUp p then s.modColl id fun c => { c with inq := c.inq ++ [if h = c.head then d else .mismatch] } else s
      s1.withColl id fun s o c => s.collPump o c
    | _ => s) s

/-- A phase has waited for input longer than COLLTMO; 0 disables the timeout (R56). -/
def execCollectivePhaseTimeout (s : State) : Host.Outcome State Fault Refusal :=
  event (fun s => match s.arg with
    | .num id =>
      match s.op? id with
      | some o =>
        match o.work with
        | .coll c =>
          let limit := s.pkg.colltmo.toNat
          if o.phase = .registered && c.begun && !c.phaseOver && limit ≠ 0 && c.waitFrom + limit < s.cycle o.die then s.collOver o c 0x21 else s
        | _ => s
      | none => s
    | _ => s) s

/-! Leave (R14, R15). -/

/-- Collectives of a die that want leave for their phase. -/
def State.collWants (s : State) (d : Die) : List Nat :=
  (s.ops.filter fun o => o.die = d && o.phase = .registered && (match o.work with | .coll c => !c.leave && !c.begun | _ => false)).map fun o => o.id

/-- The collective engine's leave goes to the first that wants it; the engine asks again for the others. -/
def State.giveColl (s : State) (d : Die) : State :=
  match s.collWants d with
  | [] => s.dropLeave d .coll
  | id :: rest =>
    let s1 := s.modColl id fun c => { c with leave := true }
    if rest.isEmpty then s1 else s1.askLeave d .coll

def execLeaveGrant (s : State) : Host.Outcome State Fault Refusal :=
  event (fun s => match s.arg with
    | .die d =>
      match s.grantLeave d with
      | some (.coll, s1) => s1.giveColl d
      | some (_, s1) => s1
      | none => s
    | _ => s) s

/-! The issue of a collective (R443, R444). -/

/-- What a plain read of several bytes comes to: the bytes and the state after, or why not. -/
inductive PlainRead where
  | bytes (bs : List Byte) (s : State)
  | absent (va : Nat)
  | fatal (va : Nat)
  | trap (t : Trap)
  | stop
  | busy
  | gone (f : PhysFault) (pa : Nat)

/-- One part of a command's plain read. -/
def State.plainPart (s : State) (a : Acor) (va n : Nat) : PlainRead :=
  match s.chk a va n .load 2 1 with
  | .ok pa =>
    if s.logHas a va || s.readWaits a.who pa n then .busy
    else
      match s.readNow a pa va n with
      | .inr (bs, s1) => .bytes bs s1
      | .inl .clear => .busy
      | .inl f => .gone f pa
  | .absent => .absent va
  | .fatal => .fatal va
  | .trap t => .trap t
  | .stop => .stop
  | .dev .clear _ => .busy
  | .dev f pa => .gone f pa

/-- A command's plain read of bytes that may lie in several pages. -/
def State.plainRead (s : State) (a : Acor) (align va n : Nat) : PlainRead :=
  if va % align ≠ 0 then .trap (.sync 0x04 0 (va % 2 ^ 56))
  else
    (s.segs a.b.die a.b.nodeRef a.handler va n .load).foldl (fun (acc : PlainRead) g =>
      match acc with
      | .bytes bs s => (match s.plainPart a g.va g.len with | .bytes b s1 => .bytes (bs ++ b) s1 | x => x)
      | x => x) (.bytes [] s)

/-- The fields of a collective's record (R443), before its group. -/
structure CollRec where
  group : Nat
  src : Nat
  dst : Nat
  n : Nat
  coll : Nat
  op : Nat
  ty : Nat
  norm : Bool
  tag : BitVec 16
  ctag : Dword
  nslot : Nat
  deriving DecidableEq, Repr

def collRec (w : Nat → Nat) : CollRec :=
  ⟨bits (w 0) 0 56, bits (w 1) 0 56, bits (w 2) 0 56, bits (w 3) 0 41, bits (w 4) 0 4, bits (w 4) 4 4, bits (w 4) 8 4, bit (w 4) 12,
    BitVec.ofNat 16 (w 4 / 2 ^ 48), BitVec.ofNat 64 (w 5), bits (w 6) 0 56⟩

/-- Whether a record's fields lie within the table, its reserved bits zero (R443, R444). (DEDUCED, log entry 29) -/
def collFields (w : Nat → Nat) : Bool :=
  let c := collRec w
  bits (w 0) 56 8 = 0 && bits (w 1) 56 8 = 0 && bits (w 2) 56 8 = 0 && bits (w 3) 41 23 = 0 && bits (w 4) 13 35 = 0 && bits (w 6) 56 8 = 0 &&
  w 7 = 0 && 1 ≤ c.n && c.n ≤ 2 ^ 40 && c.coll ≤ 2 && c.op ≤ 2 && (c.coll != 1 || c.op = 0) && c.ty ≤ 4 &&
  (if c.norm then c.coll = 0 && c.op = 0 && c.ty ≤ 3 else c.nslot = 0)

/-- The ranges of R53 and R59 for rank p of N. -/
def collAreas (c : CollRec) (p count : Nat) : List Area × List Area :=
  let k := collBytes c.ty
  let part := k * shardLen c.n count p
  let all := k * c.n
  let area (va n : Nat) : List Area := if n = 0 then [] else [rangeAt (.glob va) n]
  (area c.src (if c.coll = 1 then part else all),
   area c.dst (if c.coll = 0 then part else all) ++ (if c.norm then area c.nslot 8 else []))

/-- The work of a collective. -/
def collWork (c : CollRec) (group : List Nat) (p : Nat) : Work :=
  .coll { group := group, rank := p, src := c.src, dst := c.dst, n := c.n, coll := c.coll, op := c.op, ty := c.ty, norm := c.norm, ctag := c.ctag,
          nslot := c.nslot, phase := if c.coll = 1 then 1 else 0, leave := false, begun := false, data := [], inq := [], reduced := [],
          landed := [], norms := [], waitFrom := 0, sent := none }

/-- A member list and the rank of the device in it, if the descriptor is right (R443, R444). -/
def groupOf (dev : Nat) (words : List Nat) : Option (List Nat × Nat) :=
  if words.any (fun x => 2 ^ 21 ≤ x) || (words.filter fun x => x = dev).length ≠ 1 then none
  else some (words, words.idxOf dev)

/-- COLL from its record and its group's entries. (DEDUCED, log entry 29) -/
def State.mkColl (s : State) (a : Acor) (w : Nat → Nat) (entries : List Nat) : Trap ⊕ Op :=
  let c := collRec w
  let k := collBytes c.ty
  match groupOf s.pkg.devnum.toNat entries with
  | none => .inl limTrap
  | some (g, p) =>
    if c.src % k ≠ 0 then .inl (.sync 0x04 0 c.src)
    else if c.dst % k ≠ 0 then .inl (.sync 0x04 0 c.dst)
    else if c.nslot % 8 ≠ 0 then .inl (.sync 0x04 0 c.nslot)
    else
      let (src, dst) := collAreas c p g.length
      match s.areasTrap a src dst with
      | some t => .inl t
      | none => .inr (s.newOp a c.tag (collWork c g p) src dst)

/-- The group of a command: its entries and the state after they were read, or why not. -/
def State.readGroup (s : State) (a : Acor) (w : Nat → Nat) : PlainRead ⊕ (List Nat × State) :=
  if !collFields w then .inl (.trap limTrap)
  else
    match s.plainRead a 8 (collRec w).group 8 with
    | .bytes h s1 =>
      let n := natOf h
      if n = 0 || 65536 < n then .inl (.trap limTrap)
      else
        match s1.plainRead a 4 ((collRec w).group + 8) (4 * n) with
        | .bytes bs s2 => .inr (codesOf 4 bs, s2)
        | x => .inl x
    | x => .inl x

def execColl (f : X3) (s : State) : Host.Outcome State Fault Refusal :=
  lane (.coll f) (fun e s =>
    if e.th.heldOp.isSome then e.command State.registerOp s (.inl limTrap)
    else
      match e.record s (e.pair 0).toNat 64 with
      | .words ws s0 =>
        let w (i : Nat) : Nat := ws.getD i 0
        match ({ s0 with holds := s.holds } : State).readGroup e.acor w with
        | .inr (entries, s1) => e.command State.registerOp (s1.unhold (.lane e.r)) (s1.mkColl e.acor w entries)
        | .inl (.absent va) => e.hold 1 va .load
        | .inl (.fatal va) => fatalAt va
        | .inl (.trap t) => .trap t
        | .inl .stop => .stop 3
        | .inl (.gone x pa) => e.meets s x pa
        | .inl .busy | .inl (.bytes _ _) => .wait id .retry
      | .res r => r) s

def execLeadColl (f : Y3) (s : State) : Host.Outcome State Fault Refusal :=
  lead (.leadColl f) (fun e s =>
    match e.l.status, e.record f.a 8 with
    | .op _, _ => e.command State.registerOp s none (.inl limTrap)
    | _, none => .trap limTrap
    | _, some ws =>
      let w (i : Nat) : Nat := ws.getD i 0
      match s.readGroup e.acor w with
      | .inr (entries, s1) => e.command State.registerOp (s1.unhold (.lead e.r)) none (s1.mkColl e.acor w entries)
      | .inl (.absent va) => e.hold 1 va .load
      | .inl (.fatal va) => .trap (.sync 0x07 0 va)
      | .inl (.trap t) => .trap t
      | .inl .stop => .stop 3
      | .inl (.gone x pa) => e.meets s x pa
      | .inl .busy | .inl (.bytes _ _) => .wait id .wait) s

/-! What the transport and the ports bring (R32 to R34, R45, R48, R56). -/

/-- An operation's packets have all been acknowledged. -/
def State.acked (s : State) (o : Op) : State :=
  match o.work with
  | .tsend t => if t.sent = 0 || t.device = s.pkg.devnum.toNat || o.phase != .registered then s else s.sendOver o 0 false
  | .coll _ => s.modColl o.id fun c => { c with sent := none }
  | _ => s

def execUetAck (s : State) : Host.Outcome State Fault Refusal :=
  event (fun s => match s.arg with | .num id => (match s.op? id with | some o => s.acked o | none => s) | _ => s) s

/-- An operation towards a peer ends with a status of the transport. -/
def State.netOver (s : State) (o : Op) (status : Nat) : State :=
  match o.work with
  | .tsend t => if t.sent = 0 || t.device = s.pkg.devnum.toNat || o.phase != .registered then s else s.sendOver o status false
  | .coll c => if c.sent.isNone || s.issuerHeld o then s else s.collOver o c status
  | _ => s

def execUetNak (s : State) : Host.Outcome State Fault Refusal :=
  event (fun s => match s.arg with | .num id => (match s.op? id with | some o => s.netOver o 0x25 | none => s) | _ => s) s

/-- The cycle from which an operation has a packet unacknowledged. -/
def Op.unacked (o : Op) : Option Nat :=
  match o.work with
  | .tsend t => if t.sent = 0 then none else some (t.sent - 1)
  | .coll c => c.sent
  | _ => none

def execPeerLostTimeout (s : State) : Host.Outcome State Fault Refusal :=
  event (fun s => match s.arg with
    | .num id =>
      match s.op? id with
      | some o => match o.unacked with | some c => if c + 400000000 ≤ s.cycle o.die then s.netOver o 0x20 else s | none => s
      | none => s
    | _ => s) s

/-- The transport sends a packet again when it chooses; a fired send whose source page was missing is sent now. (DEDUCED, log entry 28) -/
def execUetRetransmit (s : State) : Host.Outcome State Fault Refusal :=
  event (fun s => match s.arg with
    | .num id =>
      match s.op? id with
      | some o =>
        match o.work, o.unacked with
        | .tsend t, none => if t.fired && o.phase = .registered then s.trySend o t false else s
        | _, some _ => { s with out := s.out ++ [.again id] }
        | _, none => s
      | none => s
    | _ => s) s

/-- Changes a port. -/
def State.modPort (s : State) (p : Nat) (f : Port → Port) : State :=
  { s with pkg := { s.pkg with ports := s.pkg.ports.mapIdx fun i x => if i = p then f x else x } }

def execPortLinkUp (s : State) : Host.Outcome State Fault Refusal :=
  event (fun s => match s.arg with
    | .portUp p an llr => s.modPort p fun x => { x with up := true, an := an, llr := llr }
    | _ => s) s

/-- The peer that an operation has packets towards. -/
def Op.towards (o : Op) : Option Nat :=
  match o.work with
  | .tsend t => some t.device
  | .coll c => c.group[c.next]?
  | _ => none

/-- Operations that no port of their peer's mask carries any more end with NO_ROUTE (R33). -/
def State.routesLost (s : State) : State :=
  s.ops.foldl (fun a o => match o.towards with
    | some d => if d = s.pkg.devnum.toNat || a.hasRoute o.die d then a else a.netOver o 0x24
    | none => a) s

def execPortLinkDown (s : State) : Host.Outcome State Fault Refusal :=
  event (fun s => match s.arg with
    | .num p => (s.modPort p fun x => { x with up := false, an := false, llr := false }).routesLost
    | _ => s) s

def execMalformedFrame (s : State) : Host.Outcome State Fault Refusal :=
  event (fun s => match s.arg with | .num p => if s.portUp p then s.dropAt p else s | _ => s) s

def execUetUnsupportedRequest (s : State) : Host.Outcome State Fault Refusal :=
  event (fun s => match s.arg with
    | .request p src => if s.portUp p then { s.dropAt p with out := s.out ++ [.nak src 2] } else s
    | _ => s) s

def execFecCodeword (s : State) : Host.Outcome State Fault Refusal :=
  event (fun s => match s.arg with
    | .codeword p ok => s.modPort p fun x =>
        if ok then { x with fecCor := if x.fecCor = 0xFFFFFF then x.fecCor else x.fecCor + 1 }
        else { x with fecUnc := if x.fecUnc = 0xFFFF then x.fecUnc else x.fecUnc + 1 }
    | _ => s) s

/-- The memory key of a packet. -/
def HeldPkt.key : HeldPkt → Word
  | .write p => p.key
  | .read p => p.key
  | .atomic p => p.key

/-- The bridge forwards a host packet to the member that its key names, in traffic class 1, or refuses it for an invalid key; its own it lands
(R33, R41 to R43). A packet that no port carries goes nowhere, and the host's transport finds it lost. (DEDUCED, log entry 28) -/
def execBridgeForward (s : State) : Host.Outcome State Fault Refusal :=
  event (fun s => match s.arg with
    | .bridge p =>
      let (port, src) := p.from_
      let e := (s.pkg.bridge.toList.getD (p.key.toNat % 64) 0).toNat
      let d := bits e 0 21
      if 16 ≤ port || !s.portUp port then s
      else if !bit e 21 then { s with out := s.out ++ [.nak src 1] }
      else if d = s.pkg.devnum.toNat then s.arrive p
      else s.sendOut (portDie port) d 1 [fun v => .bridge v d p]
    | _ => s) s

end Sys2Proof.Machine
end

