-- ==== Sys2Proof/Machine/Packet.lean ====
section
/-! DEFINITION. Packets and chains (spec 17 R315, R316, R325 to R328; 06 R128; 11 R237): the units of a packet, the chain that begins
at a word, and the traps that decode raises for a chain before any unit of it runs. -/

namespace Sys2Proof.Machine

/-- A unit of a packet, a GUARD counted as one of its own: the slot of its first word, its words, the instruction, whether it is a
GUARD, whether it is chained to what follows, whether a word of it in slot 2 has bit 31 set or has no room (R327), and whether it is a
guard word (R316). -/
structure UnitWord where
  slot : Nat
  len : Nat
  instr : Instr
  isGuard : Bool
  chain : Bool
  packet : Bool
  guardWord : Bool
  deriving DecidableEq, Repr

/-- The unit whose first word is w in a slot; x is the word after it. -/
def unitAt (slot : Nat) (w x : Word) : UnitWord :=
  let p := primaryOf w
  if isLongPrimary p then
    if slot = 2 then ⟨2, 1, decodeUnit w 0, false, chainBit w, true, false⟩
    else ⟨slot, 2, decodeUnit w x, false, chainBit x, slot = 1 && chainBit x, false⟩
  else if p = 0x2E then ⟨slot, 1, decodeUnit w 0, true, slot != 2, slot = 2, false⟩
  else ⟨slot, 1, decodeUnit w 0, false, chainBit w, slot = 2 && chainBit w, p = 0x1F⟩

/-- The units of a packet in word order (R315). -/
def packetUnits (w0 w1 w2 : Word) : List UnitWord :=
  let u0 := unitAt 0 w0 w1
  if u0.len = 2 then [u0, unitAt 2 w2 0]
  else
    let u1 := unitAt 1 w1 w2
    if u1.len = 2 then [u0, u1] else [u0, u1, unitAt 2 w2 0]

/-- The units up to the end of a chain. -/
def takeChain : List UnitWord → List UnitWord
  | [] => []
  | u :: r => if u.chain then u :: takeChain r else [u]

/-- The chain that begins at a slot; first says that the unit in hand begins a chain. None where no chain begins there (R327). -/
def chainAt (slot : Nat) : Bool → List UnitWord → Option (List UnitWord)
  | _, [] => none
  | first, u :: r =>
    if u.slot = slot then (if first then some (takeChain (u :: r)) else none)
    else chainAt slot (!u.chain) r

/-- The registers of two destinations overlap. -/
def destsMeet (a b : Shape) : Bool := a.dw != 0 && b.dw != 0 && a.d < b.d + b.dw && b.d < a.d + a.dw

/-- Whether a pipe is one of the vector pipes. -/
def Pipe.vector : Pipe → Bool
  | .v | .va => true
  | _ => false

/-- Whether a unit meets a PACKET case of R327 given the units before it and whether it is the last of its chain. -/
def packetCase (before : List UnitWord) (u : UnitWord) (last : Bool) : Bool :=
  let x := shape u.instr
  let ps := before.map fun y => shape y.instr
  u.packet ||
  (x.pipe = .bc && !last) ||
  (x.pipe.vector && (2 ≤ (ps.filter fun y => y.pipe.vector).length || (x.pipe = .va && ps.any fun y => y.pipe = .va))) ||
  (!x.pipe.vector && x.pipe != .none && ps.any fun y => y.pipe = x.pipe) ||
  (ps.any fun y => destsMeet x y || x.queues.any fun q => y.queues.contains q)

/-- The first unit of a chain that meets a PACKET case. -/
def packetGo (before : List UnitWord) : List UnitWord → Option UnitWord
  | [] => none
  | u :: r => if packetCase before u r.isEmpty then some u else packetGo (before ++ [u]) r

/-- Whether a unit belongs to the lead slice (R316). -/
def leadWord (i : Instr) : Bool :=
  match encode i with
  | w :: _ => 0x3C ≤ primaryOf w
  | [] => false

/-- The ILLEGAL subcode of one unit of a lane chain (R328); next is the unit after it. -/
def laneIllegal (count : Nat) (trap : Bool) (u : UnitWord) (next : Option UnitWord) : Option Nat :=
  if leadWord u.instr then some 0
  else
    match u.instr with
    | .unassignedEncoding w _ => some (unassignedSub w)
    | _ =>
      let fits : Bool :=
        match next with
        | some n =>
          let p := (shape n.instr).pipe
          !u.isGuard || p = .v || p = .va || p = .sf || p = .ls || p = .ec
        | none => true
      if fits then (shape u.instr).illegal count trap else some 0

/-- The first unit of a lane chain with an ILLEGAL cause, and its subcode. -/
def illegalGo (count : Nat) (trap : Bool) : List UnitWord → Option (UnitWord × Nat)
  | [] => none
  | u :: r =>
    match laneIllegal count trap u r.head? with
    | some sub => some (u, sub)
    | none => illegalGo count trap r

/-- The decode trap of a lane chain: RUNOFF for a guard word, then PACKET, then ILLEGAL (R328), with the unit it names. (DEDUCED, log entry 31) -/
def laneChainTrap (count : Nat) (trap : Bool) (c : List UnitWord) : Option (UnitWord × Trap) :=
  match c.find? fun u => u.guardWord with
  | some u => some (u, .sync 0x03 0 0)
  | none =>
    match packetGo [] c with
    | some u => some (u, .sync 0x02 0 0)
    | none => (illegalGo count trap c).map fun e => (e.1, .sync 0x01 e.2 0)

/-- The ILLEGAL subcode of one unit of a lead chain: a word of the other slice, then the fields. -/
def leadIllegal (u : UnitWord) : Option Nat :=
  let x := leadShape u.instr
  match u.instr with
  | .nop f => if f.x = 0 then none else some 2
  | .unassignedEncoding _ _ => some 0
  | i => if !leadWord i then some 0 else if !x.ok then some 2 else if !x.lim then some 5 else none

/-- The first unit of a lead chain with an ILLEGAL cause. -/
def leadIllegalGo : List UnitWord → Option (UnitWord × Nat)
  | [] => none
  | u :: r => match leadIllegal u with | some sub => some (u, sub) | none => leadIllegalGo r

/-- The decode trap of what a lead context issues (R327, R328). -/
def leadChainTrap (c : List UnitWord) : Option (UnitWord × Trap) :=
  match c.find? fun u => u.guardWord with
  | some u => some (u, .sync 0x03 0 0)
  | none =>
    match c.find? fun u => u.packet || (leadWord u.instr && (leadShape u.instr).packet) with
    | some u => some (u, .sync 0x02 0 0)
    | none => (leadIllegalGo c).map fun e => (e.1, .sync 0x01 e.2 0)

/-! Fetching a packet (R84, R128). -/

/-- What fetching a packet finds: its words, a trap with the byte address that failed, or what an address on the way meets. -/
inductive PacketFetch where
  | words (w0 w1 w2 : Word) (s : State)
  | trap (cause va : Nat)
  | dev (f : PhysFault) (pa : Nat)

/-- One word of a packet, and what follows it. -/
def State.packetWord (s : State) (d : Die) (c : Ctx) (wa : Nat) (go : Word → State → PacketFetch) : PacketFetch :=
  match s.fetchWord d ((s.ctx? c.num).getD c) wa with
  | .trap x => .trap x (4 * wa)
  | .dev f pa => .dev f pa
  | .word w s1 => go w s1

/-- The packet of a word address, for a unit of die d. (DEDUCED, log entry 25) -/
def State.fetchPacket (s : State) (d : Die) (c : Ctx) (wa : Nat) : PacketFetch :=
  let p := wa / 3 * 3
  s.packetWord d c p fun w0 s0 =>
    s0.packetWord d c (p + 1) fun w1 s1 => s1.packetWord d c (p + 2) fun w2 s2 => .words w0 w1 w2 s2

end Sys2Proof.Machine
end

