-- ==== Sys2Proof/Machine/Graph.lean ====
section
/-! DEFINITION. Task graphs and code objects (spec 03 R62 to R65, 04 R83 to R90, 18 R338): reading an object under its context's translation,
the checks of registration and of the loader, and what a registered graph and a loaded object are. -/

namespace Sys2Proof.Machine

/-! The graph controller's reads (R65, R69). -/

/-- How a page of a context stands for a read that a command or a kick makes. -/
inductive GPage where
  | pa (pa : Nat)
  | absent
  | bad
  | dev (f : PhysFault) (pa : Nat)
  deriving DecidableEq, Repr

/-- The die whose unit reads for a holder: a waiting node's, else the home die of the context. -/
def State.readerDie (s : State) (who : Holder) (c : Ctx) : Die :=
  match who with
  | .node n => (s.node? n).elim c.home fun y => y.die
  | _ => c.home

def State.gcPage (s : State) (who : Holder) (c : Ctx) (va : Nat) : GPage :=
  match s.walk (s.readerDie who c) c va with
  | .dev f pa => .dev f pa
  | .leaf pa size true _ _ _ => .pa (pa + va % size / 65536 * 65536)
  | .leaf _ _ false _ _ _ => .bad
  | .bad _ => .bad
  | .pend _ =>
    match s.verdict who c.num va with
    | some (.ok page) => .pa page
    | some _ => .bad
    | none => .absent

/-- The first addresses of n bytes in each of their pages. -/
def pageStarts (va n : Nat) : List Nat :=
  let first := va / 65536
  (List.range ((va + n + 65535) / 65536 - first)).map fun i => max va ((first + i) * 65536)

/-- The first address of n bytes whose page satisfies a test. -/
def State.gcFind (s : State) (who : Holder) (c : Ctx) (va n : Nat) (p : GPage → Bool) : Option Nat :=
  (pageStarts va n).find? fun a => p (s.gcPage who c a)

/-- What a read meets beside bytes (R12, R13, R22), on a walk or at its own address, with the physical and the virtual address. -/
structure GcDev where
  f : PhysFault
  pa : Nat
  va : Nat
  deriving DecidableEq, Repr

/-- What the first of n bytes that cannot be read for such a cause meets. -/
def State.gcDev (s : State) (who : Holder) (c : Ctx) (va n : Nat) : Option GcDev :=
  (pageStarts va n).findSome? fun a =>
    match s.gcPage who c a with
    | .dev f pa => some ⟨f, pa, a⟩
    | .pa pa =>
      match s.meets (s.readerDie who c) none (pa + a % 65536) (min (65536 - a % 65536) (va + n - a)) true with
      | .none => none
      | f => some ⟨f, pa + a % 65536, a⟩
    | _ => none

/-- The lines of n bytes are used at their homes (R140, R156). -/
def State.gcUse (s : State) (who : Holder) (c : Ctx) (va n : Nat) : State :=
  (pageStarts va n).foldl (fun a x =>
    match a.walk (a.readerDie who c) c x with
    | .leaf pa size _ _ _ cls => (a.noteWalk c x).useHomes (pa + x % size) (min (65536 - x % 65536) (va + n - x)) cls false
    | _ => a) s

def State.gcAbsent (s : State) (who : Holder) (c : Ctx) (va n : Nat) : Option Nat := s.gcFind who c va n fun p => p = .absent
def State.gcBad (s : State) (who : Holder) (c : Ctx) (va n : Nat) : Option Nat := s.gcFind who c va n fun p => p = .bad

/-- n bytes, page by page; none where a page cannot be read. -/
def gcBytesGo (s : State) (who : Holder) (c : Ctx) : Nat → Nat → Nat → List Byte → Option (List Byte)
  | 0, _, _, acc => some acc
  | fuel + 1, va, n, acc =>
    if n = 0 then some acc
    else
      let m := min n (65536 - va % 65536)
      match s.gcPage who c va with
      | .pa pa => gcBytesGo s who c fuel (va + m) (n - m) (acc ++ s.homeRead (pa + va % 65536) m)
      | _ => none

def State.gcBytes (s : State) (who : Holder) (c : Ctx) (va n : Nat) : Option (List Byte) := gcBytesGo s who c (n / 65536 + 2) va n []

/-- n bytes as a number. -/
def State.gcNat (s : State) (who : Holder) (c : Ctx) (va n : Nat) : Option Nat := (s.gcBytes who c va n).map natOf

/-- The graph controller holds a read on an absent page; n gives what the fault record says of a node and a replay. -/
def State.gcHold (s : State) (who : Holder) (c : Ctx) (n : NodeRef) (va : Nat) : State :=
  let u : FUnit := .graph c.home
  let s1 : State :=
    if s.faults.any fun f => f.unit = u && f.ctx = c.num && f.va / 65536 = va / 65536 then s
    else
      let s0 := s.faultRecord u n 3 va
      { s0 with faults := s0.faults ++ [⟨u, c.num, ⟨c.num, 0, 0⟩, 3, va, false, s.cycle c.home, 0⟩] }
  if s1.holds.any fun h => h.who = who && h.va / 65536 = va / 65536 then s1
  else { s1 with holds := s1.holds ++ [⟨who, u, c.num, va, true, false, none⟩] }

/-! Failures: the number of a check in R65's list, and the offset reported. -/

abbrev Fails := List (Nat × Nat)

def need (k off : Nat) (ok : Bool) : Fails := if ok then [] else [(k, off)]

/-- The failure that R65 reports: the earliest check, then the lowest offset. -/
def firstFail : Fails → Option (Nat × Nat)
  | [] => none
  | x :: r =>
    match firstFail r with
    | some y => if y.1 < x.1 || (y.1 = x.1 && y.2 < x.2) then some y else some x
    | none => some x

/-! The graph object (R62 to R64). -/

/-- The header's fields. -/
structure GHead where
  nodes : Nat
  params : Nat
  nodeOff : Nat
  edgeOff : Nat
  extOff : Nat
  paramOff : Nat
  len : Nat
  deriving DecidableEq, Repr

def gHead (h : Nat) : GHead :=
  ⟨bits h 64 32, bits h 96 32, bits h 128 64, bits h 192 64, bits h 256 64, bits h 320 64, bits h 384 64⟩

/-- What a header breaks by itself. (DEDUCED, log entry 19) -/
def headFails (h : Nat) : Fails :=
  let g := gHead h
  need 1 0 (bits h 0 32 = 0x47524150) ++ need 1 4 (bits h 32 16 = 1) ++ need 2 6 (bits h 48 16 = 0) ++
  need 1 8 (1 ≤ g.nodes && g.nodes ≤ 65536) ++ need 1 12 (8 ≤ g.params && g.params ≤ 65536 && g.params % 8 = 0) ++
  need 1 16 (g.nodeOff % 64 = 0) ++ need 1 32 (g.extOff % 32 = 0) ++ need 1 40 (g.paramOff % 8 = 0) ++ need 1 48 (g.len ≤ 2 ^ 32) ++
  need 2 56 (bits h 448 64 = 0) ++
  need 3 16 (g.nodeOff + 64 * g.nodes ≤ g.len) ++ need 3 24 (g.edgeOff ≤ g.len) ++ need 3 32 (g.extOff ≤ g.len) ++
  need 3 40 (g.paramOff + g.params ≤ g.len)

/-- An object's words by offset and size, none where a byte cannot be read or lies outside LENGTH. -/
def State.gRead (s : State) (who : Holder) (c : Ctx) (va len : Nat) (off n : Nat) : Option Nat :=
  if off + n ≤ len then s.gcNat who c (va + off) n else none

/-- A node record's word of its body. -/
def bodyOf (r k : Nat) : Nat := bits r (192 + 64 * k) 64

/-- Descriptors that belong to a node: the declared ones and the walked one. -/
def extCount (r : Nat) : Nat := bits r 8 7 + b2n (bit r 15)

/-- What an extent descriptor at an offset breaks; walked says that it is a node's walked extent. (DEDUCED, log entry 19) -/
def extFails (slots at_ x : Nat) (walked : Bool) : Fails :=
  let tile := bit x 13
  need 1 at_ (bits x 0 13 < slots) ++ need 1 (at_ + 1) (bits x 14 2 != 0 && !(walked && tile)) ++ need 2 (at_ + 2) (bits x 16 48 = 0) ++
  (if tile then need 1 (at_ + 24) (bits x 160 32 ≤ bits x 192 64)
   else need 1 (at_ + 16) (1 ≤ bits x 128 64 && bits x 128 64 ≤ 2 ^ 48) ++ need 1 (at_ + 24) (bits x 192 64 = 0))

/-- What a node's body breaks, by kind (R63, R443). (DEDUCED, log entry 19) -/
def bodyFails (slots at_ r : Nat) : Fails :=
  let b := bodyOf r
  let o := at_ + 24
  match bits r 0 4 with
  | 0 =>
    need 1 o (b 0 < slots) ++ need 1 (o + 10) (bits (b 1) 16 16 ≤ 256) ++ need 2 (o + 12) (bits (b 1) 32 32 = 0) ++
    need 1 (o + 16) (1 ≤ b 2 && b 2 ≤ 2 ^ 32) ++ need 1 (o + 24) (b 3 = 0)
  | 1 =>
    need 1 o (bits (b 0) 0 8 < extCount r) ++ need 1 (o + 1) (bits (b 0) 8 8 < extCount r) ++ need 2 (o + 2) (bits (b 0) 16 48 = 0) ++
    need 1 (o + 8) (1 ≤ b 1 && b 1 ≤ 2 ^ 40) ++ need 1 (o + 16) (b 2 = 0) ++ need 1 (o + 24) (b 3 = 0)
  | 2 =>
    let coll := bits (b 1) 0 4
    let op := bits (b 1) 4 4
    let ty := bits (b 1) 8 4
    let norm := bit (b 1) 12
    need 1 (at_ + 1) ((if norm then 3 else 2) ≤ extCount r) ++ need 1 o (b 0 < slots) ++
    need 1 (o + 8) (coll ≤ 2 && op ≤ 2 && (coll != 1 || op = 0)) ++
    need 1 (o + 9) (ty ≤ 4 && (!norm || (coll = 0 && op = 0 && ty ≤ 3))) ++ need 2 (o + 9) (bits (b 1) 13 51 = 0) ++
    need 1 (o + 16) (1 ≤ b 2 && b 2 ≤ 2 ^ 40)
  | 3 =>
    need 2 (o + 4) (bits (b 0) 32 32 = 0) ++ need 1 (o + 8) (b 1 = 0) ++ need 1 (o + 16) (b 2 = 0) ++ need 1 (o + 24) (b 3 = 0)
  | 4 => need 1 o (b 0 = 0) ++ need 1 (o + 8) (b 1 = 0) ++ need 1 (o + 16) (b 2 = 0) ++ need 1 (o + 24) (b 3 = 0)
  | _ => []

/-- Whether a node's edges and descriptors lie within LENGTH. -/
def edgesFit (g : GHead) (r : Nat) : Bool := g.edgeOff + 4 * (bits r 64 32 + bits r 96 32) ≤ g.len
def extsFit (g : GHead) (r : Nat) : Bool := g.extOff + 32 * (bits r 128 32 + extCount r) ≤ g.len

/-- Successors of a node with their offsets; none for one that cannot be read. -/
def succsOf (rd : Nat → Nat → Option Nat) (g : GHead) (r : Nat) : List (Nat × Option Nat) :=
  if edgesFit g r then
    (List.range (bits r 96 32)).map fun k =>
      let o := g.edgeOff + 4 * (bits r 64 32 + k)
      (o, rd o 4)
  else []

/-- Descriptors of a node likewise. -/
def extsOf (rd : Nat → Nat → Option Nat) (g : GHead) (r : Nat) : List (Nat × Option Nat) :=
  if extsFit g r then
    (List.range (extCount r)).map fun k =>
      let o := g.extOff + 32 * (bits r 128 32 + k)
      (o, rd o 32)
  else []

/-- What one node breaks of the first three checks. (DEDUCED, log entry 19) -/
def nodeFails (rd : Nat → Nat → Option Nat) (g : GHead) (at_ r : Nat) : Fails :=
  need 1 at_ (bits r 0 4 ≤ 4) ++ need 1 (at_ + 1) (bits r 8 7 ≤ 64) ++ need 2 (at_ + 2) (bits r 17 15 = 0) ++
  need 2 (at_ + 20) (bits r 160 32 = 0) ++ need 3 (at_ + 8) (edgesFit g r) ++ need 3 (at_ + 16) (extsFit g r) ++
  bodyFails (g.params / 8) at_ r ++
  ((succsOf rd g r).flatMap fun e => match e.2 with | some v => need 1 e.1 (v < g.nodes) | none => []) ++
  (extsOf rd g r).zipIdx.flatMap fun e => match e.1.2 with | some x => extFails (g.params / 8) e.1.1 x (bits r 8 7 ≤ e.2) | none => []

/-- The records of all nodes, none where one cannot be read. -/
def nodeRecs (rd : Nat → Nat → Option Nat) (g : GHead) : List (Option Nat) :=
  (List.range g.nodes).map fun i => rd (g.nodeOff + 64 * i) 64

/-- Successor lists, once every one can be read. -/
def allSuccs (rd : Nat → Nat → Option Nat) (g : GHead) (rs : List (Option Nat)) : Option (List (List Nat)) :=
  rs.mapM fun r => r.bind fun r => (succsOf rd g r).mapM fun e => e.2

/-- The fourth check: NPRED against the edges that name a node. -/
def predFails (g : GHead) (rs : List (Option Nat)) (succs : List (List Nat)) : Fails :=
  rs.zipIdx.flatMap fun e =>
    match e.1 with
    | some r => need 4 (g.nodeOff + 64 * e.2 + 4) (bits r 32 32 = (succs.map fun l => l.count e.2).foldl (· + ·) 0)
    | none => []

/-- Removes nodes whose predecessors have all been removed, round by round (R65). -/
def peel (succs : List (List Nat)) : Nat → List Nat → List Nat
  | 0, left => left
  | n + 1, left => peel succs n (left.filter fun i => left.any fun j => (succs.getD j []).contains i)

/-- The fifth check: a cycle. (DEDUCED, log entry 19) -/
def cycleFails (g : GHead) (succs : List (List Nat)) : Fails :=
  match peel succs succs.length (List.range succs.length) with
  | [] => []
  | i :: _ => [(5, g.nodeOff + 64 * i)]

/-- Bytes that a descriptor covers (R65, R129). -/
def extBytes (x : Nat) : Nat := if bit x 13 then bits x 128 32 * bits x 160 32 else bits x 128 64

/-- The seventh check: a copy longer than an extent of it. (DEDUCED, log entry 19) -/
def copyFails (rd : Nat → Nat → Option Nat) (g : GHead) (at_ r : Nat) : Fails :=
  if bits r 0 4 = 1 then
    let es := extsOf rd g r
    let cover (k : Nat) : Option Nat := (es[k]?.bind fun e => e.2).map extBytes
    need 7 (at_ + 32) ([cover (bits (bodyOf r 0) 0 8), cover (bits (bodyOf r 0) 8 8)].all fun x =>
      match x with | some n => bodyOf r 1 ≤ n | none => true)
  else []

/-! Code objects (R83 to R89). -/

/-- The launch header's fields (R85). -/
def launchOf (l : Nat) : Launch :=
  { levels := bits l 0 3
    widths := [bits l 6 7, bits l 13 7, bits l 20 7, bits l 27 7, bits l 34 7, bits l 41 7]
    regs := bits l 48 3
    eject := bits l 51 5
    cls := bits l 56 2
    cohold := bit l 58
    rejoinTmo := bits l 64 16
    reformAge := bits l 80 16
    loc := bits l 96 24
    boxes := bits l 128 6 }

/-- Threads of a register count that fit in a core (R86, R108). -/
def coreThreads (regs : Nat) (pmode : Bool) : Nat :=
  let count := (regs + 1) * 16
  if pmode then min 512 (32768 / count) else min 1024 (65536 / count)

/-- The least k with k × b not below a. -/
def ceilDiv (a b : Nat) : Nat := (a + b - 1) / b

/-- R85 and R86 hold of a launch header. -/
def launchOk (l : Nat) : Bool :=
  let x := launchOf l
  let w0 := x.widths.getD 0 0
  let p := coreThreads x.regs false
  1 ≤ x.levels && x.levels ≤ 6 && bits l 3 3 = 0 && w0 ≤ 15 && (x.widths.all fun w => w ≤ 64) &&
  ((x.widths.drop x.levels).all fun w => w = 0) && x.eject ≤ 16 && bits l 59 5 = 0 && 255 ≤ x.rejoinTmo && 16 ≤ x.reformAge &&
  x.loc % 256 = 0 && x.loc ≤ 8388608 && bits l 120 8 = 0 && x.boxes ≤ 32 && bits l 134 378 = 0 &&
  x.widths.foldl (· + ·) 0 ≤ 64 && 2 ^ w0 ≤ 32 * p && x.loc ≤ 262144 * ceilDiv (2 ^ w0) p

/-- The lifetime class of an opcode on this device (R337, R338): unassigned, permanent, deprecated or experimental. -/
inductive Life where
  | unassigned
  | permanent
  | deprecated (gen : Nat)
  | experimental (tag : Nat)
  deriving DecidableEq, Repr

def lifeOf (primary func : Nat) : Life :=
  if primary < 0x30 && func ≠ 0x1FF then .unassigned
  else
    match decodeUnit (BitVec.ofNat 32 (primary * 2 ^ 25 + (if primary < 0x30 then 0 else func * 2 ^ 16))) 0 with
    | .unassignedEncoding _ _ => .unassigned
    | .swz _ => .deprecated 5
    | .svsort _ => .experimental 0x04B0
    | _ => .permanent

/-- An opcode-use entry is accepted (R87, R88). (DEDUCED, log entry 19) -/
def useOk (e : Nat) : Bool :=
  let cls := bits e 15 2
  let bound := bits e 32 16
  bits e 17 15 = 0 && bits e 48 16 = 0 && cls ≤ 2 &&
  match lifeOf (bits e 0 6) (bits e 6 9) with
  | .unassigned => false
  | .permanent => true
  | .deprecated g => cls = 1 && bound % 256 = g && Config.generation < g
  | .experimental t => cls = 2 && bound = t && Config.stepping = t

/-- Words of a list by threes. -/
def packetsOf : List Word → List (Word × Word × Word)
  | a :: b :: c :: r => (a, b, c) :: packetsOf r
  | _ => []

/-- The opcodes of a packet's units (R89, R315). -/
def packetUses (p : Word × Word × Word) : List (Nat × Nat) :=
  let ws := [p.1, p.2.1, p.2.2]
  (packetUnits p.1 p.2.1 p.2.2).map fun u =>
    let w := ws.getD u.slot 0
    (primaryOf w, if isLongPrimary (primaryOf w) then funcOf w else 0x1FF)

/-- What the loader makes of an object. -/
inductive CodeRes where
  | ok (c : Code)
  | refused
  | unreadable
  | absent (va : Nat)
  | dev (x : GcDev)
  deriving DecidableEq, Repr

/-- The parts of an object that the loader reads beside its header: code, launch header, opcode-use table. -/
def codeParts (h : Nat) : List (Nat × Nat) :=
  [(bits h 64 32, 4 * bits h 96 32), (bits h 192 32, 64), (bits h 224 32, 8 * bits h 256 16)]

/-- R83 and R84 hold of a header at an address. -/
def codeHeadOk (va h : Nat) : Bool :=
  let off := bits h 64 32
  let words := bits h 96 32
  let lead := bits h 128 32
  let lane := bits h 160 32
  let len := bits h 352 32
  bits h 0 32 = 0x4B4F4243 && bits h 32 16 = 1 && bits h 56 8 ≤ Config.generation && off % 4 = 0 && words % 3 = 0 && 6 ≤ words &&
  lead % 3 = 0 && lane % 3 = 0 && lead + 3 < words && lane + 3 < words && bits h 192 32 % 64 = 0 && bits h 224 32 % 8 = 0 &&
  bits h 272 16 = 0 && bits h 384 128 = 0 && (va + off) % 12 = 0 && va + off + 4 * words ≤ 2 ^ 50 &&
  ((codeParts h).all fun p => p.1 + p.2 ≤ len) && bits h 288 32 + bits h 320 32 ≤ len

/-- What the loader checks of an object once all that it reads can be read. (DEDUCED, log entry 19) -/
def codeCheck (va h : Nat) (code launch uses : List Byte) : CodeRes :=
  let words := wordsOf code
  let us := (List.range (bits h 256 16)).map fun i => natOf ((uses.drop (8 * i)).take 8)
  let listed := us.map fun e => (bits e 0 6, bits e 6 9)
  let used := ((packetsOf (words.take (words.length - 3))).flatMap packetUses).filter fun o => lifeOf o.1 o.2 != .unassigned
  if launchOk (natOf launch) && us.all useOk && used.all listed.contains then
    .ok ⟨va, bits h 352 32, (va + bits h 64 32) / 4, bits h 96 32, bits h 128 32, bits h 160 32, launchOf (natOf launch)⟩
  else .refused

/-- Reads and checks an object. (DEDUCED, log entry 19) -/
def State.loadCode (s : State) (who : Holder) (c : Ctx) (va : Nat) : CodeRes :=
  if va % 64 ≠ 0 then .refused
  else
    match s.gcDev who c va 64, s.gcAbsent who c va 64 with
    | some x, _ => .dev x
    | none, some a => .absent a
    | none, none =>
      match s.gcNat who c va 64 with
      | none => .unreadable
      | some h =>
        if !codeHeadOk va h then .refused
        else
          let ps := codeParts h
          match (ps.findSome? fun p => s.gcDev who c (va + p.1) p.2), ps.findSome? fun p => s.gcAbsent who c (va + p.1) p.2 with
          | some x, _ => .dev x
          | none, some a => .absent a
          | none, none =>
            match ps.mapM fun p => s.gcBytes who c (va + p.1) p.2 with
            | some [code, launch, uses] => codeCheck va h code launch uses
            | _ => .unreadable

/-! Registration (R65). -/

/-- What the graph controller makes of an object: a page to wait for, what a read meets beside its bytes and the offset of that, a failing offset, or a
graph with the code to load. -/
inductive GraphRes where
  | hold (va : Nat)
  | dev (x : GcDev) (off : Nat)
  | bad (off : Nat)
  | ok (g : Graph) (codes : List Code)
  deriving DecidableEq, Repr

/-- A node as a registered graph keeps it. -/
def gNode (rd : Nat → Nat → Option Nat) (g : GHead) (r : Nat) : GNode :=
  { kind := bits r 0 4
    cls := bits r 4 2
    die := bits r 6 2
    next := bits r 8 7
    walk := bit r 15
    absentOk := bit r 16
    npred := bits r 32 32
    succs := (succsOf rd g r).map fun e => e.2.getD 0
    exts := (extsOf rd g r).map fun e => BitVec.ofNat 256 (e.2.getD 0)
    b0 := BitVec.ofNat 64 (bodyOf r 0)
    b1 := BitVec.ofNat 64 (bodyOf r 1)
    b2 := BitVec.ofNat 64 (bodyOf r 2)
    b3 := BitVec.ofNat 64 (bodyOf r 3) }

/-- Code objects that kernel nodes name and the context has not loaded: the node's BODY0, and what the loader makes of it. -/
def State.graphCodes (s : State) (who : Holder) (c : Ctx) (rd : Nat → Nat → Option Nat) (g : GHead) (rs : List (Option Nat)) :
    List (Nat × CodeRes) :=
  rs.zipIdx.filterMap fun e =>
    match e.1 with
    | some r =>
      if bits r 0 4 = 0 then
        match rd (g.paramOff + 8 * bodyOf r 0) 8 with
        | some va => if c.codes.any fun x => x.va = va then none else some (g.nodeOff + 64 * e.2 + 24, s.loadCode who c va)
        | none => none
      else none
    | none => none

/-- The checks of R65 from the sixth on, in order. -/
def State.graphLate (s : State) (who : Holder) (c : Ctx) (va handle : Nat) (rd : Nat → Nat → Option Nat) (g : GHead)
    (rs : List (Option Nat)) : GraphRes :=
  let codes := s.graphCodes who c rd g rs
  match codes.findSome? fun e => match e.2 with | .absent a => some (GraphRes.hold a) | .dev x => some (.dev x e.1) | _ => none with
  | some x => x
  | none =>
    let fails :=
      (codes.flatMap fun e => match e.2 with | .refused => [(6, e.1)] | .unreadable => [(8, e.1)] | _ => []) ++
      (rs.zipIdx.flatMap fun e => match e.1 with | some r => copyFails rd g (g.nodeOff + 64 * e.2) r | none => []) ++
      (match s.gcBad who c va g.len with | some a => [(8, a - va)] | none => [])
    match firstFail fails with
    | some f => .bad f.2
    | none =>
      .ok ⟨handle, va, g.len, g.paramOff, g.params, rs.map fun r => gNode rd g (r.getD 0)⟩
        ((codes.filterMap fun e => match e.2 with | .ok x => some x | _ => none).foldl (fun l x => if l.any fun y => y.va = x.va then l else l ++ [x]) [])

/-- The checks of a whole object. (DEDUCED, log entry 19) -/
def State.graphCheck (s : State) (who : Holder) (c : Ctx) (va handle : Nat) : GraphRes :=
  match s.gcDev who c va 64, s.gcAbsent who c va 64 with
  | some x, _ => .dev x (x.va - va)
  | none, some a => .hold a
  | none, none =>
    match s.gcNat who c va 64 with
    | none => .bad 0
    | some h =>
      let g := gHead h
      let hf := headFails h
      match firstFail (hf.filter fun f => f.1 = 1) with
      | some f => .bad f.2
      | none =>
        match s.gcDev who c va g.len, s.gcAbsent who c va g.len with
        | some x, _ => .dev x (x.va - va)
        | none, some a => .hold a
        | none, none =>
          let rd := s.gRead who c va g.len
          let rs := nodeRecs rd g
          let early := hf ++ rs.zipIdx.flatMap fun e => match e.1 with | some r => nodeFails rd g (g.nodeOff + 64 * e.2) r | none => []
          match firstFail early with
          | some f => .bad f.2
          | none =>
            let mid := match allSuccs rd g rs with
              | some succs => (predFails g rs succs) ++ cycleFails g succs
              | none => []
            match firstFail mid with
            | some f => .bad f.2
            | none => s.graphLate who c va handle rd g rs

/-- Writes the guard packet of a loaded object (R84, R90). (DEDUCED, log entry 19) -/
def State.guardPacket (s : State) (who : Holder) (c : Ctx) (x : Code) : State :=
  (List.range 3).foldl (fun a i =>
    let va := 4 * (x.word0 + x.words - 3 + i)
    match a.gcPage who c va with
    | .pa pa => a.ownWrite (pa + va % 65536) (bytesOf 4 0x3E000000)
    | _ => a) s

/-- Loads objects and registers a graph. (DEDUCED, log entry 19) -/
def State.keepGraph (s : State) (who : Holder) (c : Ctx) (g : Graph) (codes : List Code) : State :=
  (codes.foldl (fun a x => (a.gcUse who c x.va x.len).guardPacket who c x) (s.gcUse who c g.va g.len)).modCtx c.num fun x => { x with graphs := x.graphs ++ [g], codes := x.codes ++ codes }

/-! The parameter block (R62, R70, R113). -/

/-- A registered graph of a context. -/
def Ctx.graph? (c : Ctx) (h : Nat) : Option Graph := c.graphs.find? fun g => g.handle = h

/-- The physical page of an address that a registered object holds. -/
def State.pageOf (s : State) (c : Ctx) (va : Nat) : Option Nat :=
  match s.walk c.home c va with
  | .leaf pa size _ _ _ _ => some (pa + va % size / 65536 * 65536)
  | _ => none

/-- Slot k of a graph's parameter block; zero beyond it; open where the page is gone. -/
def State.slot (s : State) (c : Ctx) (g : Graph) (k : Nat) : Nat :=
  if g.paramBytes ≤ 8 * k then 0
  else
    let va := g.va + g.paramOff + 8 * k
    match s.pageOf c va with
    | some pa => natOf (s.homeRead (pa + va % 65536) 8)
    | none => (Config.freeDword s.tick (2 ^ 40 + k)).toNat

/-- What the read of some slots meets (R12, R13, R22), the first first. -/
def State.slotsMeet (s : State) (c : Ctx) (g : Graph) (ks : List Nat) : PhysFault × Nat :=
  (ks.findSome? fun k =>
    if g.paramBytes ≤ 8 * k then none
    else
      let va := g.va + g.paramOff + 8 * k
      match s.walk c.home c va with
      | .leaf pa size _ _ _ _ =>
        match s.meets c.home none (pa + va % size) 8 true with
        | .none => none
        | f => some (f, pa + va % size)
      | .dev f pa => some (f, pa)
      | _ => none).getD (.none, 0)

/-- Writes bytes of a slot. -/
def State.slotWrite (s : State) (c : Ctx) (g : Graph) (k o : Nat) (bs : List Byte) : State :=
  let va := g.va + g.paramOff + 8 * k + o
  match s.pageOf c va with
  | some pa => s.ownWrite (pa + va % 65536) bs
  | none => s

end Sys2Proof.Machine
end

