-- ==== Sys2Proof/Machine/Tile.lean ====
section
/-! DEFINITION. The tile engine (spec 15 R289 to R302, 12 R247, R250, R255, R257, 13 R273, R274, 23 R454 to R460): records, planes, tiles,
steps and chains, the commands of a slot in their order, and a copy's follow-on. -/

namespace Sys2Proof.Machine

/-! Shape records (R290, R291). -/

/-- The fields of a record. -/
structure ShapeRec where
  ta : Nat
  tb : Nat
  mode : Nat
  scale : Bool
  accum : Bool
  m : Nat
  k : Nat
  n : Nat
  chain : Nat
  row0 : Nat
  vabsA : Bool
  vabsB : Bool
  deriving DecidableEq, Repr

def shapeRec (v : Dword) : ShapeRec :=
  let x := v.toNat
  ⟨bits x 0 4, bits x 4 4, bits x 8 2, bit x 10, bit x 11, bits x 12 7, bits x 19 9, bits x 28 7, bits x 35 2, bits x 37 6, bit x 43, bit x 44⟩

/-- Kmax and Nmax of the plain mode by TYPEA (R289). -/
def plainMax (ty : Nat) : Nat × Nat :=
  match ty with
  | 0 | 1 => (64, 64)
  | 6 | 8 => (256, 64)
  | 9 => (32, 32)
  | _ => (128, 64)

/-- A microscaled format. -/
def microscaled (ty : Nat) : Bool := 2 ≤ ty && ty ≤ 7

/-- The pairs that R289 admits. -/
def pairOk (a b : Nat) : Bool := a = b || (a = 2 && b = 3) || (a = 3 && b = 2) || (a = 4 && b = 5) || (a = 5 && b = 4)

/-- TSHAPE's checks (R291). -/
def shapeOk (v : Dword) : Bool :=
  let r := shapeRec v
  let (kmax, nmax) := if r.mode = 2 then (32, 64) else plainMax r.ta
  bits v.toNat 45 19 = 0 && r.ta ≤ 9 && r.tb ≤ 9 && r.mode ≤ 2 && pairOk r.ta r.tb && 1 ≤ r.m && r.m ≤ 64 && 1 ≤ r.k && r.k ≤ kmax &&
  1 ≤ r.n && r.n ≤ nmax && r.row0 + r.m ≤ 64 &&
  (!r.scale || (r.k % 32 = 0 && (r.mode = 2 || (microscaled r.ta && microscaled r.tb)))) &&
  (r.mode != 1 || ((r.ta = 0 || r.ta = 1) && r.k = 16 && r.n = 16)) &&
  (r.mode != 2 || (r.ta = 0 && r.chain = 0))

/-! Elements (R247, R255, R294). -/

/-- Bits of an element. -/
def tileBits (ty : Nat) : Nat := match ty with | 0 | 1 => 16 | 2 | 3 | 7 => 8 | 4 | 5 => 6 | 9 => 64 | _ => 4

/-- Bytes of a row of n elements. -/
def tileRow (ty n : Nat) : Nat := (n * tileBits ty + 7) / 8

/-- Element codes of a row. -/
def tileCodes (ty n : Nat) (bs : List Byte) : List Nat :=
  let v := natOf bs
  let w := tileBits ty
  (List.range n).map fun i => bits v (w * i) w

/-- The value of a tile-engine input: a subnormal BF16 reads as a zero of its sign (R255). -/
def tileVal (ty x : Nat) : Val :=
  match ty with
  | 0 => if bits x 7 8 = 0 then .num (Exact.zero (bit x 15)) else FTy.bf16.value x
  | 1 => FTy.f16.value x
  | 2 => FTy.e4m3.value x
  | 3 => FTy.e5m2.value x
  | 4 => FTy.e2m3.value x
  | 5 => FTy.e3m2.value x
  | 6 => FTy.e2m1.value x
  | 7 => .num (Exact.ofInt (sval 8 x))
  | 8 => .num (Exact.ofInt (sval 4 x))
  | _ => FTy.f64.value x

/-- A variance element, as its magnitude (R273). -/
def varVal (x : Nat) : Val := FTy.e5m2.value (x % 128)

/-- The accumulation type and the group size (R257). -/
def accTy (ta : Nat) : FTy := if ta = 9 then .f64 else .f32
def groupSize (ta : Nat) : Nat := if ta = 9 then 4 else 16

/-! Accumulation (R257). -/

/-- The events of a list of roundings, in one accumulation type. -/
structure AccRes where
  code : Nat
  evs : List FpEvents

/-- The sum of a group as a value of W, with its rounding. -/
def groupSum (w : FTy) (ps : List Val) (opNan : Bool) : FpRes :=
  let pos := ps.any fun p => p = .inf false
  let neg := ps.any fun p => p = .inf true
  if ps.any Val.isNan || (pos && neg) then roundTo w .rn false 0 opNan false .defaultNan
  else if pos || neg then roundTo w .rn false 0 false true (.inf neg)
  else
    match ps with
    | .num x :: r => roundTo w .rn false 0 false false (.num (r.foldl (fun a p => match p with | .num y => a.add y false | _ => a) x))
    | _ => roundTo w .rn false 0 false false (.num (Exact.zero false))

/-- One group goes into the accumulator; each product comes with whether an input of it is a NaN. -/
def accGroup (w : FTy) (acc : AccRes) (g : List (Val × Bool)) : AccRes :=
  let t := groupSum w (g.map fun p => p.1) (g.any fun p => p.2)
  let a := w.value acc.code
  let b := w.value t.code
  let r := roundTo w .rn false 0 (a.isNan || b.isNan) (a.isInf || b.isInf) (Val.add false a b)
  ⟨r.code, acc.evs ++ [t.ev, r.ev]⟩

/-- All groups of an element, ascending. -/
def accGroups (w : FTy) (g : Nat) : Nat → AccRes → List (Val × Bool) → AccRes
  | 0, acc, _ => acc
  | n + 1, acc, ps => if ps.isEmpty then acc else accGroups w g n (accGroup w acc (ps.take g)) (ps.drop g)

def accElem (w : FTy) (g : Nat) (old : Nat) (ps : List (Val × Bool)) : AccRes := accGroups w g (ps.length + 1) ⟨old, []⟩ ps

/-- An exact integer product has one zero (R257). -/
def Val.oneZero (v : Val) : Val :=
  match v with
  | .num x => if x.isZero then .num (Exact.zero false) else v
  | v => v

/-- A product of the scaled elements of a type. -/
def product (ty : Nat) (sa a sb b : Val) : Val × Bool :=
  let p := Val.mul (Val.mul sa a) (Val.mul sb b)
  (if ty = 7 || ty = 8 then p.oneZero else p, a.isNan || b.isNan || sa.isNan || sb.isNan)

/-- A variance term of R273: the square of a mean and the scaled variance of the other operand; an absent variance gives zero. -/
def varTerm (mean sv v : Val) (absent : Bool) : Val :=
  if absent then .num (Exact.zero false) else Val.mul (Val.mul mean mean) (Val.mul sv v)

def varProduct (a b : Val) (sa va sb vb : Val) (noA noB : Bool) : Val × Bool :=
  let x := varTerm a sb vb noB
  let y := varTerm b sa va noA
  (Val.add false x y, a.isNan || b.isNan || (!noA && (va.isNan || sa.isNan)) || (!noB && (vb.isNan || sb.isNan)))

/-! Tiles (R295). -/

/-- The offset of an element of W within a tile. -/
def tileOff (w : FTy) (r c : Nat) : Nat := if w = .f64 then 256 * r + 8 * c else 256 * r + 4 * c

def tileWidth (w : FTy) : Nat := if w = .f64 then 8 else 4

def tileGet (m : Memory) (w : FTy) (r c : Nat) : Nat := m.nat (tileOff w r c) (tileWidth w)

def tileSet (m : Memory) (w : FTy) (r c x : Nat) : Memory := m.write (tileOff w r c) (bytesOf (tileWidth w) x)

def TileSlot.tile? (t : TileSlot) (i : Nat) : Option Memory := (t.tiles.find? fun e => e.1 = i).map fun e => e.2

def TileSlot.putTile (t : TileSlot) (i : Nat) (m : Memory) : TileSlot :=
  { t with tiles := t.tiles.map fun e => if e.1 = i then (i, m) else e }

/-- One element of a tile after a step, and its events. -/
def stepElem (r : ShapeRec) (acc : TileSlot × List FpEvents) (tile row col : Nat) (ps : List (Val × Bool)) : TileSlot × List FpEvents :=
  let w := accTy r.ta
  match acc.1.tile? tile with
  | none => acc
  | some m =>
    let x := accElem w (groupSize r.ta) (if r.accum then tileGet m w row col else 0) ps
    (acc.1.putTile tile (tileSet m w row col x.code), acc.2 ++ x.evs)

/-- The rows of A as a step reads them: element codes, scale codes and variance codes by row. -/
structure ARow where
  elems : List Nat
  scales : List Nat
  vars : List Nat

def Plane.elem (p : Plane) (k n : Nat) : Nat := p.elems.getD (k * p.n + n) 0

/-- The scale of element k of column n: 1.0 where the step's record, or the one under which the plane was loaded, has SCALE 0 (R290). -/
def Plane.scale (p : Plane) (on : Bool) (k n : Nat) : Val := e8m0 (if on then p.scales.getD (k / 32 * p.n + n) 127 else 127)

def ARow.scale (a : ARow) (on : Bool) (k : Nat) : Val := e8m0 (if on then a.scales.getD (k / 32) 127 else 127)

/-- Products of one output element: of the mean or plain plane, of batch block bb, of the variance plane. -/
def meanProducts (r : ShapeRec) (a : ARow) (p : Plane) (n : Nat) : List (Val × Bool) :=
  (List.range r.k).map fun k =>
    let on := r.scale && r.mode = 0
    product r.ta (a.scale on k) (tileVal r.ta (a.elems.getD k 0)) (p.scale on k n) (tileVal r.tb (p.elem k n))

def batchProducts (r : ShapeRec) (a : ARow) (p : Plane) (bb n : Nat) : List (Val × Bool) :=
  (List.range 16).map fun k =>
    product r.ta (e8m0 127) (tileVal r.ta (a.elems.getD (16 * bb + k) 0)) (e8m0 127) (tileVal r.tb (p.elems.getD ((16 * bb + k) * 16 + n) 0))

def varProducts (r : ShapeRec) (a : ARow) (p : Plane) (n : Nat) : List (Val × Bool) :=
  (List.range r.k).map fun k =>
    varProduct (tileVal 0 (a.elems.getD k 0)) (tileVal 0 (p.elem k n)) (a.scale r.scale k) (varVal (a.vars.getD k 0)) (p.scale r.scale k n)
      (varVal (p.vars.getD (k * p.n + n) 0)) r.vabsA r.vabsB

/-- The elements that one row of A brings to their tiles (R293, R298, R299). -/
def stepRow (r : ShapeRec) (p : Plane) (tile i : Nat) (a : ARow) (acc : TileSlot × List FpEvents) : TileSlot × List FpEvents :=
  let row := r.row0 + i
  match r.mode with
  | 1 =>
    (List.range 256).foldl (fun x e =>
      let bb := e / 16
      let n := e % 16
      stepElem r x (tile + bb / 4) row (16 * (bb % 4) + n) (batchProducts r a p bb n)) acc
  | 2 =>
    (List.range r.n).foldl (fun x n =>
      stepElem r (stepElem r x tile row n (meanProducts r a p n)) (tile + 1) row n (varProducts r a p n)) acc
  | _ => (List.range r.n).foldl (fun x n => stepElem r x tile row n (meanProducts r a p n)) acc

/-- A whole step. -/
def stepAll (r : ShapeRec) (p : Plane) (tile : Nat) (rows : List ARow) (t : TileSlot) : TileSlot × List FpEvents :=
  (rows.zipIdx).foldl (fun acc x => stepRow r p tile x.2 x.1 acc) (t, [])

/-! Ranges (R294, R296, R457 to R460). -/

/-- Pitch in bytes, scale address. -/
def pitchOf (b : Nat) : Nat := 16 * bits b 32 14
def scaleAddr (b : Nat) : Nat := b % 2 ^ 32

/-- Rows and their length as A, and as B. -/
def aRows (r : ShapeRec) : Nat × Nat := (r.m, if r.mode = 1 then 512 else tileRow r.ta r.k)
def bRows (r : ShapeRec) : Nat × Nat := if r.mode = 1 then (256, 32) else (r.k, tileRow r.tb r.n)

def locArea (block la rows len pitch : Nat) : List Area := if rows = 0 || len = 0 then [] else [⟨.loc block la, rows, len, pitch⟩]

/-- Bytes read by a TLDW. -/
def tldwAreas (block : Nat) (r : ShapeRec) (a b c : Nat) : List Area :=
  let noVar := r.mode != 2 || r.vabsB
  locArea block a (bRows r).1 (bRows r).2 (pitchOf b) ++
  (if r.scale && (r.mode = 0 || !noVar) then locArea block (scaleAddr b) 1 (r.k / 32 * r.n) 0 else []) ++
  (if noVar then [] else locArea block (c % 2 ^ 32) r.k r.n (pitchOf b))

/-- Bytes read by a TMMA. -/
def tmmaAreas (block : Nat) (r : ShapeRec) (a b c : Nat) : List Area :=
  let noVar := r.mode != 2 || r.vabsA
  locArea block a (aRows r).1 (aRows r).2 (pitchOf b) ++
  (if r.scale && (r.mode = 0 || !noVar) then locArea block (scaleAddr b) 1 (r.m * (r.k / 32)) 0 else []) ++
  (if noVar then [] else locArea block (c % 2 ^ 32) r.m r.k (pitchOf b))

/-- Bytes of an element that TST writes. -/
def tstBytes (r : ShapeRec) (b : Nat) : Nat := if bits b 48 2 ≠ 0 then 2 else if r.ta = 9 then 8 else 4

def tstAreas (block : Nat) (r : ShapeRec) (a b : Nat) : List Area :=
  let e := tstBytes r b
  (match r.mode with
   | 1 => locArea block a (4 * r.m) (64 * e) (pitchOf b)
   | _ => locArea block a r.m (r.n * e) (pitchOf b)) ++
  (if r.mode = 2 then locArea block (scaleAddr b) r.m (r.n * e) (pitchOf b) else [])

/-- Tiles that a command names. -/
def TileCmd.names (t : TileCmd) : List Nat :=
  let more := match (shapeRec t.sh).mode with | 1 => 4 | 2 => 2 | _ => 1
  match t.fn with
  | 0 | 1 => (List.range 32).filter fun i => bit t.mask i
  | 5 | 6 => (List.range more).map fun i => t.tile + i
  | 7 | 8 => [t.tile]
  | _ => []

/-! The commands of a slot (R292). -/

/-- Commands of a slot in their order, with their operations. -/
def State.slotOps (s : State) (block j : Nat) : List (Op × TileCmd) :=
  s.ops.filterMap fun o => match o.work with
    | .tile t => if t.block = block && t.j = j && o.phase = .registered then some (o, t) else none
    | _ => none

def State.slotOf (s : State) (block j : Nat) : TileSlot := match s.share? block j with | some sh => sh.tile | none => ⟨Vector.replicate 4 none, none, none, []⟩

def State.modSlot (s : State) (block j : Nat) (f : TileSlot → TileSlot) : State := s.modShare block j fun sh => { sh with tile := f sh.tile }

/-- A plane's tag. -/
def Plane.tag (p : Plane) : Nat × Nat × Nat × Nat := (p.typeB, p.k, p.n, p.mode)
def ShapeRec.tag (r : ShapeRec) : Nat × Nat × Nat × Nat := (r.tb, r.k, r.n, r.mode)

/-- The tags of the active and the shadow plane once the commands before the next have taken effect. -/
def State.tagsAhead (s : State) (block j : Nat) : Option (Nat × Nat × Nat × Nat) × Option (Nat × Nat × Nat × Nat) :=
  let t := s.slotOf block j
  (s.slotOps block j).foldl (fun p x =>
    match x.2.fn with
    | 3 => (p.1, some (shapeRec x.2.sh).tag)
    | 4 => (p.2, none)
    | _ => p) (t.active.map Plane.tag, t.shadow.map Plane.tag)

/-- The slot holds a tile, for the commands after those issued: a TFREE still to take effect has released it. -/
def State.tileHeld (s : State) (block j i : Nat) : Bool :=
  ((s.slotOf block j).tile? i).isSome && (s.slotOps block j).all fun x => !(x.2.fn = 1 && bit x.2.mask i)

/-- Die A's or B's mesh column of a core (R9). -/
def meshCol (core : Nat) : Nat := core % 8

/-- The cores of the chain of a record at a core, or none when one lies outside the block (R300). -/
def chainShares (b : Block) (core chain : Nat) : Option (List Nat) :=
  let l := 2 ^ chain
  let c0 := core - meshCol core % l
  (List.range l).mapM fun i => b.shares.findIdx? fun sh => sh.core = c0 + i

/-- TILE_SHAPE of a TLDW, TMMA, TST, TSAVE or TLOAD under its record (R295, R300, R460). -/
def State.tileShapeBad (s : State) (a : Acor) (t : TileCmd) : Bool :=
  let r := shapeRec t.sh
  let isLane := match a.who with | .lane _ => true | .lead _ => false
  (t.fn != 3 && !(t.names.all fun i => s.tileHeld t.block t.j i)) ||
  (t.fn = 5 && (s.tagsAhead t.block t.j).1 != some r.tag) ||
  ((t.fn = 5 || t.fn = 6) && ((r.mode = 2 && t.tile % 2 = 1) || (r.mode = 1 && t.tile % 4 != 0))) ||
  (t.fn ≤ 6 && r.chain != 0 && isLane) ||
  (t.fn = 5 && r.chain != 0 && (chainShares a.b (a.b.coreNum a.j) r.chain).isNone)

/-- Whether a command is a chain member that does not read its operands. -/
def notHead (a : Acor) (t : TileCmd) : Bool :=
  let r := shapeRec t.sh
  t.fn = 5 && r.chain != 0 && meshCol (a.b.coreNum a.j) % 2 ^ r.chain != 0

/-- Sources and destinations of a command. -/
def TileCmd.areas (t : TileCmd) : List Area × List Area :=
  let r := shapeRec t.sh
  match t.fn with
  | 3 => (tldwAreas t.block r t.a t.b t.c, [])
  | 5 => (tmmaAreas t.block r t.a t.b t.c, [])
  | 6 => ([], tstAreas t.block r t.a t.b)
  | 7 => ([], [rangeAt (.glob t.a) 16384])
  | 8 => ([rangeAt (.glob t.a) 16384], [])
  | _ => ([], [])

/-- Bits of b and c that no form names (R454), given whether the record is of mode 2. -/
def tileReserved (fn b c : Nat) (mode2 : Bool) : Bool :=
  match fn with
  | 3 | 5 => bits b 46 18 ≠ 0 || (mode2 && 2 ^ 32 ≤ c)
  | 6 => bits b 46 2 ≠ 0 || bits b 50 14 ≠ 0
  | _ => false

/-- The addresses of a form that must be multiples of 16: its base and, where it is used, its variance place. -/
def TileCmd.bases (t : TileCmd) : List Nat :=
  let r := shapeRec t.sh
  match t.fn with
  | 3 => t.a :: (if r.mode = 2 && !r.vabsB then [t.c % 2 ^ 32] else [])
  | 5 => t.a :: (if r.mode = 2 && !r.vabsA then [t.c % 2 ^ 32] else [])
  | 6 => t.a :: (if r.mode = 2 then [scaleAddr t.b] else [])
  | _ => []

/-- The checks of a tile form with operands, in the order of R235. -/
def State.tileTrap (s : State) (a : Acor) (t : TileCmd) (valid : Bool) : Option Trap :=
  let r := shapeRec t.sh
  let skip := valid && notHead a t
  let usesRec := t.fn = 3 || t.fn = 5 || t.fn = 6
  if !skip && tileReserved t.fn t.b t.c (valid && r.mode = 2) then some (.sync 0x01 2 0)
  else if t.fn = 6 && (bits t.b 48 2 = 3 || (valid && bits t.b 48 2 != 0 && r.ta = 9)) then some limTrap
  else if !skip && usesRec && (pitchOf t.b = 0 || 2 ^ 17 < pitchOf t.b) then some (.sync 0x04 0 t.a)
  else if !skip && usesRec && t.a % 16 ≠ 0 then some (.sync 0x04 0 t.a)
  else if !usesRec && t.a % 128 ≠ 0 then some (.sync 0x04 0 (t.a % 2 ^ 56))
  else if usesRec && !valid then some (.sync 0x0C 0 0)
  else
    match if skip then none else t.bases.find? fun x => x % 16 ≠ 0 with
    | some x => some (.sync 0x04 0 x)
    | none =>
      let (src, dst) := t.areas
      match if skip then none else s.areasTrap a src dst with
      | some x => some x
      | none => if s.tileShapeBad a t then some (.sync 0x0C 0 0) else none

/-- A tile command of an agent; word is the address of its first word (R439). -/
def State.mkTile (s : State) (a : Acor) (word : CodeAddr) (fn mode x b c : Nat) : Trap ⊕ Op :=
  let shn := mode % 4
  let rec_ := (s.slotOf a.b.id a.j).sh.toList.getD shn none
  let usesRec := fn = 3 || fn = 5 || fn = 6
  let t : TileCmd := {
    fn := fn, block := a.b.id, j := a.j, shn := shn, sh := if usesRec then rec_.getD 0 else 0, tile := mode / 4 % 32,
    mask := if fn ≤ 1 then x % 2 ^ 32 else 0, a := if fn = 7 || fn = 8 then x else x % 2 ^ 32, b := b, c := c, started := false, bound := false,
    plane := none, bytes := none }
  let ranges := if notHead a t then ([], []) else t.areas
  match if 3 ≤ fn && fn != 4 then s.tileTrap a t rec_.isSome else none with
  | some e => .inl e
  | none => .inr (s.newOp a (word.setWidth 16) (.tile t) ranges.1 ranges.2)

def State.modTile (s : State) (id : Nat) (f : TileCmd → TileCmd) : State :=
  s.modOp id fun o => match o.work with | .tile t => { o with work := .tile (f t) } | _ => o

/-! When a command may take effect (R292, R295, R296, R455). -/

/-- Whether an earlier command of the slot leaves a later one its turn. -/
def clears (x t : TileCmd) : Bool :=
  let meet := x.names.any fun i => t.names.contains i
  match t.fn with
  | 3 => x.fn != 4 && x.fn != 3
  | 4 => !(x.fn = 3 || x.fn = 4 || (x.fn = 5 && !x.bound))
  | 5 => x.fn != 4 && (if x.fn = 5 then x.bound else !meet)
  | _ => !meet

/-- A command has its turn in its slot's order. -/
def State.tileTurn (s : State) (o : Op) (t : TileCmd) : Bool :=
  o.phase = .registered && !s.issuerHeld o &&
  ((s.slotOps t.block t.j).takeWhile fun x => x.1.id != o.id).all fun x => clears x.2 t

/-- TCLAIM, TFREE and TSWAP need not wait until their issuer has gone on. -/
def State.tileTurn0 (s : State) (o : Op) (t : TileCmd) : Bool :=
  o.phase = .registered && ((s.slotOps t.block t.j).takeWhile fun x => x.1.id != o.id).all fun x => clears x.2 t

/-- Tiles of a core that another slot holds. -/
def State.heldElsewhere (s : State) (d : Die) (core block i : Nat) : Bool :=
  s.blocks.any fun b => b.die = d && b.id != block && b.shares.any fun sh => sh.core = core && (sh.tile.tile? i).isSome

/-- The answer of a TCLAIM, and what it changes (R295, R455). -/
def State.claim (s : State) (o : Op) (t : TileCmd) : State :=
  let slot := s.slotOf t.block t.j
  let own := slot.tiles.map fun e => e.1
  let all := (List.range 32).filter fun i => t.names.contains i || own.contains i
  let answer : Word :=
    if t.names.any fun i => s.heldElsewhere o.die o.core t.block i then 1 else if 16 < all.length then 2 else 0
  let s1 := if answer = 0 then s.modSlot t.block t.j fun x =>
    { x with tiles := all.map fun i => (i, if t.names.contains i then [] else (x.tile? i).getD []) } else s
  s1.modOp o.id fun x => { x with phase := .finished [answer] }

/-- TFREE takes effect. (DEDUCED, log entry 30) -/
def State.freeTiles (s : State) (o : Op) (t : TileCmd) : State :=
  ((s.dropOp o.id).modSlot t.block t.j fun x => { x with tiles := x.tiles.filter fun e => !t.names.contains e.1 }).checkIssuer o

/-- TSWAP takes effect: the shadow plane becomes active and leaves the shadow empty. (DEDUCED, log entry 30) -/
def State.swapPlanes (s : State) (o : Op) (t : TileCmd) : State :=
  ((s.dropOp o.id).modSlot t.block t.j fun x => { x with active := x.shadow, shadow := none }).checkIssuer o

/-- A tile command registers; a claim with its turn answers at once. -/
def State.tileRegister (s : State) (o : Op) : State :=
  let s1 := s.registerOp o
  match s1.op? o.id with
  | some o1 =>
    match o1.work with
    | .tile t => if t.fn = 0 && s1.tileTurn0 o1 t then s1.claim o1 t else s1
    | _ => s1
  | none => s1

/-! The instructions. -/

/-- TSHAPE (R456). -/
def State.tshape (s : State) (a : Acor) (n : Nat) (v : Dword) : State := s.modSlot a.b.id a.j fun t => { t with sh := t.sh.set! n (some v) }

def laneTile (i : Instr) (fn : Nat) (f : X3) (s : State) : Host.Outcome State Fault Refusal :=
  lane i (fun e s =>
    let wide := fn = 7 || fn = 8
    let x := if wide then (e.pair 0).toNat else (e.x 0).toNat
    e.command State.tileRegister s (s.mkTile e.acor e.pc fn f.mode.toNat x (e.pair 1).toNat (e.pair 2).toNat)) s

def execTclaim (f : X3) (s : State) : Host.Outcome State Fault Refusal := laneTile (.tclaim f) 0 f s
def execTfree (f : X3) (s : State) : Host.Outcome State Fault Refusal := laneTile (.tfree f) 1 f s
def execTldw (f : X3) (s : State) : Host.Outcome State Fault Refusal := laneTile (.tldw f) 3 f s
def execTswap (f : X3) (s : State) : Host.Outcome State Fault Refusal := laneTile (.tswap f) 4 f s
def execTmma (f : X3) (s : State) : Host.Outcome State Fault Refusal := laneTile (.tmma f) 5 f s
def execTst (f : X3) (s : State) : Host.Outcome State Fault Refusal := laneTile (.tst f) 6 f s
def execTsave (f : X3) (s : State) : Host.Outcome State Fault Refusal := laneTile (.tsave f) 7 f s
def execTload (f : X3) (s : State) : Host.Outcome State Fault Refusal := laneTile (.tload f) 8 f s

def execTshape (f : X3) (s : State) : Host.Outcome State Fault Refusal :=
  lane (.tshape f) (fun e s => if shapeOk (e.pair 0) then .done ((s.tick2 (.lane e.r) true false).tshape e.acor (f.mode.toNat % 4) (e.pair 0)) else .trap limTrap) s

def leadTile (i : Instr) (fn : Nat) (f : Y3) (s : State) : Host.Outcome State Fault Refusal :=
  lead i (fun e s =>
    let d := if fn = 0 then some f.d else none
    e.command State.tileRegister s d
      (s.mkTile e.acor e.pc fn f.mode.toNat (e.l.get f.a).toNat (e.l.get f.b).toNat (e.l.get f.e).toNat)) s

def execLeadTclaim (f : Y3) (s : State) : Host.Outcome State Fault Refusal := leadTile (.leadTclaim f) 0 f s
def execLeadTfree (f : Y3) (s : State) : Host.Outcome State Fault Refusal := leadTile (.leadTfree f) 1 f s
def execLeadTldw (f : Y3) (s : State) : Host.Outcome State Fault Refusal := leadTile (.leadTldw f) 3 f s
def execLeadTswap (f : Y3) (s : State) : Host.Outcome State Fault Refusal := leadTile (.leadTswap f) 4 f s
def execLeadTmma (f : Y3) (s : State) : Host.Outcome State Fault Refusal := leadTile (.leadTmma f) 5 f s
def execLeadTst (f : Y3) (s : State) : Host.Outcome State Fault Refusal := leadTile (.leadTst f) 6 f s
def execLeadTsave (f : Y3) (s : State) : Host.Outcome State Fault Refusal := leadTile (.leadTsave f) 7 f s
def execLeadTload (f : Y3) (s : State) : Host.Outcome State Fault Refusal := leadTile (.leadTload f) 8 f s

def execLeadTshape (f : Y3) (s : State) : Host.Outcome State Fault Refusal :=
  lead (.leadTshape f) (fun e s =>
    if shapeOk (e.l.get f.a) then .done ((s.tick2 (.lead e.r) true false).tshape e.acor (f.mode.toNat % 4) (e.l.get f.a)) else .trap limTrap) s

/-! Steps (R14, R16, R293, R297, R300, R302). -/

/-- The step that streams on a core, if one does. (DEDUCED, log entry 30) -/
def State.streaming (s : State) (d : Die) (core : Nat) : Bool :=
  s.ops.any fun o => match o.work with | .tile t => o.die = d && o.core = core && t.started && !t.bound | _ => false

/-- Run class of the block of a command. -/
def State.opClass (s : State) (o : Op) : Nat :=
  match o.issuer with
  | .agent a => match s.block? a.block with | some b => b.cls | none => 0
  | .node _ => 0

/-- A step command that may start on its core but for its leave. -/
def State.stepReady (s : State) (o : Op) : Bool :=
  match o.work with
  | .tile t => t.fn = 5 && !t.started && s.tileTurn o t
  | _ => false

/-- The commands of a chain by column, when each engine has one at the head of its slot's order. (DEDUCED, log entry 30) -/
def State.chainOps (s : State) (b : Block) (o : Op) (t : TileCmd) : Option (List (Op × TileCmd)) :=
  (chainShares b o.core (shapeRec t.sh).chain).bind fun js => js.mapM fun j =>
    (s.slotOps b.id j).find? fun x => x.2.fn = 5 && (shapeRec x.2.sh).chain != 0 && s.stepReady x.1

/-- The commands that start with a step: it alone, or its chain's. -/
def State.stepGroup (s : State) (o : Op) (t : TileCmd) : Option (List (Op × TileCmd)) :=
  if (shapeRec t.sh).chain = 0 then some [(o, t)] else (s.block? t.block).bind fun b => s.chainOps b o t

/-- A command that its core's engine could take now but for the others: it has its turn in its slot, waits for no page, and has not begun. A claim, a
release and a swap take no part (DEDUCED, log entry 30). -/
def State.takeable (s : State) (o : Op) : Bool :=
  match o.work with
  | .tile t =>
    s.tileTurn o t && !(s.holds.any fun h => h.who = .op o.id) &&
    match t.fn with
    | 3 => t.plane.isNone
    | 5 => !t.started && (s.stepGroup o t).isSome
    | 6 | 7 => true
    | 8 => t.bytes.isNone
    | _ => false
  | _ => false

/-- The engine of a command's core takes it next: of the block slots' commands that it could take, those of a higher run class go first, and
within a class those issued first (R120, R302). -/
def State.engineTakes (s : State) (o : Op) : Bool :=
  let rival (x : Op) : Bool := x.id != o.id && x.die = o.die && x.core = o.core && s.takeable x
  (s.ops.all fun x => !(rival x && s.opClass o < s.opClass x)) &&
  (s.opsBefore o).all fun x => !(rival x && s.opClass x = s.opClass o)

/-- No step streams on the core, and the command is the one to take. (DEDUCED, log entry 30) -/
def State.mayStep (s : State) (o : Op) : Bool := !s.streaming o.die o.core && s.engineTakes o

/-- The rows of A of a step (R294, R298, R299). -/
def State.readA (s : State) (o : Op) (t : TileCmd) : List ARow :=
  let r := shapeRec t.sh
  let at_ (la n : Nat) : List Byte := s.readRow o (.loc t.block la) n
  let nb := r.k / 32
  let hasVar := r.mode = 2 && !r.vabsA
  (List.range r.m).map fun i =>
    ⟨tileCodes r.ta (if r.mode = 1 then 256 else r.k) (at_ (t.a + i * pitchOf t.b) (aRows r).2),
     if r.scale && (r.mode = 0 || hasVar) then (at_ (scaleAddr t.b + i * nb) nb).map fun x => x.toNat else [],
     if hasVar then (at_ (t.c % 2 ^ 32 + i * pitchOf t.b) r.k).map fun x => x.toNat else []⟩

/-- The plane that a TLDW reads. -/
def State.readB (s : State) (o : Op) (t : TileCmd) : Plane :=
  let r := shapeRec t.sh
  let at_ (la n : Nat) : List Byte := s.readRow o (.loc t.block la) n
  let hasVar := r.mode = 2 && !r.vabsB
  let rows := (List.range (bRows r).1).flatMap fun k => tileCodes r.tb r.n (at_ (t.a + k * pitchOf t.b) (bRows r).2)
  let scales := if r.scale && (r.mode = 0 || hasVar) then (at_ (scaleAddr t.b) (r.k / 32 * r.n)).map fun x => x.toNat else []
  let vars := if hasVar then (List.range r.k).flatMap fun k => (at_ (t.c % 2 ^ 32 + k * pitchOf t.b) r.n).map fun x => x.toNat else []
  ⟨r.tb, r.k, r.n, r.mode, rows, scales, vars⟩

/-- A step that finds its plane gone, which a race of the slot's issuers may bring about, leaves open values in its rows. -/
def openRows (s : State) (r : ShapeRec) (tile : Nat) (t : TileSlot) : TileSlot :=
  (List.range (r.m * 64)).foldl (fun (x : TileSlot) i =>
    match x.tile? tile with
    | some m => x.putTile tile (tileSet m .f32 (r.row0 + i / 64) (i % 64) ((Config.freeDword s.tick i).toNat % 2 ^ 32))
    | none => x) t

/-- The step of one engine runs with the rows given. -/
def State.runStep (s : State) (o : Op) (t : TileCmd) (rows : List ARow) : State :=
  let r := shapeRec t.sh
  let slot := s.slotOf t.block t.j
  let s1 : State := (s.modTile o.id fun x => { x with started := true }).setGov o.die
    { (s.gov o.die) with idle := (s.gov o.die).idle.filter fun e => e.1 != o.core }
  match slot.active with
  | some p =>
    if p.tag = r.tag then
      let (x, evs) := stepAll r p t.tile rows slot
      evs.foldl (fun a e => a.fpCount o.ctx o.die (accTy r.ta) e) (s1.modSlot t.block t.j fun _ => x)
    else t.names.foldl (fun a i => a.modSlot t.block t.j (openRows s r i)) s1
  | none => t.names.foldl (fun a i => a.modSlot t.block t.j (openRows s r i)) s1

/-- A tile engine's leave serves a step: it is held, and the engine has not been idle for 256 cycles (R14). -/
def State.burstLeave (s : State) (d : Die) (core : Nat) : Bool :=
  s.hasLeave d (.tile core) && !((s.gov d).idle.any fun e => e.1 = core && e.2 + 256 ≤ s.cycle d)

/-- An engine asks leave for a new burst; what it still had of the last one has ended. -/
def State.askBurst (s : State) (d : Die) (core : Nat) : State :=
  if s.hasLeave d (.tile core) then
    let g := s.gov d
    ((s.setGov d { g with idle := g.idle.filter fun e => e.1 != core }).dropLeave d (.tile core)).askLeave d (.tile core)
  else s.askLeave d (.tile core)

/-- Records of a chain that agree. (DEDUCED, log entry 30) -/
def chainAgrees (l : List (Op × TileCmd)) : Bool :=
  match l with
  | [] => false
  | x :: r =>
    let a := shapeRec x.2.sh
    r.all fun y => let c := shapeRec y.2.sh; c.ta = a.ta && c.m = a.m && c.k = a.k && c.mode = a.mode && c.chain = a.chain

/-- A step starts, or asks leave for its engines. (DEDUCED, log entry 30) -/
def State.startStep (s : State) (o : Op) (t : TileCmd) : State :=
  if !s.stepReady o then s
  else
    match s.stepGroup o t with
    | none => s
    | some l =>
      if !(l.all fun x => s.mayStep x.1) then s
      else if !chainAgrees l && 1 < l.length then l.foldl (fun a x => a.finishOp x.1 0x42) s
      else
        let lacking := l.filter fun x => !s.burstLeave x.1.die x.1.core
        if !lacking.isEmpty then lacking.foldl (fun a x => a.askBurst x.1.die x.1.core) s
        else
          let rows := match l with | h :: _ => s.readA h.1 h.2 | [] => []
          l.foldl (fun a x => a.runStep x.1 x.2 rows) s

def execTileStepStart (s : State) : Host.Outcome State Fault Refusal :=
  event (fun s => match s.arg with
    | .num id =>
      match s.op? id with
      | some o => match o.work with | .tile t => s.startStep o t | _ => s
      | none => s
    | _ => s) s

/-- A source has been read: it unlocks, and so does the destination of the COPYF that fed it (R296, R301, R442). -/
def State.unlockSource (s : State) (o : Op) : State :=
  { s with ops := s.ops.map fun (x : Op) =>
      if x.id = o.id then { x with lockSrc := [] } else if x.phase = .followed o.id then { x with lockDst := [] } else x }

/-- The boundary of the step streaming on a core: its rows have been read; then swaps that have their turn take effect. (DEDUCED, log entry 30) -/
def State.boundary (s : State) (d : Die) (core : Nat) : State :=
  let now := s.ops.filter fun o => match o.work with | .tile t => o.die = d && o.core = core && t.started && !t.bound | _ => false
  let s1 := now.foldl (fun a o => (a.modTile o.id fun t => { t with bound := true }).unlockSource o) s
  s1.ops.foldl (fun a o =>
    match o.work with
    | .tile t => if o.die = d && o.core = core && t.fn = 4 && a.tileTurn o t then a.swapPlanes o t else a
    | _ => a) s1

def execTileStepBoundary (s : State) : Host.Outcome State Fault Refusal :=
  event (fun s => match s.arg with | .core d c => s.boundary d c | _ => s) s

/-! Reading sources and completing (R296, R457 to R460). -/

/-- The last byte of a TLDW's or TLOAD's source has been read. -/
def State.readSource (s : State) (o : Op) (t : TileCmd) : State :=
  if !s.tileTurn o t || !s.engineTakes o then s
  else if t.fn = 3 && t.plane.isNone then ((s.modTile o.id fun x => { x with plane := some (s.readB o t) }).unlockSource o)
  else if t.fn = 8 && t.bytes.isNone then
    s.withPages o fun s =>
      ((s.modTile o.id fun x => { x with bytes := some (s.readAreas o o.src) }).unlockSource o).readsUse o
  else s

def execTileSourceUnlock (s : State) : Host.Outcome State Fault Refusal :=
  event (fun s => match s.arg with
    | .num id =>
      match s.op? id with
      | some o => match o.work with | .tile t => s.readSource o t | _ => s
      | none => s
    | _ => s) s

/-- An operation of the tile engine completes; one that a copy fed completes the copy (R301). -/
def State.tileOver (s : State) (o : Op) (status : Nat) : State :=
  match s.ops.find? fun x => x.phase = .followed o.id with
  | some p => (s.dropOp o.id).finishOp p status
  | none => s.finishOp o status

/-- One element as TST writes it, with its events (R459). -/
def tstElem (r : ShapeRec) (ofmt x : Nat) : List Byte × Option (FTy × FpEvents) :=
  match ofmt with
  | 0 => (bytesOf (tileWidth (accTy r.ta)) x, none)
  | _ =>
    let t : FTy := if ofmt = 1 then .bf16 else .f16
    let v := FTy.f32.value x
    let y := roundTo t .rn false 0 v.isNan v.isInf v
    (bytesOf 2 y.code, some (t, y.ev))

/-- The bytes of one row of a tile as TST writes them. -/
def tstRow (r : ShapeRec) (ofmt : Nat) (m : Memory) (row n : Nat) : List (List Byte × Option (FTy × FpEvents)) :=
  (List.range n).map fun c => tstElem r ofmt (tileGet m (accTy r.ta) row c)

/-- TST writes its rows. -/
def State.storeTile (s : State) (o : Op) (t : TileCmd) : State :=
  let r := shapeRec t.sh
  let slot := s.slotOf t.block t.j
  let ofmt := bits t.b 48 2
  let n := if r.mode = 1 then 64 else r.n
  let put (s : State) (i tile la : Nat) : State :=
    let es := tstRow r ofmt ((slot.tile? tile).getD []) (r.row0 + i) n
    let s1 := s.writeRow o (.loc t.block la) (es.flatMap fun e => e.1)
    es.foldl (fun a e => match e.2 with | some (ty, ev) => a.fpCount o.ctx o.die ty ev | none => a) s1
  let tiles : List (Nat × Nat) :=
    match r.mode with
    | 1 => (List.range 4).map fun j => (t.tile + j, t.a + j * r.m * pitchOf t.b)
    | 2 => [(t.tile, t.a), (t.tile + 1, scaleAddr t.b)]
    | _ => [(t.tile, t.a)]
  tiles.foldl (fun a x => (List.range r.m).foldl (fun a i => put a i x.1 (x.2 + i * pitchOf t.b)) a) s

/-- Notes since when an engine that runs no step has been idle. -/
def State.noteIdle (s : State) (d : Die) (core : Nat) : State :=
  let busy := s.ops.any fun o => match o.work with | .tile t => o.die = d && o.core = core && t.started | _ => false
  let g := s.gov d
  if busy then s else s.setGov d { g with idle := (g.idle.filter fun e => e.1 != core) ++ [(core, s.cycle d)] }

/-- A command of the tile engine is over. (DEDUCED, log entry 30) -/
def State.completeTile (s : State) (o : Op) (t : TileCmd) : State :=
  match t.fn with
  | 0 => if s.tileTurn0 o t then s.claim o t else s
  | 1 => if s.tileTurn0 o t then s.freeTiles o t else s
  | 3 =>
    match t.plane with
    | some p => if s.tileTurn o t then (s.modSlot t.block t.j fun x => { x with shadow := some p }).tileOver o 0 else s
    | none => s
  | 5 => if t.started && t.bound then (s.tileOver o 0).noteIdle o.die o.core else s
  | 6 => if s.tileTurn o t && s.engineTakes o then (s.storeTile o t).tileOver o 0 else s
  | 7 =>
    if s.tileTurn o t && s.engineTakes o then
      s.withPages o fun s =>
        (s.writeAreas o o.dst ((((s.slotOf t.block t.j).tile? t.tile).getD []).read 0 16384)).tileOver o 0
    else s
  | 8 =>
    match t.bytes with
    | some bs => (s.modSlot t.block t.j fun x => x.putTile t.tile (Memory.write [] 0 bs)).tileOver o 0
    | none => s
  | _ => s

def execTileOpComplete (s : State) : Host.Outcome State Fault Refusal :=
  event (fun s => match s.arg with
    | .num id =>
      match s.op? id with
      | some o => match o.work with | .tile t => s.completeTile o t | _ => s
      | none => s
    | _ => s) s

/-- A tile engine idle for 256 cycles gives its leave back (R14). -/
def execTileLeaveRelease (s : State) : Host.Outcome State Fault Refusal :=
  event (fun s => match s.arg with
    | .core d c =>
      let g := s.gov d
      let idle := g.idle.any fun e => e.1 = c && e.2 + 256 ≤ s.cycle d
      if idle && s.hasLeave d (.tile c) then
        (s.setGov d { g with idle := g.idle.filter fun e => e.1 != c }).dropLeave d (.tile c)
      else s
    | _ => s) s

/-! A copy's follow-on (R301, R442). -/

/-- The follow-on of a copy whose bytes have landed, for the slot of the core whose share holds the destination's first byte; none when it
is refused. -/
def State.followOp (s : State) (o : Op) (f : Follow) (b : Block) (la : Nat) : Option Op :=
  let j := la / 2 ^ 18
  let rec_ := (s.slotOf b.id j).sh.toList.getD f.sh none
  let t : TileCmd := {
    fn := if f.mma then 5 else 3, block := b.id, j := j, shn := f.sh, sh := rec_.getD 0, tile := f.tile, mask := 0, a := la,
    b := f.scale + f.pitch / 16 * 2 ^ 32, c := 0, started := false, bound := false, plane := none, bytes := none }
  let r := shapeRec t.sh
  let who : Agent := match o.issuer with | .agent a => a | .node _ => .lead ⟨b.id, j⟩
  let a : Acor := ⟨who, b, j, b.leadCache j, o.handler, false, true⟩
  if r.mode = 2 || r.chain != 0 then none
  else
    match s.tileTrap a t rec_.isSome with
    | some _ => none
    | none => some { o with id := s.nextId, core := b.coreNum j, engine := none, work := .tile t, src := t.areas.1, dst := [], lockSrc := [],
                            lockDst := [], phase := .registered }

/-- The follow-on enters its slot's order once nothing but its copy locks what it reads; or the copy completes with TILE_REFUSED. Operations that wait
for the copy's own destination do not stand against it. -/
def State.enterFollow (s : State) (o : Op) : State :=
  match o.work, o.phase with
  | .copy _ (.loc bid la) _ (some f), .running =>
    match s.block? bid with
    | none => s
    | some b =>
      match s.followOp o f b la with
      | none => s.finishOp o 0x41
      | some x =>
        if (s.dropOp o.id).rangesOk x (s.ops.filter fun y => !spansHit (s.srcSpans y ++ s.dstSpans y) o.lockDst) then
          let s1 : State := { s with ops := s.ops ++ [{ x with lockSrc := s.srcSpans x }], nextId := s.nextId + 1 }
          s1.modOp o.id fun p => { p with phase := .followed x.id }
        else s
  | _, _ => s

def execFollowOnEntry (s : State) : Host.Outcome State Fault Refusal :=
  event (fun s => match s.arg with
    | .num id => match s.op? id with | some o => s.enterFollow o | none => s
    | _ => s) s

end Sys2Proof.Machine
end

