-- ==== Sys2Proof/Machine/Command.lean ====
section
/-! DEFINITION. Commands (spec 03 R78 to R82, 06 R124): the queue, and each command. A command arrives with its 64 bytes; the step of the
same name without them runs the one at the head of the queue. -/

namespace Sys2Proof.Machine

/-! The queue (R78). -/

/-- A command reaches CMD. -/
def State.cmdWrite (s : State) (q : QCmd) : State :=
  if !s.readyBit bitMgmt || !s.readyBit bitFw then s.discard else s.cmdArrive q

/-- The command in hand ends with its event. -/
def State.cmdEnd (s : State) (q : QCmd) (status : BitVec 8) (detail : Nat) : State :=
  ({ s with cmdBusy := none, holds := s.holds.filter fun h => h.who != .cmd q.c.ctx.toNat } : State).cmdDone q status detail

/-- Runs the command in hand, or takes the next one, when it is of the kind that mine names. -/
def State.cmdRun (s : State) (mine : QCmd → Bool) (run : QCmd → State → State) : State :=
  match s.cmdBusy with
  | some q => if mine q then run q s else s
  | none =>
    match s.cmdq with
    | q :: rest => if mine q then run q { s with cmdq := rest, cmdBusy := some q } else s
    | [] => s

/-- One step of a kind of command: it arrives, or runs. (DEDUCED, log entry 18) -/
def State.command (s : State) (op : BitVec 8) (mine : QCmd → Bool) (run : QCmd → State → State) : State :=
  match s.arg with
  | .cmd c => s.cmdWrite ⟨op, c⟩
  | .none => s.cmdRun (fun q => q.op = op && mine q) run
  | _ => s

/-- A command for a context that must not be free: BAD_ARG for reserved bits of word 0, BAD_CTX, BAD_ARG for what the command's own words break,
else its effect (DEDUCED, log entry 18). A number of 1,024 or more names no context, so such a command completes with BAD_CTX, and CTX_CREATE with
BAD_ARG (DESIGN CHOICE, log entry 44). -/
def State.onCtx (s : State) (q : QCmd) (ok : Bool) (go : Ctx → State → State) : State :=
  if q.c.rsv != 0 then s.cmdEnd q 0x32 0
  else
    match s.ctx? q.c.ctx.toNat with
    | none => s.cmdEnd q 0x31 0
    | some c => if ok then go c s else s.cmdEnd q 0x32 0

/-! CTX_CREATE (R124). -/

/-- Whether a translation root's reserved fields are zero and its table is aligned. -/
def rootOk (r : Nat) : Bool :=
  bits r 0 20 = 0 && bits r 56 8 = 0 && bits r 125 3 = 0 && bits r 160 32 = 0 && bits r 304 16 = 0 && bits r 381 3 = 0 &&
  bits r 440 8 = 0 && bits r 480 32 = 0

/-- A context as CTX_CREATE makes it: live, with no partition, E = 1, and counters and thresholds zero. -/
def newCtx (n root r save : Nat) (home : Die) (classMax poolQ : Nat) : Ctx :=
  { num := n, stat := 1, root := root, l0 := bits r 0 56, fqBase := bits r 64 56, fqSize := bits r 120 5,
    pfTmo := if bits r 256 48 = 0 then 200000000 else bits r 256 48, catBase := bits r 320 56, catLog2 := bits r 376 5,
    hotBase := bits r 384 56, hotInt := bits r 448 32, save := save, home := home, classMax := classMax, poolQ := poolQ, cores := 0,
    copyMask := 0, pmode := false, e := 1, kicks := [], taking := none, graphs := [], codes := [], codePages := [],
    fpCount := Vector.replicate 36 0, fpThresh := Vector.replicate 36 0, saveSlots := [], fqTail := 0, fqLost := 0 }

/-- The intervals of hot pages count from the creation of context 0 (R141). -/
def State.startHot (s : State) (c : Ctx) : State :=
  if c.num = 0 then
    { s with hot := s.hot.mapIdx fun m (h : HotCtl) =>
        { h with start := s.cycle (if m < 4 || m = 8 then .a else .b), len := c.hotInt * 65536, interval := 0 } }
  else s

/-- CTX_CREATE. The management service of die A reads the root; where no memory is, or a poisoned line, the device fault of R12 or R13 names the context
of the command, which ends with BAD_ARG (DESIGN CHOICE, log entry 44). -/
def State.ctxCreate (s : State) (q : QCmd) : State :=
  let n := q.c.ctx.toNat
  let w3 := q.c.w3.toNat
  let poolQ := bits w3 3 13
  let root := q.c.w1.toNat
  if q.c.rsv != 0 then s.cmdEnd q 0x32 0
  else if (s.ctx? n).isSome then s.cmdEnd q 0x31 0
  else if 1024 ≤ n || bits w3 16 48 ≠ 0 || poolQ = 0 || 4096 < poolQ || root % 64 ≠ 0 then s.cmdEnd q 0x32 0
  else
    match s.meets .a none root 64 true with
    | .none =>
      let r := natOf (s.homeRead root 64)
      if rootOk r then
        let c := newCtx n root r q.c.w2.toNat (if bit w3 0 then .b else .a) (bits w3 1 2) poolQ
        (({ s.useHomes root 64 3 false with ctxs := s.ctxs ++ [c] } : State).startHot c).cmdEnd q 0 0
      else s.cmdEnd q 0x32 0
    | .clear => s
    | f => (s.physTrap n f .a 0xFE root).cmdEnd q 0x32 0

def execCtxCreate (s : State) : Host.Outcome State Fault Refusal :=
  event (fun s => s.command 0x01 (fun _ => true) fun q s => s.ctxCreate q) s

/-! CTX_DESTROY (R51, R82, R186, R241). -/

/-- Whether a node has been dispatched and has not completed: for a kernel, from its first block on. -/
def RNode.dispatched (x : RNode) : Bool := x.phase = .running || (x.phase = .pool && (x.nextBlock != 0 || x.op.isSome))

/-- The lowest index of a replay's nodes that satisfy a test, or 0xFFFF_FFFF. -/
def Replay.lowest (r : Replay) (p : RNode → Bool) : Nat :=
  match r.nodes.find? p with
  | some x => x.idx
  | none => 0xFFFFFFFF

/-- REPLAY_DONE (R72, R75). -/
def State.postReplay (s : State) (r : Replay) (status : BitVec 8) (failed : Nat) : State :=
  let d := match s.ctx? r.ctx with | some c => c.home | none => .a
  s.post d 0x01 status r.ctx (BitVec.ofNat 64 (r.seq.toNat + r.tag.toNat * 2 ^ 32)) (BitVec.ofNat 64 r.handle) (BitVec.ofNat 64 failed)

/-- The stores of a replay's nodes: what happened before the ends of their threads and lead contexts. -/
def Replay.clock (r : Replay) : Clock := r.nodes.foldl (fun k x => k.join x.ends) []

/-- A replay is killed with its context: nothing of it runs any more, and its nodes that were dispatched and have not completed have failed (R82). Its
REPLAY_DONE waits for the stores of its nodes (R73). -/
def Replay.killed (r : Replay) : Replay :=
  { r with nodes := r.nodes.map fun (x : RNode) =>
      { x with phase := .done, status := match x.status with | some y => some y | none => if x.dispatched then some 0x36 else none, again := [] } }

/-- A replay ends KILLED: its stores are at their homes. -/
def State.killReplay (s : State) (r : Replay) : State := (s.settle r.clock).postReplay r 0x36 (r.lowest fun x => x.status.isSome)

/-- A killed thread's accesses complete or are dropped, each as a whole (R241). (DEDUCED, log entry 34) -/
def State.dropSome (s : State) (n : Nat) : State :=
  { s with
    loads := s.loads.filter fun l => l.node.ctx != n
    stores := s.stores.filter fun x => !(x.node.ctx = n && Config.coin s.tick (2 ^ 41 + x.grp))
    sideLog := s.sideLog.filter fun e => !(e.ctx = n && Config.coin s.tick (2 ^ 41 + e.seq)) }

/-- Engine operations of a context are abandoned: locks go without records, and what they were writing is left as R29 says. (DEDUCED, log entry 34) -/
def State.abandonOps (s : State) (n : Nat) : State :=
  let mine := s.ops.filter fun o => o.ctx = n
  let s1 := scratchAll 4 ((n + 2) * 2 ^ 44) (mine.flatMap fun o => o.written s) s
  ({ s1 with ops := s1.ops.filter fun o => o.ctx != n } : State).tidyGovs

/-- What a context holds on both dies beside its work: regions, counters, fired trigger entries, batch-forming channels. (DEDUCED, log entry 34) -/
def State.freeCtx (s : State) (n : Nat) : State :=
  { s with
    regions := s.regions.filter fun r => r.ctx != n
    counters := s.counters.filter fun c => c.ctx != n
    fired := s.fired.filter fun f => f.ctx != n
    msgs := s.msgs.filter fun m => s.regions.any fun r => r.die = m.die && r.idx = m.idx && r.ctx != n
    channels := s.channels.filter fun c => c.owner != some n
    faults := s.faults.filter fun f => f.ctx != n || s.sideLog.any fun e => e.ctx = n && e.pa.isNone
    holds := s.holds.filter fun h => h.ctx != n
    ckpts := s.ckpts.filter fun a => a.node.ctx != n
    owed := s.owed.filter fun w => w.node.ctx != n
    dbg := { s.dbg with stops := s.dbg.stops.filter fun q => q.ctx != n } }

/-- Everything of a context ends; what a node had dispatched counts as it stood at the kill. (DEDUCED, log entry 34) -/
def State.killCtx (s : State) (n : Nat) : State :=
  let s1 := s.modCtx n fun c => { c with stat := 3, kicks := [], taking := none, graphs := [] }
  let s0 : State := { s1 with replays := s1.replays.map fun r => if r.ctx = n then r.killed else r }
  let s2 := (s0.blocks.filter fun b => b.ctx = n).foldl (fun a b => a.killBlock b.id) (s0.abandonOps n)
  let s3 : State := { s2 with blocks := s2.blocks.filter fun b => b.ctx != n }
  (s3.dropSome n).freeCtx n

def execCtxDestroy (s : State) : Host.Outcome State Fault Refusal :=
  event (fun s => s.command 0x02 (fun _ => true) fun q s =>
    s.onCtx q true fun c s => if c.stat = 3 then s else s.killCtx c.num) s

/-- Whether something of a context is still under way. (DEDUCED, log entry 34) -/
def State.ctxLeft (s : State) (n : Nat) : Bool :=
  (s.blocks.any fun b => b.ctx = n) || (s.ops.any fun o => o.ctx = n) || (s.loads.any fun l => l.node.ctx = n) ||
  (s.stores.any fun x => x.node.ctx = n) || s.sideLog.any fun e => e.ctx = n

/-- The context's replays end, KILLED. -/
def State.endKilled (s : State) (n : Nat) : State :=
  let s1 := (s.replays.filter fun r => r.ctx = n).foldl (fun a r => a.killReplay r) s
  { s1 with replays := s1.replays.filter fun r => r.ctx != n }

/-- Nothing of the context remains: its replays end, it is free, and the command ends. -/
def execCtxDestroyDone (s : State) : Host.Outcome State Fault Refusal :=
  event (fun s =>
    match s.cmdBusy with
    | some q =>
      let n := q.c.ctx.toNat
      match s.ctx? n with
      | some c =>
        if q.op = 0x02 && c.stat = 3 && !s.ctxLeft n then
          let s1 := s.endKilled n
          ({ s1 with ctxs := s1.ctxs.filter (fun x => x.num != n), faults := s1.faults.filter (fun f => f.ctx != n),
                     keySyncs := s1.keySyncs.filter fun k => k.ctx != n } : State).cmdEnd q 0 0
        else s
      | none => s
    | none => s) s

/-! CTX_PARTITION (R80). -/

/-- Blocks of a context on cores that it does not hold any more. -/
def State.onLostCores (s : State) (c : Ctx) : Bool :=
  s.blocks.any fun b => b.ctx = c.num && b.resident && b.shares.any fun x => !c.cores.getLsbD (coreBit b.die x.core)

/-- Whether a core may be taken under a partition mode beside the other contexts that hold it. -/
def State.coreFree (s : State) (n : Nat) (pmode : Bool) (i : Nat) : Bool :=
  let others := s.ctxs.filter fun x => x.num != n && x.cores.getLsbD i
  others.isEmpty || (pmode && others.length ≤ 1 && others.all fun x => x.pmode)

def State.ctxPartition (s : State) (q : QCmd) (c : Ctx) : State :=
  let mask : BitVec 256 := q.c.w4 ++ q.c.w3 ++ q.c.w2 ++ q.c.w1
  let pmode := q.c.w6.getLsbD 0
  if (List.range 256).any fun i => mask.getLsbD i && !s.coreFree c.num pmode i then s.cmdEnd q 0x35 0
  else
    let c1 : Ctx := { c with cores := mask, copyMask := BitVec.ofNat 16 (q.c.w5.toNat % 65536), pmode := pmode }
    let s1 := s.modCtx c.num fun _ => c1
    if s1.onLostCores c1 then s1.modCtx c.num fun x => { x with stat := 2 } else s1.cmdEnd q 0 0

def execCtxPartition (s : State) : Host.Outcome State Fault Refusal :=
  event (fun s => s.command 0x03 (fun _ => true) fun q s =>
    s.onCtx q (bits q.c.w5.toNat 16 48 = 0 && bits q.c.w6.toNat 1 63 = 0) fun c s => if c.stat = 2 then s else s.ctxPartition q c) s

/-- The last block on the removed cores has gone: the command ends. -/
def execCtxPartitionDone (s : State) : Host.Outcome State Fault Refusal :=
  event (fun s =>
    match s.cmdBusy with
    | some q =>
      match s.ctx? q.c.ctx.toNat with
      | some c =>
        if q.op = 0x03 && c.stat = 2 && !s.onLostCores c then (s.modCtx c.num fun x => { x with stat := 1 }).cmdEnd q 0 0 else s
      | none => s
    | none => s) s

/-! Graphs (R65, R78). -/

/-- GRAPH_REGISTER. A read that takes a device fault ends the command with GRAPH_BAD at its byte, for it cannot be read (DESIGN CHOICE, log entry 44). -/
def State.graphRegister (s : State) (q : QCmd) (c : Ctx) : State :=
  let va := q.c.w1.toNat
  let h := q.c.w2.toNat
  let who : Holder := .cmd c.num
  if c.graphs.any fun g => g.handle = h then s.cmdEnd q 0x33 0
  else
    match s.graphCheck who c va h with
    | .hold a => s.gcHold who c ⟨c.num, 0, 0⟩ a
    | .dev x off => if x.f = .clear then s else (s.physTrap c.num x.f c.home 0x91 x.pa).cmdEnd q 0x34 off
    | .bad off => s.cmdEnd q 0x34 off
    | .ok g codes => (s.keepGraph who c g codes).cmdEnd q 0 0

def execGraphRegister (s : State) : Host.Outcome State Fault Refusal :=
  event (fun s => s.command 0x04 (fun _ => true) fun q s =>
    s.onCtx q (bits q.c.w2.toNat 12 52 = 0 && q.c.w1.toNat % 64 = 0) fun c s => s.graphRegister q c) s

def State.graphRelease (s : State) (q : QCmd) (c : Ctx) : State :=
  let h := q.c.w1.toNat
  if !(c.graphs.any fun g => g.handle = h) then s.cmdEnd q 0x32 0
  else if s.replays.any fun r => r.ctx = c.num && r.handle = h then s.cmdEnd q 0x33 0
  else (s.modCtx c.num fun x => { x with graphs := x.graphs.filter fun g => g.handle != h }).cmdEnd q 0 0

def execGraphRelease (s : State) : Host.Outcome State Fault Refusal :=
  event (fun s => s.command 0x05 (fun _ => true) fun q s =>
    s.onCtx q (bits q.c.w1.toNat 12 52 = 0) fun c s => s.graphRelease q c) s

/-! CTX_LIMITS (R81). -/

/-- CTX_LIMITS. Nodes that a pool holds keep the dispatch class they have when CLASSMAX falls: the spec caps a class as a node is taken and ages (DESIGN
CHOICE, log entry 44). -/
def execCtxLimits (s : State) : Host.Outcome State Fault Refusal :=
  event (fun s => s.command 0x06 (fun _ => true) fun q s =>
    let w := q.c.w1.toNat
    let poolQ := bits w 2 13
    s.onCtx q (bits w 15 49 = 0 && 1 ≤ poolQ && poolQ ≤ 4096) fun c s =>
      (s.modCtx c.num fun x => { x with classMax := bits w 0 2, poolQ := poolQ }).cmdEnd q 0 0) s

/-! Landing regions and receive counters (R79). -/

/-- A region's index and die in word 1. -/
def regionKey (q : QCmd) : Die × Nat := (dieOf (q.c.w1.getLsbD 10), bits q.c.w1.toNat 0 10)

/-- Whether a region is VALID for a context other than c. -/
def State.regionTaken (s : State) (d : Die) (i n : Nat) : Bool := s.regions.any fun r => r.die = d && r.idx = i && r.ctx != n

def State.regionSet (s : State) (q : QCmd) (c : Ctx) : State :=
  let (d, i) := regionKey q
  let base := q.c.w2.toNat
  let len := q.c.w3.toNat
  let ctr := bits q.c.w4.toNat 0 13
  let unit := bits q.c.w4.toNat 14 2
  if base % 64 ≠ 0 || len < 64 || 2 ^ 40 < len || len % 64 ≠ 0 || unit = 3 ||
      !(s.counters.any fun x => x.die = d && x.idx = ctr && x.ctx = c.num) then s.cmdEnd q 0x32 0
  else if s.regionTaken d i c.num then s.cmdEnd q 0x33 0
  else
    ({ s with
      regions := (s.regions.filter fun r => !(r.die = d && r.idx = i)) ++ [⟨d, i, c.num, base, len, ctr, unit⟩]
      msgs := s.msgs.filter fun m => !(m.die = d && m.idx = i) } : State).cmdEnd q 0 0

/-- VALID of REGION_SET. -/
def QCmd.valid (q : QCmd) : Bool := q.c.w1.getLsbD 11

def execRegionSet (s : State) : Host.Outcome State Fault Refusal :=
  event (fun s => s.command 0x07 QCmd.valid fun q s =>
    let w4 := q.c.w4.toNat
    s.onCtx q (bits q.c.w1.toNat 12 52 = 0 && bits q.c.w2.toNat 56 8 = 0 && bits q.c.w3.toNat 41 23 = 0 && !bit w4 13 && bits w4 16 48 = 0)
      fun c s => s.regionSet q c) s

def execRegionFree (s : State) : Host.Outcome State Fault Refusal :=
  event (fun s => s.command 0x07 (fun q => !q.valid) fun q s =>
    s.onCtx q (bits q.c.w1.toNat 12 52 = 0) fun c s =>
      let (d, i) := regionKey q
      if s.regionTaken d i c.num then s.cmdEnd q 0x33 0
      else
        ({ s with
          regions := s.regions.filter fun r => !(r.die = d && r.idx = i)
          msgs := s.msgs.filter fun m => !(m.die = d && m.idx = i) } : State).cmdEnd q 0 0) s

/-- COUNTER_SET's die, index and action. -/
def counterKey (q : QCmd) : Die × Nat := (dieOf (q.c.w1.getLsbD 13), bits q.c.w1.toNat 0 13)
def QCmd.action (q : QCmd) : Nat := bits q.c.w1.toNat 14 2

/-- The reserved bits of COUNTER_SET are zero. (DEDUCED, log entry 18) -/
def QCmd.counterOk (q : QCmd) : Bool := bits q.c.w1.toNat 16 48 = 0 && bits q.c.w2.toNat 32 32 = 0

/-- A counter of another context is in use whatever the action. (DEDUCED, log entry 18) -/
def State.onCounter (s : State) (q : QCmd) (go : Ctx → Option Counter → State → State) : State :=
  s.onCtx q (q.counterOk && q.action != 3) fun c s =>
    let (d, i) := counterKey q
    match s.counter? d i with
    | some x => if x.ctx = c.num then go c (some x) s else s.cmdEnd q 0x33 0
    | none => go c none s

def execCounterSetAssign (s : State) : Host.Outcome State Fault Refusal :=
  event (fun s => s.command 0x08 (fun q => q.action = 0) fun q s =>
    s.onCounter q fun c x s =>
      let (d, i) := counterKey q
      match x with
      | some _ => ((s.modCounter d i fun y => { y with val := 0, rel := .none }).fireDue d i).cmdEnd q 0 0
      | none => ({ s with counters := s.counters ++ [⟨d, i, c.num, 0, .none⟩] } : State).cmdEnd q 0 0) s

def execCounterSetRelease (s : State) : Host.Outcome State Fault Refusal :=
  event (fun s => s.command 0x08 (fun q => q.action = 1) fun q s =>
    s.onCounter q fun _ x s =>
      let (d, i) := counterKey q
      match x with
      | none => s.cmdEnd q 0x32 0
      | some _ =>
        if s.regions.any fun r => r.die = d && r.ctr = i then s.cmdEnd q 0x33 0
        else ({ s with counters := s.counters.filter fun y => !(y.die = d && y.idx = i) } : State).cmdEnd q 0 0) s

/-- Action 2, and action 3, which is refused with reserved bits. Action 2 on a counter that is not assigned completes with BAD_ARG, as action 1 does
(DESIGN CHOICE, log entry 44). -/
def execCounterSetValue (s : State) : Host.Outcome State Fault Refusal :=
  event (fun s => s.command 0x08 (fun q => 2 ≤ q.action) fun q s =>
    s.onCounter q fun _ x s =>
      let (d, i) := counterKey q
      match x with
      | none => s.cmdEnd q 0x32 0
      | some _ => ((s.modCounter d i fun y => { y with val := BitVec.ofNat 32 q.c.w2.toNat, rel := .none }).fireDue d i).cmdEnd q 0 0) s

/-! Other OP values (R78). -/

/-- Whether a command has this OP. (DEDUCED, log entry 18) -/
def assignedOp (op : BitVec 8) : Bool := 1 ≤ op.toNat && op.toNat ≤ 8

def execCmdUnassignedOp (s : State) : Host.Outcome State Fault Refusal :=
  event (fun s =>
    match s.arg with
    | .badCmd op c => if assignedOp op then s else s.cmdWrite ⟨op, c⟩
    | .none => s.cmdRun (fun q => !assignedOp q.op) fun q s => s.cmdEnd q 0x32 0
    | _ => s) s

end Sys2Proof.Machine
end

