-- ==== Sys2Proof/Machine/Draw.lean ====
section
/-! DEFINITION. Draw streams (spec 14 R275 to R281; Mix64 of 06 R143) and the rounding of a lane result under its mode (12 R251 to
R253, 19 R346, R347). -/

namespace Sys2Proof.Machine

/-- Mix64 (R143), the last three lines of Draw64 (R275). -/
def mix64 (x : Dword) : Dword :=
  let x := (x ^^^ (x >>> 30)) * 0xBF58476D1CE4E5B9
  let x := (x ^^^ (x >>> 27)) * 0x94D049BB133111EB
  x ^^^ (x >>> 31)

/-- Draw64 (R275). -/
def draw64 (key c : Dword) : Dword := mix64 (key ^^^ (c * 0x9E3779B97F4A7C15))

/-- SampleDraw (R281). -/
def sampleDraw (key : Dword) (seq pos purpose : Nat) : Dword :=
  draw64 (mix64 (key ^^^ 0xD1B54A32D192ED03)) (BitVec.ofNat 64 (seq * 2 ^ 32 + pos * 4 + purpose))

/-- The next thread draw: its upper 32 bits, and the counter advanced (R275). -/
def State.draw32 (s : State) (r : ThreadRef) : Word × State :=
  match s.thread? r with
  | none => (0, s)
  | some th =>
    let d := draw64 th.key th.draw
    ((d >>> 32).setWidth 32, s.modThread r fun th => { th with draw := th.draw + 1 })

/-- Draws n words in order. -/
def State.draws (s : State) (r : ThreadRef) : Nat → List Word × State
  | 0 => ([], s)
  | n + 1 =>
    let (d, s1) := s.draw32 r
    let (ds, s2) := s1.draws r n
    (d :: ds, s2)

/-- RND and SAT of a MODE field with RND in bits 2:0 and SAT in bit 3 (R346). -/
structure RndSat where
  mode : RMode
  sat : Bool
  deriving DecidableEq, Repr

def RndSat.of (m : Nat) : RndSat := ⟨(RMode.ofField (m % 8)).getD .rn, m / 8 % 2 = 1⟩

/-- One floating result element: its draw, its code, its events (R347, R252, R260). ops are the operands. -/
def LaneEnv.round (e : LaneEnv) (s : State) (t : FTy) (q : RndSat) (ops : List Val) (v : Val) : Nat × State :=
  let (d, s1) := if q.mode = .sr then s.draw32 e.r else (0, s)
  let x := roundTo t q.mode q.sat d.toNat (ops.any Val.isNan) (ops.any Val.isInf) v
  (x.code, e.fp s1 t x.ev)

end Sys2Proof.Machine
end

