-- ==== Sys2Proof/Machine/Integer.lean ====
section
/-! DEFINITION. Integer, logic, move and address instructions (spec 19 R349 to R356). -/

namespace Sys2Proof.Machine

/-! The results, on values. -/

/-- T(x) of R351: unsigned or signed reading. -/
def readInt (u : Bool) (x : Word) : Int := if u then x.toNat else x.toInt

/-- The result of ADD, SUB and MAD from the exact value (R351). -/
def satm (m : Nat) (x : Int) : Word :=
  match m with
  | 2 => BitVec.ofInt 32 (clampInt x (-2147483648) 2147483647)
  | 3 => BitVec.ofInt 32 (clampInt x 0 4294967295)
  | _ => BitVec.ofInt 32 x

def mulhiOf (u : Bool) (a b : Word) : Word := BitVec.ofInt 32 (readInt u a * readInt u b / 4294967296)

/-- SHL, SHR and SAR (R352). -/
def shlOf (a : Word) (n : Nat) : Word := if n < 32 then a <<< n else 0
def shrOf (a : Word) (n : Nat) : Word := if n < 32 then a >>> n else 0
def sarOf (a : Word) (n : Nat) : Word := if n < 32 then a.sshiftRight n else if a.msb then 0xFFFFFFFF else 0

def minOf (u : Bool) (a b : Word) : Word := if readInt u a ≤ readInt u b then a else b
def maxOf (u : Bool) (a b : Word) : Word := if readInt u a ≤ readInt u b then b else a

/-- Set bits among the low n. -/
def ones (a : Word) : Nat → Nat
  | 0 => 0
  | n + 1 => ones a n + b2n (a.getLsbD n)

/-- Leading zeros among the low n. -/
def zerosFrom (a : Word) : Nat → Nat
  | 0 => 0
  | n + 1 => if a.getLsbD n then 0 else zerosFrom a n + 1

/-- BFE (R353). -/
def bfeOf (sx : Bool) (a ctl : Word) : Word :=
  let pos := bits ctl.toNat 0 8
  let len0 := bits ctl.toNat 8 8
  if len0 = 0 || 32 ≤ pos then 0
  else
    let len := min len0 (32 - pos)
    let f := bits a.toNat pos len
    BitVec.ofInt 32 (if sx then sval len f else f)

/-- BFI (R353). -/
def bfiOf (a b ctl : Word) : Word :=
  let pos := bits ctl.toNat 0 8
  let len0 := bits ctl.toNat 8 8
  if len0 = 0 || 32 ≤ pos then a
  else
    let len := min len0 (32 - pos)
    let m := BitVec.ofNat 32 ((2 ^ len - 1) * 2 ^ pos)
    (a &&& ~~~m) ||| ((b <<< pos) &&& m)

/-- The conditions EQ, NE, LT, LE, GT, GE on integers (R350, R354). -/
def condInt (c : Nat) (a b : Int) : Bool :=
  match c with
  | 0 => a = b | 1 => a ≠ b | 2 => a < b | 3 => a ≤ b | 4 => b < a | _ => b ≤ a

def flagWord (x : Bool) : Word := if x then 1 else 0

/-- ADDA (R356). -/
def addaOf (u : Bool) (sh : Nat) (a : Dword) (b : Word) : Dword := a + BitVec.ofInt 64 (readInt u b * 2 ^ sh)

/-- Sign-extended immediates of I-format and XI. -/
def immI (f : ShortI) : Word := f.imm.signExtend 32
def immXI (f : XI) : Word := f.imm.signExtend 32

/-! How a lane unit writes what it computes from its sources. -/

def lane1 (i : Instr) (g : Word → Word) (s : State) : Host.Outcome State Fault Refusal :=
  lane i (fun e s => .done (e.write s [g (e.x 0)])) s

def lane2 (i : Instr) (g : Word → Word → Word) (s : State) : Host.Outcome State Fault Refusal :=
  lane i (fun e s => .done (e.write s [g (e.x 0) (e.x 1)])) s

def lane3 (i : Instr) (g : Word → Word → Word → Word) (s : State) : Host.Outcome State Fault Refusal :=
  lane i (fun e s => .done (e.write s [g (e.x 0) (e.x 1) (e.x 2)])) s

def lanePair1 (i : Instr) (g : Dword → Dword) (s : State) : Host.Outcome State Fault Refusal :=
  lane i (fun e s => .done (e.write s (two (g (e.pair 0))))) s

def lanePair2 (i : Instr) (g : Dword → Word → Dword) (s : State) : Host.Outcome State Fault Refusal :=
  lane i (fun e s => .done (e.write s (two (g (e.pair 0) (e.x 1))))) s

/-! Short forms (R349). -/

def execAdd (f : ShortR) (s : State) : Host.Outcome State Fault Refusal := lane2 (.add f) (fun a b => a + b) s
def execAddi (f : ShortI) (s : State) : Host.Outcome State Fault Refusal := lane1 (.addi f) (fun a => a + immI f) s
def execSub (f : ShortR) (s : State) : Host.Outcome State Fault Refusal := lane2 (.sub f) (fun a b => a - b) s
def execMul (f : ShortR) (s : State) : Host.Outcome State Fault Refusal := lane2 (.mul f) (fun a b => a * b) s
def execAnd (f : ShortR) (s : State) : Host.Outcome State Fault Refusal := lane2 (.and f) (fun a b => a &&& b) s
def execOr (f : ShortR) (s : State) : Host.Outcome State Fault Refusal := lane2 (.or f) (fun a b => a ||| b) s
def execXor (f : ShortR) (s : State) : Host.Outcome State Fault Refusal := lane2 (.xor f) (fun a b => a ^^^ b) s
def execAndi (f : ShortI) (s : State) : Host.Outcome State Fault Refusal := lane1 (.andi f) (fun a => a &&& immI f) s
def execOri (f : ShortI) (s : State) : Host.Outcome State Fault Refusal := lane1 (.ori f) (fun a => a ||| immI f) s
def execXori (f : ShortI) (s : State) : Host.Outcome State Fault Refusal := lane1 (.xori f) (fun a => a ^^^ immI f) s
def execShli (f : ShortI) (s : State) : Host.Outcome State Fault Refusal := lane1 (.shli f) (fun a => shlOf a f.imm.toNat) s
def execShri (f : ShortI) (s : State) : Host.Outcome State Fault Refusal := lane1 (.shri f) (fun a => shrOf a f.imm.toNat) s
def execSari (f : ShortI) (s : State) : Host.Outcome State Fault Refusal := lane1 (.sari f) (fun a => sarOf a f.imm.toNat) s
def execMov (f : ShortR) (s : State) : Host.Outcome State Fault Refusal := lane1 (.mov f) (fun a => a) s
def execMovi (f : ShortI) (s : State) : Host.Outcome State Fault Refusal :=
  lane (.movi f) (fun e s => .done (e.write s [immI f])) s
def execCmpeq (f : ShortR) (s : State) : Host.Outcome State Fault Refusal := lane2 (.cmpeq f) (fun a b => flagWord (a = b)) s
def execCmplt (f : ShortR) (s : State) : Host.Outcome State Fault Refusal := lane2 (.cmplt f) (fun a b => flagWord (a.slt b)) s
def execAdda (f : ShortR) (s : State) : Host.Outcome State Fault Refusal := lanePair2 (.adda f) (addaOf false 0) s
def execAddai (f : ShortI) (s : State) : Host.Outcome State Fault Refusal :=
  lanePair1 (.addai f) (fun a => a + f.imm.signExtend 64) s

/-! Long forms (R350 to R356). -/

def execAddLong (f : X3) (s : State) : Host.Outcome State Fault Refusal :=
  lane2 (.addLong f) (fun a b => let u := f.mode = 3; satm f.mode.toNat (readInt u a + readInt u b)) s
def execSubLong (f : X3) (s : State) : Host.Outcome State Fault Refusal :=
  lane2 (.subLong f) (fun a b => let u := f.mode = 3; satm f.mode.toNat (readInt u a - readInt u b)) s
def execMulLong (f : X3) (s : State) : Host.Outcome State Fault Refusal := lane2 (.mulLong f) (fun a b => a * b) s
def execMulhi (f : X3) (s : State) : Host.Outcome State Fault Refusal := lane2 (.mulhi f) (mulhiOf (f.mode = 1)) s
def execMad (f : X3) (s : State) : Host.Outcome State Fault Refusal :=
  lane3 (.mad f) (fun a b c => let u := f.mode = 3; satm f.mode.toNat (readInt u a * readInt u b + readInt u c)) s
/-- b, inverted when INV is set (R352). -/
def invOf (f : X3) (b : Word) : Word := if f.mode = 1 then ~~~b else b
def execAndLong (f : X3) (s : State) : Host.Outcome State Fault Refusal := lane2 (.andLong f) (fun a b => a &&& invOf f b) s
def execOrLong (f : X3) (s : State) : Host.Outcome State Fault Refusal := lane2 (.orLong f) (fun a b => a ||| invOf f b) s
def execXorLong (f : X3) (s : State) : Host.Outcome State Fault Refusal := lane2 (.xorLong f) (fun a b => a ^^^ invOf f b) s
def execShl (f : X3) (s : State) : Host.Outcome State Fault Refusal := lane2 (.shl f) (fun a b => shlOf a b.toNat) s
def execShr (f : X3) (s : State) : Host.Outcome State Fault Refusal := lane2 (.shr f) (fun a b => shrOf a b.toNat) s
def execSar (f : X3) (s : State) : Host.Outcome State Fault Refusal := lane2 (.sar f) (fun a b => sarOf a b.toNat) s
def execMin (f : X3) (s : State) : Host.Outcome State Fault Refusal := lane2 (.min f) (minOf (f.mode = 1)) s
def execMax (f : X3) (s : State) : Host.Outcome State Fault Refusal := lane2 (.max f) (maxOf (f.mode = 1)) s
def execPopc (f : X3) (s : State) : Host.Outcome State Fault Refusal := lane1 (.popc f) (fun a => BitVec.ofNat 32 (ones a 32)) s
def execClz (f : X3) (s : State) : Host.Outcome State Fault Refusal := lane1 (.clz f) (fun a => BitVec.ofNat 32 (zerosFrom a 32)) s
def execBfe (f : X3) (s : State) : Host.Outcome State Fault Refusal := lane2 (.bfe f) (bfeOf (f.mode = 1)) s
def execBfi (f : X3) (s : State) : Host.Outcome State Fault Refusal := lane3 (.bfi f) bfiOf s
def execSel (f : X3) (s : State) : Host.Outcome State Fault Refusal := lane3 (.sel f) (fun a b c => if c ≠ 0 then a else b) s
def execCmp (f : X3) (s : State) : Host.Outcome State Fault Refusal :=
  lane2 (.cmp f) (fun a b => let u := 8 ≤ f.mode.toNat; flagWord (condInt (f.mode.toNat % 8) (readInt u a) (readInt u b))) s
def execAddaLong (f : X3) (s : State) : Host.Outcome State Fault Refusal :=
  lanePair2 (.addaLong f) (addaOf (f.mode.toNat % 2 = 1) (f.mode.toNat / 2)) s
def execMovLong (f : X3) (s : State) : Host.Outcome State Fault Refusal := lane1 (.movLong f) (fun a => a) s
def execMovp (f : X3) (s : State) : Host.Outcome State Fault Refusal := lanePair1 (.movp f) (fun a => a) s
def execMoviLong (f : XI) (s : State) : Host.Outcome State Fault Refusal :=
  lane (.moviLong f) (fun e s => .done (e.write s [immXI f])) s
def execAddiLong (f : XI) (s : State) : Host.Outcome State Fault Refusal := lane1 (.addiLong f) (fun a => a + immXI f) s
def execAndiLong (f : XI) (s : State) : Host.Outcome State Fault Refusal := lane1 (.andiLong f) (fun a => a &&& immXI f) s
def execOriLong (f : XI) (s : State) : Host.Outcome State Fault Refusal := lane1 (.oriLong f) (fun a => a ||| immXI f) s
def execXoriLong (f : XI) (s : State) : Host.Outcome State Fault Refusal := lane1 (.xoriLong f) (fun a => a ^^^ immXI f) s
def execAddaiLong (f : XI) (s : State) : Host.Outcome State Fault Refusal :=
  lanePair1 (.addaiLong f) (fun a => a + f.imm.signExtend 64) s

/-! NOP (R324). -/

/-- NOP: a lane thread goes on at the next word, a lead context passes it. -/
def execNop (f : ShortN) (s : State) : Host.Outcome State Fault Refusal :=
  match s.issue.agent with
  | some (.lead r) =>
    match s.lead? r with
    | none => .next s
    | some l =>
      if f.x ≠ 0 then .next (s.leadTrap r (.sync 0x01 2 0))
      else if 2 ^ 48 ≤ l.pc.toNat + 1 then .next (s.leadTrap r (.sync 0x03 0 0))
      else .next ((s.modLead r fun l => { l with pc := l.pc + 1, status := .ready, pass := false }).ended .done)
  | _ => lane (.nop f) (fun _ s => .done s) s

end Sys2Proof.Machine
end

