-- ==== Sys2Proof/Machine/SFunc.lean ====
section
/-! DEFINITION. The special functions of R256 as exact values with 300 and more correct bits: fixed-point integers scaled by 2^fp.
Their last bits only matter for whether the value is exact, which is known for every function (DEDUCED, log entry 8). -/

namespace Sys2Proof.Machine

/-- Fraction bits of the fixed-point numbers below. -/
def fp : Nat := 640

/-- Σ sign^k × z / (n^(2k) (2k+1)) over the terms left, z being the scaled power: arc tangent or its hyperbolic kin of 1/n. -/
def atanGo (alt : Bool) (n2 : Nat) : Nat → Nat → Nat → Int → Int
  | 0, _, _, acc => acc
  | fuel + 1, k, z, acc =>
    let t : Int := z / (2 * k + 1)
    atanGo alt n2 fuel (k + 1) (z / n2) (if alt && k % 2 = 1 then acc - t else acc + t)

/-- atan(1/n), scaled. -/
def atanInv (n : Nat) : Int := atanGo true (n * n) 300 0 (2 ^ fp / n) 0
/-- atanh(1/n), scaled. -/
def atanhInv (n : Nat) : Int := atanGo false (n * n) 300 0 (2 ^ fp / n) 0

/-- π, scaled (Machin). -/
def piFix : Nat := (16 * atanInv 5 - 4 * atanInv 239).toNat
/-- ln 2, scaled. -/
def ln2Fix : Nat := (18 * atanhInv 26 - 2 * atanhInv 4801 + 8 * atanhInv 8749).toNat

/-- e^y − 1 over the terms left, for a scaled y in 0 to 1: Σ y^k / k!. -/
def expGo (y : Nat) : Nat → Nat → Nat → Nat → Nat
  | 0, _, _, acc => acc
  | fuel + 1, k, t, acc =>
    let t' := t * y / 2 ^ fp / k
    expGo y fuel (k + 1) t' (acc + t')

/-- e^y, scaled, for a scaled y in 0 to 1. -/
def expFix (y : Nat) : Nat := 2 ^ fp + expGo y 160 1 (2 ^ fp) 0

/-- Alternating series with terms t × y² / ((k)(k+1)): sine from k = 2, cosine from k = 1. -/
def trigGo (y2 : Nat) : Nat → Nat → Nat → Bool → Int → Int
  | 0, _, _, _, acc => acc
  | fuel + 1, k, t, neg, acc =>
    let t' := t * y2 / 2 ^ fp / (k * (k + 1))
    trigGo y2 fuel (k + 2) t' (!neg) (if neg then acc - t' else acc + t')

/-- sin y and cos y, scaled, for a scaled y in 0 to 1. -/
def sinFix (y : Nat) : Int := trigGo (y * y / 2 ^ fp) 90 2 y true y
def cosFix (y : Nat) : Int := trigGo (y * y / 2 ^ fp) 90 1 (2 ^ fp) true (2 ^ fp : Nat)

/-- A scaled integer as a value whose exactness is known to fail. -/
def ofFix (n : Int) : Exact := ⟨n < 0, n.natAbs, -(fp : Int), true⟩

/-- Floor of |v| scaled by 2^fp. -/
def Exact.fix (v : Exact) : Nat :=
  let e := v.x + fp
  if e ≥ 0 then v.m * 2 ^ e.toNat else v.m / 2 ^ (-e).toNat

/-- 2^x of a finite x: exact for an integer x (R256). -/
def exp2Exact (v : Exact) : Exact :=
  if v.isZero then ⟨false, 1, 0, false⟩
  else if !v.magLt ⟨false, 1, 16, false⟩ then ⟨false, 1, if v.s then -65536 else 65536, true⟩
  else
    -- |x| = n + r
    let n : Int := if v.x ≥ 0 then v.m * 2 ^ v.x.toNat else v.m / 2 ^ (-v.x).toNat
    let r : Nat := if v.x ≥ 0 then 0 else v.m % 2 ^ (-v.x).toNat
    if r = 0 then ⟨false, 1, if v.s then -n else n, false⟩
    else
      -- r scaled, upper part first: a tiny r still leaves the value inexact
      let rf := r * 2 ^ fp / 2 ^ (-v.x).toNat
      let (k, g) : Int × Nat := if v.s then (-n - 1, 2 ^ fp - rf) else (n, rf)
      (ofFix (expFix (g * ln2Fix / 2 ^ fp))).shift k

/-- ln of a value in 1 to 2 given as numerator over denominator: 2 atanh((n−d)/(n+d)), scaled. -/
def lnGo (z2 : Nat) : Nat → Nat → Nat → Nat → Nat
  | 0, _, _, acc => acc
  | fuel + 1, k, t, acc => lnGo z2 fuel (k + 1) (t * z2 / 2 ^ fp) (acc + t / (2 * k + 1))

def lnFix (n d : Nat) : Nat :=
  let z := (n - d) * 2 ^ fp / (n + d)
  2 * lnGo (z * z / 2 ^ fp) 210 0 z 0

/-- log2 x of a positive x: exact for a power of two (R256). -/
def log2Exact (v : Exact) : Exact :=
  let l := Nat.log2 v.m
  let e : Int := l + v.x
  if v.m = 2 ^ l then Exact.ofInt e
  else ofFix (e * (2 ^ fp : Nat) + (lnFix v.m (2 ^ l) * 2 ^ fp / ln2Fix : Nat))

/-- x = k × π/2 + y with y in 0 to π/2: k mod 4 and y scaled. -/
def reduceTrig (v : Exact) : Nat × Nat :=
  let x := v.fix
  let half := piFix / 2
  (x / half % 4, x % half)

/-- sin and cos of a scaled angle in 0 to π/2, by its complement above 1. -/
def sinCos (y : Nat) : Int × Int :=
  if y ≤ 2 ^ fp * 4 / 5 then (sinFix y, cosFix y)
  else let c := piFix / 2 - y; (cosFix c, sinFix c)

def sinExact (v : Exact) : Exact :=
  if v.isZero then v
  else if v.magLt ⟨false, 1, -100, false⟩ then { v with m := v.m * 2 ^ 400 - 1, x := v.x - 400, more := true }
  else
    let (k, y) := reduceTrig v
    let (sn, cs) := sinCos y
    let r := match k with | 0 => sn | 1 => cs | 2 => -sn | _ => -cs
    ofFix (if v.s then -r else r)

def cosExact (v : Exact) : Exact :=
  if v.isZero then ⟨false, 1, 0, false⟩
  else if v.magLt ⟨false, 1, -200, false⟩ then ⟨false, 2 ^ 400 - 1, -400, true⟩
  else
    let (k, y) := reduceTrig v
    let (sn, cs) := sinCos y
    ofFix (match k with | 0 => cs | 1 => -sn | 2 => -cs | _ => sn)

/-- e^(−2|x|) for |x| below 256. -/
def expNeg2 (v : Exact) : Exact :=
  -- e^(−y) = 2^(−y / ln 2)
  exp2Exact ⟨true, v.abs.fix * 2 * 2 ^ fp / ln2Fix, -(fp : Int), true⟩

/-- tanh x = (1 − q)/(1 + q) with q = e^(−2|x|). -/
def tanhExact (v : Exact) : Exact :=
  if v.isZero then v
  else if v.magLt ⟨false, 1, -100, false⟩ then { v with m := v.m * 2 ^ 400 - 1, x := v.x - 400, more := true }
  else if !v.magLt ⟨false, 256, 0, false⟩ then ⟨v.s, 2 ^ 400 - 1, -400, true⟩
  else
    let q := (expNeg2 v).fix
    ⟨v.s, (2 ^ fp - q) * 2 ^ fp / (2 ^ fp + q), -(fp : Int), true⟩

/-- The eight special functions (R256, R377). -/
inductive SFn where
  | rcp | rsq | sqrt | log2 | exp2 | sin | cos | tanh
  deriving DecidableEq, Repr

/-- The code FN of R377. -/
def SFn.ofField : Nat → SFn
  | 0 => .rcp | 1 => .rsq | 2 => .sqrt | 3 => .log2 | 4 => .exp2 | 5 => .sin | 6 => .cos
  | _ => .tanh

/-- The value before rounding, with the special operands of R256's table. -/
def SFn.eval (fn : SFn) (a : Val) : Val :=
  match a with
  | .nan s f => .nan s (f ||| 2 ^ 51)
  | .inf s =>
    match fn with
    | .rcp => .num (.zero s)
    | .rsq => if s then .defaultNan else .num (.zero false)
    | .sqrt | .log2 => if s then .defaultNan else .inf false
    | .exp2 => if s then .num (.zero false) else .inf false
    | .sin | .cos => .defaultNan
    | .tanh => .num ⟨s, 1, 0, false⟩
  | .num v =>
    match fn with
    | .rcp => if v.isZero then .inf v.s else .num (Exact.div ⟨false, 1, 0, false⟩ v)
    | .rsq =>
      if v.isZero then .inf v.s else if v.s then .defaultNan
      else
        let r := v.sqrt
        .num (Exact.div ⟨false, 1, 0, false⟩ r)
    | .sqrt => if v.isZero then .num v else if v.s then .defaultNan else .num v.sqrt
    | .log2 => if v.isZero then .inf true else if v.s then .defaultNan else .num (log2Exact v)
    | .exp2 => .num (exp2Exact v)
    | .sin => .num (sinExact v)
    | .cos => .num (cosExact v)
    | .tanh => .num (tanhExact v)

/-- The square of the function's derivative at a finite mean inside the domain (R266) as a fraction, or none where it is infinite. -/
def SFn.slope2 (fn : SFn) (v : Exact) : Option (Exact × Exact) :=
  let one : Exact := ⟨false, 1, 0, false⟩
  match fn with
  | .rcp => if v.isZero then none else let q := v.mul v; some (one, q.mul q)
  | .rsq => if v.isZero then none else some (one, ((v.mul v).mul v).abs.shift 2)
  | .sqrt => if v.isZero then none else some (one, v.abs.shift 2)
  | .log2 =>
    if v.isZero then none
    else
      let l := ofFix ln2Fix
      some ((one.div ((v.mul v).mul (l.mul l))).abs, one)
  | .exp2 =>
    let y := exp2Exact v
    let l := ofFix ln2Fix
    some (((y.mul y).mul (l.mul l)).trim, one)
  | .sin => let c := cosExact v; some ((c.mul c).abs.trim, one)
  | .cos => let c := sinExact v; some ((c.mul c).abs.trim, one)
  | .tanh =>
    if v.isZero then some (one, one)
    else if v.magLt ⟨false, 1, -200, false⟩ then some (⟨false, 2 ^ 400 - 1, -400, true⟩, one)
    else if !v.magLt ⟨false, 256, 0, false⟩ then some (⟨false, 1, -1200, true⟩, one)
    else
      -- 1 − tanh² = 4q / (1 + q)²
      let q := (expNeg2 v).fix
      let n := 4 * q * 2 ^ fp * 2 ^ fp / ((2 ^ fp + q) * (2 ^ fp + q))
      let d : Exact := ⟨false, n, -(fp : Int), true⟩
      some ((d.mul d).trim, one)

/-- The same at an infinite mean inside the domain. -/
def SFn.slopeInf (fn : SFn) (s : Bool) : Option (Exact × Exact) :=
  let one : Exact := ⟨false, 1, 0, false⟩
  match fn with
  | .exp2 => if s then some (.zero false, one) else none
  | _ => some (.zero false, one)

end Sys2Proof.Machine
end

