-- ==== Sys2Proof/Machine/Float.lean ====
section
/-! DEFINITION. F32, F64, packed 16-bit and special-function instructions and conversions (spec 19 R357 to R370). -/

namespace Sys2Proof.Machine

/-! Results on values and codes. -/

/-- The code of the first NaN among codes, quieted (R249). -/
def firstNanCode (t : FTy) (cs : List Nat) : Option Nat :=
  match firstNan (cs.map t.value) with
  | some (.nan s f) => some (t.nanCode s f)
  | _ => none

/-- FMIN and FMAX on codes (R359). -/
def minMaxCode (t : FTy) (greater num : Bool) (a b : Nat) : Nat :=
  let va := t.value a
  let vb := t.value b
  if num && va.isNan && !vb.isNan then b
  else if num && vb.isNan && !va.isNan then a
  else
    match firstNanCode t [a, b] with
    | some n => n
    | none => if Val.lt true va vb = greater then b else a

/-- FCMP and DCMP (R360). -/
def condFloat (c : Nat) (a b : Val) : Bool :=
  let un := a.isNan || b.isNan
  let lt := Val.lt false a b
  let gt := Val.lt false b a
  match c with
  | 0 => !un && !lt && !gt
  | 1 => un || lt || gt
  | 2 => !un && lt
  | 3 => !un && !gt
  | 4 => !un && gt
  | 5 => !un && !lt
  | 6 => un
  | _ => !un

/-- FCLASS (R361). -/
def fclassOf (a : Word) : Word :=
  let n := a.toNat
  let neg := bit n 31
  let ex := bits n 23 8
  let fr := bits n 0 23
  if ex = 255 then
    if fr = 0 then (if neg then 4 else 0x200) else if bit n 22 then 2 else 1
  else if ex = 0 then
    if fr = 0 then (if neg then 0x20 else 0x40) else if neg then 0x10 else 0x80
  else if neg then 8 else 0x100

/-- FROUND (R362). -/
def froundOf (mode : RMode) (a : Word) : Word :=
  match f32v a with
  | .nan s f => BitVec.ofNat 32 (FTy.f32.nanCode s f)
  | .inf _ => a
  | .num v =>
    let n := (v.toInt mode 0).natAbs
    BitVec.ofNat 32 (rne .f32 (.num ⟨v.s, n, 0, false⟩))

/-! Lane forms. -/

/-- An F32 result from one exact value of F32 sources. -/
def laneF (i : Instr) (q : RndSat) (n : Nat) (g : List Val → Val) (s : State) : Host.Outcome State Fault Refusal :=
  lane i (fun e s =>
    let ops := (List.range n).map fun k => f32v (e.x k)
    let (c, s1) := e.round s .f32 q ops (g ops)
    .done (e.write s1 [BitVec.ofNat 32 c])) s

/-- An F64 result from one exact value of F64 sources. -/
def laneD (i : Instr) (q : RndSat) (n : Nat) (g : List Val → Val) (s : State) : Host.Outcome State Fault Refusal :=
  lane i (fun e s =>
    let ops := (List.range n).map fun k => f64v (e.pair k)
    let (c, s1) := e.round s .f64 q ops (g ops)
    .done (e.write s1 (two (BitVec.ofNat 64 c)))) s

/-- Element j of a packed word. -/
def half (w : Word) (j : Nat) : Nat := bits w.toNat (16 * j) 16

/-- Packed results, element 0 rounded first (R365). -/
def laneH (i : Instr) (t : FTy) (q : RndSat) (n : Nat) (g : List Val → Val) (s : State) : Host.Outcome State Fault Refusal :=
  lane i (fun e s =>
    let ops (j : Nat) := (List.range n).map fun k => t.value (half (e.x k) j)
    let (c0, s1) := e.round s t q (ops 0) (g (ops 0))
    let (c1, s2) := e.round s1 t q (ops 1) (g (ops 1))
    .done (e.write s2 [BitVec.ofNat 32 (c0 + 65536 * c1)])) s

/-- The exact values of R358; rd says that the mode is RD. -/
def addV (rd : Bool) (l : List Val) : Val := Val.add rd (l.getD 0 .defaultNan) (l.getD 1 .defaultNan)
def subV (rd : Bool) (l : List Val) : Val := Val.add rd (l.getD 0 .defaultNan) (l.getD 1 .defaultNan).neg
def mulV (l : List Val) : Val := Val.mul (l.getD 0 .defaultNan) (l.getD 1 .defaultNan)
def fmaV (rd : Bool) (l : List Val) : Val := Val.fma rd (l.getD 0 .defaultNan) (l.getD 1 .defaultNan) (l.getD 2 .defaultNan)

def RndSat.rn : RndSat := ⟨.rn, false⟩
def rsOf (f : X3) : RndSat := RndSat.of f.mode.toNat
def rdOf (f : X3) : Bool := (rsOf f).mode = .rd

def execFadd (f : ShortR) (s : State) : Host.Outcome State Fault Refusal := laneF (.fadd f) .rn 2 (addV false) s
def execFsub (f : ShortR) (s : State) : Host.Outcome State Fault Refusal := laneF (.fsub f) .rn 2 (subV false) s
def execFmul (f : ShortR) (s : State) : Host.Outcome State Fault Refusal := laneF (.fmul f) .rn 2 mulV s

def minMaxWord (greater num : Bool) (a b : Word) : Word := BitVec.ofNat 32 (minMaxCode .f32 greater num a.toNat b.toNat)
def minMaxDword (greater num : Bool) (a b : Dword) : Dword := BitVec.ofNat 64 (minMaxCode .f64 greater num a.toNat b.toNat)

def execFmin (f : ShortR) (s : State) : Host.Outcome State Fault Refusal := lane2 (.fmin f) (minMaxWord false false) s
def execFmax (f : ShortR) (s : State) : Host.Outcome State Fault Refusal := lane2 (.fmax f) (minMaxWord true false) s
def execFcmplt (f : ShortR) (s : State) : Host.Outcome State Fault Refusal :=
  lane2 (.fcmplt f) (fun a b => flagWord (condFloat 2 (f32v a) (f32v b))) s

def execFaddLong (f : X3) (s : State) : Host.Outcome State Fault Refusal := laneF (.faddLong f) (rsOf f) 2 (addV (rdOf f)) s
def execFsubLong (f : X3) (s : State) : Host.Outcome State Fault Refusal := laneF (.fsubLong f) (rsOf f) 2 (subV (rdOf f)) s
def execFmulLong (f : X3) (s : State) : Host.Outcome State Fault Refusal := laneF (.fmulLong f) (rsOf f) 2 mulV s
def execFma (f : X3) (s : State) : Host.Outcome State Fault Refusal := laneF (.fma f) (rsOf f) 3 (fmaV (rdOf f)) s
def execFminLong (f : X3) (s : State) : Host.Outcome State Fault Refusal := lane2 (.fminLong f) (minMaxWord false (f.mode = 1)) s
def execFmaxLong (f : X3) (s : State) : Host.Outcome State Fault Refusal := lane2 (.fmaxLong f) (minMaxWord true (f.mode = 1)) s
def execFcmp (f : X3) (s : State) : Host.Outcome State Fault Refusal :=
  lane2 (.fcmp f) (fun a b => flagWord (condFloat f.mode.toNat (f32v a) (f32v b))) s
def execFclass (f : X3) (s : State) : Host.Outcome State Fault Refusal := lane1 (.fclass f) fclassOf s
def execFround (f : X3) (s : State) : Host.Outcome State Fault Refusal := lane1 (.fround f) (froundOf (rsOf f).mode) s
def execFabs (f : X3) (s : State) : Host.Outcome State Fault Refusal := lane1 (.fabs f) (fun a => a &&& 0x7FFFFFFF) s
def execFneg (f : X3) (s : State) : Host.Outcome State Fault Refusal := lane1 (.fneg f) (fun a => a ^^^ 0x80000000) s

def execDadd (f : X3) (s : State) : Host.Outcome State Fault Refusal := laneD (.dadd f) (rsOf f) 2 (addV (rdOf f)) s
def execDsub (f : X3) (s : State) : Host.Outcome State Fault Refusal := laneD (.dsub f) (rsOf f) 2 (subV (rdOf f)) s
def execDmul (f : X3) (s : State) : Host.Outcome State Fault Refusal := laneD (.dmul f) (rsOf f) 2 mulV s
def execDfma (f : X3) (s : State) : Host.Outcome State Fault Refusal := laneD (.dfma f) (rsOf f) 3 (fmaV (rdOf f)) s
def execDmin (f : X3) (s : State) : Host.Outcome State Fault Refusal :=
  lane (.dmin f) (fun e s => .done (e.write s (two (minMaxDword false (f.mode = 1) (e.pair 0) (e.pair 1))))) s
def execDmax (f : X3) (s : State) : Host.Outcome State Fault Refusal :=
  lane (.dmax f) (fun e s => .done (e.write s (two (minMaxDword true (f.mode = 1) (e.pair 0) (e.pair 1))))) s
def execDcmp (f : X3) (s : State) : Host.Outcome State Fault Refusal :=
  lane (.dcmp f) (fun e s => .done (e.write s [flagWord (condFloat f.mode.toNat (f64v (e.pair 0)) (f64v (e.pair 1)))])) s

/-- The element format of a packed form (R365). -/
def halfOf (f : X3) : FTy := if f.mode.toNat / 16 % 2 = 1 then .f16 else .bf16

def execHadd2 (f : X3) (s : State) : Host.Outcome State Fault Refusal := laneH (.hadd2 f) (halfOf f) (rsOf f) 2 (addV (rdOf f)) s
def execHmul2 (f : X3) (s : State) : Host.Outcome State Fault Refusal := laneH (.hmul2 f) (halfOf f) (rsOf f) 2 mulV s
def execHfma2 (f : X3) (s : State) : Host.Outcome State Fault Refusal := laneH (.hfma2 f) (halfOf f) (rsOf f) 3 (fmaV (rdOf f)) s

def minMaxHalves (t : FTy) (greater num : Bool) (a b : Word) : Word :=
  BitVec.ofNat 32 (minMaxCode t greater num (half a 0) (half b 0) + 65536 * minMaxCode t greater num (half a 1) (half b 1))

def execHmin2 (f : X3) (s : State) : Host.Outcome State Fault Refusal :=
  lane2 (.hmin2 f) (minMaxHalves (halfOf f) false (f.mode.toNat % 2 = 1)) s
def execHmax2 (f : X3) (s : State) : Host.Outcome State Fault Refusal :=
  lane2 (.hmax2 f) (minMaxHalves (halfOf f) true (f.mode.toNat % 2 = 1)) s

/-! Conversions (R366 to R369). -/

/-- The types of CVT (R367). -/
inductive CvtTy where
  | float (t : FTy)
  | int (signed : Bool) (w : Nat)
  deriving DecidableEq, Repr

/-- The type of a code; codes that are none stop at decode. -/
def CvtTy.of (c : Nat) : CvtTy :=
  match c with
  | 0 => .float .f32 | 1 => .float .f64 | 2 => .float .bf16 | 3 => .float .f16 | 4 => .float .e4m3
  | 5 => .float .e5m2 | 6 => .float .e2m3 | 7 => .float .e3m2 | 8 => .float .e2m1
  | 0x10 => .int true 8 | 0x11 => .int true 16 | 0x12 => .int true 32 | 0x13 => .int true 64
  | 0x14 => .int false 8 | 0x15 => .int false 16 | 0x16 => .int false 32 | _ => .int false 64

def intMin (signed : Bool) (w : Nat) : Int := if signed then -(2 ^ (w - 1) : Nat) else 0
def intMax (signed : Bool) (w : Nat) : Int := if signed then (2 ^ (w - 1) : Nat) - 1 else (2 ^ w : Nat) - 1

/-- An integer as the registers hold it (R368): extended to 32 bits by its type. -/
def intWords (signed : Bool) (w : Nat) (x : Int) : List Word :=
  let v := wrap w x
  if w = 64 then two (BitVec.ofNat 64 v) else [BitVec.ofInt 32 (if signed then sval w v else v)]

/-- A floating code as the registers hold it (R368). -/
def codeWords (t : FTy) (c : Nat) : List Word :=
  match t with
  | .f64 => two (BitVec.ofNat 64 c)
  | _ => [BitVec.ofNat 32 c]

/-- Floating to integer (R253). -/
def floatToInt (mode : RMode) (d : Nat) (signed : Bool) (w : Nat) (v : Val) : Int :=
  match v with
  | .nan _ _ => 0
  | .inf s => if s then intMin signed w else intMax signed w
  | .num x => clampInt (x.toInt mode d) (intMin signed w) (intMax signed w)

/-- Integer to integer (R253). -/
def intToInt (sat signed : Bool) (w : Nat) (x : Int) : Int :=
  if sat then clampInt x (intMin signed w) (intMax signed w)
  else if signed then sval w (wrap w x) else wrap w x

/-- The source's exact value or its integer. -/
def CvtTy.read (t : CvtTy) (x : Nat) : Val ⊕ Int :=
  match t with
  | .float f => .inl (f.value (x % 2 ^ f.width))
  | .int signed w => .inr (if signed then sval w x else (x % 2 ^ w : Nat))

/-- CVT (R369). -/
def execCvt (f : X3) (s : State) : Host.Outcome State Fault Refusal :=
  lane (.cvt f) (fun e s =>
    let q := RndSat.of f.e.toNat
    let x := match e.vals.getD 0 [] with | [lo, hi] => (hi ++ lo : Dword).toNat | l => (l.getD 0 0).toNat
    match (CvtTy.of f.mode.toNat).read x, CvtTy.of f.b.toNat with
    | .inl v, .float t =>
      let (c, s1) := e.round s t q [v] v
      .done (e.write s1 (codeWords t c))
    | .inr n, .float t =>
      let (c, s1) := e.round s t q [] (.num (.ofInt n))
      .done (e.write s1 (codeWords t c))
    | .inl v, .int signed w =>
      let (d, s1) := if q.mode = .sr then s.draw32 e.r else (0, s)
      .done (e.write s1 (intWords signed w (floatToInt q.mode d.toNat signed w v)))
    | .inr n, .int signed w => .done (e.write s (intWords signed w (intToInt q.sat signed w n)))) s

/-! Special functions (R370). -/

def laneSf (i : Instr) (fn : SFn) (s : State) : Host.Outcome State Fault Refusal := laneF i .rn 1 (fun l => fn.eval (l.getD 0 .defaultNan)) s

def execRcp (f : X3) (s : State) : Host.Outcome State Fault Refusal := laneSf (.rcp f) .rcp s
def execRsq (f : X3) (s : State) : Host.Outcome State Fault Refusal := laneSf (.rsq f) .rsq s
def execSqrt (f : X3) (s : State) : Host.Outcome State Fault Refusal := laneSf (.sqrt f) .sqrt s
def execLog2 (f : X3) (s : State) : Host.Outcome State Fault Refusal := laneSf (.log2 f) .log2 s
def execExp2 (f : X3) (s : State) : Host.Outcome State Fault Refusal := laneSf (.exp2 f) .exp2 s
def execSin (f : X3) (s : State) : Host.Outcome State Fault Refusal := laneSf (.sin f) .sin s
def execCos (f : X3) (s : State) : Host.Outcome State Fault Refusal := laneSf (.cos f) .cos s
def execTanh (f : X3) (s : State) : Host.Outcome State Fault Refusal := laneSf (.tanh f) .tanh s

end Sys2Proof.Machine
end

