-- ==== Sys2Proof/Machine/Dist.lean ====
section
/-! DEFINITION. Distribution values (spec 13 R263 to R272, 20 R372 to R384): mean-variance and sample instructions. -/

namespace Sys2Proof.Machine

/-! Variances (R265 to R267). -/

/-- The code of a variance NaN. -/
def varNan : Word := 0x7FC00000

/-- A variance operand: its magnitude, or the NaN of R265. -/
def varOf (w : Word) : Val :=
  match f32v w with
  | .nan _ _ => .defaultNan
  | .inf _ => .inf false
  | .num v => .num v.abs

/-- A variance before rounding: infinite, or a fraction. -/
inductive Var where
  | inf
  | frac (n d : Exact)
  deriving DecidableEq, Repr

def Exact.one : Exact := ⟨false, 1, 0, false⟩

/-- The square d² of a derivative over a common denominator, or none where it is infinite, and the variance of its operand. -/
abbrev Term := Option Exact × Val

/-- A term settled under R267: none for infinite. -/
def Term.settle (t : Term) : Option Exact :=
  match t.2 with
  | .num v => if v.isZero then some (.zero false) else t.1.map fun d => d.mul v
  | _ => none

/-- 2 √(xy) summed over the pairs of a list. -/
def crossSum : List Exact → Exact
  | [] => .zero false
  | x :: r => r.foldl (fun a y => if x.isZero || y.isZero then a else a.addPos ((x.mul y).sqrt.shift 1)) (crossSum r)

/-- V of R266 before ACC: the terms over the denominator den. -/
def combine (bnd : Bool) (ts : List Term) (den : Exact) : Var :=
  let xs := ts.map Term.settle
  if xs.any Option.isNone then .inf
  else
    let l := xs.filterMap id
    let s := l.foldl Exact.addPos (.zero false)
    .frac (if bnd then s.addPos (crossSum l) else s) den

/-- Ulp(y)² of a finite F32 code (R266). -/
def ulp2 (y : Nat) : Exact :=
  let e := bits y 23 8
  ⟨false, 1, 2 * (((if e = 0 then 1 else e : Nat) : Int) - 150), false⟩

/-- V with Ulp(y)²/12 added. -/
def Var.acc (v : Var) (y : Nat) : Var :=
  match v with
  | .inf => .inf
  | .frac n d => .frac ((n.mul (.ofNat 12)).addPos ((ulp2 y).mul d)) (d.mul (.ofNat 12))

/-- A variance as a value to round. -/
def Var.value (v : Var) : Val :=
  match v with
  | .inf => .inf false
  | .frac n d => .num (if d = Exact.one || n.isZero then n else n.div d)

/-- A code with its events: one that rounds to +∞ from finite terms is an infinity produced whatever the means are (R272). (DEDUCED, log entry 37) -/
def Var.round (v : Var) (opNan opInf : Bool) : FpRes := roundTo .f32 .ru false 0 opNan (opInf && v = .inf) v.value

/-- The variance NaN with its event (R272). -/
def nanRes (opNan : Bool) : FpRes := roundTo .f32 .rn false 0 opNan false .defaultNan

/-- The variance result for a mean code y: R265 first, then R266 with ACC. (DEDUCED, log entry 37) -/
def varResult (y : Nat) (vars : List Val) (v : Var) (acc opNan opInf : Bool) : FpRes :=
  let yv := FTy.f32.value y
  if yv.isNan || vars.any Val.isNan then nanRes opNan
  else (if acc && !yv.isInf then v.acc y else v).round opNan opInf

/-! Operands. -/

/-- An MV32 operand or a plain one, which has variance +0 (R268, R372). -/
structure MvOp where
  m : Val
  v : Val
  deriving DecidableEq, Repr

/-- Source k as an operand: a pair, or one plain word. -/
def LaneEnv.mv (e : LaneEnv) (k : Nat) (plain : Bool) : MvOp :=
  if plain then ⟨f32v (e.x k), .num (.zero false)⟩ else ⟨f32v (e.w k 0), varOf (e.w k 1)⟩

/-- d² of a derivative that is the mean x of another operand. -/
def sqOf (x : Val) : Option Exact :=
  match x with
  | .num v => some (v.mul v)
  | _ => none

/-- The exact mean and the variance of the arithmetic forms (R266, R376). -/
def mvParts (fn : Nat) (rd bnd : Bool) (a b c : MvOp) : Val × Var :=
  let one := some Exact.one
  match fn with
  | 0 => (Val.add rd a.m b.m, combine bnd [(one, a.v), (one, b.v)] .one)
  | 1 => (Val.add rd a.m b.m.neg, combine bnd [(one, a.v), (one, b.v)] .one)
  | 2 => (Val.mul a.m b.m, combine bnd [(sqOf b.m, a.v), (sqOf a.m, b.v)] .one)
  | 3 => (Val.fma rd a.m b.m c.m, combine bnd [(sqOf b.m, a.v), (sqOf a.m, b.v), (one, c.v)] .one)
  | _ =>
    let v :=
      match a.m, b.m with
      | .num x, .num y =>
        if y.isZero then combine bnd [(none, a.v), (none, b.v)] .one
        else
          let y2 := (y.mul y).abs
          combine bnd [(some y2, a.v), (some (x.mul x), b.v)] (y2.mul y2)
      | .num _, _ => combine bnd [(some (.zero false), a.v), (some (.zero false), b.v)] .one
      | _, .num y =>
        let y2 := (y.mul y).abs
        combine bnd [(if y.isZero then none else some Exact.one, a.v), (none, b.v)] (if y.isZero then .one else y2)
      | _, _ => .inf
    (Val.div a.m b.m, v)

/-- An MV form with operands read: one draw and rounding for the mean, then the variance, events for both (R272). -/
def LaneEnv.mvDone (e : LaneEnv) (s : State) (q : RndSat) (ops : List MvOp) (m : Val) (v : Var) (acc : Bool) : UnitRes :=
  let ins := ops.map (fun o => o.m) ++ ops.map (fun o => o.v)
  let (y, s1) := e.round s .f32 q ins m
  let x := varResult y (ops.map fun o => o.v) v acc (ins.any Val.isNan) (ins.any Val.isInf)
  .done (e.write (e.fp s1 .f32 x.ev) [BitVec.ofNat 32 y, BitVec.ofNat 32 x.code])

/-- RND of the MV arithmetic forms (R375). -/
def mvRnd (f : X3) : RndSat := ⟨(RMode.ofField (f.mode.toNat / 4 % 8)).getD .rn, false⟩

def mvArith (i : Instr) (fn : Nat) (f : X3) (s : State) : Host.Outcome State Fault Refusal :=
  lane i (fun e s =>
    let m := f.mode.toNat
    let a := e.mv 0 false
    let b := e.mv 1 (bit m 5)
    let c := if fn = 3 then e.mv 2 (bit m 6) else ⟨.num (.zero false), .num (.zero false)⟩
    let (x, v) := mvParts fn ((mvRnd f).mode = .rd) (bit m 0) a b c
    e.mvDone s (mvRnd f) (if fn = 3 then [a, b, c] else [a, b]) x v (bit m 1)) s

def execMvadd (f : X3) (s : State) : Host.Outcome State Fault Refusal := mvArith (.mvadd f) 0 f s
def execMvsub (f : X3) (s : State) : Host.Outcome State Fault Refusal := mvArith (.mvsub f) 1 f s
def execMvmul (f : X3) (s : State) : Host.Outcome State Fault Refusal := mvArith (.mvmul f) 2 f s
def execMvfma (f : X3) (s : State) : Host.Outcome State Fault Refusal := mvArith (.mvfma f) 3 f s
def execMvdiv (f : X3) (s : State) : Host.Outcome State Fault Refusal := mvArith (.mvdiv f) 4 f s

/-- MVNEG and MVABS: the mean's sign alone, no events (R376, R374). -/
def mvSign (i : Instr) (g : Word → Word) (f : X3) (s : State) : Host.Outcome State Fault Refusal :=
  lane i (fun e s =>
    let y := g (e.w 0 0)
    let v := varOf (e.w 0 1)
    let x := varResult y.toNat [v] (combine false [(some Exact.one, v)] .one) (bit f.mode.toNat 1) true true
    .done (e.write s [y, BitVec.ofNat 32 x.code])) s

def execMvneg (f : X3) (s : State) : Host.Outcome State Fault Refusal := mvSign (.mvneg f) (fun a => a ^^^ 0x80000000) f s
def execMvabs (f : X3) (s : State) : Host.Outcome State Fault Refusal := mvSign (.mvabs f) (fun a => a &&& 0x7FFFFFFF) f s

/-- The variance of a special function (R266, R267, R377). -/
def sfVar (fn : SFn) (a : MvOp) : Var :=
  let slope : Option (Exact × Exact) :=
    match a.m with
    | .num v => fn.slope2 v
    | .inf s => fn.slopeInf s
    | .nan _ _ => none
  match slope with
  | none => combine false [(none, a.v)] .one
  | some (n, d) => combine false [(some n, a.v)] d

def execMvsf (f : X3) (s : State) : Host.Outcome State Fault Refusal :=
  lane (.mvsf f) (fun e s =>
    let fn := SFn.ofField (f.mode.toNat / 4 % 8)
    let a := e.mv 0 false
    e.mvDone s .rn [a] (fn.eval a.m) (sfVar fn a) (bit f.mode.toNat 1)) s

/-! MVCVT (R269, R378). -/

/-- The scale s of a conversion: 1.0 without one; none when it is zero, negative, infinite or NaN. -/
def scaleOf (v : Val) : Option Exact :=
  match v with
  | .num x => if x.isZero || x.s then none else some x
  | _ => none

/-- The exponent of Δ for a destination at a magnitude. -/
def cvtQuantum (t : CvtTy) (x : Exact) : Int :=
  match t with
  | .float f => f.quantum x
  | .int _ _ => 0

/-- The variance that rounding m/s adds, with v (R269): sat says that q was held or clamped, q is its value. (DEDUCED, log entry 37) -/
def cvtVar (mode : RMode) (t : CvtTy) (m s v : Exact) (held : Bool) (q : Exact) : Var :=
  let x := m.abs.div s
  let e := cvtQuantum t x
  let n := x.quanta e .rz 0
  if held then
    let d := m.add (s.mul q).neg false
    .frac (v.addPos (d.mul d)) .one
  else if !n.inexact then .frac v .one
  else
    let sd := s.shift e
    match mode with
    | .sr =>
      let low := (s.mul ⟨false, n.low, e, false⟩)
      let a := m.abs.add low.neg false
      let b := sd.add a.neg false
      .frac (v.addPos (a.mul b)) .one
    | .rn => .frac ((v.mul (.ofNat 12)).addPos (sd.mul sd)) (.ofNat 12)
    | _ => .frac ((v.mul (.ofNat 3)).addPos (sd.mul sd)) (.ofNat 3)

def execMvcvt (f : X3) (s : State) : Host.Outcome State Fault Refusal :=
  lane (.mvcvt f) (fun e s =>
    let t := CvtTy.of (f.mode.toNat % 32)
    let q := RndSat.of f.e.toNat
    let a := e.mv 0 false
    let scl := bit f.mode.toNat 5
    let sv : Val := if scl then f32v (e.x 1) else .num Exact.one
    let ins := [a.m, a.v] ++ (if scl then [sv] else [])
    let opNan := ins.any Val.isNan
    let opInf := ins.any Val.isInf
    let (d, s1) := if q.mode = .sr then s.draw32 e.r else (0, s)
    let finish (code : Nat) (s : State) (x : FpRes) : UnitRes :=
      .done (e.write (e.fp s .f32 x.ev) [BitVec.ofNat 32 code, BitVec.ofNat 32 x.code])
    match scaleOf sv with
    | none =>
      match t with
      | .float ft =>
        let r := roundTo ft q.mode q.sat d.toNat false false .defaultNan
        finish r.code (e.fp s1 ft r.ev) (nanRes opNan)
      | .int _ _ => finish 0 s1 (nanRes opNan)
    | some sc =>
      let x : Val := match a.m with | .num m => .num ⟨m.s, (m.abs.div sc).m, (m.abs.div sc).x, (m.abs.div sc).more⟩ | y => y
      let (code, s2, qv, held) : Nat × State × Val × Bool :=
        match t with
        | .float ft =>
          let r := roundTo ft q.mode q.sat d.toNat opNan opInf x
          (r.code, e.fp s1 ft r.ev, ft.value r.code, r.ev.ovf)
        | .int signed w =>
          let n := floatToInt q.mode d.toNat signed w x
          let r := match x with | .num y => y.toInt q.mode d.toNat | _ => n
          (wrap w n, s1, .num (.ofInt n), r != n)
      let res : FpRes :=
        match a.m, a.v, qv with
        | .num m, .num v, .num qx => (cvtVar q.mode t m sc v held qx).round opNan opInf
        | .nan _ _, _, _ | _, .nan _ _, _ | _, _, .nan _ _ => nanRes opNan
        | _, _, _ => Var.inf.round opNan opInf
      finish code s2 res) s

/-- MVSET (R379). -/
def execMvset (f : X3) (s : State) : Host.Outcome State Fault Refusal :=
  lane (.mvset f) (fun e s =>
    let a := e.x 0
    let b := e.x 1
    .done (e.write s [a, if (f32v a).isNan || (f32v b).isNan then varNan else b &&& 0x7FFFFFFF])) s

/-- MVVAR (R379). -/
def execMvvar (f : X3) (s : State) : Host.Outcome State Fault Refusal :=
  lane (.mvvar f) (fun e s =>
    let v := varOf (e.w 0 1)
    let w : Nat :=
      match v with
      | .num x => if f.mode = 1 && !x.isZero then (roundTo .f32 .ru false 0 false false (.num x.sqrt)).code else (e.w 0 1).toNat % 2 ^ 31
      | .inf _ => 0x7F800000
      | .nan _ _ => 0x7FC00000
    .done (e.write s [BitVec.ofNat 32 w])) s

/-! Samples (R270, R271). -/

/-- The sample type of the H bit. -/
def svTy (h : Bool) : FTy := if h then .bf16 else .f32

/-- The samples of words, in order. -/
def samplesOf (h : Bool) (ws : List Word) : List Nat :=
  if h then ws.flatMap fun w => [half w 0, half w 1] else ws.map fun w => w.toNat

/-- Words of sample codes. -/
def packSamples (h : Bool) (cs : List Nat) : List Word :=
  if h then (List.range 4).map fun i => BitVec.ofNat 32 (cs.getD (2 * i) 0 + 65536 * cs.getD (2 * i + 1) 0)
  else cs.map fun c => BitVec.ofNat 32 c

/-- The samples of source k as values; a plain F32 stands for every sample. -/
def LaneEnv.sv (e : LaneEnv) (k : Nat) (h plain : Bool) : List Val :=
  if plain then List.replicate (if h then 8 else 4) (f32v (e.x k))
  else (samplesOf h (e.vals.getD k [])).map fun c => (svTy h).value c

/-- Rounds a list of elements in ascending order: their operands and exact values. -/
def LaneEnv.roundAll (e : LaneEnv) (s : State) (t : FTy) (q : RndSat) : List (List Val × Val) → List Nat × State
  | [] => ([], s)
  | (ops, v) :: r =>
    let (c, s1) := e.round s t q ops v
    let (cs, s2) := e.roundAll s1 t q r
    (c :: cs, s2)

def svRnd (f : X3) : RndSat := ⟨(RMode.ofField (f.mode.toNat / 2 % 8)).getD .rn, false⟩

/-- SV arithmetic (R380): n sources. -/
def svArith (i : Instr) (n : Nat) (g : List Val → Val) (f : X3) (s : State) : Host.Outcome State Fault Refusal :=
  lane i (fun e s =>
    let m := f.mode.toNat
    let h := bit m 0
    let srcs := (List.range n).map fun k => e.sv k h (if k = 0 then false else if k = 1 then bit m 4 else bit m 5)
    let items := (List.range (if h then 8 else 4)).map fun j =>
      let ops := srcs.map fun l => l.getD j .defaultNan
      (ops, g ops)
    let (cs, s1) := e.roundAll s (svTy h) (svRnd f) items
    .done (e.write s1 (packSamples h cs))) s

def execSvadd (f : X3) (s : State) : Host.Outcome State Fault Refusal := svArith (.svadd f) 2 (addV ((svRnd f).mode = .rd)) f s
def execSvsub (f : X3) (s : State) : Host.Outcome State Fault Refusal := svArith (.svsub f) 2 (subV ((svRnd f).mode = .rd)) f s
def execSvmul (f : X3) (s : State) : Host.Outcome State Fault Refusal := svArith (.svmul f) 2 mulV f s
def execSvfma (f : X3) (s : State) : Host.Outcome State Fault Refusal := svArith (.svfma f) 3 (fmaV ((svRnd f).mode = .rd)) f s

def execSvsf (f : X3) (s : State) : Host.Outcome State Fault Refusal :=
  lane (.svsf f) (fun e s =>
    let h := bit f.mode.toNat 0
    let fn := SFn.ofField (f.mode.toNat / 2 % 8)
    let (cs, s1) := e.roundAll s (svTy h) .rn ((e.sv 0 h false).map fun v => ([v], fn.eval v))
    .done (e.write s1 (packSamples h cs))) s

/-- Mean and variance of samples (R271): the exact values. -/
def svStat (xs : List Val) : Val × Var :=
  let n := xs.length
  let nums := xs.filterMap fun v => match v with | .num x => some x | _ => none
  if nums.length < n then
    let infs := xs.filter Val.isInf
    let m : Val :=
      match firstNan xs with
      | some x => x
      | none => if infs.all fun v => v.sign = (infs.headD .defaultNan).sign then infs.headD .defaultNan else .defaultNan
    (m, .inf)
  else
    let sum := match nums with | [] => Exact.zero false | x :: r => r.foldl (fun a y => a.add y false) x
    let sq := nums.foldl (fun a x => a.addPos (x.mul x).abs) (Exact.zero false)
    let num := (sq.mul (.ofNat n)).add (sum.mul sum).abs.neg false
    -- n is 4 or 8, so the mean is exact in binary
    (.num (sum.shift (-(Nat.log2 n : Int))), .frac num.abs (.ofNat (n * (n - 1))))

def execSvstat (f : X3) (s : State) : Host.Outcome State Fault Refusal :=
  lane (.svstat f) (fun e s =>
    let xs := e.sv 0 (bit f.mode.toNat 0) false
    let (m, v) := svStat xs
    let (y, s1) := e.round s .f32 .rn xs m
    let x := varResult y [] v false (xs.any Val.isNan) (xs.any Val.isInf)
    .done (e.write (e.fp s1 .f32 x.ev) [BitVec.ofNat 32 y, BitVec.ofNat 32 x.code])) s

/-! Gaussian pairs (R280). -/

/-- A pair from two draws: the codes of z0 and z1. -/
def gaussPair (d1 d2 : Word) : Nat × Nat :=
  let u1 : Val := .num ⟨false, d1.toNat / 256 + 1, -24, false⟩
  let u2 : Val := .num ⟨false, d2.toNat / 256, -24, false⟩
  let r32 (v : Val) : Val := FTy.f32.value (rne .f32 v)
  let l := r32 (SFn.log2.eval u1)
  let t := r32 (Val.mul l (f32v 0xBFB17218))
  let r := r32 (SFn.sqrt.eval (match t with | .num x => .num x.abs | y => y))
  let th := r32 (Val.mul u2 (f32v 0x40C90FDB))
  (rne .f32 (Val.mul r (r32 (SFn.cos.eval th))), rne .f32 (Val.mul r (r32 (SFn.sin.eval th))))

/-- n Gaussian pairs, two draws each. -/
def State.gauss (s : State) (r : ThreadRef) : Nat → List Nat × State
  | 0 => ([], s)
  | n + 1 =>
    let (d1, s1) := s.draw32 r
    let (d2, s2) := s1.draw32 r
    let (z0, z1) := gaussPair d1 d2
    let (zs, s3) := s2.gauss r n
    (z0 :: z1 :: zs, s3)

/-- SVSET (R383). -/
def execSvset (f : X3) (s : State) : Host.Outcome State Fault Refusal :=
  lane (.svset f) (fun e s =>
    let m := f.mode.toNat
    let h := bit m 0
    let n := if h then 8 else 4
    if bit m 1 then
      let a := e.mv 0 false
      let sd := FTy.f32.value (rne .f32 (SFn.sqrt.eval a.v))
      let (zs, s1) := s.gauss e.r (n / 2)
      let items := zs.map fun z =>
        ([a.m, a.v], Val.add false a.m (FTy.f32.value (rne .f32 (Val.mul sd (FTy.f32.value z)))))
      let (cs, s2) := e.roundAll s1 (svTy h) .rn items
      .done (e.write s2 (packSamples h cs))
    else
      let v := f32v (e.x 0)
      let q : RndSat := ⟨(RMode.ofField (m / 4 % 8)).getD .rn, false⟩
      let (cs, s1) := e.roundAll s (svTy h) q (List.replicate n ([v], v))
      .done (e.write s1 (packSamples h cs))) s

/-- Inserts a sample behind those not above it; a NaN goes last (R384). -/
def sortIn (c : Nat) : List Nat → List Nat
  | [] => [c]
  | x :: r =>
    if (FTy.f32.value x).isNan then (if (FTy.f32.value c).isNan then x :: sortIn c r else c :: x :: r)
    else if (FTy.f32.value c).isNan || !Val.lt true (FTy.f32.value c) (FTy.f32.value x) then x :: sortIn c r
    else c :: x :: r

def execSvsort (f : X3) (s : State) : Host.Outcome State Fault Refusal :=
  lane (.svsort f) (fun e s =>
    let cs := (samplesOf false (e.vals.getD 0 [])).foldl (fun l c => sortIn c l) []
    .done (e.write s (packSamples false cs))) s

end Sys2Proof.Machine
end

