-- ==== Sys2Proof/Machine/Kick.lean ====
section
/-! DEFINITION. Kicks and replays (spec 03 R66 to R73, 05 R99, R102): taking a kick, reading its patch table, starting a replay, a node's
completion, and a host-notify node's record. -/

namespace Sys2Proof.Machine

/-! The patch table (R67). -/

/-- One step of a reflected CRC-32C for one bit. -/
def crcBit (c : Word) : Word := if c.getLsbD 0 then (c >>> 1) ^^^ 0x82F63B78 else c >>> 1

/-- The CRC after one more byte. -/
def crcByte (c : Word) (b : Byte) : Word :=
  (List.range 8).foldl (fun c _ => crcBit c) (c ^^^ b.setWidth 32)

/-- CRC-32C. -/
def crc32c (bs : List Byte) : Word := ~~~ (bs.foldl crcByte 0xFFFFFFFF)

/-- The 8-byte word at an offset of a table. -/
def tableWord (bs : List Byte) (off : Nat) : Nat := natOf ((bs.drop off).take 8)

/-- Bytes of a kick's table. -/
def kickBytes (k : Kick) : Nat := 32 + 16 * kickN k

/-- PSEQ, PCOUNT and the CRC agree (R69 step 3). -/
def tableAgrees (k : Kick) (bs : List Byte) : Bool :=
  bits (tableWord bs 0) 0 32 = (kickSeq k).toNat && bits (tableWord bs 0) 32 32 = kickN k && crc32c bs = kickCrc k

/-- An entry's words. -/
def entryWord (bs : List Byte) (i j : Nat) : Nat := tableWord bs (32 + 16 * i + 8 * j)

/-- Whether an entry breaks R67 or names a slot beyond the block (R69 step 5). -/
def entryBad (slots : Nat) (w : Nat) : Bool :=
  bits w 18 46 ≠ 0 || bits w 16 2 = 3 || 8191 < bits w 0 16 || slots ≤ bits w 0 16

/-- What step 5 finds: nothing, or the index to report. -/
def tableBad (k : Kick) (slots : Nat) (bs : List Byte) : Option Nat :=
  if (List.range 3).any fun i => tableWord bs (8 + 8 * i) ≠ 0 then some 0xFFFFFF
  else (List.range (kickN k)).find? fun i => entryBad slots (entryWord bs i 0)

/-! Taking (R69). -/

/-- Step 1. -/
def kickOk (c : Ctx) (k : Kick) : Bool :=
  (c.graph? (kickHandle k)).isSome && bits k.toNat 120 8 = 0 && bits k.toNat 173 19 = 0 && bits k.toNat 224 32 = 0 &&
  kickPatch k % 8 = 0 && kickN k ≤ 4096

/-- The kick is consumed with an event; its STATUS byte, for which the spec gives no value, is 0 (DESIGN CHOICE, log entry 44). -/
def State.kickEnd (s : State) (c : Ctx) (k : Kick) (type : BitVec 8) (arg2 : Nat) : State :=
  let s1 := s.modCtx c.num fun x => { x with taking := none }
  ({ s1 with holds := s1.holds.filter fun h => h.who != .kick c.num } : State).post c.home type 0 c.num
    (BitVec.ofNat 64 ((kickSeq k).toNat + (kickTag k).toNat * 2 ^ 32)) (BitVec.ofNat 64 (kickHandle k)) (BitVec.ofNat 64 arg2)

/-- KICK_BAD at a step with the index of an entry. -/
def State.kickBad (s : State) (c : Ctx) (k : Kick) (step idx : Nat) : State := s.kickEnd c k 0x03 (step + idx * 2 ^ 8)

/-- What a context takes changes. -/
def State.modTaking (s : State) (n : Nat) (f : Taking → Taking) : State := s.modCtx n fun c => { c with taking := c.taking.map f }

/-- Holds a kick's read on an absent page; no rule gives what its fault record says of a node and a replay. -/
def State.kickHold (s : State) (c : Ctx) (va : Nat) : State :=
  s.gcHold (.kick c.num) c ⟨c.num, (Config.freeDword s.tick (2 ^ 43)).setWidth 32, (Config.freeDword s.tick (2 ^ 43 + 1)).toNat % 2 ^ 32⟩ va

/-- Step 5, for a table that agrees; then the kick waits in step 6. -/
def State.kickJudge (s : State) (c : Ctx) (t : Taking) (bs : List Byte) : State :=
  match c.graph? (kickHandle t.kick) with
  | none => s.kickBad c t.kick 1 0xFFFFFF
  | some g =>
    match tableBad t.kick (g.paramBytes / 8) bs with
    | some i => s.kickBad c t.kick 5 i
    | none => s.modTaking c.num fun t => { t with step := 6, table := bs }

/-- The reads of steps 2 and 4 with the compare that follows. first says that it is step 2's. (DEDUCED, log entry 19) -/
def State.kickRead (s : State) (c : Ctx) (t : Taking) (first : Bool) : State :=
  let who : Holder := .kick c.num
  let va := kickPatch t.kick
  let n := kickBytes t.kick
  match s.gcDev who c va n, s.gcAbsent who c va n with
  | some x, _ => s.physTrap c.num x.f c.home 0x91 x.pa
  | none, some a => s.kickHold c a
  | none, none =>
    match s.gcBytes who c va n with
    | none => s.kickBad c t.kick (if first then 2 else 4) 0xFFFFFF
    | some bs =>
      let s1 : State := { s.gcUse who c va n with holds := s.holds.filter fun h => h.who != who }
      if tableAgrees t.kick bs then s1.kickJudge c t bs
      else if first then
        s1.modTaking c.num fun t => { t with
          step := 4
          start := if s.holds.any fun h => h.who = who then s.cycle c.home else t.start
          crc := crc32c bs }
      else if t.rereads = 15 then s1.kickEnd c t.kick 0x02 (crc32c bs).toNat
      else s1.modTaking c.num fun t => { t with rereads := t.rereads + 1, crc := crc32c bs }

/-- A context takes the kick whose SEQ is E, or goes on with a read that was held. -/
def State.kickTake (s : State) (n : Nat) : State :=
  match s.ctx? n with
  | none => s
  | some c =>
    match c.taking with
    | some t => if t.step = 2 then s.kickRead c t true else s
    | none =>
      match c.kicks.find? fun k => kickSeq k = c.e with
      | none => s
      | some k =>
        let t : Taking := ⟨k, 2, s.cycle c.home, 0, 0, []⟩
        let c1 : Ctx := { c with kicks := c.kicks.erase k, e := c.e + 1, taking := some t }
        let s1 := s.modCtx n fun _ => c1
        if kickOk c k then s1.kickRead c1 t true else s1.kickBad c1 k 1 0xFFFFFF

def execKickTake (s : State) : Host.Outcome State Fault Refusal :=
  event (fun s => match s.arg with | .num n => s.kickTake n | _ => s) s

/-- A re-read at or after its time (R69 step 4). -/
def execKickReread (s : State) : Host.Outcome State Fault Refusal :=
  event (fun s => match s.arg with
    | .num n =>
      match s.ctx? n with
      | some c =>
        match c.taking with
        | some t => if t.step = 4 && t.start + 8000 * (t.rereads + 1) ≤ s.cycle c.home then s.kickRead c t false else s
        | none => s
      | none => s
    | _ => s) s

/-! Starting a replay (R69 steps 6 to 8, R70). -/

/-- An 8-byte word of a table as step 7 applies it: the one compared, or what the host wrote since. (DEDUCED, log entry 20) -/
def State.patchWord (s : State) (c : Ctx) (t : Taking) (off : Nat) : Nat :=
  let old := tableWord t.table off
  if Config.coin s.tick (2 ^ 45 + off) then old else (s.gcNat (.kick c.num) c (kickPatch t.kick + off) 8).getD old

/-- Applies one entry. -/
def State.patch (s : State) (c : Ctx) (g : Graph) (w v : Nat) : State :=
  let k := bits w 0 16
  if g.paramBytes / 8 ≤ k then s
  else
    match bits w 16 2 with
    | 0 => s.slotWrite c g k 0 (bytesOf 4 v)
    | 1 => s.slotWrite c g k 4 (bytesOf 4 v)
    | _ => s.slotWrite c g k 0 (bytesOf 8 v)

/-- Step 7: the entries in table order. -/
def State.patchAll (s : State) (c : Ctx) (g : Graph) (t : Taking) : State :=
  (List.range (kickN t.kick)).foldl (fun a i => a.patch c g (s.patchWord c t (32 + 16 * i)) (s.patchWord c t (40 + 16 * i))) s

/-- A node of a replay that has just begun. -/
def RNode.start (i : Nat) (g : GNode) : RNode :=
  { idx := i, phase := .waiting, preds := g.npred, die := .a, order := 0, entered := 0, cls := 0, passed := none, blocking := false,
    exts := [], translated := false, code := 0, blocks := 0, nextBlock := 0, clusterDie := none, again := [], ended := 0, status := none,
    op := none, clk := [], ends := [] }

/-- The registered node that a node of a replay runs. -/
def State.gnode? (s : State) (n : NodeRef) : Option (Ctx × Graph × GNode) :=
  match s.ctx? n.ctx, s.replay? n.ctx n.seq with
  | some c, some r => (c.graph? r.handle).bind fun g => g.nodes[n.node]?.map fun x => (c, g, x)
  | _, _ => none

/-- The base address of an extent descriptor. -/
def State.extBase (s : State) (c : Ctx) (g : Graph) (d : BitVec 256) : Nat := s.slot c g (bits d.toNat 0 13)

/-- The address by which a node with DIE 3, other than a kernel, finds its die: its first extent's (R63, R102). -/
def State.dieAt (s : State) (c : Ctx) (g : Graph) (x : GNode) : Option Nat :=
  if x.die = 3 && x.kind != 0 then x.exts.head?.map fun d => s.extBase c g d + bits d.toNat 64 64 else none

/-- The die of a node as it becomes ready (R63, R102). A kernel with DIE 3 stands in its home die's pool. (DEDUCED, log entry 20) -/
def State.nodeDie (s : State) (c : Ctx) (g : Graph) (x : GNode) : Die :=
  match x.die with
  | 1 => .a
  | 2 => .b
  | _ =>
    match s.dieAt c g x with
    | none => c.home
    | some va => match s.walk c.home c va with | .leaf pa size _ _ _ _ => homeDie (pa + va % size) | _ => c.home

/-- A node becomes ready: it stands last among those that wait for a pool. -/
def State.makeReady (s : State) (n : NodeRef) : State :=
  match s.gnode? n with
  | none => s
  | some (c, g, x) =>
    let (k, s1) := s.fresh
    let s2 := s1.modNode n fun y => { y with phase := .ready, order := k, die := s.nodeDie c g x }
    match s.dieAt c g x with
    | none => s2
    | some va => match s.walk c.home c va with | .dev f pa => s2.physTrap c.num f c.home 0x91 pa | _ => s2.noteWalk c va

/-- Step 8. -/
def State.startReplay (s : State) (c : Ctx) (g : Graph) (t : Taking) : State :=
  let r : Replay := ⟨c.num, g.handle, kickSeq t.kick, kickTag t.kick, s.cycle c.home, g.nodes.zipIdx.map fun e => RNode.start e.2 e.1⟩
  let s1 : State := { (s.modCtx c.num fun x => { x with taking := none }) with replays := s.replays ++ [r] }
  (List.range g.nodes.length).foldl (fun a i =>
    match g.nodes[i]? with
    | some x => if x.npred = 0 then a.makeReady ⟨c.num, r.seq, i⟩ else a
    | none => a) s1

def execReplayStart (s : State) : Host.Outcome State Fault Refusal :=
  event (fun s => match s.arg with
    | .num n =>
      match s.ctx? n with
      | some c =>
        match c.taking with
        | some t =>
          if t.step = 6 && !(s.replays.any fun r => r.ctx = n && r.handle = kickHandle t.kick) then
            match c.graph? (kickHandle t.kick) with
            | some g => (s.patchAll c g t).startReplay c g t
            | none => s.kickBad c t.kick 1 0xFFFFFF
          else s
        | none => s
      | none => s
    | _ => s) s

/-! Completion (R71 to R73). -/

/-- Whether stores of a node are still to become visible. -/
def State.nodeStores (s : State) (n : NodeRef) : Bool := (s.stores.any fun x => x.node = n) || s.sideLog.any fun e => e.node = n

/-- A record that was posted with an ESEQ is in the buffer. -/
def State.eventWritten (s : State) (q : Nat) : Bool := q ≠ 0 && s.evt.held.all fun r => r.eseq.toNat ≠ q

/-- Whether a node's work is over: a failed one, once no block or operation of it is left; else by kind (R71). (DEDUCED, log entry 20) -/
def State.nodeOverNow (s : State) (n : NodeRef) (x : RNode) (kind : Nat) : Bool :=
  let idle := !(s.blocks.any fun b => b.nodeRef = n) && !s.nodeStores n && !(s.ops.any fun o => o.issuer = .node n)
  if x.status.isSome then (x.phase = .pool || x.phase = .running) && idle
  else
    match kind with
    | 0 => x.phase = .running && x.again = [] && idle
    | 1 | 2 => x.phase = .running && x.op = none && idle
    | 3 => x.phase = .running && (match x.op with | some q => s.eventWritten q | none => false)
    | _ => x.phase = .pool

/-- A successor loses one predecessor, of which the clock tells what happened before its end (R169); with the last it becomes ready. -/
def State.release (s : State) (n : NodeRef) (j : Nat) (k : Clock) : State :=
  let m : NodeRef := { n with node := j }
  match s.node? m with
  | none => s
  | some x =>
    let s1 := s.modNode m fun y => { y with preds := y.preds - 1, clk := y.clk.join k }
    if x.preds = 1 then s1.makeReady m else s1

/-- A replay ends when no node runs and none can enter a pool (R72). -/
def State.endReplay (s : State) (ctx : Nat) (seq : Word) : State :=
  match s.replay? ctx seq with
  | none => s
  | some r =>
    if r.nodes.any fun x => x.phase = .ready || x.phase = .pool || x.phase = .running then s
    else
      let status : BitVec 8 := ((r.nodes.findSome? fun x => x.status).getD 0)
      let s1 := (s.settle r.clock).postReplay r status (r.lowest fun x => x.status.isSome)
      { s1 with replays := s1.replays.filter fun x => !(x.ctx = ctx && x.seq = seq), ckpts := s1.ckpts.filter fun a => !(a.node.ctx = ctx && a.node.seq = seq) }

/-- A node completes: its stores are at their homes, and with status OK its successors lose a predecessor. (DEDUCED, log entry 20) -/
def State.completeNode (s : State) (n : NodeRef) : State :=
  match s.node? n, s.gnode? n with
  | some x, some (_, _, g) =>
    if s.nodeOverNow n x g.kind then
      let s0 := s.settle x.ends
      let s1 := ({ s0 with
        ckpts := s0.ckpts.filter fun a => a.node != n
        holds := s0.holds.filter fun h => h.who != .node n } : State).modNode n fun y => { y with phase := .done }
      let s2 := if x.status.isSome then s1 else g.succs.foldl (fun a j => a.release n j (x.clk.join x.ends)) s1
      s2.endReplay n.ctx n.seq
    else s
  | _, _ => s

def execNodeComplete (s : State) : Host.Outcome State Fault Refusal :=
  event (fun s => match s.arg with | .node n => s.completeNode n | _ => s) s

/-- No host-notify node reached the management service before one and still waits there (R103). -/
def State.notifyFirst (s : State) (x : RNode) : Bool :=
  s.replays.all fun r => r.nodes.all fun y =>
    !(y.phase = .running && y.op = none && y.status.isNone && y.order < x.order &&
      match s.gnode? ⟨r.ctx, r.seq, y.idx⟩ with | some (_, _, g) => g.kind = 3 | none => false)

/-- The management service writes the NOTIFY record of a node (R71, R75). A record that is dropped is never written. (DEDUCED, log entry 20) -/
def State.notify (s : State) (n : NodeRef) (x : RNode) (g : GNode) : State :=
  if s.notifyFirst x && g.kind = 3 && x.phase = .running && x.op = none && x.status.isNone then
    let q := s.evt.eseq
    let s1 := s.post .a 0x05 0 n.ctx (BitVec.ofNat 64 (g.b0.toNat % 2 ^ 32)) (BitVec.ofNat 64 n.node) (BitVec.ofNat 64 n.seq.toNat)
    s1.modNode n fun y => { y with op := some (if s1.evt.eseq = q then 0 else q.toNat) }
  else s

def execHostNotify (s : State) : Host.Outcome State Fault Refusal :=
  event (fun s => match s.arg with
    | .node n => match s.node? n, s.gnode? n with | some x, some (_, _, g) => s.notify n x g | _, _ => s
    | _ => s) s

end Sys2Proof.Machine
end

