-- ==== Sys2Proof/Machine/Shake.lean ====
section
/-! DEFINITION. SHAKE256 (FIPS 202), which spec 01 R25 and R26 name for digests and measurement slots: the sponge over 25 lanes of 64 bits, lane
x + 5y of a state standing at that place of a list. Its constants are computed by the rules that FIPS 202 gives for them. -/

namespace Sys2Proof.Machine

/-- A lane of a state. -/
def laneOf (a : List Dword) (x y : Nat) : Dword := a.getD (x % 5 + 5 * (y % 5)) 0

/-- A state by its lanes. -/
def laneMap (f : Nat → Nat → Dword) : List Dword := (List.range 25).map fun i => f (i % 5) (i / 5)

/-- The register of 8 bits whose lowest bit is rc after t steps: x⁸ + x⁶ + x⁵ + x⁴ + 1. -/
def rcRegister : Nat → Nat
  | 0 => 1
  | t + 1 => let q := 2 * rcRegister t; if 256 ≤ q then q ^^^ 0x171 else q

/-- The constant of a round: bit 2^j − 1 is rc at j + 7 · round. -/
def iotaOf (round : Nat) : Dword :=
  BitVec.ofNat 64 ((List.range 7).foldl (fun v j => v + rcRegister (j + 7 * round) % 2 * 2 ^ (2 ^ j - 1)) 0)

/-- The lanes in the order in which rho takes them, with the places they turn by: (t + 1)(t + 2) / 2. -/
def rhoWalk : Nat → Nat → Nat → Nat → List (Nat × Nat)
  | 0, _, _, _ => []
  | n + 1, t, x, y => (x + 5 * y, (t + 1) * (t + 2) / 2 % 64) :: rhoWalk n (t + 1) y ((2 * x + 3 * y) % 5)

def rhoOf (x y : Nat) : Nat := (((rhoWalk 24 0 1 0).find? fun e => e.1 = x + 5 * y).map fun e => e.2).getD 0

/-- The parity of a column. -/
def columnOf (a : List Dword) (x : Nat) : Dword := (List.range 5).foldl (fun v y => v ^^^ laneOf a x y) 0

def theta (a : List Dword) : List Dword := laneMap fun x y => laneOf a x y ^^^ columnOf a (x + 4) ^^^ (columnOf a (x + 1)).rotateLeft 1

/-- rho and pi: the lane that comes to x, y. -/
def rhoPi (a : List Dword) : List Dword :=
  laneMap fun x y => let u := (x + 3 * y) % 5; (laneOf a u x).rotateLeft (rhoOf u x)

def chi (a : List Dword) : List Dword := laneMap fun x y => laneOf a x y ^^^ (~~~ laneOf a (x + 1) y &&& laneOf a (x + 2) y)

def shakeRound (a : List Dword) (round : Nat) : List Dword :=
  match chi (rhoPi (theta a)) with
  | v :: r => (v ^^^ iotaOf round) :: r
  | [] => []

/-- The permutation. -/
def permute (a : List Dword) : List Dword := (List.range 24).foldl shakeRound a

/-- A message in blocks of 136 bytes taken into a state, n of them. -/
def sponge : Nat → List Byte → List Dword → List Dword
  | 0, _, a => a
  | n + 1, bs, a => sponge n (bs.drop 136) (permute (laneMap fun x y => laneOf a x y ^^^ BitVec.ofNat 64 (natOf (((bs.take 136).drop (8 * (x + 5 * y))).take 8))))

/-- The first 64 bytes of SHAKE256: the message, the suffix 1111, and the padding 10*1 up to a whole block. -/
def shake256 (bs : List Byte) : List Byte :=
  let n := bs.length / 136 + 1
  let m := bs ++ bytesOf (136 * n - bs.length) (0x1F + 2 ^ (8 * (136 * n - bs.length) - 1))
  ((sponge n m (List.replicate 25 0)).flatMap fun w => bytesOf 8 w.toNat).take 64

end Sys2Proof.Machine
end

