-- ==== Sys2Proof/Machine/Package.lean ====
section
/-! DEFINITION. The package (spec 01 R11 to R30, R478, 06 R140 to R142): reset and self-test, firmware, measurement and attestation, the
die-to-die link, memory errors, cooling, and the publication of hot pages. -/

namespace Sys2Proof.Machine

/-! Reset and self-test (R20 to R23, R478). -/

/-- A package reset: every register at its reset value, a staged firmware image in place of the old one. What memory holds, and which
lines are poisoned, stays (DESIGN CHOICE, log entry 15). -/
def State.packageReset (s : State) : State :=
  let (image, sig, version) := match s.fw.staged with | some x => x | none => (s.fw.image, s.fw.sig, s.fw.version)
  { State.reset with
    tick := s.tick
    inbox := s.inbox
    out := s.out
    mem := s.mem
    poison := s.poison
    nextId := s.nextId
    fw := { Firmware.reset with image := image, sig := sig, version := version, fused := s.fw.fused } }

def execPackageReset (s : State) : Host.Outcome State Fault Refusal := event State.packageReset s

/-- The READYF bit that one unit of R30 stands for; the boot ROM sets the management service's (R25). -/
def unitBit (d : Die) (u : BitVec 8) : Option Nat :=
  let n := u.toNat
  if n = 0x90 then some (bitColl d)
  else if n = 0x91 then some (bitGc d)
  else if n = 0x92 then some (bitSamp d)
  else if n = 0x93 then some (bitBfq d)
  else if n = 0x94 then some (bitCat d)
  else if n = 0x95 then some (bitL2 d)
  else if 0x96 ≤ n && n ≤ 0x99 then some (bitHbm d (n - 0x96))
  else if n = 0x9A then some (bitTier2 d)
  else if n = 0x9B then some (bitCarrel d)
  else if n = 0x9C then some bitD2d
  else if 0xA0 ≤ n && n ≤ 0xA7 then some (bitPort (8 * d.num + n - 0xA0))
  else none

/-- Whether all 16 copy engines of a die have passed. -/
def Pkg.copyPassed (p : Pkg) (d : Die) : Bool := (List.range 16).all fun e => p.passed.contains (d, BitVec.ofNat 8 (0x80 + e))

/-- Whether a die's L2 and HBM bits are set. -/
def memoryUp (f : Dword) (d : Die) : Bool := f.getLsbD (bitL2 d) && (List.range 4).all fun k => f.getLsbD (bitHbm d k)

/-- Units of a die that reach no memory of it: the memory system itself, the link, the ports. -/
def needsNoMemory (u : BitVec 8) : Bool := (0x95 ≤ u.toNat && u.toNat ≤ 0x9A) || u.toNat = 0x9C || 0xA0 ≤ u.toNat

/-- The bits that the units passed so far set: the memory system's, the link's and the ports', then every other function's once its die's L2FC and
HBM bits are set (R21; DEDUCED, log entry 13). -/
def Pkg.settle (p : Pkg) : Pkg :=
  let one (i : Nat) : Dword := BitVec.ofNat 64 (2 ^ i)
  let set (ok : Die × BitVec 8 → Bool) (f : Dword) : Dword :=
    p.passed.foldl (fun f x => if ok x then match unitBit x.1 x.2 with | some i => f ||| one i | none => f else f) f
  let f1 := set (fun x => needsNoMemory x.2) p.readyF
  let f2 := set (fun x => memoryUp f1 x.1) f1
  let f3 := [Die.a, Die.b].foldl (fun f d => if p.copyPassed d && memoryUp f1 d then f ||| one (bitCopy d) else f) f2
  let c1 := p.passed.foldl (fun (c : BitVec 256) x =>
    if x.2.toNat < 0x80 && memoryUp f1 x.1 then c ||| BitVec.ofNat 256 (2 ^ coreBit x.1 x.2.toNat) else c) p.readyC
  { p with readyF := f3, readyC := c1 }

/-- A unit as self-test and the readiness map know it: the link and the service are one for the package. -/
def unitKey (d : Die) (u : BitVec 8) : Die × BitVec 8 := if u = 0x9C || u = 0xFE then (.a, u) else (d, u)

/-- Units that have a self-test of their own: those of R30 but the value for no single unit. -/
def hasTest (u : BitVec 8) : Bool :=
  u.toNat ≤ 0x9D || (0xA0 ≤ u.toNat && u.toNat ≤ 0xA7) || u = 0xFE

/-- A unit ends its self-test: it counts as passed, or its failure is posted as a fault record with context 0xFFFF, whose CAUSE, one of those of R29, no
rule gives (R23). -/
def State.selfTest (s : State) (d : Die) (u : BitVec 8) (pass : Bool) : State :=
  let k := unitKey d u
  if !hasTest u || s.pkg.passed.contains k || s.pkg.failed.contains k then s
  else if pass then { s with pkg := { s.pkg with passed := s.pkg.passed ++ [k] }.settle }
  else
    let r := 0xFFFF + u.toNat * 2 ^ 16 + (1 + Config.choose 4 s.tick % 7) * 2 ^ 24 + (if u = 0xFE then 0 else d.num) * 2 ^ 32
    ({ s with pkg := { s.pkg with failed := s.pkg.failed ++ [k] } } : State).post d 0x07 0 0xFFFF (BitVec.ofNat 64 r) 0 0

def execUnitSelfTestDone (s : State) : Host.Outcome State Fault Refusal :=
  event (fun s => match s.arg with | .unit d u pass => s.selfTest d u pass | _ => s) s

/-- A unit out of service after a device fault: its bit clears and stays clear (R21), and what a port or the link no longer carries ends (R33). -/
def State.outOfService (s : State) (d : Die) (u : BitVec 8) : State :=
  let k := unitKey d u
  let bit? : Option Nat := if 0x80 ≤ u.toNat && u.toNat ≤ 0x8F then some (bitCopy d) else unitBit d u
  let s1 : State := { s with pkg := { s.pkg with
      passed := s.pkg.passed.filter fun x => x != k
      failed := if s.pkg.failed.contains k then s.pkg.failed else s.pkg.failed ++ [k]
      readyF := match bit? with | some i => s.pkg.readyF &&& ~~~ (BitVec.ofNat 64 (2 ^ i)) | none => s.pkg.readyF
      readyC := if u.toNat < 0x80 then s.pkg.readyC &&& ~~~ (BitVec.ofNat 256 (2 ^ coreBit d u.toNat)) else s.pkg.readyC } }
  if u.toNat = 0x9C || 0xA0 ≤ u.toNat then s1.routesLost else s1

/-! Firmware, measurement, attestation (R24 to R27). -/

/-- The answer to a request of the management service. -/
def State.answer (s : State) (a : Answer) : State := { s with out := s.out ++ [.answer a] }

/-- A digest of 64 bytes as a slot holds it, byte 0 lowest. -/
def measureOf (bs : List Byte) : BitVec 512 := BitVec.ofNat 512 (natOf bs)

/-- An image's signature has 29,792 bytes and verifies, and its security version is no lower than the fused one (R25). -/
def Firmware.accepted (f : Firmware) : Bool := f.sig.length = 29792 && Config.signatureValid f.image f.sig && f.fused ≤ f.version

/-- The boot ROM, once the service's self-test is over, measures the firmware and verifies it: MGMT is set in either case, unless the service failed its
self-test, and FWOK when every check passes (R25). -/
def State.firmwareVerify (s : State) : State :=
  let me : Die × BitVec 8 := (.a, 0xFE)
  if s.readyBit bitFw || !(s.pkg.passed.contains me || s.pkg.failed.contains me) then s
  else
    let slots := ((s.fw.slots.set 0 (Config.measured 0)).set 1 (measureOf (shake256 s.fw.image))).set 2 (Config.measured 2)
    let mgmt : Dword := if s.pkg.failed.contains (.a, 0xFE) then 0 else BitVec.ofNat 64 (2 ^ bitMgmt)
    let fwok : Dword := if s.fw.accepted then BitVec.ofNat 64 (2 ^ bitFw) else 0
    { s with fw := { s.fw with slots := slots }, pkg := { s.pkg with readyF := s.pkg.readyF ||| mgmt ||| fwok } }

def execFirmwareVerify (s : State) : Host.Outcome State Fault Refusal := event State.firmwareVerify s

/-- A new image waits for the next package reset; the service takes it whether or not the firmware runs. -/
def execFirmwareUpdate (s : State) : Host.Outcome State Fault Refusal :=
  event (fun s => match s.arg with
    | .firmware image sig version =>
      if s.readyBit bitMgmt then ({ s with fw := { s.fw with staged := some (image, sig, version) } } : State).answer .taken else s
    | _ => s) s

/-- The fused security version rises through a signed request only. -/
def execSecurityVersionRaise (s : State) : Host.Outcome State Fault Refusal :=
  event (fun s => match s.arg with
    | .raise v sig =>
      if !s.readyBit bitMgmt || !s.readyBit bitFw then s
      else if Config.raiseValid v sig && s.fw.fused < v then
        ({ s with fw := { s.fw with fused := v } } : State).answer .taken
      else s.answer .refused
    | _ => s) s

/-- Slot j becomes the digest of itself with the digest of the data (R26). -/
def State.extendSlot (s : State) (j : Nat) (data : List Byte) : State :=
  let slots := s.fw.slots.mapIdx fun i x => if i = j then measureOf (shake256 (bytesOf 64 x.toNat ++ shake256 data)) else x
  if 3 ≤ j && j < 8 then ({ s with fw := { s.fw with slots := slots } } : State).answer .taken else s.answer .refused

def execMeasurementExtend (s : State) : Host.Outcome State Fault Refusal :=
  event (fun s => match s.arg with
    | .extend j data => if !s.readyBit bitMgmt || !s.readyBit bitFw then s else s.extendSlot j data
    | _ => s) s

/-- One report is signed at a time and four more requests wait; a sixth finds BUSY (R27). -/
def execAttestationRequest (s : State) : Host.Outcome State Fault Refusal :=
  event (fun s => match s.arg with
    | .nonce n =>
      if !s.readyBit bitMgmt then s
      else if s.fw.nonces.length < 5 then { s with fw := { s.fw with nonces := s.fw.nonces ++ [n] } }
      else s.answer .busy
    | _ => s) s

/-- The report of R27 for a nonce. Its security version is the image's, not the fused one (DESIGN CHOICE, log entry 43). -/
def State.attest (s : State) (n : BitVec 256) : Out :=
  let slots := s.fw.slots.toList
  .report n s.pkg.devnum Config.stepping s.fw.version slots
    (Config.deviceSignature ([n.toNat, s.pkg.devnum.toNat, Config.stepping, s.fw.version] ++ slots.map fun x => x.toNat))

def execAttestationReport (s : State) : Host.Outcome State Fault Refusal :=
  event (fun s =>
    match s.fw.nonces with
    | n :: rest =>
      if s.readyBit bitMgmt then { s with fw := { s.fw with nonces := rest }, out := s.out ++ [s.attest n] } else s
    | [] => s) s

/-! The die-to-die link (R11). -/

/-- A flit fails its CRC and is sent again: the one that failed before, or another. -/
def execD2dFlitRetry (s : State) : Host.Outcome State Fault Refusal :=
  event (fun s =>
    if s.readyBit bitD2d then
      { s with pkg := { s.pkg with flitRetries := if s.pkg.flitRetries < 16 && Config.coin s.tick 6 then s.pkg.flitRetries + 1 else 1 } }
    else s) s

/-- Dies of a context's declared extents, by the pages its running nodes have mapped. -/
def Extent.dies (e : Extent) : List Die :=
  if e.walked then []
  else e.pages.filterMap fun r => match r.page with | .mapped pa _ => some (homeDie pa) | _ => none

/-- Dies on which a context has resident blocks, engine operations or declared extents. (DEDUCED, log entry 23) -/
def State.ctxDies (s : State) (n : Nat) : List Die :=
  ((s.blocks.filter fun b => b.ctx = n && b.resident).map fun b => b.die) ++
  ((s.ops.filter fun o => o.ctx = n).map fun o => o.die) ++
  ((s.replays.filter fun r => r.ctx = n).flatMap fun r => r.nodes.flatMap fun x => x.exts.flatMap Extent.dies)

/-- The link is lost after 16 retries of a flit have failed. (DEDUCED, log entry 23) -/
def State.d2dLost (s : State) : State :=
  if !s.readyBit bitD2d || s.pkg.flitRetries < 16 then s
  else
    let hit := s.ctxs.filter fun c => (s.ctxDies c.num).contains .a && (s.ctxDies c.num).contains .b
    let d : Die := if Config.coin s.tick 7 then .a else .b
    hit.foldl (fun a c => a.deviceFault c.num 3 d 0x9C) (s.outOfService .a 0x9C)

def execD2dLost (s : State) : Host.Outcome State Fault Refusal := event State.d2dLost s

/-! Memory errors and other device faults (R13, R28). -/

/-- One more corrected error on a die. -/
def Pkg.countEcc (p : Pkg) (d : Die) : Pkg := match d with | .a => { p with eccA := p.eccA + 1 } | .b => { p with eccB := p.eccB + 1 }
def Pkg.countSoft (p : Pkg) (d : Die) : Pkg := match d with | .a => { p with softA := p.softA + 1 } | .b => { p with softB := p.softB + 1 }

def execMemEccCorrected (s : State) : Host.Outcome State Fault Refusal :=
  event (fun s => match s.arg with | .die d => { s with pkg := s.pkg.countEcc d } | _ => s) s

/-- The line of an address holds memory and becomes poisoned. -/
def State.poisonLine (s : State) (pa : Nat) : State :=
  let l := pa / 128 * 128
  match homeOf pa with
  | .hbm _ | .tier2 _ => if s.poison.contains l then s else { s with poison := s.poison ++ [l] }
  | _ => s

def execMemEccUncorrectable (s : State) : Host.Outcome State Fault Refusal :=
  event (fun s => match s.arg with | .num pa => s.poisonLine pa | _ => s) s

/-- A device fault charged to a context that exists, by a unit of R30; the hardware may take the unit out of service with it (R21). -/
def State.charge (s : State) (ctx cause : Nat) (d : Die) (u : BitVec 8) : State :=
  match s.ctx? ctx with
  | none => s
  | some _ =>
    if !hasTest u || (u = 0xFE && d = .b) then s
    else
      let s1 := s.deviceFault ctx cause d u
      if Config.coin s.tick 8 then s1.outOfService d u else s1

/-- Soft errors. A shared line poisoned so faults its next reader with MEM_UNCORR, as every poisoned line does; SRAM_UNCORR is the cause of an error charged
at once (DESIGN CHOICE, log entry 43). -/
def execSramSoftError (s : State) : Host.Outcome State Fault Refusal :=
  event (fun s => match s.arg with
    | .soft (.corrected d) => { s with pkg := s.pkg.countSoft d }
    | .soft (.charged ctx d u) => s.charge ctx 2 d u
    | .soft (.line pa) => s.poisonLine pa
    | _ => s) s

def execInternalTimeout (s : State) : Host.Outcome State Fault Refusal :=
  event (fun s => match s.arg with
    | .charge ctx d u => if u = 0xFF && (s.ctx? ctx).isSome then s.deviceFault ctx 7 d u else s.charge ctx 7 d u
    | _ => s) s

/-! Cooling (R18, R19). -/

/-- What a sample says: 0 normal, 1 warning, 2 trip. No column of R18 holds an inlet below 15 °C: the hardware chooses. (DEDUCED, log entry 23) -/
def Coolant.state (c : Coolant) (below : Nat) : Nat :=
  let inlet := if 450 < c.inlet then 2 else if 400 < c.inlet then 1 else if c.inlet < 150 then below else 0
  let flow := if c.flow < 160 then 2 else if c.flow < 200 then 1 else 0
  let junction (t : Nat) : Nat := if 1050 < t then 2 else if 950 < t then 1 else 0
  max (max inlet flow) (max (junction c.junctionA) (junction c.junctionB))

/-- The unit that a thermal trip's record names, any of R30. -/
def tripUnit (tick i : Nat) : Die × BitVec 8 :=
  let units := (List.range 256).filter fun u => hasTest (BitVec.ofNat 8 u)
  let u : BitVec 8 := BitVec.ofNat 8 (units.getD (Config.choose (5 + i) tick % units.length) 0)
  unitKey (if Config.coin tick (1000 + i) then .a else .b) u

/-- A trip: faults for every context, then the clocks stop, then readiness clears. -/
def State.thermalTrip (s : State) : State :=
  let s1 := s.ctxs.foldl (fun a c => a.deviceFault c.num 6 (tripUnit s.tick c.num).1 (tripUnit s.tick c.num).2) s
  { s1 with
    clocksOn := false
    pkg := { s1.pkg with readyF := s1.pkg.readyF &&& 1, readyC := 0, thermal := 2, slow := true, normalRun := 0 } }

/-- One sample sets the thermal state; the warning row of R15 applies from the entry into warning until 100 normal samples in a row (R18, R19). -/
def State.coolingSample (s : State) (c : Coolant) : State :=
  if s.pkg.thermal = 2 then s
  else
    match c.state (Config.choose 2 s.tick % 3) with
    | 0 =>
      let run := s.pkg.normalRun + 1
      if !s.pkg.slow || 100 ≤ run then { s with pkg := { s.pkg with thermal := 0, slow := false, normalRun := 0 } }
      else { s with pkg := { s.pkg with thermal := 0, normalRun := run } }
    | 1 =>
      let s1 : State := { s with pkg := { s.pkg with thermal := 1, slow := true, normalRun := 0 } }
      if s.pkg.thermal = 0 then s1.post .a 0x08 0 0xFFFF 1 0 0 else s1
    | _ => s.thermalTrip

def execCoolingSample (s : State) : Host.Outcome State Fault Refusal :=
  event (fun s => match s.arg with | .coolant c => s.coolingSample c | _ => s) s

/-! Hot pages (R141, R142). -/

/-- The die of a memory controller. -/
def hotDie (m : Nat) : Die := if m < 4 || m = 8 then .a else .b

/-- Candidates by descending estimate, ties by ascending frame. -/
def HotCtl.sorted (h : HotCtl) : List (Nat × Word) :=
  h.cand.mergeSort fun a b => b.2.toNat < a.2.toNat || (a.2 = b.2 && a.1 ≤ b.1)

/-- The bytes of a publication: what follows header word 0. -/
def HotCtl.page (h : HotCtl) : List Byte :=
  bytesOf 8 h.cand.length ++ List.replicate 48 0 ++
    (h.sorted.flatMap fun e => bytesOf 8 (e.1 * 65536) ++ bytesOf 8 e.2.toNat) ++ List.replicate (16 * (64 - h.cand.length)) 0

/-- A controller publishes: the entries, then header word 0 as a release. -/
def State.publish (s : State) (m base : Nat) (h : HotCtl) : State :=
  let at_ := base + 2048 * m
  let d := hotDie m
  match s.meets d none at_ 2048 false with
  | .none | .clear =>
    let s1 := (s.ownWrite (at_ + 8) h.page).ownWrite at_ (bytesOf 8 (h.interval.toNat + 1))
    (s1.setSync at_ (.at_ d [])).setSync (at_ + 4) (.at_ d [])
  | f => s.physTrap 0 f d (if m < 8 then BitVec.ofNat 8 (0x96 + m % 4) else 0x9A) at_

/-- An interval of a controller ends: publication when context 0 is live and asks for it, then the sketch and list are cleared. -/
def State.hotInterval (s : State) (m : Nat) : State :=
  match s.hot[m]? with
  | none => s
  | some h =>
    if h.len = 0 || s.cycle (hotDie m) < h.start + h.len then s
    else
      let pub : Option Nat :=
        match s.ctx? 0 with
        | some c => if s.live 0 && c.hotBase ≠ 0 && c.hotInt ≠ 0 then some c.hotBase else none
        | none => none
      let s1 := match pub with | some base => s.publish m base h | none => s
      { s1 with hot := s1.hot.mapIdx fun i x =>
          if i = m then { x with sketch := [], cand := [], start := h.start + h.len, interval := if pub.isSome then h.interval + 1 else h.interval }
          else x }

def execHotPageInterval (s : State) : Host.Outcome State Fault Refusal :=
  event (fun s => match s.arg with | .num m => s.hotInterval m | _ => s) s

end Sys2Proof.Machine
end

