-- ==== Sys2Proof/Machine/Start.lean ====
section
/-! DEFINITION. Threads and lead contexts as a block starts them (spec 05 R113, 09 R213), and the context and block that run an
instruction placed for the next step. -/

namespace Sys2Proof.Machine

/-- The word address at which withFetchWord places an instruction. -/
def fetchBase : Nat := 0xC000

/-- The context, code and block that run a placed instruction. -/
def fetchCode : Code := ⟨0x2F000, 0x2000, fetchBase, 12, 0, 0, ⟨1, [0], 7, 0, 0, false, 0, 0, 0, 0⟩⟩

def fetchCtx : Ctx :=
  { num := 1023, stat := 1, root := 0, l0 := 0, fqBase := 0, fqSize := 0, pfTmo := 0, catBase := 0, catLog2 := 0, hotBase := 0,
    hotInt := 0, save := 0, home := .a, classMax := 0, poolQ := 1, cores := 0, copyMask := 0, pmode := false, e := 1, kicks := [],
    taking := none, graphs := [], codes := [fetchCode], codePages := [(3, 0x10000)], fpCount := Vector.replicate 36 0,
    fpThresh := Vector.replicate 36 0, saveSlots := [], fqTail := 0, fqLost := 0 }

/-- A thread as a block starts it (R213). -/
def Thread.start (pc : CodeAddr) (g : BitVec 7) : Thread :=
  { pc := pc, v := Vector.replicate 128 0, k := Vector.replicate 16 0, dirty := 0, g := g, stale := false, req := 64, pri := 0,
    yld := false, late := false, lateRp := [], carrel := none, wrote := 0, homePoison := 0, chain := [], cause := 0, trapPc := 0, trapMask := 0,
    trapAddr := 0, trapVec := 0, inTrap := false, fpctr := 0, key := 0, draw := 0, ld := 0, st := 0, cp := [], tl := [], dqr := 0,
    qr := Vector.replicate 8 0, ph := 0, status := .ready, arrival := none, preempt := false, pfatal := none,
    pass := false, know := [], relClk := none, seen := .none, floor := 0, readyAt := none, issued := 0, wclk := 0, rclk := 0 }

/-- A lead context as a block starts it, before its scalar registers are set (R113, R213). -/
def Lead.start (pc : CodeAddr) : Lead :=
  { pc := pc, s := Vector.replicate 512 0, lk := Vector.replicate 8 0, p := 0, inTrap := false, cause := 0, vecKept := 0, status := .ready, evq := [], lost := 0,
    dq := Vector.replicate 64 0, dqw := 0, queues := Vector.replicate 8 none, preempt := false, pfatal := none,
    pass := false, know := [], floor := 0, readyAt := none, issued := 0, wclk := 0, rclk := 0 }

def TileSlot.start : TileSlot := ⟨Vector.replicate 4 none, none, none, []⟩

def fetchBlock (id : Nat) : Block :=
  { id := id, ctx := 1023, seq := 1, node := 0, b := 0, die := .a, code := fetchCode, w0 := 0, m := 1, loc := 0, pmode := false, cls := 0,
    bp := 0, threads := [.start (BitVec.ofNat 48 fetchBase) 64],
    shares := [⟨0, 0, .start (BitVec.ofNat 48 fetchBase), [], .start, []⟩], boxes := [], recs := [], bins := [], stage := .running,
    slot := none, placed := 0, stop := none, tag := 0, gone := [], barIn := [], barNext := [],
    barDone := [] }

end Sys2Proof.Machine
end

