-- ==== Sys2Proof/Machine/System.lean ====
section
/-! DEFINITION. Returns from handlers, traps raised on purpose, system registers, the cycle counter, checkpoints (spec 07 R155, 09 R195 to
R197, 11 R233, R234, R238 to R243, 12 R262, 14 R276, 23 R462 to R466). -/

namespace Sys2Proof.Machine

/-! Returns (R462, R240, R243 to R245). -/

/-- RTE at the end of a PREEMPT handler that saved: the thread parks (R243). -/
def LaneEnv.park (e : LaneEnv) (s : State) : State :=
  s.modThread e.r fun th => { th with inTrap := false, status := .parked, pass := false }

/-- A lane thread leaves trap state for an address; the last of its block to leave a resume handler frees the slot (R244). (DEDUCED, log entry 31) -/
def LaneEnv.leave (e : LaneEnv) (s : State) (pc : CodeAddr) : State :=
  (s.modThread e.r fun th => { th.done pc with inTrap := false }).checkEnd e.b.id

def execRte (f : X3) (s : State) : Host.Outcome State Fault Refusal :=
  lane (.rte f) (fun e s =>
    if !e.th.inTrap then .trap (.sync 0x01 0 0)
    else if saveCause e.th.cause then .gone (e.park s)
    else if e.b.code.holds e.th.trapPc.toNat then .gone (e.leave s e.th.trapPc)
    else .trap (.sync 0x0F 0 0)) s

/-- The lead context parks (R243). -/
def LeadEnv.park (e : LeadEnv) (s : State) : State :=
  s.modLead e.r fun l => { l with inTrap := false, status := .parked, pass := false }

/-- A lead context leaves its handler for an address. -/
def LeadEnv.leave (e : LeadEnv) (s : State) (pc : CodeAddr) : State :=
  (s.modLead e.r fun l => { l with inTrap := false, status := .ready, pass := false, pc := pc }).checkEnd e.b.id

/-- lk1, the return address (R238). -/
def Lead.ret (l : Lead) : Dword := l.lk[1]

def execLrte (f : Y3) (s : State) : Host.Outcome State Fault Refusal :=
  lead (.lrte f) (fun e s =>
    if !e.l.inTrap then .trap (.sync 0x01 0 0)
    else if saveCause e.l.cause then .gone (e.park s)
    else if e.b.code.holds e.l.ret.toNat then .gone (e.leave s (e.l.ret.setWidth 48))
    else .trap (.sync 0x0F 0 0)) s

/-! Traps raised on purpose (R463, R306, R308). -/

def execBreakOp (f : X3) (s : State) : Host.Outcome State Fault Refusal :=
  lane (.breakOp f) (fun e s =>
    if e.th.pass then .done s else if s.debugged e.b.ctx then .stop 2 else .trap (.sync 0x11 0 0)) s

def execLeadBreak (f : Y3) (s : State) : Host.Outcome State Fault Refusal :=
  lead (.leadBreak f) (fun e s =>
    if e.l.pass then .done s else if s.debugged e.b.ctx then .stop 2 else .trap (.sync 0x11 0 0)) s

def execSwtrap (f : XI) (s : State) : Host.Outcome State Fault Refusal :=
  lane (.swtrap f) (fun _ _ => .trap (.sync 0x10 (f.imm.toNat % 256) 0)) s

def execLeadSwtrap (f : YI) (s : State) : Host.Outcome State Fault Refusal :=
  lead (.leadSwtrap f) (fun _ _ => .trap (.sync 0x10 (f.imm.toNat % 256) 0)) s

/-! System registers (R155, R196, R197, R214, R234, R262, R276). -/

/-- WAYQUOTA of a die. -/
def State.wayQuota (s : State) (d : Die) : Dword := match d with | .a => s.pkg.wayA | .b => s.pkg.wayB

/-- What a lane thread reads from a listed register. -/
def LaneEnv.readSys (e : LaneEnv) (s : State) (n : Nat) : Word :=
  let th := e.th
  let wid := e.b.wid e.r.t
  match n with
  | 0x00 => th.grantWord
  | 0x01 => th.gangpos e.r.t
  | 0x02 => BitVec.ofNat 32 wid
  | 0x03 => BitVec.ofNat 32 (wid / 2 ^ 32)
  | 0x04 => th.ppri
  | 0x05 => th.outcnt
  | 0x08 => th.dirty.setWidth 32
  | 0x09 => (th.dirty >>> 32).setWidth 32
  | 0x0A => (th.dirty >>> 64).setWidth 32
  | 0x0B => (th.dirty >>> 96).setWidth 32
  | 0x10 => th.cause
  | 0x11 => th.trapPc.setWidth 32
  | 0x12 => (th.trapPc >>> 32).setWidth 32
  | 0x13 => th.trapMask.setWidth 32
  | 0x14 => (th.trapMask >>> 32).setWidth 32
  | 0x15 => th.trapAddr.setWidth 32
  | 0x16 => (th.trapAddr >>> 32).setWidth 32
  | 0x17 => th.trapVec
  | 0x18 => th.fpctr
  | 0x1C => th.key.setWidth 32
  | 0x1D => (th.key >>> 32).setWidth 32
  | _ => (s.wayQuota e.b.die).setWidth 32

/-- RDSR of a lane thread; a read of GRANT clears STALE (R195). -/
def LaneEnv.rdsr (e : LaneEnv) (s : State) (n : Nat) : UnitRes :=
  let s1 := if n = 0 then s.modThread e.r fun th => { th with stale := false } else s
  .done (e.write s1 [e.readSys s n])

/-- TRAPVEC takes no value but 0 and the start of a packet of the code below the guard packet (R234). -/
def Code.vecOk (c : Code) (v : Word) : Bool := v = 0 || (v.toNat % 3 = 0 && v.toNat + 3 < c.words)

/-- What WRSR makes of a thread, none for a register that only reads. -/
def Thread.writeSys (th : Thread) (n : Nat) (v : Word) : Option Thread :=
  match n with
  | 0x11 => some { th with trapPc := (th.trapPc >>> 32).setWidth 16 ++ v }
  | 0x12 => some { th with trapPc := v.setWidth 16 ++ th.trapPc.setWidth 32 }
  | 0x17 => some { th with trapVec := v }
  | 0x18 => some { th with fpctr := v &&& 0x1F }
  | 0x1C => some { th with key := (th.key >>> 32).setWidth 32 ++ v }
  | 0x1D => some { th with key := v ++ th.key.setWidth 32 }
  | _ => none

/-- WRSR of a lane thread. -/
def LaneEnv.wrsr (e : LaneEnv) (s : State) (n : Nat) (v : Word) : UnitRes :=
  if n = 0x17 && !e.b.code.vecOk v then .trap (.sync 0x01 5 0)
  else
    match e.th.writeSys n v with
    | some _ => .done (s.modThread e.r fun th => (th.writeSys n v).getD th)
    | none => .trap (.sync 0x08 2 0)

def execRdsr (f : ShortI) (s : State) : Host.Outcome State Fault Refusal :=
  lane (.rdsr f) (fun e s => e.rdsr s f.imm.toNat) s

def execRdsrLong (f : X3) (s : State) : Host.Outcome State Fault Refusal :=
  lane (.rdsrLong f) (fun e s => e.rdsr s f.mode.toNat) s

def execWrsr (f : ShortI) (s : State) : Host.Outcome State Fault Refusal :=
  lane (.wrsr f) (fun e s => e.wrsr s f.imm.toNat (e.x 0)) s

def execWrsrLong (f : X3) (s : State) : Host.Outcome State Fault Refusal :=
  lane (.wrsrLong f) (fun e s => e.wrsr s f.mode.toNat (e.x 0)) s

def execLeadRdsr (f : Y3) (s : State) : Host.Outcome State Fault Refusal :=
  lead (.leadRdsr f) (fun e s => .done (e.put s f.d (s.wayQuota e.b.die))) s

/-- A value that WAYQUOTA takes (R155). -/
def quotaOk (v : Nat) : Bool :=
  let r (k : Nat) : Nat := bits v (8 * k) 8
  v < 2 ^ 32 && [0, 1, 2, 3].all (fun k => r k ≤ 16) && r 0 + r 1 + r 2 + r 3 ≤ 16

/-- WRSR of WAYQUOTA; a value that it does not take leaves it as it is. -/
def State.setQuota (s : State) (d : Die) (v : Dword) : State :=
  if quotaOk v.toNat then
    match d with
    | .a => { s with pkg := { s.pkg with wayA := v } }
    | .b => { s with pkg := { s.pkg with wayB := v } }
  else s

def execLeadWrsr (f : Y3) (s : State) : Host.Outcome State Fault Refusal :=
  lead (.leadWrsr f) (fun e s =>
    if e.b.ctx = 0 then .done (s.setQuota e.b.die (e.l.get f.a)) else .trap (.sync 0x08 2 0)) s

/-! The cycle counter (R5, R465). -/

def State.cycleWord (s : State) (d : Die) : Dword := match d with | .a => s.cycA | .b => s.cycB

def execRdcyc (f : X3) (s : State) : Host.Outcome State Fault Refusal :=
  lane (.rdcyc f) (fun e s => .done (e.write s (two (s.cycleWord e.b.die)))) s

def execLeadRdcyc (f : Y3) (s : State) : Host.Outcome State Fault Refusal :=
  lead (.leadRdcyc f) (fun e s => .done (e.put s f.d (s.cycleWord e.b.die))) s

/-! CKPT (R466). -/

/-- Whether the chain at a thread's address names the decision queue. -/
def State.namesDq (s : State) (b : Block) (th : Thread) : Bool :=
  match s.ctx? b.ctx with
  | none => false
  | some c =>
    match s.fetchPacket b.die c th.pc.toNat with
    | .words w0 w1 w2 _ =>
      match chainAt (th.pc.toNat % 3) true (packetUnits w0 w1 w2) with
      | some us => us.any fun u => (shape u.instr).queues.contains 8
      | none => false
    | _ => false

/-- A thread has ended, or is blocked popping the empty decision queue. -/
def State.atDq (s : State) (b : Block) (sh : Share) (t : Nat) (th : Thread) : Bool :=
  th.status = .ended || (th.status = .wait .retry && popOf sh t th 8 = .wait && s.namesDq b th)

/-- Stages 1 and 2 of CKPT for one thread. -/
def State.ckptReady (s : State) (b : Block) (sh : Share) (t : Nat) : Bool :=
  match b.threads[t]? with
  | some th => s.atDq b sh t th && th.st = 0 && !s.logged ⟨b.id, t⟩
  | none => true

def execCkpt (f : Y3) (s : State) : Host.Outcome State Fault Refusal :=
  lead (.ckpt f) (fun e s =>
    if (e.b.onCore e.r.j).all fun t => s.ckptReady e.b e.sh t then
      .done (s.ckptArrive e.b e.r.j (e.l.get f.a) (e.l.get f.b))
    else .wait id .wait) s

end Sys2Proof.Machine
end

