-- ==== Sys2Proof/Machine/Preempt.lean ====
section
/-! DEFINITION. Pre-emption (spec 05 R114, 10 R232, 11 R240 to R245): which agents may issue, PREEMPT and its entry, the save of a block and
its way back. -/

namespace Sys2Proof.Machine

/-! Who may issue (R116, R190, R240, R242). -/

/-- An access holds an agent until it returns: an acquire atomic, a lead load (R411, R425). -/
def State.awaits (s : State) (a : Agent) : Bool := s.loads.any fun l => l.hold && l.who = a

/-- The operation an agent waits to see issued has its result, or is gone. -/
def State.opMet (s : State) (id : Nat) : Bool := match s.op? id with | some o => o.result.isSome | none => true

/-- What a blocked thread waited for has come: its instruction has had its effect on others and goes through. (DEDUCED, log entry 22) -/
def State.met (s : State) (b : Block) (th : Thread) : Bool :=
  match th.status with
  | .wait (.address true) | .wait (.xlane (some _)) | .wait (.join _ (some _)) | .wait (.half _ _) => true
  | .wait .barrier => th.ph.toNat ≤ b.bp.toNat
  | .wait (.op id) => s.opMet id
  | _ => false

/-- Whether a thread may issue or try again now. (DEDUCED, log entry 22) -/
def State.mayIssue (s : State) (b : Block) (t : Nat) (th : Thread) : Bool :=
  !s.awaits (.lane ⟨b.id, t⟩) &&
  (s.met b th || ((!th.preempt || th.inTrap) && (match th.status with | .ready | .wait .retry | .wait (.exit _) => true | _ => false)))

/-- Whether a lead context waits for an operation that lets it go on. -/
def State.leadMet (s : State) (l : Lead) : Bool := match l.status with | .op id => s.opMet id | _ => false

/-- Whether a lead context may issue or try again now. (DEDUCED, log entry 22) -/
def State.leadMayIssue (s : State) (r : LeadRef) (l : Lead) : Bool :=
  !s.awaits (.lead r) && (s.leadMet l || ((!l.preempt || l.inTrap) && (l.status = .ready || l.status = .wait)))

/-! Delivery (R232, R242). -/

/-- A thread that is not blocked any more at a record or in a bin. -/
def Thread.unfile (th : Thread) : Thread :=
  { th with chain := [], status := match th.status with | .wait (.rejoin _) | .filed _ => .ready | x => x }

/-- PREEMPT is delivered to every thread and lead context of a block that has not ended; its records and bins are discarded, and it holds a
save slot. -/
def State.deliverPreempt (s : State) (id slot : Nat) : State :=
  let s1 := s.modBlock id fun b =>
    { b with
      stage := .saving
      slot := some slot
      recs := []
      bins := []
      threads := b.threads.map fun th => if th.status = .ended then th else { th.unfile with preempt := true }
      shares := b.shares.map fun (x : Share) =>
        if x.lead.status = .ended then x else { x with lead := { x.lead with preempt := true } } }
  match s.block? id with
  | some b => s1.modCtx b.ctx fun c => { c with saveSlots := c.saveSlots ++ [slot] }
  | none => s1

/-- The first free save slot of a context (R244). -/
def Ctx.freeSlot (c : Ctx) : Option Nat := (List.range 64).find? fun k => !c.saveSlots.contains k

/-- Whether a block may be a victim (R242, R308). -/
def Block.eligible (b : Block) : Bool :=
  b.stage = .running && b.stop.isNone &&
  (b.threads.all fun th => th.status = .ended || th.trapVec != 0) &&
  b.shares.all fun x => x.lead.status = .ended || x.lead.vec != 0

/-! The entry (R233, R238, R240, R242). -/

/-- A thread leaves what it is blocked at, which then had no effect; one at EXIT or END goes back to its chain's first word. (DEDUCED, log entry 22, DEDUCED, log entry 40) -/
def State.unblock (s : State) (r : ThreadRef) (bp : Dword) : State :=
  (s.leaveWaits r).modThread r fun th =>
    { th with
      ph := if th.status = .wait .barrier && bp.toNat < th.ph.toNat then th.ph - 1 else th.ph
      pc := match th.status with | .wait (.exit pc) => pc | _ => th.pc
      status := .ready
      arrival := none }

/-- Nothing of a thread is outstanding. (DEDUCED, log entry 22) -/
def State.quiet (s : State) (r : ThreadRef) (th : Thread) : Bool :=
  th.ld = 0 && th.st = 0 && th.cp.isEmpty && th.tl.isEmpty && !s.awaits (.lane r)

/-- A thread's way into its PREEMPT handler, once its counts are zero; PAGE_FATAL of a dropped log entry goes before it. -/
def State.enterLane (s : State) (r : ThreadRef) (b : Block) (th : Thread) : State :=
  if !th.preempt || th.inTrap || th.status = .ended || th.status = .parked || s.met b th then s
  else
    let s1 := s.unblock r b.bp
    match s1.thread? r with
    | none => s1
    | some th1 =>
      match th1.pfatal with
      | some va => (s1.modThread r fun th => { th with pfatal := none }).takeTrap r ⟨0x07, 0, va, true, false⟩ th1.pc 0 false
      | none =>
        if s1.quiet r th1 then
          (s1.modThread r fun th => { th with preempt := false }).takeTrap r ⟨0x13, 0, 0, true, false⟩ th1.pc 0 false
        else s1

/-- A lead context's way, once its operations have completed. (DEDUCED, log entry 22) -/
def State.enterLead (s : State) (r : LeadRef) (l : Lead) : State :=
  if !l.preempt || l.inTrap || l.status = .ended || l.status = .parked || s.leadMet l || s.awaits (.lead r) then s
  else
    let s1 : State := { s with
      ops := s.ops.filter fun o => !(o.issuer = Issuer.agent (.lead r) && o.phase = .waiting)
      holds := s.holds.filter fun h => h.who != .agent (.lead r) }
    let s2 := s1.modLead r fun l => { l with status := .ready }
    if s2.ops.any fun o => o.issuer = Issuer.agent (.lead r) then s2
    else (s2.modLead r fun l => { l with preempt := false }).takeLeadTrap r ⟨0x13, 0, 0, true, false⟩ l.pc 0 false

def execPreemptEntry (s : State) : Host.Outcome State Fault Refusal :=
  event (fun s => match s.arg with
    | .agent (.lane r) =>
      match s.block? r.block, s.thread? r with
      | some b, some th => if b.issues then s.enterLane r b th else s
      | _, _ => s
    | .agent (.lead r) =>
      match s.block? r.block, s.lead? r with
      | some b, some l => if b.issues then s.enterLead r l else s
      | _, _ => s
    | _ => s) s

/-! The save (R243, R244). -/

/-- The 128 bytes of QUEUE q (R244), in a layout of the model's own but for bits 15:0 (DESIGN CHOICE, log entry 14). -/
def Queue.bytes : Option Queue → List Byte
  | none => bytesOf 128 0
  | some q =>
    let w0 := q.written % 2 ^ 16 + 2 ^ 16 + b2n q.perThread * 2 ^ 17 + q.d * 2 ^ 24 + q.n * 2 ^ 32
    let head := bytesOf 8 w0 ++ bytesOf 8 q.base
    match q.stream with
    | none => head ++ bytesOf 112 0
    | some x =>
      head ++ bytesOf 8 (x.base + 2 ^ 56 + b2n x.running * 2 ^ 57 + b2n x.glob * 2 ^ 58) ++
        (x.counts.flatMap fun c => bytesOf 2 (c - 1)) ++ (x.strides.flatMap fun i => bytesOf 8 (BitVec.ofInt 64 i).toNat) ++
        bytesOf 8 (BitVec.ofInt 64 x.ts).toNat ++ bytesOf 8 x.pos ++ bytesOf 8 q.written ++ bytesOf 40 0

/-- The queue that 128 bytes at an offset hold. -/
def Queue.ofBytes (rd : Nat → Nat → Nat) (o : Nat) : Option Queue :=
  let w := rd o 8
  let x := rd (o + 0x10) 8
  let int (i : Nat) : Int := (BitVec.ofNat 64 (rd (o + i) 8)).toInt
  let stream : Stream :=
    { base := bits x 0 56, counts := (List.range 4).map fun i => rd (o + 0x18 + 2 * i) 2 + 1, strides := (List.range 4).map fun i => int (0x20 + 8 * i),
      ts := int 0x40, glob := bit x 58, pos := rd (o + 0x48) 8, running := bit x 57 }
  if bit w 16 then
    some ⟨rd (o + 8) 8, bits w 24 8, bit w 17, bits w 32 11, rd (o + 0x50) 8, if bit x 56 then some stream else none⟩
  else none

/-- The 32 bytes of MBOX m (R244), in a layout of the model's own (DESIGN CHOICE, log entry 14). -/
def Mailbox.bytes : Option Mailbox → List Byte
  | none => bytesOf 32 0
  | some x =>
    bytesOf 8 x.base ++ bytesOf 8 (x.size + x.k * 2 ^ 16 + x.core * 2 ^ 24 + b2n x.glob * 2 ^ 32 + 2 ^ 33) ++ bytesOf 4 x.claim.toNat ++
      bytesOf 4 x.pub.toNat ++ bytesOf 4 x.take.toNat ++ bytesOf 4 x.ret.toNat

/-- The mailbox that 32 bytes at an offset hold; what happened before its publications and returns is the kept one's. -/
def Mailbox.ofBytes (rd : Nat → Nat → Nat) (o : Nat) (kept : Option Mailbox) : Option Mailbox :=
  let w := rd (o + 8) 8
  let word (i : Nat) : Word := BitVec.ofNat 32 (rd (o + i) 4)
  let clk (f : Mailbox → Clock) : Clock := match kept with | some x => f x | none => []
  if bit w 33 then
    some ⟨bit w 32, rd o 8, bits w 0 16, bits w 16 8, bits w 24 8, word 16, word 20, word 24, word 28, clk fun x => x.pubK, clk fun x => x.retK⟩
  else none

/-- Writes of a thread's state: whose it is, the offset in the core share, the bytes. -/
def threadParts (bp : Dword) (i : Nat) (th : Thread) : List (Nat × List Byte) :=
  [(0x4000 + 128 * i,
     bytesOf 8 (th.trapPc.toNat + th.pri.toNat * 2 ^ 48 + b2n th.yld * 2 ^ 52 + th.req.toNat * 2 ^ 56) ++
     bytesOf 8 (th.trapVec.toNat + th.dqr.toNat * 2 ^ 32) ++ bytesOf 16 th.dirty.toNat ++ bytesOf 8 th.draw.toNat ++
     (th.qr.toList.flatMap fun x => bytesOf 2 x.toNat) ++ bytesOf 8 (th.fpctr.toNat + (th.ph - bp).toNat % 4 * 2 ^ 32) ++
     ((th.v.toList.drop 112).flatMap fun x => bytesOf 4 x.toNat)),
   (0xE4000 + 512 * i + 0x1C0, bytesOf 8 th.key.toNat ++ ((th.k.toList.drop 4).flatMap fun x => bytesOf 4 x.toNat))]

/-- Tiles of a slot as a mask. -/
def TileSlot.mask (t : TileSlot) : Nat := maskWhere 32 fun i => t.tiles.any fun x => x.1 = i

/-- Writes of a core share's own state: header, decision queue, queues, mailboxes, lead context, and the tiles of one that has ended. (DEDUCED, log entry 22) -/
def shareParts (b : Block) (j : Nat) (sh : Share) : List (Nat × List Byte) :=
  let l := sh.lead
  let isOver := l.status = .ended
  [(0, bytesOf 8 b.b ++ bytesOf 8 (b.node + b.seq.toNat * 2 ^ 32) ++
      bytesOf 8 (j + b.c * 2 ^ 8 + sh.core * 2 ^ 16 + b.die.num * 2 ^ 24 + (b.onCore j).length * 2 ^ 32) ++
      (if j = 0 then bytesOf 8 b.bp.toNat else [])),
   (0x40, (l.dq.toList.flatMap fun x => bytesOf 4 x.toNat) ++ bytesOf 8 l.dqw.toNat),
   (0x200, l.queues.toList.flatMap Queue.bytes)] ++
  (if j = 0 then [(0x600, b.boxes.flatMap Mailbox.bytes)] else []) ++
  [(0xA00, bytesOf 8 ((if isOver then l.pc.toNat else (l.ret.setWidth 48).toNat) + l.p.toNat * 2 ^ 48 + b2n isOver * 2 ^ 56)),
   (0xA40, ((l.s.toList.drop 504).flatMap fun x => bytesOf 8 x.toNat) ++
     bytesOf 8 (if isOver then 0 else l.vecKept.toNat % 2 ^ 32) ++ bytesOf 8 sh.tile.mask)] ++
  (if isOver then sh.tile.tiles.map fun x => (0x64000 + 0x4000 * x.1, x.2.read 0 16384) else [])

/-- Everything that the core writes of a block, by agent (R243). -/
def Block.saveWrites (b : Block) (c : Ctx) (k : Nat) : List (Agent × Nat × List Byte) :=
  (List.range b.shares.length).flatMap fun j =>
    let base := shareAddr c k j
    let lead := match b.shares[j]? with
      | some sh => (shareParts b j sh).map fun p => (Agent.lead ⟨b.id, j⟩, base + p.1, p.2)
      | none => []
    lead ++ (b.onCore j).zipIdx.flatMap fun e =>
      match b.threads[e.1]? with
      | some th =>
        if th.status = .ended then []
        else (threadParts b.bp e.2 th).map fun p => (Agent.lane ⟨b.id, e.1⟩, base + p.1, p.2)
      | none => []

/-- How the core's access of the save area comes out: done, waiting for a page, waiting for a unit across the link (R22), or a trap of the agent whose state it is. -/
inductive Saved (α : Type) where
  | ok (v : α)
  | hold (va : Nat)
  | wait
  | bad (a : Agent) (cause : Nat)

/-- The physical parts of one access of the save area by a block's core (R134, R244). No device fault arises there: what R12 and R13 fault is a trap
(DEDUCED, log entry 22). -/
def State.saveRange (s : State) (d : Die) (c : Ctx) (id : Nat) (a : Agent) (wr : Bool) : Nat → Nat → Nat → List (Nat × Nat) → Saved (List (Nat × Nat))
  | 0, _, _, acc => .ok acc
  | fuel + 1, va, n, acc =>
    if n = 0 then .ok acc
    else
      let m := min n (65536 - va % 65536)
      let at_ (pa : Nat) := match s.meets d none pa m (!wr) with
        | .none => s.saveRange d c id a wr fuel (va + m) (n - m) (acc ++ [(pa, m)])
        | .clear => .wait
        | _ => .bad a 0x08
      match s.walk d c va with
      | .dev f _ => if f = .clear then .wait else .bad a 0x08
      | .leaf pa size rd w _ _ => if (if wr then w else rd) then at_ (pa + va % size) else .bad a 0x08
      | .bad _ => .bad a 0x08
      | .pend _ =>
        match s.verdict (.save id) c.num va with
        | some (.ok page) => at_ (page + va % 65536)
        | some .denied => .bad a 0x08
        | some .fatal => .bad a 0x07
        | none => .hold va

/-- The parts of every write. (DEDUCED, log entry 22) -/
def State.saveAll (s : State) (d : Die) (c : Ctx) (id : Nat) : List (Agent × Nat × List Byte) → List (List (Nat × Nat) × List Byte) →
    Saved (List (List (Nat × Nat) × List Byte))
  | [], acc => .ok acc
  | (a, va, bs) :: r, acc =>
    match s.saveRange d c id a true (bs.length / 65536 + 2) va bs.length [] with
    | .ok ps => s.saveAll d c id r (acc ++ [(ps, bs)])
    | .hold va => .hold va
    | .wait => .wait
    | .bad a x => .bad a x

/-- A core holds on an absent page of the save area. -/
def State.saveHold (s : State) (b : Block) (va : Nat) (wr : Bool) : State :=
  let u : FUnit := .core b.die (b.coreNum 0)
  let s1 := s.raise u b.nodeRef (if wr then 2 else 1) va wr
  if s1.holds.any fun h => h.who = .save b.id && h.va / 65536 = va / 65536 then s1
  else { s1 with holds := s1.holds ++ [⟨.save b.id, u, b.ctx, va, !wr, wr, none⟩] }

/-- The save area refuses: an unhandled trap of the agent whose state it is (R239, R244). -/
def State.saveTrap (s : State) (b : Block) (a : Agent) (cause : Nat) : State :=
  let t : Trap := .sync cause 0 0
  match a with
  | .lane r => s.unhandled b.nodeRef t false (match b.threads[r.t]? with | some th => th.trapPc.toNat | none => 0) (b.wid r.t)
  | .lead l =>
    match b.shares[l.j]? with
    | some sh => s.unhandled b.nodeRef t true (sh.lead.ret.setWidth 48).toNat (sh.lead.s[497]).toNat
    | none => s

/-- Every party has parked or ended, and nothing of the block is outstanding (R243). -/
def State.saveReady (s : State) (b : Block) : Bool :=
  b.stage = .saving &&
  (b.threads.all fun th => th.status = .ended || th.status = .parked) &&
  (b.shares.all fun x => x.lead.status = .ended || x.lead.status = .parked) &&
  s.drained b && !s.leadBusy b.id

/-- The block is saved: it leaves its cores and goes back to its node (R99, R114, R115). -/
def State.leaveCores (s : State) (b : Block) : State :=
  let s1 : State := { s with holds := s.holds.filter fun h => h.who != .save b.id }
  let s2 := s1.modBlock b.id fun b =>
    { b with
      stage := .saved
      threads := b.threads.map fun th => { th with carrel := none, preempt := false }
      shares := b.shares.map fun (x : Share) => { x with tile := { x.tile with tiles := [] } } }
  s2.modNode b.nodeRef fun n =>
    { n with again := n.again ++ [b.id], entered := if n.phase = .running && n.again = [] then s.cycle b.die else n.entered }

/-- What the threads and lead contexts of a block have done. -/
def State.blockDid (s : State) (b : Block) : Clock :=
  (List.range b.shares.length).foldl (fun k j => k.join (s.knows (.lead ⟨b.id, j⟩))) (s.blockKnows b)

/-- The save completes: its stores, like every store of the block, are at their homes (R243). (DEDUCED, log entry 22) -/
def State.saveBlock (s : State) (b : Block) : State :=
  match s.ctx? b.ctx, b.slot with
  | some c, some k =>
    match s.saveAll b.die c b.id (b.saveWrites c k) [] with
    | .ok ws => (ws.foldl (fun a w => writeParts a w.1 w.2) (s.settle (s.blockDid b))).leaveCores b
    | .hold va => s.saveHold b va true
    | .wait => s
    | .bad a x => s.saveTrap b a x
  | _, _ => s

def execSaveComplete (s : State) : Host.Outcome State Fault Refusal :=
  event (fun s => match s.arg with
    | .num id =>
      match s.block? id with
      | some b => if b.stop.isNone && s.saveReady b then s.saveBlock b else s
      | none => s
    | _ => s) s

/-! The way back (R195, R232, R245). -/

/-- n bytes of the save area as a number, once they can be read. -/
def State.saveNat (s : State) (d : Die) (c : Ctx) (id va n : Nat) : Nat :=
  match s.saveRange d c id (.lead ⟨id, 0⟩) false (n / 65536 + 2) va n [] with
  | .ok ps => natOf (ps.flatMap fun p => s.homeRead p.1 p.2)
  | _ => 0

/-- The tiles that a share's TILES names. -/
def maskTiles (m : Nat) : List Nat := (List.range 32).filter fun i => bit m i

/-- The bytes that the core reads of a saved block, by agent. (DEDUCED, log entry 22) -/
def State.restoreReads (s : State) (d : Die) (c : Ctx) (b : Block) (k : Nat) : List (Agent × Nat × Nat) :=
  (List.range b.shares.length).flatMap fun j =>
    let base := shareAddr c k j
    let ld : Agent := .lead ⟨b.id, j⟩
    let isOver := bit (s.saveNat d c b.id (base + 0xA00) 8) 56
    let tiles : List (Agent × Nat × Nat) :=
      if isOver then (maskTiles (s.saveNat d c b.id (base + 0xA88) 4)).map fun i => (ld, base + 0x64000 + 0x4000 * i, 16384) else []
    [(ld, base, 0xA90)] ++ tiles ++
    (b.onCore j).zipIdx.flatMap fun e =>
      match b.threads[e.1]? with
      | some th =>
        if th.status = .ended then []
        else [(.lane ⟨b.id, e.1⟩, base + 0x4000 + 128 * e.2, 128), (.lane ⟨b.id, e.1⟩, base + 0xE4000 + 512 * e.2 + 0x1C0, 56)]
      | none => []

/-- Whether every byte that a resume reads can be read: done, waiting, or a trap. -/
def State.restoreCheck (s : State) (d : Die) (c : Ctx) (b : Block) : List (Agent × Nat × Nat) → Saved Unit
  | [] => .ok ()
  | (a, va, n) :: r =>
    match s.saveRange d c b.id a false (n / 65536 + 2) va n [] with
    | .ok _ => s.restoreCheck d c b r
    | .hold va => .hold va
    | .wait => .wait
    | .bad a x => .bad a x

/-- A thread as its header gives it back, and the address to which its handler returns. (DEDUCED, log entry 22) -/
def Thread.restored (rd : Nat → Nat → Nat) (tick : Nat) (bp : Dword) (i : Nat) (pmode : Bool) (th : Thread) : Thread :=
  let h := 0x4000 + 128 * i
  let x := 0xE4000 + 512 * i
  let state := rd h 8
  let req : BitVec 8 := BitVec.ofNat 8 (bits state 56 8)
  let g := grantOf pmode req.toNat
  { Thread.start (BitVec.ofNat 48 (bits state 0 48)) g with
    v := Vector.ofFn fun r => if 112 ≤ r.val then BitVec.ofNat 32 (rd (h + 0x40 + 4 * (r.val - 112)) 4) else 0
    k := Vector.ofFn fun r => if 4 ≤ r.val then BitVec.ofNat 32 (rd (x + 0x1C8 + 4 * (r.val - 4)) 4) else 0
    dirty := BitVec.ofNat 128 (rd (h + 0x10) 16)
    stale := th.stale || g != th.g
    req := req
    pri := BitVec.ofNat 4 (bits state 48 4)
    yld := bit state 52
    cause := th.cause
    trapMask := th.trapMask
    trapAddr := th.trapAddr
    trapVec := BitVec.ofNat 32 (rd (h + 8) 4)
    fpctr := BitVec.ofNat 32 (rd (h + 0x38) 4) &&& 0x1F
    key := BitVec.ofNat 64 (rd (x + 0x1C0) 8)
    draw := BitVec.ofNat 64 (rd (h + 0x20) 8)
    dqr := BitVec.ofNat 16 (rd (h + 0x0C) 2)
    qr := Vector.ofFn fun q => BitVec.ofNat 16 (rd (h + 0x28 + 2 * q.val) 2)
    ph := bp + BitVec.ofNat 64 (bits (rd (h + 0x3C) 4) 0 2)
    pfatal := th.pfatal
    know := th.know
    relClk := th.relClk
    seen := th.seen
    floor := tick
    wclk := th.wclk
    rclk := th.rclk }

/-- A lead context likewise; what neither header nor handler has brought back yet is open (DESIGN CHOICE, log entry 14). -/
def Lead.restored (rd : Nat → Nat → Nat) (tick : Nat) (l : Lead) : Lead :=
  let w := rd 0xA00 8
  { Lead.start (BitVec.ofNat 48 (bits w 0 48)) with
    s := Vector.ofFn fun r =>
      if 504 ≤ r.val then BitVec.ofNat 64 (rd (0xA40 + 8 * (r.val - 504)) 8)
      else if r.val = 495 then BitVec.ofNat 64 (rd 0xA80 4) else Config.freeDword tick r.val
    p := BitVec.ofNat 8 (bits w 48 8)
    lk := Vector.ofFn fun r => Config.freeDword tick (512 + r.val)
    dq := Vector.ofFn fun i => BitVec.ofNat 32 (rd (0x40 + 4 * i.val) 4)
    dqw := BitVec.ofNat 16 (rd 0x140 2)
    queues := Vector.ofFn fun q => Queue.ofBytes rd (0x200 + 128 * q.val)
    pfatal := l.pfatal
    know := l.know
    floor := tick
    wclk := l.wclk
    rclk := l.rclk }

/-- A share as it is placed again: local store reads zero, an ended lead context's tiles come back. -/
def State.shareBack (s : State) (d : Die) (c : Ctx) (b : Block) (k j core slot : Nat) (sh : Share) : Share :=
  let base := shareAddr c k j
  let rd (o n : Nat) : Nat := s.saveNat d c b.id (base + o) n
  let isOver := bit (rd 0xA00 8) 56
  let lead := { Lead.restored rd s.tick sh.lead with status := if isOver then .ended else .ready }
  let tiles : List (Nat × Memory) :=
    if isOver then (maskTiles (rd 0xA88 4)).map fun i =>
      (i, Memory.write [] 0 (bytesOf 16384 (rd (0x64000 + 0x4000 * i) 16384)))
    else []
  { core := core, slot := slot, lead := lead, loc := [], tile := { TileSlot.start with tiles := tiles }, syncs := [] }

/-- A block placed again on cores, with a slot of each, under a partition mode: every thread and lead context that had not ended
enters its handler with RESUME set (R245). (DEDUCED, log entry 22) -/
def State.resumeBlock (s : State) (c : Ctx) (b : Block) (k : Nat) (cores : List (Nat × Nat)) (pmode : Bool) (order : Nat) : State :=
  let shares := b.shares.mapIdx fun j sh => match cores[j]? with
    | some (core, slot) => s.shareBack b.die c b k j core slot sh
    | none => sh
  let idx (t : Nat) : Nat := t - (b.onCore (b.home t)).headD 0
  let bp := BitVec.ofNat 64 (s.saveNat b.die c b.id (shareAddr c k 0 + 0x18) 8)
  let rd0 (o n : Nat) : Nat := s.saveNat b.die c b.id (shareAddr c k 0 + o) n
  let threads := b.threads.mapIdx fun t th =>
    if th.status = .ended then th
    else th.restored (fun o n => s.saveNat b.die c b.id (shareAddr c k (b.home t) + o) n) s.tick bp (idx t) pmode
  let ended := (List.range b.threads.length).filter fun t => (b.threads[t]?.map fun th => decide (th.status = .ended)).getD false
  let b1 : Block :=
    { b with
      shares := shares
      threads := threads
      bp := bp
      boxes := b.boxes.mapIdx fun m x => Mailbox.ofBytes rd0 (0x600 + 32 * m) x
      pmode := pmode
      stage := .resuming
      placed := order
      gone := ended }
  let s1 := s.modBlock b.id fun _ => b1
  let t : Trap := ⟨0x13, 0, 0, true, true⟩
  let s2 := b1.threads.zipIdx.foldl (fun a e => if e.1.status = .ended then a else a.takeTrap ⟨b.id, e.2⟩ t e.1.pc 0 false) s1
  b1.shares.zipIdx.foldl (fun a e => if e.1.lead.status = .ended then a else a.takeLeadTrap ⟨b.id, e.2⟩ t e.1.lead.pc 0 false) s2

end Sys2Proof.Machine
end

