-- ==== Sys2Proof/Machine/Place.lean ====
section
/-! DEFINITION. The ready pool, dispatch and placement (spec 05 R99 to R115, 04 R91, 06 R129, 11 R244, R245, 16 R308, R310). -/

namespace Sys2Proof.Machine

/-! The pool (R99 to R101). -/

/-- Whether a node stands in a pool: it has entered and not left, or blocks of it are to be placed again. -/
def RNode.inPool (x : RNode) : Bool := x.phase = .pool || (x.phase = .running && x.again != [])

/-- All nodes of the replays that run, with their replays. -/
def State.allNodes (s : State) : List (Replay × RNode) := s.replays.flatMap fun r => r.nodes.map fun x => (r, x)

/-- The nodes of a die's pool. -/
def State.pool (s : State) (d : Die) : List (Replay × RNode) := s.allNodes.filter fun e => e.2.die = d && e.2.inPool

def refOf (r : Replay) (x : RNode) : NodeRef := ⟨r.ctx, r.seq, x.idx⟩

/-- The dispatch order (R101): whether one node comes before another. -/
def nodeBefore (a b : Replay × RNode) : Bool :=
  let k (e : Replay × RNode) : List Nat := [3 - e.2.cls, e.1.start, e.1.ctx, e.2.idx]
  k a < k b

/-- Entries of a die's pool that count: re-entries do not (R99). -/
def State.poolCount (s : State) (d : Die) (p : Replay × RNode → Bool) : Nat :=
  (s.allNodes.filter fun e => e.2.die = d && e.2.phase = .pool && p e).length

/-- Whether the pool and a context's quota have room (R81, R99). -/
def State.poolRoom (s : State) (d : Die) (ctx : Nat) : Bool :=
  s.poolCount d (fun _ => true) < 4096 &&
  match s.ctx? ctx with
  | some c => s.poolCount d (fun e => e.1.ctx = ctx) < c.poolQ
  | none => false

/-- The first of the nodes that wait for a pool, in the order in which they became ready, among those with room. (DEDUCED, log entry 20) -/
def State.nextReady (s : State) (d : Die) : Option (Replay × RNode) :=
  ((s.allNodes.filter fun e => e.2.die = d && e.2.phase = .ready && s.poolRoom d e.1.ctx).mergeSort fun a b => a.2.order ≤ b.2.order).head?

/-- How the home die's graph controller reaches a die's pool: the other die's over the link, with a graph controller there (R22, R71). -/
def State.handsTo (s : State) (c : Ctx) (d : Die) : UnitState × Die × BitVec 8 :=
  let us := if c.home = d then [] else [(s.unitState .a 0x9C bitD2d, Die.a, 0x9C), (s.unitState d 0x91 (bitGc d), d, 0x91)]
  match us.find? fun x => x.1 = .failed with
  | some x => x
  | none => (us.find? fun x => x.1 = .clear).getD (.ready, d, 0x91)

/-- A node enters its pool with its class, capped (R81, R100). -/
def State.poolEnter (s : State) (d : Die) : State :=
  match s.nextReady d with
  | none => s
  | some (r, x) =>
    match s.gnode? (refOf r x) with
    | some (c, _, g) =>
      match s.handsTo c d with
      | (.clear, _, _) => s
      | (.failed, h, u) => s.deviceFault c.num 4 h u
      | (.ready, _, _) => s.modNode (refOf r x) fun y => { y with phase := .pool, entered := s.cycle d, cls := min g.cls c.classMax }
    | none => s

def execPoolEntry (s : State) : Host.Outcome State Fault Refusal :=
  event (fun s => match s.arg with | .die d => s.poolEnter d | _ => s) s

/-- One dispatch class more after 200,000 cycles in the pool, up to CLASSMAX (R100). (DEDUCED, log entry 20) -/
def State.ageNode (s : State) (n : NodeRef) : State :=
  match s.node? n, s.ctx? n.ctx with
  | some x, some c =>
    if x.inPool && x.entered + 200000 ≤ s.cycle x.die && x.cls < c.classMax then
      s.modNode n fun y => { y with cls := y.cls + 1, entered := y.entered + 200000 }
    else s
  | _, _ => s

def execNodeAging (s : State) : Host.Outcome State Fault Refusal :=
  event (fun s => match s.arg with | .node n => s.ageNode n | _ => s) s

/-! Translation at dispatch (R104, R129). -/

/-- What the walk of a node's declared extents comes to. -/
inductive Translated where
  | ok (exts : List Extent)
  | wait (pages : List (Nat × Bool × Bool))
  | fail
  | dev (f : PhysFault) (pa : Nat)
  deriving DecidableEq, Repr

/-- One extent with its pages, as a die's graph controller walks them. -/
def State.extWalk (s : State) (d : Die) (c : Ctx) (e : Extent) : Walked :=
  if e.walked then ⟨[], [], false, false, none⟩ else walkRows s d c e e.rows 0 ⟨[], [], false, false, none⟩

/-- The slots that a node's extents and body name. -/
def GNode.slots (x : GNode) : List Nat := (x.exts.map fun d => bits d.toNat 0 13) ++ (if x.kind = 0 || x.kind = 2 then [x.b0.toNat] else [])

def State.translate (s : State) (n : NodeRef) (d : Die) (c : Ctx) (g : Graph) (x : GNode) : Translated :=
  let exts := x.exts.zipIdx.map fun e => extentOf e.1 (s.extBase c g e.1) (x.next ≤ e.2)
  let ws := exts.map fun e => (e, s.extWalk d c e)
  let absent := ws.flatMap fun e => e.2.absent.map fun va => (va, e.1.rd, e.1.wr)
  match s.slotsMeet c g x.slots, ws.findSome? fun e => e.2.dev with
  | (.none, _), none =>
    if ws.any fun e => e.2.denied || (!x.absentOk && e.2.fatal) then .fail
    else if x.absentOk || absent.isEmpty then .ok (ws.map fun e => { e.1 with pages := e.2.runs })
    else if absent.any fun a => (match s.verdict (.node n) c.num a.1 with | some .denied | some .fatal => true | _ => false) then .fail
    else .wait absent
  | (.none, _), some (f, pa) => .dev f pa
  | (f, pa), _ => .dev f pa

/-- The walks of translated extents have used their tables' lines (R140). -/
def State.noteExts (s : State) (c : Ctx) (exts : List Extent) : State :=
  (exts.flatMap fun e => e.pages.map fun r => r.lo).foldl (fun a va => a.noteWalk c va) s

/-- A node waits at dispatch on its absent pages, with a fault record for each (R129, R132, R134). -/
def State.holdNode (s : State) (n : NodeRef) (d : Die) (pages : List (Nat × Bool × Bool)) : State :=
  let s0 : State := { s with holds := s.holds.filter fun h => h.who != .node n || h.verdict.isNone }
  pages.foldl (fun a p =>
    let va := p.1 / 65536 * 65536
    let a1 := a.raise (.graph d) n 5 va p.2.2
    if a1.holds.any fun h => h.who = .node n && h.va / 65536 = va / 65536 then a1
    else { a1 with holds := a1.holds ++ [⟨.node n, .graph d, n.ctx, va, p.2.1, p.2.2, none⟩] }) s0

/-- A node fails before it ran. -/
def State.nodeFails (s : State) (n : NodeRef) (status : BitVec 8) : State :=
  ({ s with holds := s.holds.filter fun h => h.who != .node n } : State).failNode n status

/-- Goes on with a node whose extents are translated. -/
def State.translated (s : State) (n : NodeRef) (y : RNode) (c : Ctx) (g : Graph) (x : GNode) (go : State → List Extent → State) : State :=
  match s.translate n y.die c g x with
  | .fail => s.nodeFails n 0x40
  | .wait ps => s.holdNode n y.die ps
  | .dev f pa => s.physTrap c.num f y.die 0x91 pa
  | .ok exts => go { s.noteExts c exts with holds := s.holds.filter fun h => h.who != .node n } exts

/-! Nodes of the engines (R63, R103). -/

/-- The first len bytes of an extent, row after row (R65). -/
def takeArea (e : Extent) (len : Nat) : List Area :=
  if e.rows = 1 then [⟨.glob e.base, 1, min len e.len, 0⟩]
  else if e.len = 0 then []
  else
    let full := min (len / e.len) e.rows
    let left := if full < e.rows then len % e.len else 0
    (if full = 0 then [] else [⟨.glob e.base, full, e.len, e.pitch⟩]) ++
      (if left = 0 then [] else [⟨.glob (e.base + full * e.pitch), 1, left, 0⟩])

/-- An operation that a node issues. -/
def State.nodeOp (s : State) (n : NodeRef) (d : Die) (engine : Option Nat) (w : Work) (src dst : List Area) : Op :=
  { id := s.nextId, issuer := .node n, ctx := n.ctx, die := d, core := 0, engine := engine, tag := 0, work := w, src := src, dst := dst,
    lockSrc := [], lockDst := [], phase := .waiting, stamp := ⟨0, 0, 0, 0⟩, handler := false,
    clk := (s.node? n).elim [] fun y => y.clk }

/-- The engine has accepted a node: it leaves the pool, and its operation registers when its ranges are free. -/
def State.acceptNode (s : State) (n : NodeRef) (exts : List Extent) (o : Op) : State :=
  let s1 := ({ s with ops := s.ops ++ [o], nextId := s.nextId + 1 } : State).modNode n fun y =>
    { y with phase := .running, exts := exts, translated := true, op := some o.id }
  if s1.mayRegister o then s1.registerOp o else s1

/-- A copy node goes to an engine of its die with a free entry. -/
def State.dispatchCopy (s : State) (n : NodeRef) (y : RNode) (x : GNode) (exts : List Extent) : State :=
  match s.pickEngine y.die n.ctx, exts[bits x.b0.toNat 0 8]?, exts[bits x.b0.toNat 8 8]? with
  | some e, some a, some b =>
    let len := x.b1.toNat
    s.acceptNode n exts
      (s.nodeOp n y.die (some e) (.copy (.glob a.base) (.glob b.base) len none) (takeArea a len) (takeArea b len))
  | _, _, _ => s

/-- A node whose group descriptor or addresses no instruction form would take: no rule gives the status, so it is open; when it is OK the
node completes with nothing done. (DEDUCED, log entry 29) -/
def State.openStatus (s : State) (n : NodeRef) : State :=
  let b := Config.freeByte s.tick (2 ^ 43)
  if b = 0 then s.modNode n fun y => { y with phase := .running } else s.nodeFails n b

/-- A collective node: the engine reads its group descriptor (R52, R443). -/
def State.dispatchColl (s : State) (n : NodeRef) (y : RNode) (c : Ctx) (g : Graph) (x : GNode) (exts : List Extent) : State :=
  let base (i : Nat) : Nat := match exts[i]? with | some e => e.base | none => 0
  let b1 := x.b1.toNat
  let norm := bit b1 12
  let r : CollRec := ⟨s.slot c g x.b0.toNat, base 0, base 1, x.b2.toNat, bits b1 0 4, bits b1 4 4, bits b1 8 4, norm, 0, x.b3,
    if norm then base 2 else 0⟩
  let who : Holder := .node n
  let hold (va : Nat) : State :=
    let s1 := s.raise (.coll y.die) n 3 va false
    { s1 with holds := s1.holds ++ [⟨who, .coll y.die, n.ctx, va, true, false, none⟩] }
  let fault (x : GcDev) : State := s.physTrap c.num x.f y.die 0x90 x.pa
  if r.group % 8 ≠ 0 then s.openStatus n
  else
    match s.gcDev who c r.group 8, s.gcAbsent who c r.group 8 with
    | some x, _ => fault x
    | none, some va => hold va
    | none, none =>
      match s.gcNat who c r.group 8 with
      | none => s.nodeFails n 0x40
      | some cnt =>
        if cnt = 0 || 65536 < cnt then s.openStatus n
        else
          match s.gcDev who c (r.group + 8) (4 * cnt), s.gcAbsent who c (r.group + 8) (4 * cnt) with
          | some x, _ => fault x
          | none, some va => hold va
          | none, none =>
            match s.gcBytes who c (r.group + 8) (4 * cnt) with
            | none => s.nodeFails n 0x40
            | some bs =>
              let k := collBytes r.ty
              match groupOf s.pkg.devnum.toNat (codesOf 4 bs) with
              | none => s.openStatus n
              | some (grp, p) =>
                if r.src % k ≠ 0 || r.dst % k ≠ 0 || r.nslot % 8 ≠ 0 then s.openStatus n
                else
                  let (src, dst) := collAreas r p grp.length
                  (s.gcUse who c r.group (8 + 4 * cnt)).acceptNode n exts (s.nodeOp n y.die none (collWork r grp p) src dst)

/-! Kernel nodes (R85, R91, R105). -/

/-- Blocks that a node places: the lesser of BODY2 and 2^S. -/
def blocksOf (l : Launch) (body : Nat) : Nat :=
  min body (2 ^ (((List.range l.levels).drop 1).foldl (fun n k => n + l.width k) 0))

/-- A kernel node is taken up: its extents are translated and its code is found; a slot that names no loaded object is an ILLEGAL trap with
no handler (R91). Its blocks are placed by the block placer. -/
def State.dispatchKernel (s : State) (n : NodeRef) (c : Ctx) (g : Graph) (x : GNode) (exts : List Extent) : State :=
  let va := s.slot c g x.b0.toNat
  match c.codes.find? fun o => o.va = va with
  | some o => s.modNode n fun y => { y with exts := exts, translated := true, code := va, blocks := blocksOf o.launch x.b2.toNat }
  | none => (s.unhandledRecord n (.sync 0x01 6 0) false 0 0).nodeFails n 0x37

/-- Copy nodes bound for one engine queue, those of a context among them, stand in a die's pool in order: none passes another (R101). (DEDUCED, log entry 20) -/
def State.copyBehind (s : State) (d : Die) (r : Replay) (x : RNode) : Bool :=
  (s.pool d).any fun e =>
    (e.1.ctx = r.ctx || s.pickEngine d e.1.ctx = s.pickEngine d r.ctx) && nodeBefore e (r, x) && e.2.status.isNone &&
    match s.gnode? (refOf e.1 e.2) with | some (_, _, g) => g.kind = 1 | none => false

/-- Whether an earlier collective node of a die's pool stands ready for the engine. (DEDUCED, log entry 20) -/
def State.collBehind (s : State) (d : Die) (r : Replay) (x : RNode) : Bool :=
  (s.pool d).any fun e =>
    nodeBefore e (r, x) && e.2.status.isNone && !(s.holds.any fun h => h.who = .node (refOf e.1 e.2)) &&
    match s.gnode? (refOf e.1 e.2) with | some (_, _, g) => g.kind = 2 | none => false

/-! Room on cores (R108, R109). -/

/-- What a share takes of a core, and what a core offers. -/
structure Room where
  slots : Nat
  threads : Nat
  regs : Nat
  loc : Nat
  deriving DecidableEq, Repr

def Room.add (a b : Room) : Room := ⟨a.slots + b.slots, a.threads + b.threads, a.regs + b.regs, a.loc + b.loc⟩
def Room.le (a b : Room) : Bool := a.slots ≤ b.slots && a.threads ≤ b.threads && a.regs ≤ b.regs && a.loc ≤ b.loc
def Room.times (n : Nat) (a : Room) : Room := ⟨n * a.slots, n * a.threads, n * a.regs, n * a.loc⟩

/-- The table of R108. (DEDUCED, log entry 21) -/
def coreRoom (pmode : Bool) : Room := if pmode then ⟨4, 512, 32768, 131072⟩ else ⟨8, 1024, 65536, 262144⟩

/-- What a block's share j takes. -/
def Block.takes (b : Block) (j : Nat) : Room :=
  let n := ((b.onCore j).filter fun t => !b.gone.contains t).length
  ⟨1, n, n * b.regCount, b.loc⟩

/-- What the blocks that satisfy a test take of a core. -/
def State.taken (s : State) (d : Die) (core : Nat) (p : Block → Bool) : Room :=
  s.blocks.foldl (fun acc b =>
    if b.die = d && b.resident && p b then
      b.shares.zipIdx.foldl (fun acc e => if e.1.core = core then acc.add (b.takes e.2) else acc) acc
    else acc) ⟨0, 0, 0, 0⟩

/-- Block slots of a core that no block holds. (DEDUCED, log entry 21) -/
def State.freeSlots (s : State) (d : Die) (core : Nat) : List Nat :=
  (List.range 8).filter fun k => !(s.blocks.any fun b => b.die = d && b.resident && b.shares.any fun x => x.core = core && x.slot = k)

/-- Ready cores of a context's partition on a die (R110). -/
def State.partCores (s : State) (c : Ctx) (d : Die) : List Nat :=
  (List.range 128).filter fun i => c.cores.getLsbD (coreBit d i) && s.coreReady d i

/-- Whether a core has room for one more share of a context. -/
def State.hasRoom (s : State) (c : Ctx) (d : Die) (core : Nat) (need : Room) : Bool :=
  ((s.taken d core fun b => b.ctx = c.num).add need).le (coreRoom c.pmode) &&
  ((s.taken d core fun _ => true).add need).le (coreRoom false) && s.freeSlots d core != []

/-- Cores for the n shares of a block, in ascending order, each with a free block slot: the lowest of those given that fit the next share. (DEDUCED, log entry 21) -/
def State.coresGo (s : State) (d : Die) (fits : Nat → Nat → Bool) (n : Nat) : List Nat → Nat → List (Nat × Nat) → Option (List (Nat × Nat))
  | [], j, acc => if j = n then some acc else none
  | i :: r, j, acc =>
    if j = n then some acc
    else if fits j i then s.coresGo d fits n r (j + 1) (acc ++ [(i, (s.freeSlots d i).headD 0)])
    else s.coresGo d fits n r j acc

/-- A kernel's shape under a context's partition mode: cores, threads to a core, local bytes to a core (R109). -/
structure Geo where
  c : Nat
  m : Nat
  loc : Nat
  deriving DecidableEq, Repr

def geoOf (l : Launch) (pmode : Bool) : Geo :=
  let n := 2 ^ l.width 0
  let c := ceilDiv n (coreThreads l.regs pmode)
  ⟨c, ceilDiv n c, ceilDiv l.loc (c * 256) * 256⟩

/-- What share j of a block to be placed asks of its core: the room of its own threads (R109). -/
def Geo.need (g : Geo) (l : Launch) (j : Nat) : Room :=
  let n := min g.m (2 ^ l.width 0 - j * g.m)
  ⟨1, n, n * ((l.regs + 1) * 16), g.loc⟩

/-- Cores of a context's partition on a die for a new block (R110). -/
def State.chooseCores (s : State) (c : Ctx) (d : Die) (l : Launch) : Option (List (Nat × Nat)) :=
  let g := geoOf l c.pmode
  s.coresGo d (fun j i => s.hasRoom c d i (g.need l j)) g.c (s.partCores c d) 0 []

/-- Whether k blocks are within the combined budgets of a die's ready cores (R109, R111). (DEDUCED, log entry 21) -/
def State.possible (s : State) (c : Ctx) (d : Die) (l : Launch) (k : Nat) : Bool :=
  let g := geoOf l c.pmode
  let room := coreRoom c.pmode
  let n := (s.partCores c d).length
  let t := k * 2 ^ l.width 0
  g.c ≤ 32 && g.loc ≤ room.loc && (⟨k * g.c, t, t * ((l.regs + 1) * 16), k * g.c * g.loc⟩ : Room).le (Room.times n room)

/-! A block is placed for the first time (R105 to R107, R113, R162, R213, R276, R310). -/

/-- The scalar registers of R113. -/
def startScalars (s : State) (c : Ctx) (g : Graph) (x : GNode) (b : Block) (j core : Nat) : Vector Dword 512 :=
  let first := bits x.b1.toNat 0 16
  let n := bits x.b1.toNat 16 16
  let mine := b.onCore j
  Vector.ofFn fun r =>
    let i := r.val
    BitVec.ofNat 64 (
      if i < n then s.slot c g (first + i)
      else if i = 496 then b.b
      else if i = 497 then b.wid 0
      else if i = 498 then j + b.c * 2 ^ 8 + core * 2 ^ 16 + b.die.num * 2 ^ 24
      else if i = 499 then mine.length + mine.headD 0 * 2 ^ 16
      else if i = 500 then (match s.node? b.nodeRef with | some y => y.blocks | none => 0)
      else if i = 501 then b.seq.toNat + b.node * 2 ^ 32
      else 0)

/-- A new block, before its lead contexts have their registers. k is what happened before its node, and tick the step that places it: its threads and lead
contexts begin after that (R70, R169). -/
def newBlock (id : Nat) (n : NodeRef) (b : Nat) (d : Die) (o : Code) (c : Ctx) (tag : BitVec 16) (cores : List (Nat × Nat)) (k : Clock) (tick : Nat) :
    Block :=
  let l := o.launch
  let geo := geoOf l c.pmode
  let w0 := l.width 0
  let th (t : Nat) : Thread :=
    { Thread.start (BitVec.ofNat 48 (o.word0 + o.laneEntry)) (grantOf c.pmode 64) with draw := BitVec.ofNat 64 ((b * 2 ^ w0 + t) * 2 ^ 40), know := k, floor := tick }
  { id := id, ctx := n.ctx, seq := n.seq, node := n.node, b := b, die := d, code := o, w0 := w0, m := geo.m, loc := geo.loc, pmode := c.pmode,
    cls := min l.cls c.classMax, bp := 0, threads := (List.range (2 ^ w0)).map th,
    shares := cores.map fun e =>
      ⟨e.1, e.2, { Lead.start (BitVec.ofNat 48 (o.word0 + o.leadEntry)) with know := k, floor := tick }, [], .start, []⟩,
    boxes := List.replicate l.boxes none, recs := [], bins := [], stage := .running, slot := none, placed := id, stop := none, tag := tag,
    gone := [], barIn := [], barNext := [], barDone := [] }

/-- Held stops that name a block take effect as it is placed (R308). -/
def State.stopPlaced (s : State) (id : Nat) : State :=
  match s.block? id with
  | none => s
  | some b =>
    if s.dbg.stops.any fun q => q.names b then
      let s1 := s.stopBlock id 1
      { s1 with dbg := { s1.dbg with stops := s1.dbg.stops.filter fun q => q.all || !q.names b } }
    else s

/-- RRMODE of a context is record or replay, whatever has become of the record. (DEDUCED, log entry 33) -/
def State.tagging (s : State) (ctx : Nat) : Bool :=
  bits s.dbg.cfg.toNat 0 10 = ctx && (bits s.dbg.cfg.toNat 12 2 = 1 || bits s.dbg.cfg.toNat 12 2 = 2)

/-- Places block b of a node on cores of a die, with its tag entry (R313). -/
def State.placeNew (s : State) (n : NodeRef) (c : Ctx) (g : Graph) (x : GNode) (o : Code) (d : Die) (b : Nat) (cores : List (Nat × Nat)) : State :=
  let (id, s1) := s.fresh
  let tagged := s.tagging n.ctx
  let blk := newBlock id n b d o c (if tagged then s.dbg.nextTag else 0) cores ((s.node? n).elim [] fun y => y.clk) s.tick
  let blk1 : Block := { blk with shares := blk.shares.zipIdx.map fun (e : Share × Nat) =>
    { e.1 with lead := { e.1.lead with s := startScalars s c g x blk e.2 e.1.core } } }
  let s2 : State := { s1 with blocks := s1.blocks ++ [blk1] }
  let s3 : State := if tagged then { s2 with dbg := { s2.dbg with nextTag := s2.dbg.nextTag + 1 } } else s2
  (s3.accTag blk1).stopPlaced id

/-! What the placer does next for a node (R110, R111, R114, R115). -/

/-- Blocks of a cluster. -/
def clusterSize (l : Launch) : Nat := 2 ^ l.width 1

/-- The blocks to place next: one, or a whole cluster under COHOLD. -/
def nextGroup (l : Launch) (y : RNode) : List Nat :=
  if l.cohold then (List.range (min (clusterSize l) (y.blocks - y.nextBlock))).map fun i => y.nextBlock + i else [y.nextBlock]

/-- Cores of a context's partition on a die with a free block slot of the context's share. -/
def State.slotCores (s : State) (c : Ctx) (d : Die) : Nat :=
  ((s.partCores c d).filter fun i => s.hasRoom c d i ⟨1, 0, 0, 0⟩).length

/-- Dies that a node's next blocks may use, the one to take first: the cluster's, the node's, or for DIE 3 the one with more cores that have
a free slot, ties to the home die. -/
def State.groupDies (s : State) (c : Ctx) (x : GNode) (l : Launch) (y : RNode) : List Die :=
  if x.die ≠ 3 then [y.die]
  else
    match y.nextBlock % clusterSize l, y.clusterDie with
    | _ + 1, some d => [d]
    | _, _ => if s.slotCores c c.home.other ≤ s.slotCores c c.home then [c.home, c.home.other] else [c.home.other, c.home]

/-- Places blocks in turn, each on the lowest cores with room. -/
def placeGo (n : NodeRef) (c : Ctx) (g : Graph) (x : GNode) (o : Code) (d : Die) : List Nat → State → Option State
  | [], s => some s
  | b :: r, s =>
    match s.chooseCores c d o.launch with
    | some cores => placeGo n c g x o d r (s.placeNew n c g x o d b cores)
    | none => none

/-- The pre-empted block of a node that stands first: the lowest index (R110, R115). (DEDUCED, log entry 21) -/
def State.firstAgain (s : State) (y : RNode) : Option Block :=
  ((y.again.filterMap fun i => s.block? i).mergeSort fun a b => a.b ≤ b.b).head?

/-- The tiles that the lead contexts of a saved block's shares had when they ended. -/
def State.savedTiles (s : State) (c : Ctx) (b : Block) (k j : Nat) : List Nat :=
  match b.shares[j]? with
  | some sh => if sh.lead.status = .ended then maskTiles (s.saveNat b.die c b.id (shareAddr c k j + 0xA88) 4) else []
  | none => []

/-- Whether a core's tiles of a list are free. -/
def State.tilesFree (s : State) (d : Die) (core : Nat) (l : List Nat) : Bool :=
  s.blocks.all fun b => !(b.die = d && b.resident) || b.shares.all fun x => x.core != core || l.all fun i => !(x.tile.tiles.any fun t => t.1 = i)

/-- What share j of a saved block asks of a core (R115): a slot, the registers of the threads it saved, local bytes. -/
def Block.againNeed (b : Block) (j : Nat) : Room :=
  let n := ((b.onCore j).filter fun t => match b.threads[t]? with | some th => th.status != .ended | none => false).length
  ⟨1, 0, n * b.regCount, b.loc⟩

/-- Cores for a saved block (R115). -/
def State.againCores (s : State) (c : Ctx) (b : Block) (k : Nat) : Option (List (Nat × Nat)) :=
  s.coresGo b.die (fun j i => s.hasRoom c b.die i (b.againNeed j) && s.tilesFree b.die i (s.savedTiles c b k j)) b.c (s.partCores c b.die) 0 []

/-- Whether some ready cores of the partition could take a saved block, all empty. -/
def State.againPossible (s : State) (c : Ctx) (b : Block) : Bool :=
  b.c ≤ (s.partCores c b.die).length && (List.range b.c).all fun j => (b.againNeed j).le (coreRoom c.pmode)

/-- What comes of placing a node's next blocks: they are placed; no room for the blocks given on a die; impossible from a block on; the core
waits for or fails at the save area. -/
inductive Placing where
  | placed (s : State)
  | noRoom (d : Die)
  | impossible (b : Nat)
  | other (s : State)

/-- After a block or a cluster is placed, the node has not been passed over, and has left the pool when nothing is left to place. -/
def RNode.placedNow (y : RNode) : RNode :=
  { y with passed := none, blocking := false, phase := if y.blocks ≤ y.nextBlock && y.again = [] then .running else y.phase }

/-- A saved block comes back. (DEDUCED, log entry 21) -/
def State.placeAgain (s : State) (n : NodeRef) (c : Ctx) (b : Block) : Placing :=
  match b.slot with
  | none => .noRoom b.die
  | some k =>
    if !s.againPossible c b then .impossible b.b
    else
      match s.restoreCheck b.die c b (s.restoreReads b.die c b k) with
      | .hold va => .other (s.saveHold b va false)
      | .wait => .other s
      | .bad a x => .other (s.saveTrap b a x)
      | .ok () =>
        match s.againCores c b k with
        | none => .noRoom b.die
        | some cores =>
          let (order, s1) := s.fresh
          let s2 := ({ s1 with holds := s1.holds.filter fun h => h.who != .save b.id } : State).resumeBlock c b k cores c.pmode order
          .placed ((s2.modNode n fun y => { y with again := y.again.filter fun i => i != b.id }).modNode n RNode.placedNow |>.stopPlaced b.id)

/-- The next blocks of a kernel node. -/
def State.placeNext (s : State) (n : NodeRef) (c : Ctx) (g : Graph) (x : GNode) (y : RNode) : Placing :=
  match s.firstAgain y with
  | some b => s.placeAgain n c b
  | none =>
    match c.codes.find? fun o => o.va = y.code with
    | none => .noRoom y.die
    | some o =>
      let l := o.launch
      let grp := nextGroup l y
      let dies := (s.groupDies c x l y).filter fun d => s.possible c d l grp.length
      match dies with
      | [] => .impossible y.nextBlock
      | d :: _ =>
        match placeGo n c g x o d grp s with
        | some s1 =>
          .placed ((s1.modNode n fun y => { y with nextBlock := y.nextBlock + grp.length, clusterDie := some d }).modNode n RNode.placedNow)
        | none => .noRoom d

/-! Class pre-emption (R114, R242). -/

/-- Possible victims in order: lowest run class, then most recently placed. (DEDUCED, log entry 21) -/
def State.victims (s : State) (c : Ctx) (d : Die) : List Block :=
  (s.blocks.filter fun b => b.ctx = c.num && b.die = d && b.cls < 3 && b.eligible &&
      b.shares.all fun x => c.cores.getLsbD (coreBit d x.core)).mergeSort
    fun a b => a.cls < b.cls || (a.cls = b.cls && b.placed ≤ a.placed)

/-- The state with the blocks of a list, and those already being saved, off their cores. -/
def State.vacated (s : State) (ids : List Nat) : State :=
  { s with blocks := s.blocks.map fun (b : Block) => if b.stage = .saving || ids.contains b.id then { b with stage := .saved } else b }

/-- Whether a node's next blocks would then have room. (DEDUCED, log entry 21) -/
def State.wouldFit (s : State) (n : NodeRef) (c : Ctx) (g : Graph) (x : GNode) (y : RNode) (ids : List Nat) : Bool :=
  match (s.vacated ids).placeNext n c g x y with
  | .placed _ => true
  | _ => false

/-- The shortest prefix of the victims whose release leaves room; none when no set does. (DEDUCED, log entry 21) -/
def State.chooseVictims (s : State) (n : NodeRef) (c : Ctx) (g : Graph) (x : GNode) (y : RNode) (d : Die) : Option (List Nat) :=
  let vs := (s.victims c d).map fun b => b.id
  ((List.range (vs.length + 1)).map fun i => vs.take i).find? fun l => s.wouldFit n c g x y l

/-- PREEMPT for every victim, while the context has a save slot for each. -/
def State.preemptAll (s : State) (c : Ctx) (ids : List Nat) : State :=
  if ids.length + c.saveSlots.length ≤ 64 then
    ids.foldl (fun a id => match (a.ctx? c.num).bind Ctx.freeSlot with | some k => a.deliverPreempt id k | none => a) s
  else s

/-- A node that finds no room: one of dispatch class 3 may pre-empt. -/
def State.noRoomFor (s : State) (n : NodeRef) (c : Ctx) (g : Graph) (x : GNode) (y : RNode) (d : Die) : State :=
  if y.cls = 3 then
    match s.chooseVictims n c g x y d with
    | some ids => s.preemptAll c ids
    | none => s
  else s

/-- ADMIT_FAIL (R111). (DEDUCED, log entry 21) -/
def State.admitFail (s : State) (n : NodeRef) (d : Die) (b : Nat) : State :=
  let s1 := s.post d 0x0A 0 n.ctx (BitVec.ofNat 64 n.node) (BitVec.ofNat 64 b) 0
  (s1.failNode n 0x36).killNode n

/-! The placer (R101, R110). -/

/-- A kernel node of a pool that has been taken up and has blocks to place. -/
def RNode.placing (y : RNode) : Bool := y.inPool && y.translated && y.status.isNone && (y.nextBlock < y.blocks || y.again != [])

/-- Whether a node's next blocks could be placed now. -/
def State.fitsNow (s : State) (e : Replay × RNode) : Bool :=
  match s.gnode? (refOf e.1 e.2) with
  | some (c, g, x) => x.kind = 0 && (match s.placeNext (refOf e.1 e.2) c g x e.2 with | .placed _ => true | _ => false)
  | none => false

/-- Whether the extents of a node still to be taken up are known to be absent, or wait for the link. -/
def State.stalls (s : State) (e : Replay × RNode) : Bool :=
  match s.gnode? (refOf e.1 e.2) with
  | some (c, g, x) =>
    match s.translate (refOf e.1 e.2) e.2.die c g x with
    | .wait _ => s.holds.any fun h => h.who = .node (refOf e.1 e.2)
    | .dev f _ => f = .clear
    | _ => false
  | none => true

/-- Whether the engine of a node of a pool can accept it now: a kernel still to be taken up, or with blocks that fit; a node of another kind whose
engine has an entry (R101, R103, R104). (DEDUCED, log entry 20) -/
def State.acceptable (s : State) (e : Replay × RNode) : Bool :=
  let y := e.2
  s.readyBit (bitGc y.die) &&
  (if y.translated then y.placing && s.fitsNow e
   else
     y.phase = .pool && y.status.isNone && !s.stalls e &&
     match s.gnode? (refOf e.1 y) with
     | some (_, _, x) =>
       match x.kind with
       | 0 => true
       | 1 => s.readyBit (bitCopy y.die) && !s.copyBehind y.die e.1 y && (s.pickEngine y.die e.1.ctx).isSome
       | 2 => s.readyBit (bitColl y.die) && !s.collBehind y.die e.1 y && s.collLoad y.die < 8
       | 3 => s.readyBit bitMgmt
       | _ => false
     | none => false)

/-- An earlier node of the die's pool can be accepted (R101). -/
def State.dispatchBehind (s : State) (r : Replay) (y : RNode) : Bool :=
  (s.pool y.die).any fun e => nodeBefore e (r, y) && s.acceptable e

/-- An earlier node of the pool comes first, or a kernel long passed over holds back the blocks of those behind it (R101). -/
def State.placedBehind (s : State) (r : Replay) (y : RNode) : Bool :=
  s.dispatchBehind r y || (s.pool y.die).any fun e => nodeBefore e (r, y) && e.2.placing && e.2.blocking

/-- Dispatches a node of the pool that its engine accepts (R101, R103, R104). -/
def State.dispatch (s : State) (n : NodeRef) : State :=
  match s.node? n, s.replay? n.ctx n.seq, s.gnode? n with
  | some y, some r, some (c, g, x) =>
    if y.phase != .pool || y.status.isSome || y.translated || !s.readyBit (bitGc y.die) || s.dispatchBehind r y then s
    else
      match x.kind with
      | 0 => s.translated n y c g x fun s e => s.dispatchKernel n c g x e
      | 1 =>
        if !s.readyBit (bitCopy y.die) || s.copyBehind y.die r y || (s.pickEngine y.die n.ctx).isNone then s
        else s.translated n y c g x fun s e => s.dispatchCopy n y x e
      | 2 =>
        if !s.readyBit (bitColl y.die) || s.collBehind y.die r y || 8 ≤ s.collLoad y.die then s
        else s.translated n y c g x fun s e => s.dispatchColl n y c g x e
      | 3 =>
        if !s.readyBit bitMgmt then s
        else
          s.translated n y c g x fun s e =>
            let (k, s1) := s.fresh
            s1.modNode n fun y => { y with phase := .running, exts := e, translated := true, order := k }
      | _ => s
  | _, _, _ => s

def execNodeDispatch (s : State) : Host.Outcome State Fault Refusal :=
  event (fun s => match s.arg with | .node n => s.dispatch n | _ => s) s

/-- The slots that the first blocks of a kernel node give their lead contexts (R113). -/
def GNode.args (x : GNode) : List Nat := (List.range (bits x.b1.toNat 16 16)).map fun i => bits x.b1.toNat 0 16 + i

/-- The placer places the next block or cluster of a node. -/
def State.placeBlock (s : State) (n : NodeRef) : State :=
  match s.node? n, s.replay? n.ctx n.seq, s.gnode? n with
  | some y, some r, some (c, g, x) =>
    if x.kind != 0 || !y.placing || !s.readyBit (bitGc y.die) || s.placedBehind r y then s
    else
      match s.slotsMeet c g (if (s.firstAgain y).isSome then [] else x.args), s.placeNext n c g x y with
      | (.none, _), .placed s1 => s1
      | (f, pa), .placed _ => s.physTrap c.num f y.die 0x91 pa
      | _, .other s1 => s1
      | _, .impossible b => s.admitFail n y.die b
      | _, .noRoom d => s.noRoomFor n c g x y d
  | _, _, _ => s

def execBlockPlace (s : State) : Host.Outcome State Fault Refusal :=
  event (fun s => match s.arg with | .node n => s.placeBlock n | _ => s) s

/-- A kernel node that cannot be accepted is passed over; after 200,000 cycles of that it holds back those behind it (R101). (DEDUCED, log entry 20) -/
def State.passOver (s : State) (n : NodeRef) : State :=
  match s.node? n, s.replay? n.ctx n.seq with
  | some y, some r =>
    if !y.placing || s.fitsNow (r, y) then s
    else
      match y.passed with
      | none => s.modNode n fun y => { y with passed := some (s.cycle y.die) }
      | some t => if t + 200000 ≤ s.cycle y.die then s.modNode n fun y => { y with blocking := true } else s
  | _, _ => s

def execKernelPassedOver (s : State) : Host.Outcome State Fault Refusal :=
  event (fun s => match s.arg with | .node n => s.passOver n | _ => s) s

end Sys2Proof.Machine
end

