-- ==== Sys2Proof/Machine/Random.lean ====
section
/-! DEFINITION. Draw-stream instructions and HDIG (spec 14 R275 to R284, 20 R385 to R387). -/

namespace Sys2Proof.Machine

/-- The word d of RND and RNDF: the next draw, or a keyed one; none for a POS outside its limits (R385). -/
def LaneEnv.rndWord (e : LaneEnv) (f : X3) (s : State) : Option (Word × State) :=
  if bit f.mode.toNat 0 then
    let pos := (e.w 0 1).toNat
    if 2 ^ 30 ≤ pos then none
    else
      let d := sampleDraw (match s.thread? e.r with | some th => th.key | none => 0) (e.w 0 0).toNat pos (bits f.mode.toNat 1 2)
      some ((d >>> 32).setWidth 32, s)
  else some (s.draw32 e.r)

def execRnd (f : X3) (s : State) : Host.Outcome State Fault Refusal :=
  lane (.rnd f) (fun e s =>
    match e.rndWord f s with
    | none => .trap (.sync 0x01 5 0)
    | some (d, s1) => .done (e.write s1 [d])) s

/-- (d >> 8) × 2^−24, which F32 holds exactly (R279). -/
def uniformF32 (d : Word) : Word := BitVec.ofNat 32 (rne .f32 (.num ⟨false, d.toNat / 256, -24, false⟩))

def execRndf (f : X3) (s : State) : Host.Outcome State Fault Refusal :=
  lane (.rndf f) (fun e s =>
    match e.rndWord f s with
    | none => .trap (.sync 0x01 5 0)
    | some (d, s1) => .done (e.write s1 [uniformF32 d])) s

/-- The mask of n draws against P, bit 0 first (R279). -/
def maskOf (p : Word) : List Word → Nat
  | [] => 0
  | d :: r => b2n (d.toNat < p.toNat) + 2 * maskOf p r

def execRndmask (f : X3) (s : State) : Host.Outcome State Fault Refusal :=
  lane (.rndmask f) (fun e s =>
    let (ds, s1) := s.draws e.r (f.mode.toNat % 32 + 1)
    .done (e.write s1 [BitVec.ofNat 32 (maskOf (e.x 0) ds)])) s

def execRndgauss (f : X3) (s : State) : Host.Outcome State Fault Refusal :=
  lane (.rndgauss f) (fun e s =>
    let (zs, s1) := s.gauss e.r 1
    .done (e.write s1 (zs.map fun z => BitVec.ofNat 32 z))) s

/-- Sets a thread's draw counter. -/
def LaneEnv.setDraw (e : LaneEnv) (s : State) (g : Dword → Dword) : State := s.modThread e.r fun th => { th with draw := g th.draw }

def execRndskip (f : X3) (s : State) : Host.Outcome State Fault Refusal :=
  lane (.rndskip f) (fun e s => .done (e.setDraw s fun c => c + e.pair 0)) s
def execRndset (f : X3) (s : State) : Host.Outcome State Fault Refusal :=
  lane (.rndset f) (fun e s => .done (e.setDraw s fun _ => e.pair 0)) s
def execRndget (f : X3) (s : State) : Host.Outcome State Fault Refusal :=
  lane (.rndget f) (fun e s =>
    match s.thread? e.r with
    | none => .done s
    | some th => .done (e.write s (two th.draw))) s

/-- The order key of R284. -/
def orderKey (x : Word) : Word := if x.msb then x ^^^ 0xFFFFFFFF else x ^^^ 0x80000000

def execHdig (f : X3) (s : State) : Host.Outcome State Fault Refusal :=
  lane1 (.hdig f) (fun a => (orderKey a >>> (8 * f.mode.toNat)) &&& 0xFF) s

end Sys2Proof.Machine
end

