-- ==== Sys2Proof/Machine/Units.lean ====
section
/-! DEFINITION. The corner-turn stage (spec 07 R160, R161, 22 R428, 23 R461), the sampler (14 R282 to R287, 20 R388 to R390), the page
catalogue (06 R143 to R146, 23 R453) and the batch-forming queue (05 R121 to R123, 23 R449 to R452). -/

namespace Sys2Proof.Machine

/-! The corner-turn stage. -/

/-- 64 rows of 128 bytes. -/
def turnArea (x : Loc) (pitch : Nat) : Area := ⟨x, 64, 128, pitch⟩

/-- The pitches that a pitch word holds. -/
def turnPitch (v i : Nat) : Nat := 128 * bits v (18 * i) 18

/-- A move through the stage from its operands: an ALIGN trap, or what it does. -/
def turnOf (v src a b : Nat) : Trap ⊕ Stash :=
  let bad (i : Nat) : Bool := turnPitch v i = 0 || 2 ^ 24 < turnPitch v i
  if bits v 54 10 ≠ 0 || bad 0 || src % 128 ≠ 0 then .inl (.sync 0x04 0 src)
  else if bad 1 || a % 128 ≠ 0 then .inl (.sync 0x04 0 (a % 2 ^ 56))
  else if bad 2 || b % 128 ≠ 0 then .inl (.sync 0x04 0 (b % 2 ^ 56))
  else .inr ⟨src, turnPitch v 0, a, turnPitch v 1, b, turnPitch v 2, none⟩

def Stash.src (t : Stash) (b : Block) : Area := turnArea (.loc b.id t.s) t.sp
def Stash.dsts (t : Stash) : List Area := [turnArea (.glob t.a) t.pa, turnArea (.glob t.b) t.pb]

/-- The checks of the stage's local rows against locks: a locked destination traps (R183). -/
def State.turnLocks (s : State) (a : Acor) (t : Stash) : Option Trap :=
  firstTrap (((t.src a.b).rowList).filterMap fun x =>
    match x.1 with
    | .loc _ la => (match s.locChk a la x.2 2 1 with | .inl e => some e | .inr _ => none)
    | .glob _ => none)

/-- STASH and STT as operations, after the checks of their ranges. -/
def State.mkTurn (s : State) (a : Acor) (word : CodeAddr) (v src x y : Nat) : Trap ⊕ Op :=
  match turnOf v src x y with
  | .inl t => .inl t
  | .inr t =>
    match firstTrap ((s.areasTrap a [t.src a.b] t.dsts).toList ++ (s.turnLocks a t).toList) with
    | some e => .inl e
    | none => .inr (s.newOp a (word.setWidth 16) (.stash t) [] t.dsts)

/-- What the pages and locks of a lane STT's destinations make of it: nothing, or an outcome that is not its effect. -/
def LaneEnv.turnChk (e : LaneEnv) (s : State) (t : Stash) : Option UnitRes :=
  let rows := t.dsts.flatMap fun a => a.rowList
  let segs := rows.flatMap fun x => match x.1 with | .glob va => s.segs e.b.die e.b.nodeRef e.th.inTrap va x.2 .store | .loc _ _ => []
  let chks := segs.map fun g => (g.va, s.chk e.acor g.va g.len .store 1 1)
  match firstTrap (chks.filterMap fun c => match c.2 with
      | .trap x => some x
      | .fatal => some (.sync 0x07 0 c.1)
      | _ => none) with
  | some x => some (.trap x)
  | none =>
    if chks.any fun c => match c.2 with | .stop => true | _ => false then some (.stop 3)
    else
      match chks.findSome? fun c => match c.2 with | .dev f pa => some (f, pa) | _ => none with
      | some (f, pa) => some (e.meets s f pa)
      | none =>
        match chks.find? fun c => match c.2 with | .absent => true | _ => false with
        | some c => some (e.hold 2 c.1 .store)
        | none => if segs.any fun g => s.logHas e.acor g.va then some (.wait id .retry) else none

def execStt (f : X3) (s : State) : Host.Outcome State Fault Refusal :=
  lane (.stt f) (fun e s =>
    let mk := s.mkTurn e.acor e.pc (e.pair 3).toNat (e.x 0).toNat (e.pair 1).toNat (e.pair 2).toNat
    if e.th.heldOp.isSome then e.command State.registerOp s (.inl limTrap)
    else
      match mk with
      | .inl t => .trap t
      | .inr o =>
        match o.work with
        | .stash t => match e.turnChk s t with | some r => r | none => e.command State.registerOp (s.unhold (.lane e.r)) (.inr o)
        | _ => .done s) s

def execStash (f : Y3) (s : State) : Host.Outcome State Fault Refusal :=
  lead (.stash f) (fun e s =>
    e.command State.registerOp s none
      (s.mkTurn e.acor e.pc (e.l.get f.d).toNat ((e.l.get f.a).toNat % 2 ^ 32) (e.l.get f.b).toNat (e.l.get f.e).toNat)) s

/-- The move that a core's stage takes or holds: the first in its order. -/
def State.stageHead (s : State) (o : Op) : Bool :=
  ((s.ops.find? fun x => x.die = o.die && x.core = o.core && x.phase = .registered && (match x.work with | .stash _ => true | _ => false)).map
    fun x => x.id) = some o.id

/-- The local rows of a move, in order. -/
def State.turnRows (s : State) (o : Op) (t : Stash) : List Byte :=
  match o.issuer with
  | .agent a => (turnArea (.loc a.block t.s) t.sp).rowList.flatMap fun x => s.readRow o x.1 x.2
  | .node _ => []

/-- The stage has read all 64 rows. -/
def State.loadStage (s : State) (o : Op) (t : Stash) : State :=
  if o.phase = .registered && t.rows.isNone && s.stageHead o then
    s.modOp o.id fun x => { x with work := .stash { t with rows := some (s.turnRows o t) } }
  else s

def execSttStageLoaded (s : State) : Host.Outcome State Fault Refusal :=
  event (fun s => match s.arg with
    | .num id =>
      match s.op? id with
      | some o => match o.work with | .stash t => s.loadStage o t | _ => s
      | none => s
    | _ => s) s

/-- 64 rows of 64 elements of 16 bits, transposed. -/
def transposed (bs : List Byte) : List Byte :=
  (List.range 64).flatMap fun j => (List.range 64).flatMap fun i => (bs.drop (128 * i + 2 * j)).take 2

/-- Both copies are visible: first the plain one. -/
def State.completeTurn (s : State) (o : Op) (t : Stash) : State :=
  match t.rows with
  | none => s
  | some bs =>
    if s.issuerHeld o then s
    else
      s.withPages o fun s =>
        (s.writeAreas o [turnArea (.glob t.a) t.pa, turnArea (.glob t.b) t.pb] (bs ++ transposed bs)).finishOp o 0

def execStashComplete (s : State) : Host.Outcome State Fault Refusal :=
  event (fun s => match s.arg with
    | .num id =>
      match s.op? id with
      | some o => match o.work with | .stash t => s.completeTurn o t | _ => s
      | none => s
    | _ => s) s

/-! The sampler. -/

/-- The local address of a flat offset (R109, R151). -/
def Block.flat (b : Block) (x : Nat) : Nat := x / b.loc * 2 ^ 18 + x % b.loc

/-- The pieces of a flat range, one for each share. -/
def flatGo (b : Block) : Nat → Nat → Nat → List (Nat × Nat)
  | 0, _, _ => []
  | fuel + 1, x, n =>
    if n = 0 || b.loc = 0 then []
    else
      let m := min n (b.loc - x % b.loc)
      (b.flat x, m) :: flatGo b fuel (x + m) (n - m)

def Block.flatParts (b : Block) (x n : Nat) : List (Nat × Nat) := flatGo b (n / (max b.loc 1) + 2) x n

/-- A flat range as areas. -/
def Block.flatAreas (b : Block) (x n : Nat) : List Area := (b.flatParts x n).map fun p => rangeAt (.loc b.id p.1) p.2

/-- EXTENT of a flat range: its first byte at or beyond c × L. -/
def Block.flatTrap (b : Block) (x n : Nat) : Option Trap :=
  let size := b.c * b.loc
  if x + n ≤ size then none else some (.sync 0x05 0 (b.flat (max x size)))

def State.flatRead (s : State) (b : Block) (x n : Nat) : List Byte :=
  (b.flatParts x n).flatMap fun p => s.locRead b.id (p.1 / 2 ^ 18) (p.1 % 2 ^ 18) p.2

def flatWriteGo (s : State) (b : Block) : List (Nat × Nat) → List Byte → State
  | [], _ => s
  | p :: r, bs => flatWriteGo (s.locWrite b.id (p.1 / 2 ^ 18) (p.1 % 2 ^ 18) (bs.take p.2)) b r (bs.drop p.2)

def State.flatWrite (s : State) (b : Block) (x : Nat) (bs : List Byte) : State := flatWriteGo s b (b.flatParts x bs.length) bs

/-- MINP's operands checked (R388). -/
def State.mkMinp (s : State) (a : Acor) (x y z : List Word) : Trap ⊕ Op :=
  let w (l : List Word) (i : Nat) : Nat := (l.getD i 0).toNat
  let v := w y 1
  if v = 0 || 262144 < v then .inl limTrap
  else if w x 0 % 4 ≠ 0 then .inl (.sync 0x04 0 (a.b.flat (w x 0)))
  else if w y 0 % 16 ≠ 0 then .inl (.sync 0x04 0 (a.b.flat (w y 0)))
  else
    let m := (v + 7) / 8
    match [a.b.flatTrap (w x 0) (4 * v), a.b.flatTrap (w x 1) m, a.b.flatTrap (w y 0) (16 + 8 * v)].findSome? id with
    | some t => .inl t
    | none =>
      .inr (s.newOp a 0 (.sample ⟨false, 0, 0, 0, x, y, z⟩) (a.b.flatAreas (w x 0) (4 * v) ++ a.b.flatAreas (w x 1) m)
        (a.b.flatAreas (w y 0) (16 + 8 * v)))

/-- CATDRAW's operands checked (R389); it draws under the STREAMKEY that the thread has at it (R386). -/
def State.mkCatdraw (s : State) (a : Acor) (key : Dword) (purpose : Nat) (x y z : List Word) : Trap ⊕ Op :=
  let w (l : List Word) (i : Nat) : Nat := (l.getD i 0).toNat
  let sc := f32v (y.getD 0 0)
  let good := match sc with | .num e => !e.isZero && !e.s | _ => false
  if !good || 2 ^ 30 ≤ w z 1 then .inl limTrap
  else if w x 0 % 16 ≠ 0 then .inl (.sync 0x04 0 (a.b.flat (w x 0)))
  else
    match a.b.flatTrap (w x 0) 16 with
    | some t => .inl t
    | none => .inr (s.newOp a 0 (.sample ⟨true, key, purpose, 0, x, y, z⟩) (a.b.flatAreas (w x 0) 16) [])

def execMinp (f : X3) (s : State) : Host.Outcome State Fault Refusal :=
  lane (.minp f) (fun e s => e.command State.registerOp s (s.mkMinp e.acor (e.vals.getD 0 []) (e.vals.getD 1 []) (e.vals.getD 2 []))) s

/-- A CATDRAW whose list breaks R282 traps EXTENT: it finished with the address of the trap alone. -/
def execCatdraw (f : X3) (s : State) : Host.Outcome State Fault Refusal :=
  lane (.catdraw f) (fun e s =>
    match e.th.heldOp.bind fun id => (s.op? id).bind Op.result with
    | some [at_] => .trap (.sync 0x05 0 at_.toNat)
    | _ =>
      e.command State.registerOp s
        (s.mkCatdraw e.acor e.th.key (f.mode.toNat % 4) (e.vals.getD 0 []) (e.vals.getD 1 []) (e.vals.getD 2 []))) s

/-- The greatest of F32 codes, −0 below +0. -/
def maxF32 : List Nat → Nat
  | [] => 0
  | [x] => x
  | x :: r => let y := maxF32 r; if Val.lt true (FTy.f32.value x) (FTy.f32.value y) then y else x

/-- Whether a logit passes: not below the bound, as values. -/
def atLeast (x t : Nat) : Bool := !(FTy.f32.value x).isNan && !Val.lt false (FTy.f32.value x) (FTy.f32.value t)

/-- What MINP keeps, with MAX (R283). -/
def minpOf (logits : List Nat) (mask : List Byte) (c : Word) : List (Nat × Nat) × Nat :=
  let p := (logits.zipIdx.map fun e => (e.2, e.1)).filter fun e =>
    ((mask.getD (e.1 / 8) 0).getLsbD (e.1 % 8)) && !(FTy.f32.value e.2).isNan
  match p with
  | [] => ([], 0x7FC00000)
  | _ =>
    let m := maxF32 (p.map fun e => e.2)
    if (FTy.f32.value m).isInf then (p.filter fun e => e.2 = m, m)
    else
      let cut : Val := match f32v c with | .nan _ _ => .inf true | v => if Val.lt true v (.num (Exact.zero false)) then v else .num (Exact.zero false)
      let tau := rne .f32 (Val.add false (FTy.f32.value m) cut)
      (p.filter fun e => atLeast e.2 tau, m)

/-- The bytes of a survivor list (R282). -/
def listBytes (keep : List (Nat × Nat)) (m : Nat) : List Byte :=
  bytesOf 16 (keep.length + m * 2 ^ 32) ++ keep.flatMap fun e => bytesOf 8 (e.1 + e.2 * 2 ^ 32)

/-- The weight of an entry (R285). -/
def weightOf (max sc logit : Nat) : Val :=
  let m := FTy.f32.value max
  let x := FTy.f32.value logit
  if m.isInf then .num (if x = m then Exact.one else Exact.zero false)
  else
    let d := rne .f32 (Val.add false x m.neg)
    let y := rne .f32 (Val.mul (FTy.f32.value d) (FTy.f32.value sc))
    FTy.f32.value (rne .f32 (SFn.eval .exp2 (FTy.f32.value y)))

/-- A weight in the exact sum; a NaN counts 0. -/
def Val.weight : Val → Exact
  | .num e => e
  | _ => Exact.zero false

/-- The first token whose running sum exceeds u. -/
def firstAbove (u : Exact) : Exact → List (Nat × Exact) → Nat
  | _, [] => 0xFFFFFFFF
  | acc, (t, w) :: r => let a := acc.add w false; if u.lt a then t else firstAbove u a r

/-- CATDRAW's token and status (R285). A logit above MAX can make a weight infinite; the sum that R285 calls exact has no value then, and the token
is free (DESIGN CHOICE, log entry 45). -/
def catdrawOf (entries : List (Nat × Nat)) (max sc : Nat) (d : Dword) (free : Nat) : Nat × Nat :=
  let sorted := entries.mergeSort fun a b => a.1 ≤ b.1
  let ws := sorted.map fun e => (e.1, weightOf max sc e.2)
  let nanw := b2n (ws.any fun e => e.2.isNan)
  let num := ws.map fun e => (e.1, e.2.weight)
  let total := num.foldl (fun (a : Exact) e => a.add e.2 false) (Exact.zero false)
  if ws.any fun e => e.2.isInf then (free % 2 ^ 32, 2 * nanw)
  else if total.isZero then (0xFFFFFFFF, 1 + 2 * nanw)
  else (firstAbove (((Exact.ofNat d.toNat).mul total).shift (-64)) (Exact.zero false) num, 2 * nanw)

/-- The operation that the sampler of a die takes: the first in order of arrival. -/
def State.samplerHead (s : State) (o : Op) : Bool :=
  ((s.ops.find? fun x => x.die = o.die && (x.phase = .registered || x.phase = .running) && (match x.work with | .sample _ => true | _ => false)).map
    fun x => x.id) = some o.id

/-- The words that the issuer receives; its ranges unlock (R184). -/
def State.sampled (s : State) (o : Op) (ws : List Word) : State :=
  s.modOp o.id fun x => { x with phase := .finished ws, lockSrc := [], lockDst := [] }

/-- A SAMPLE_EMPTY record (R286); its TAG and DETAIL the manual leaves open. (DEDUCED, log entry 32) -/
def State.sampleEmpty (s : State) (o : Op) : State :=
  match o.issuer with
  | .agent (.lane r) =>
    match s.block? r.block with
    | some b =>
      s.postForeign ⟨r.block, b.home r.t⟩
        (recordWord ((Config.freeDword s.tick 0).setWidth 16) 0x50 6 (Config.freeDword s.tick 1).toNat true) (BitVec.ofNat 64 (b.wid r.t)) []
    | none => s
  | _ => s

/-- MINP completes. -/
def State.runMinp (s : State) (o : Op) (c : SampCmd) (b : Block) : State :=
  let w (l : List Word) (i : Nat) : Nat := (l.getD i 0).toNat
  let v := w c.b 1
  let logits := codesOf 4 (s.flatRead b (w c.a 0) (4 * v))
  let (keep, m) := minpOf logits (s.flatRead b (w c.a 1) ((v + 7) / 8)) (c.c.getD 0 0)
  (s.flatWrite b (w c.b 0) (listBytes keep m)).sampled o [BitVec.ofNat 32 keep.length]

/-- CATDRAW once its header is registered: its entries register too, or the list is found to break R282, with the address of the first byte at fault,
the list's where COUNT alone is (R234; DEDUCED, log entry 32). -/
def State.moreEntries (s : State) (o : Op) (c : SampCmd) (b : Block) : State :=
  let x := (c.a.getD 0 0).toNat
  let count := natOf (s.flatRead b x 4)
  let bad := if 262144 < count then some (b.flat x) else (b.flatTrap (x + 16) (8 * count)).map Trap.addr
  match bad with
  | some at_ => s.sampled o [BitVec.ofNat 32 at_]
  | none =>
    let src := o.src ++ b.flatAreas (x + 16) (8 * count)
    let o1 : Op := { o with src := src }
    if s.rangesFree o1 then s.modOp o.id fun y => { y with src := src, lockSrc := s.srcSpans o1, phase := .running } else s

/-- CATDRAW completes. -/
def State.runCatdraw (s : State) (o : Op) (c : SampCmd) (b : Block) : State :=
  let x := (c.a.getD 0 0).toNat
  let h := s.flatRead b x 8
  let count := natOf (h.take 4)
  let entries := (codesOf 8 (s.flatRead b (x + 16) (8 * count))).map fun e => (e % 2 ^ 32, e / 2 ^ 32)
  let d := sampleDraw c.key (c.c.getD 0 0).toNat (c.c.getD 1 0).toNat c.mode
  let (tok, st) := catdrawOf entries (natOf (h.drop 4)) (c.b.getD 0 0).toNat d (Config.freeDword s.tick 0).toNat
  let s1 := s.sampled o [BitVec.ofNat 32 tok, BitVec.ofNat 32 st]
  if st % 2 = 1 then s1.sampleEmpty o else s1

def State.runSampler (s : State) (o : Op) (c : SampCmd) : State :=
  match o.issuer with
  | .agent a =>
    match s.block? a.block with
    | some b =>
      if !s.samplerHead o then s
      else if !c.catdraw then s.runMinp o c b
      else if o.phase = .running then s.runCatdraw o c b
      else s.moreEntries o c b
    | none => s
  | .node _ => s

def execSamplerOpComplete (s : State) : Host.Outcome State Fault Refusal :=
  event (fun s => match s.arg with
    | .num id =>
      match s.op? id with
      | some o => match o.work with | .sample c => s.runSampler o c | _ => s
      | none => s
    | _ => s) s

/-! The page catalogue. -/

/-- A slot of the table at a virtual address: key, page, references, valid; none when its reserved bits are set. -/
structure CatSlot where
  pa : Nat
  key : Nat
  page : Nat
  refs : Nat
  valid : Bool
  deriving DecidableEq, Repr

def CatSlot.word (x : CatSlot) : Nat := x.key + x.page * 2 ^ 64 + x.refs * 2 ^ 104 + b2n x.valid * 2 ^ 127

/-- The first bytes of the table's 64 KiB pages. -/
def Ctx.catPages (c : Ctx) : List Nat :=
  (List.range (2 ^ c.catLog2 / 1024 + 2)).map (fun i => max c.catBase (c.catBase / 65536 * 65536 + 65536 * i))
    |>.filter fun va => va < c.catBase + 64 * 2 ^ c.catLog2

/-- Where a byte of the table lies, if its page serves: mapped, writable and homed on the home die (R144). -/
def catPlace (c : Ctx) (w : Walk) (va : Nat) : Option Nat :=
  match w with
  | .leaf pa size true true _ _ =>
    let p := pa + va % size
    if homeDie p = c.home && homeOf p != .window && homeOf p != .nothing then some p else none
  | _ => none

/-- What the controller meets as it comes to the table: the first of its pages that lies behind something, then a line of the slots given. -/
def State.catMeets (s : State) (c : Ctx) (slots : List Nat) : PhysFault × Nat :=
  let xs := (c.catPages.map fun va => match s.walk c.home c va with | .dev f pa => (f, pa) | _ => (PhysFault.none, 0)) ++
    slots.map fun p => (s.meets c.home none p 16 true, p)
  (xs.find? fun x => x.1 != .none).getD (.none, 0)

/-- The addresses of the slots of a key's probe sequence in order, or none where the table does not serve (R144, R145). -/
def State.catAddrs (s : State) (c : Ctx) (key : Dword) : Option (List Nat) :=
  if c.catLog2 = 0 || c.catPages.any fun va => (catPlace c (s.walk c.home c va) va).isNone then none
  else
    (List.range 32).mapM fun i =>
      let va := c.catBase + 64 * ((key.toNat + i / 4) % 2 ^ c.catLog2) + 16 * (i % 4)
      catPlace c (s.walk c.home c va) va

/-- The slots at some addresses, or none where a reserved bit is set (R144). -/
def State.catSlots (s : State) (ps : List Nat) : Option (List CatSlot) :=
  ps.mapM fun p =>
    let v := natOf (s.homeRead p 16)
    if bits v 120 7 = 0 then some ⟨p, bits v 0 64, bits v 64 40, bits v 104 16, bit v 127⟩ else none

/-- The controller writes a slot: it stays in the controller's buckets until it is written back. -/
def State.catWrite (s : State) (d : Die) (who : Agent × Nat) (x : CatSlot) : State :=
  { s with cached := ownBytes s.cached (.cat d) x.pa who (bytesOf 16 x.word) }

/-- The result words: page, status, references. -/
def catWords (page status refs : Nat) : List Word :=
  [BitVec.ofNat 32 (page * 65536), BitVec.ofNat 32 (page / 65536), BitVec.ofNat 32 status, BitVec.ofNat 32 refs]

/-- A hit that takes a reference, with the given status (R145): its words and the slot it writes. -/
def catTake (x : CatSlot) (status : Nat) : List Word × Option CatSlot :=
  if x.refs = 0xFFFF then (catWords 0 6 x.refs, none) else (catWords x.page status (x.refs + 1), some { x with refs := x.refs + 1 })

/-- One operation of the controller on the slots that it probes (R145, R453): the words, and the slot that it writes. -/
def CatCmd.run (c : CatCmd) (slots : List CatSlot) : List Word × Option CatSlot :=
  let entry (pa : Nat) : CatSlot := ⟨pa, c.key.toNat, c.page / 65536, c.n, true⟩
  match c.fn, slots.find? fun x => x.valid && x.key = c.key.toNat with
  | 0, some x => if c.take then catTake x 0 else (catWords x.page 0 x.refs, none)
  | 1, some x => catTake x 3
  | 1, none =>
    match slots.find? fun x => !x.valid with
    | some x => (catWords (c.page / 65536) 2 c.n, some (entry x.pa))
    | none =>
      match slots.find? fun x => x.refs = 0 with
      | some x => (catWords x.page 4 c.n, some (entry x.pa))
      | none => (catWords 0 5 0, none)
  | 0, none => (catWords 0 1 0, none)
  | _, some x => if x.refs = 0 then (catWords 0 7 0, none) else (catWords x.page 0 (x.refs - 1), some { x with refs := x.refs - 1 })
  | _, none => (catWords 0 1 0, none)

/-- What an acquire of a key reads from (R146). -/
def State.keySync (s : State) (ctx : Nat) (key : Dword) : Rel :=
  match s.keySyncs.find? fun x => x.ctx = ctx && x.key = key with
  | some x => x.rel
  | none => .none

/-- A release on a key, whatever slot it stands in and whether it stands in one (R146). -/
def State.keyRelease (s : State) (ctx : Nat) (key : Dword) (x : Rel) : State :=
  { s with keySyncs := (s.keySyncs.filter fun y => !(y.ctx = ctx && y.key = key)) ++ [⟨ctx, key, (s.keySync ctx key).join x⟩] }

/-- A lookup, insert or unreference of a thread (R453); page and count checked for an insert. -/
def State.mkCat (s : State) (a : Acor) (c : CatCmd) : Trap ⊕ Op :=
  let home := match s.ctx? a.b.ctx with | some x => x.home | none => a.b.die
  if c.fn = 1 && (c.n = 0 || 0xFFFF < c.n || c.page % 65536 ≠ 0 || 2 ^ 56 ≤ c.page) then .inl limTrap
  else .inr { s.newOp a 0 (.cat c) [] [] with die := home }

/-- A thread whose operation finished goes on; a hit, EXISTS and REPLACED are acquires (R146). -/
def LaneEnv.catGo (e : LaneEnv) (s : State) (mk : Trap ⊕ Op) (rel : Bool) : UnitRes :=
  if e.th.heldOp.isNone && rel && !e.released s then (match mk with | .inl t => .trap t | .inr _ => .wait id .retry)
  else
    match e.th.heldOp.bind s.op? with
    | some o =>
      match o.result with
      | some ws =>
        let st := (ws.getD 2 0).toNat
        let flags := (ws.getD 4 0).toNat
        let s1 := if st = 0 || st = 3 || st = 4 then s.acquireBy (.lane e.r) e.acor.cache ⟨bit flags 0, bit flags 1, o.clk⟩ else s
        .done (e.write (s1.consume o.id) (ws.take 4))
      | none => e.command State.registerOp s mk
    | none => e.command State.registerOp s mk

def execKvlook (f : X3) (s : State) : Host.Outcome State Fault Refusal :=
  lane (.kvlook f) (fun e s => e.catGo s (s.mkCat e.acor ⟨0, f.mode.getLsbD 0, e.pair 0, 0, 0⟩) false) s

def execKvins (f : X3) (s : State) : Host.Outcome State Fault Refusal :=
  lane (.kvins f) (fun e s => e.catGo s (s.mkCat e.acor ⟨1, false, e.pair 0, (e.pair 1).toNat, (e.x 2).toNat⟩) true) s

def execKvunref (f : X3) (s : State) : Host.Outcome State Fault Refusal :=
  lane (.kvunref f) (fun e s => e.catGo s (s.mkCat e.acor ⟨2, false, e.pair 0, 0, 0⟩) true) s

/-- The operation that a controller takes: the first in order of arrival. -/
def State.catHead (s : State) (o : Op) : Bool :=
  ((s.ops.find? fun x => x.die = o.die && x.phase = .registered && (match x.work with | .cat _ => true | _ => false)).map fun x => x.id) = some o.id

/-- The die on which an operation's issuer runs. -/
def State.issuerDie (s : State) (o : Op) : Die :=
  match o.issuer with
  | .agent a => (match s.block? a.block with | some b => b.die | none => o.die)
  | .node _ => o.die

/-- An operation of the controller is over: its words, and what its issuer acquires if it does. -/
def State.catOver (s : State) (o : Op) (ws : List Word) (x : Rel) : State :=
  s.modOp o.id fun y => { y with phase := .finished (ws ++ [BitVec.ofNat 32 (b2n x.a + 2 * b2n x.b)]), clk := x.clk }

/-- The controller performs an operation; an insert or unreference releases on its key what happened before its issue (R145, R146). (DEDUCED, log entry 32) -/
def State.runCat (s : State) (o : Op) (c : CatCmd) : State :=
  match s.ctx? o.ctx with
  | none => s
  | some x =>
    if !s.catHead o then s
    else
      let read := s.keySync o.ctx c.key
      let rel (s : State) : State := if c.fn = 0 then s else s.keyRelease o.ctx c.key (.at_ (s.issuerDie o) o.clk)
      match s.catMeets x ((s.catAddrs x c.key).getD []) with
      | (.none, _) =>
        match (s.catAddrs x c.key).bind s.catSlots with
        | none => (rel s).catOver o (catWords 0 8 0) .none
        | some slots =>
          let (ws, w) := c.run slots
          let s1 := match w, o.issuer with
            | some y, .agent a => (s.catWrite o.die (a, o.id) y).stampRange o.stamp y.pa 16
            | _, _ => s
          (rel s1).catOver o ws read
      | (.clear, _) => s
      | (f, pa) => s.physTrap o.ctx f o.die o.unitCode pa

def execCatalogueOp (s : State) : Host.Outcome State Fault Refusal :=
  event (fun s => match s.arg with
    | .num id =>
      match s.op? id with
      | some o => match o.work with | .cat c => s.runCat o c | _ => s
      | none => s
    | _ => s) s

/-! The batch-forming queue. -/

def State.channel? (s : State) (d : Die) (ch : Nat) : Option Channel := s.channels.find? fun c => c.die = d && c.ch = ch

def State.modChannel (s : State) (d : Die) (ch : Nat) (f : Channel → Channel) : State :=
  { s with channels := s.channels.map fun c => if c.die = d && c.ch = ch then f c else c }

/-- The entries of a channel that are in no batch. (DEDUCED, log entry 32) -/
def Channel.queued (c : Channel) : List BfEntry := c.entries.filter fun e => e.batch.isNone

/-- How a form finds the batch-forming queue of its die: ready, clear (it waits), or failed. (DEDUCED, log entry 32) -/
def State.bfqState (s : State) (d : Die) : UnitState := s.unitState d 0x93 (bitBfq d)

/-- The values of BFCFG (R121, R449): THRESH, MAXROWS, AGE. -/
def bfCfg (v : Nat) : Option (Nat × Nat × Nat) :=
  let t := bits v 0 13
  let m := bits v 16 13
  let a := bits v 32 21
  if bits v 13 3 = 0 && bits v 29 3 = 0 && bits v 53 11 = 0 && 1 ≤ t && t ≤ 4096 && t ≤ m && m ≤ 4096 && 16 ≤ a && a ≤ 1048576 then some (t, m, a)
  else none

def execBfcfg (f : Y3) (s : State) : Host.Outcome State Fault Refusal :=
  lead (.bfcfg f) (fun e s =>
    let ch := f.mode.toNat % 8
    let d := e.b.die
    match bfCfg (e.l.get f.a).toNat with
    | none => .trap limTrap
    | some (t, m, a) =>
      match s.bfqState d with
      | .failed => .gone (s.deviceFault e.b.ctx 4 d 0x93)
      | .clear => .wait id .wait
      | .ready =>
        match s.channel? d ch with
        | some c =>
          match c.owner with
          | some o =>
            if o != e.b.ctx then .trap (.sync 0x08 0 0)
            else if !c.queued.isEmpty || c.batches.any fun x => x.taker.isNone then .wait id .wait
            else .done (s.modChannel d ch fun c => { c with thresh := t, maxRows := m, age := a })
          | none => .done (s.modChannel d ch fun c => { c with owner := some e.b.ctx, thresh := t, maxRows := m, age := a })
        | none => .done { s with channels := s.channels ++ [⟨d, ch, some e.b.ctx, t, m, a, [], [], 1, none, []⟩] }) s

/-- The channel that a lane form names, when its context owns it. -/
def LaneEnv.channel (e : LaneEnv) (s : State) (ch : Nat) : Option Channel := (s.channel? e.b.die ch).filter fun c => c.owner = some e.b.ctx

/-- What stands before a form of the queue whatever it does: a failed or absent unit, a channel that is not the context's. -/
def LaneEnv.withChannel (e : LaneEnv) (s : State) (ch : Nat) (go : Channel → UnitRes) : UnitRes :=
  match e.channel s ch with
  | none => .trap (.sync 0x08 0 0)
  | some c =>
    match s.bfqState e.b.die with
    | .failed => .gone (s.deviceFault e.b.ctx 4 e.b.die 0x93)
    | .clear => .wait id .retry
    | .ready => go c

/-- An entry joins a channel: an engine command's issue (R312, R438). -/
def LaneEnv.join (e : LaneEnv) (s0 : State) (ch rows : Nat) (payload : Dword) : State :=
  let s := s0.tick2 (.lane e.r) true false
  let x : BfEntry := { id := s.nextId, who := e.r, ctx := e.b.ctx, cluster := e.b.b / 2 ^ e.b.code.launch.width 1, rows := rows, payload := payload,
                       cycle := s.cycle e.b.die, core := e.b.coreNum e.j, slot := e.sh.slot, batch := none, clk := s.knows (.lane e.r) }
  { s.modChannel e.b.die ch (fun c => { c with entries := c.entries ++ [x] }) with nextId := s.nextId + 1 }

/-- A row count above MAXROWS of a channel that some context configured. -/
def State.rowsOver (s : State) (d : Die) (ch rows : Nat) : Bool := (s.channel? d ch).any fun c => c.owner.isSome && c.maxRows < rows

/-- BFJOIN (R450): QUEUE stands before PROTECT in R235. -/
def execBfjoin (f : X3) (s : State) : Host.Outcome State Fault Refusal :=
  lane (.bfjoin f) (fun e s =>
    let ch := f.mode.toNat % 8
    let rows := (e.x 0).toNat
    match e.th.status with
    | .wait (.join _ (some v)) => .done (e.write (e.acquired s []) [v])
    | .wait (.join id none) => .wait (fun s => s) (.join id none)
    | _ =>
      if rows = 0 || s.rowsOver e.b.die ch rows then .trap (.sync 0x0D 9 0)
      else
        e.withChannel s ch fun c =>
          if !e.released s || 64 ≤ c.queued.length then .wait id .retry
          else .wait (fun s => e.join s ch rows (e.pair 1)) (.join s.nextId none)) s

/-- The batch list that BFTAKE writes (R451). -/
def batchBytes (x : Batch) : List Byte :=
  bytesOf 16 (x.num % 2 ^ 32 + x.entries.length * 2 ^ 32 + x.rows * 2 ^ 64) ++
  x.entries.flatMap fun e => bytesOf 16 (e.1.toNat + e.2.1 * 2 ^ 64 + e.2.2 % 2 ^ 32 * 2 ^ 96)

/-- The order of takers (R123) and of entries that joined in one cycle (R122): by cycle, then core, then block slot. -/
def beforeAt (x y : Nat × Nat × Nat) : Bool :=
  x.1 < y.1 || (x.1 = y.1 && (x.2.1 < y.2.1 || (x.2.1 = y.2.1 && x.2.2 < y.2.2)))

def Taker.place (x : Taker) : Nat × Nat × Nat := (x.cycle, x.core, x.slot)
def BfEntry.place (x : BfEntry) : Nat × Nat × Nat := (x.cycle, x.core, x.slot)

/-- Whether a thread is the one that takes the channel's next batch in a cycle: it came in an earlier one, and no taker stands before it. -/
def Channel.firstTaker (c : Channel) (r : ThreadRef) (now : Nat) : Bool :=
  match c.takers.find? fun x => x.who = r with
  | some x => x.cycle < now && c.takers.all fun y => y.who = r || !beforeAt y.place x.place
  | none => false

/-- A thread waits at BFTAKE from the cycle of its arrival on. -/
def LaneEnv.waitTake (e : LaneEnv) (ch : Nat) (s : State) : State :=
  s.modChannel e.b.die ch fun c =>
    if c.takers.any fun x => x.who = e.r then c
    else { c with takers := c.takers ++ [⟨e.r, s.cycle e.b.die, e.b.coreNum e.j, e.sh.slot⟩] }

/-- BFTAKE: the first taker in order takes the first batch; what happened before its joins happened before it (R452). -/
def LaneEnv.bftake (e : LaneEnv) (s : State) (ch la : Nat) (c : Channel) : UnitRes :=
  match s.locChk e.acor la 1040 1 16 with
  | .inl t => .trap t
  | .inr (j, o) =>
    match c.batches.find? fun x => x.taker.isNone with
    | some x =>
      if c.firstTaker e.r (s.cycle e.b.die) then
        let s1 := (s.tick2 (.lane e.r) true false).modChannel e.b.die ch fun c =>
          { c with
            takers := c.takers.filter fun y => y.who != e.r
            batches := c.batches.map fun y => if y.num = x.num then { y with taker := some e.b.id } else y }
        let k := ((c.entries.filter fun y => y.batch = some x.num).map fun y => y.clk).foldl Clock.join []
        .done (e.write (e.acquired (s1.locWrite e.b.id j o (batchBytes x)) k) [BitVec.ofNat 32 (ch + x.num % 2 ^ 29 * 8)])
      else .wait (e.waitTake ch) .retry
    | none => .wait (e.waitTake ch) .retry

def execBftake (f : X3) (s : State) : Host.Outcome State Fault Refusal :=
  lane (.bftake f) (fun e s =>
    let ch := f.mode.toNat % 8
    let la := (e.x 0).toNat
    if la % 16 ≠ 0 then .trap (.sync 0x04 0 la)
    else if (e.b.local? la 1040).isNone then .trap (.sync 0x05 0 (e.b.firstOut la 1040))
    else e.withChannel s ch fun c => e.bftake s ch la c) s

/-- BFDONE returns the entries of a batch, with what happened before it (R123, R452). -/
def State.bfdone (s : State) (d : Die) (ch num : Nat) (v : Word) (k : Clock) : State :=
  match s.channel? d ch with
  | none => s
  | some c =>
    let back := c.entries.filter fun e => e.batch = some num
    let s1 := s.modChannel d ch fun c =>
      { c with entries := c.entries.filter fun e => e.batch != some num, batches := c.batches.filter fun x => x.num != num }
    back.foldl (fun a e => a.joinReturn e.who e.id v k) s1

def execBfdone (f : X3) (s : State) : Host.Outcome State Fault Refusal :=
  lane (.bfdone f) (fun e s =>
    let h := (e.x 0).toNat
    let ch := h % 8
    let d := e.b.die
    let mine (x : Batch) : Bool := x.num % 2 ^ 29 = h / 8 && match x.taker with
      | some id => s.blocks.any fun b => b.id = id && b.ctx = e.b.ctx
      | none => false
    match (e.channel s ch).bind fun c => c.batches.find? mine with
    | none => .trap limTrap
    | some x =>
      match s.bfqState d with
      | .failed => .gone (s.deviceFault e.b.ctx 4 d 0x93)
      | .clear => .wait id .retry
      | .ready => 
        if e.released s then .done ((s.tick2 (.lane e.r) true false).bfdone d ch x.num (e.x 1) (s.knows (.lane e.r))) else .wait id .retry) s

/-- The entries that a batch takes: whole ones from the oldest on, within a number of rows. (DEDUCED, log entry 32) -/
def takeRows (limit : Nat) : Nat → List BfEntry → List BfEntry
  | _, [] => []
  | n, e :: r => if n + e.rows ≤ limit then e :: takeRows limit (n + e.rows) r else []

/-- Puts an entry behind those that do not stand after it. -/
def placeEntry (e : BfEntry) : List BfEntry → List BfEntry
  | [] => [e]
  | x :: r => if beforeAt e.place x.place then e :: x :: r else x :: placeEntry e r

/-- A channel forms a batch, if it may: at most one in a cycle, from the entries of earlier cycles in their order (R122). (DEDUCED, log entry 32) -/
def State.formBatch (s : State) (c : Channel) : State :=
  let now := s.cycle c.die
  let seen := (c.queued.filter fun e => e.cycle < now).foldl (fun l e => placeEntry e l) []
  let rows (l : List BfEntry) : Nat := l.foldl (fun n e => n + e.rows) 0
  let aged := match seen with | e :: _ => e.cycle + c.age ≤ now | [] => false
  if c.formed = some now || seen.isEmpty || !(c.thresh ≤ rows seen || aged) then s
  else
    let es := takeRows c.maxRows 0 seen
    let ids := es.map fun e => e.id
    s.modChannel c.die c.ch fun c =>
      { c with
        entries := c.entries.map fun (e : BfEntry) => if ids.contains e.id then { e with batch := some c.nextBatch } else e
        batches := c.batches ++ [⟨c.nextBatch, rows es, es.map fun e => (e.payload, e.rows, e.cluster), none⟩]
        nextBatch := c.nextBatch + 1
        formed := some now }

def execBatchForm (s : State) : Host.Outcome State Fault Refusal :=
  event (fun s => match s.arg with
    | .channel d ch => if s.readyBit (bitBfq d) then (match s.channel? d ch with | some c => s.formBatch c | none => s) else s
    | _ => s) s

/-! Registration of what waits (R182). -/

/-- What registering an operation does, by what it is. -/
def State.registerAny (s : State) (o : Op) : State :=
  match o.work with
  | .tsend _ => s.armSend o
  | .tile _ => s.tileRegister o
  | _ => s.registerOp o

/-- A waiting operation registers when nothing stands against it; one whose unit has failed its self-test charges its context (R22). -/
def State.registerWaiting (s : State) (o : Op) : State :=
  match o.phase, s.opUnit o, s.unitOf o with
  | .waiting, .failed, some (u, _) => s.deviceFault o.ctx 4 o.die u
  | _, _, _ => if s.mayRegister o then s.registerAny o else s

def execRangeRegistration (s : State) : Host.Outcome State Fault Refusal :=
  event (fun s => match s.arg with
    | .num id => match s.op? id with | some o => s.registerWaiting o | none => s
    | _ => s) s

end Sys2Proof.Machine
end

