-- ==== Sys2Proof/Machine/Dispatch.lean ====
section
/-! DEFINITION. What each instruction does: one arm per constructor. -/

namespace Sys2Proof.Machine

def exec (i : Instr) (s : State) : Host.Outcome State Fault Refusal :=
  match i with
  | .nop f => Sys2Proof.Machine.execNop f s
  | .add f => Sys2Proof.Machine.execAdd f s
  | .addi f => Sys2Proof.Machine.execAddi f s
  | .sub f => Sys2Proof.Machine.execSub f s
  | .mul f => Sys2Proof.Machine.execMul f s
  | .and f => Sys2Proof.Machine.execAnd f s
  | .or f => Sys2Proof.Machine.execOr f s
  | .xor f => Sys2Proof.Machine.execXor f s
  | .andi f => Sys2Proof.Machine.execAndi f s
  | .ori f => Sys2Proof.Machine.execOri f s
  | .xori f => Sys2Proof.Machine.execXori f s
  | .shli f => Sys2Proof.Machine.execShli f s
  | .shri f => Sys2Proof.Machine.execShri f s
  | .sari f => Sys2Proof.Machine.execSari f s
  | .mov f => Sys2Proof.Machine.execMov f s
  | .movi f => Sys2Proof.Machine.execMovi f s
  | .cmpeq f => Sys2Proof.Machine.execCmpeq f s
  | .cmplt f => Sys2Proof.Machine.execCmplt f s
  | .adda f => Sys2Proof.Machine.execAdda f s
  | .addai f => Sys2Proof.Machine.execAddai f s
  | .fadd f => Sys2Proof.Machine.execFadd f s
  | .fsub f => Sys2Proof.Machine.execFsub f s
  | .fmul f => Sys2Proof.Machine.execFmul f s
  | .fmin f => Sys2Proof.Machine.execFmin f s
  | .fmax f => Sys2Proof.Machine.execFmax f s
  | .ld f => Sys2Proof.Machine.execLd f s
  | .st f => Sys2Proof.Machine.execSt f s
  | .ldl f => Sys2Proof.Machine.execLdl f s
  | .stl f => Sys2Proof.Machine.execStl f s
  | .bz f => Sys2Proof.Machine.execBz f s
  | .bnz f => Sys2Proof.Machine.execBnz f s
  | .guardWord f => Sys2Proof.Machine.execGuardWord f s
  | .bra f => Sys2Proof.Machine.execBra f s
  | .call f => Sys2Proof.Machine.execCall f s
  | .ret f => Sys2Proof.Machine.execRet f s
  | .setpri f => Sys2Proof.Machine.execSetpri f s
  | .grant f => Sys2Proof.Machine.execGrant f s
  | .rdsr f => Sys2Proof.Machine.execRdsr f s
  | .wrsr f => Sys2Proof.Machine.execWrsr f s
  | .discard f => Sys2Proof.Machine.execDiscard f s
  | .swz f => Sys2Proof.Machine.execSwz f s
  | .guard f => Sys2Proof.Machine.execGuard f s
  | .fcmplt f => Sys2Proof.Machine.execFcmplt f s
  | .addLong f => Sys2Proof.Machine.execAddLong f s
  | .subLong f => Sys2Proof.Machine.execSubLong f s
  | .mulLong f => Sys2Proof.Machine.execMulLong f s
  | .mulhi f => Sys2Proof.Machine.execMulhi f s
  | .mad f => Sys2Proof.Machine.execMad f s
  | .andLong f => Sys2Proof.Machine.execAndLong f s
  | .orLong f => Sys2Proof.Machine.execOrLong f s
  | .xorLong f => Sys2Proof.Machine.execXorLong f s
  | .shl f => Sys2Proof.Machine.execShl f s
  | .shr f => Sys2Proof.Machine.execShr f s
  | .sar f => Sys2Proof.Machine.execSar f s
  | .min f => Sys2Proof.Machine.execMin f s
  | .max f => Sys2Proof.Machine.execMax f s
  | .popc f => Sys2Proof.Machine.execPopc f s
  | .clz f => Sys2Proof.Machine.execClz f s
  | .bfe f => Sys2Proof.Machine.execBfe f s
  | .bfi f => Sys2Proof.Machine.execBfi f s
  | .sel f => Sys2Proof.Machine.execSel f s
  | .cmp f => Sys2Proof.Machine.execCmp f s
  | .addaLong f => Sys2Proof.Machine.execAddaLong f s
  | .movLong f => Sys2Proof.Machine.execMovLong f s
  | .movp f => Sys2Proof.Machine.execMovp f s
  | .moviLong f => Sys2Proof.Machine.execMoviLong f s
  | .addiLong f => Sys2Proof.Machine.execAddiLong f s
  | .andiLong f => Sys2Proof.Machine.execAndiLong f s
  | .oriLong f => Sys2Proof.Machine.execOriLong f s
  | .xoriLong f => Sys2Proof.Machine.execXoriLong f s
  | .addaiLong f => Sys2Proof.Machine.execAddaiLong f s
  | .faddLong f => Sys2Proof.Machine.execFaddLong f s
  | .fsubLong f => Sys2Proof.Machine.execFsubLong f s
  | .fmulLong f => Sys2Proof.Machine.execFmulLong f s
  | .fma f => Sys2Proof.Machine.execFma f s
  | .fminLong f => Sys2Proof.Machine.execFminLong f s
  | .fmaxLong f => Sys2Proof.Machine.execFmaxLong f s
  | .fcmp f => Sys2Proof.Machine.execFcmp f s
  | .fclass f => Sys2Proof.Machine.execFclass f s
  | .fround f => Sys2Proof.Machine.execFround f s
  | .fabs f => Sys2Proof.Machine.execFabs f s
  | .fneg f => Sys2Proof.Machine.execFneg f s
  | .dadd f => Sys2Proof.Machine.execDadd f s
  | .dsub f => Sys2Proof.Machine.execDsub f s
  | .dmul f => Sys2Proof.Machine.execDmul f s
  | .dfma f => Sys2Proof.Machine.execDfma f s
  | .dmin f => Sys2Proof.Machine.execDmin f s
  | .dmax f => Sys2Proof.Machine.execDmax f s
  | .dcmp f => Sys2Proof.Machine.execDcmp f s
  | .hadd2 f => Sys2Proof.Machine.execHadd2 f s
  | .hmul2 f => Sys2Proof.Machine.execHmul2 f s
  | .hfma2 f => Sys2Proof.Machine.execHfma2 f s
  | .hmin2 f => Sys2Proof.Machine.execHmin2 f s
  | .hmax2 f => Sys2Proof.Machine.execHmax2 f s
  | .cvt f => Sys2Proof.Machine.execCvt f s
  | .rcp f => Sys2Proof.Machine.execRcp f s
  | .rsq f => Sys2Proof.Machine.execRsq f s
  | .sqrt f => Sys2Proof.Machine.execSqrt f s
  | .log2 f => Sys2Proof.Machine.execLog2 f s
  | .exp2 f => Sys2Proof.Machine.execExp2 f s
  | .sin f => Sys2Proof.Machine.execSin f s
  | .cos f => Sys2Proof.Machine.execCos f s
  | .tanh f => Sys2Proof.Machine.execTanh f s
  | .mvadd f => Sys2Proof.Machine.execMvadd f s
  | .mvsub f => Sys2Proof.Machine.execMvsub f s
  | .mvmul f => Sys2Proof.Machine.execMvmul f s
  | .mvfma f => Sys2Proof.Machine.execMvfma f s
  | .mvdiv f => Sys2Proof.Machine.execMvdiv f s
  | .mvneg f => Sys2Proof.Machine.execMvneg f s
  | .mvabs f => Sys2Proof.Machine.execMvabs f s
  | .mvsf f => Sys2Proof.Machine.execMvsf f s
  | .mvcvt f => Sys2Proof.Machine.execMvcvt f s
  | .mvset f => Sys2Proof.Machine.execMvset f s
  | .mvvar f => Sys2Proof.Machine.execMvvar f s
  | .svadd f => Sys2Proof.Machine.execSvadd f s
  | .svsub f => Sys2Proof.Machine.execSvsub f s
  | .svmul f => Sys2Proof.Machine.execSvmul f s
  | .svfma f => Sys2Proof.Machine.execSvfma f s
  | .svsf f => Sys2Proof.Machine.execSvsf f s
  | .svstat f => Sys2Proof.Machine.execSvstat f s
  | .svset f => Sys2Proof.Machine.execSvset f s
  | .svsort f => Sys2Proof.Machine.execSvsort f s
  | .rnd f => Sys2Proof.Machine.execRnd f s
  | .rndf f => Sys2Proof.Machine.execRndf f s
  | .rndmask f => Sys2Proof.Machine.execRndmask f s
  | .rndgauss f => Sys2Proof.Machine.execRndgauss f s
  | .rndskip f => Sys2Proof.Machine.execRndskip f s
  | .rndget f => Sys2Proof.Machine.execRndget f s
  | .rndset f => Sys2Proof.Machine.execRndset f s
  | .minp f => Sys2Proof.Machine.execMinp f s
  | .hdig f => Sys2Proof.Machine.execHdig f s
  | .catdraw f => Sys2Proof.Machine.execCatdraw f s
  | .shfl f => Sys2Proof.Machine.execShfl f s
  | .bcast f => Sys2Proof.Machine.execBcast f s
  | .vote f => Sys2Proof.Machine.execVote f s
  | .matchOp f => Sys2Proof.Machine.execMatchOp f s
  | .red f => Sys2Proof.Machine.execRed f s
  | .scan f => Sys2Proof.Machine.execScan f s
  | .elect f => Sys2Proof.Machine.execElect f s
  | .bzLong f => Sys2Proof.Machine.execBzLong f s
  | .bnzLong f => Sys2Proof.Machine.execBnzLong f s
  | .brx f => Sys2Proof.Machine.execBrx f s
  | .callr f => Sys2Proof.Machine.execCallr f s
  | .ldLong f => Sys2Proof.Machine.execLdLong f s
  | .stLong f => Sys2Proof.Machine.execStLong f s
  | .ldlLong f => Sys2Proof.Machine.execLdlLong f s
  | .stlLong f => Sys2Proof.Machine.execStlLong f s
  | .atom f => Sys2Proof.Machine.execAtom f s
  | .atoml f => Sys2Proof.Machine.execAtoml f s
  | .gred f => Sys2Proof.Machine.execGred f s
  | .fence f => Sys2Proof.Machine.execFence f s
  | .waita f => Sys2Proof.Machine.execWaita f s
  | .wake f => Sys2Proof.Machine.execWake f s
  | .discardLong f => Sys2Proof.Machine.execDiscardLong f s
  | .stt f => Sys2Proof.Machine.execStt f s
  | .barrierarrive f => Sys2Proof.Machine.execBarrierarrive f s
  | .barrierwait f => Sys2Proof.Machine.execBarrierwait f s
  | .mbinit f => Sys2Proof.Machine.execMbinit f s
  | .mbput f => Sys2Proof.Machine.execMbput f s
  | .mbget f => Sys2Proof.Machine.execMbget f s
  | .waitc f => Sys2Proof.Machine.execWaitc f s
  | .cwait f => Sys2Proof.Machine.execCwait f s
  | .copy f => Sys2Proof.Machine.execCopy f s
  | .copyf f => Sys2Proof.Machine.execCopyf f s
  | .coll f => Sys2Proof.Machine.execColl f s
  | .tsend f => Sys2Proof.Machine.execTsend f s
  | .tdisarm f => Sys2Proof.Machine.execTdisarm f s
  | .ctrrd f => Sys2Proof.Machine.execCtrrd f s
  | .ctrrst f => Sys2Proof.Machine.execCtrrst f s
  | .bfjoin f => Sys2Proof.Machine.execBfjoin f s
  | .bftake f => Sys2Proof.Machine.execBftake f s
  | .bfdone f => Sys2Proof.Machine.execBfdone f s
  | .kvlook f => Sys2Proof.Machine.execKvlook f s
  | .kvins f => Sys2Proof.Machine.execKvins f s
  | .kvunref f => Sys2Proof.Machine.execKvunref f s
  | .tclaim f => Sys2Proof.Machine.execTclaim f s
  | .tfree f => Sys2Proof.Machine.execTfree f s
  | .tshape f => Sys2Proof.Machine.execTshape f s
  | .tldw f => Sys2Proof.Machine.execTldw f s
  | .tswap f => Sys2Proof.Machine.execTswap f s
  | .tmma f => Sys2Proof.Machine.execTmma f s
  | .tst f => Sys2Proof.Machine.execTst f s
  | .tsave f => Sys2Proof.Machine.execTsave f s
  | .tload f => Sys2Proof.Machine.execTload f s
  | .rte f => Sys2Proof.Machine.execRte f s
  | .breakOp f => Sys2Proof.Machine.execBreakOp f s
  | .swtrap f => Sys2Proof.Machine.execSwtrap f s
  | .rdcyc f => Sys2Proof.Machine.execRdcyc f s
  | .rdsrLong f => Sys2Proof.Machine.execRdsrLong f s
  | .wrsrLong f => Sys2Proof.Machine.execWrsrLong f s
  | .leadAdd f => Sys2Proof.Machine.execLeadAdd f s
  | .leadSub f => Sys2Proof.Machine.execLeadSub f s
  | .leadMul f => Sys2Proof.Machine.execLeadMul f s
  | .leadMulhi f => Sys2Proof.Machine.execLeadMulhi f s
  | .leadAnd f => Sys2Proof.Machine.execLeadAnd f s
  | .leadOr f => Sys2Proof.Machine.execLeadOr f s
  | .leadXor f => Sys2Proof.Machine.execLeadXor f s
  | .leadShl f => Sys2Proof.Machine.execLeadShl f s
  | .leadShr f => Sys2Proof.Machine.execLeadShr f s
  | .leadSar f => Sys2Proof.Machine.execLeadSar f s
  | .leadMin f => Sys2Proof.Machine.execLeadMin f s
  | .leadMax f => Sys2Proof.Machine.execLeadMax f s
  | .leadSel f => Sys2Proof.Machine.execLeadSel f s
  | .leadCmp f => Sys2Proof.Machine.execLeadCmp f s
  | .leadAddi f => Sys2Proof.Machine.execLeadAddi f s
  | .leadLd f => Sys2Proof.Machine.execLeadLd f s
  | .leadSt f => Sys2Proof.Machine.execLeadSt f s
  | .leadMovi f => Sys2Proof.Machine.execLeadMovi f s
  | .movhi f => Sys2Proof.Machine.execMovhi f s
  | .bp f => Sys2Proof.Machine.execBp f s
  | .leadBra f => Sys2Proof.Machine.execLeadBra f s
  | .leadEnd f => Sys2Proof.Machine.execLeadEnd f s
  | .dpush f => Sys2Proof.Machine.execDpush f s
  | .ewait f => Sys2Proof.Machine.execEwait f s
  | .lrte f => Sys2Proof.Machine.execLrte f s
  | .qset f => Sys2Proof.Machine.execQset f s
  | .qstart f => Sys2Proof.Machine.execQstart f s
  | .bfcfg f => Sys2Proof.Machine.execBfcfg f s
  | .ckpt f => Sys2Proof.Machine.execCkpt f s
  | .leadCopy f => Sys2Proof.Machine.execLeadCopy f s
  | .leadCopyf f => Sys2Proof.Machine.execLeadCopyf f s
  | .leadColl f => Sys2Proof.Machine.execLeadColl f s
  | .leadTsend f => Sys2Proof.Machine.execLeadTsend f s
  | .leadTdisarm f => Sys2Proof.Machine.execLeadTdisarm f s
  | .leadCtrrd f => Sys2Proof.Machine.execLeadCtrrd f s
  | .leadCtrrst f => Sys2Proof.Machine.execLeadCtrrst f s
  | .leadTclaim f => Sys2Proof.Machine.execLeadTclaim f s
  | .leadTfree f => Sys2Proof.Machine.execLeadTfree f s
  | .leadTshape f => Sys2Proof.Machine.execLeadTshape f s
  | .leadTldw f => Sys2Proof.Machine.execLeadTldw f s
  | .leadTswap f => Sys2Proof.Machine.execLeadTswap f s
  | .leadTmma f => Sys2Proof.Machine.execLeadTmma f s
  | .leadTst f => Sys2Proof.Machine.execLeadTst f s
  | .leadTsave f => Sys2Proof.Machine.execLeadTsave f s
  | .leadTload f => Sys2Proof.Machine.execLeadTload f s
  | .stash f => Sys2Proof.Machine.execStash f s
  | .leadRdsr f => Sys2Proof.Machine.execLeadRdsr f s
  | .leadWrsr f => Sys2Proof.Machine.execLeadWrsr f s
  | .leadRdcyc f => Sys2Proof.Machine.execLeadRdcyc f s
  | .leadBreak f => Sys2Proof.Machine.execLeadBreak f s
  | .leadSwtrap f => Sys2Proof.Machine.execLeadSwtrap f s
  | .unassignedEncoding w0 w1 => Sys2Proof.Machine.execUnassignedEncoding w0 w1 s
  | .rejoin => Sys2Proof.Machine.execRejoin s
  | .reform => Sys2Proof.Machine.execReform s
  | .yield => Sys2Proof.Machine.execYield s
  | .exitOp => Sys2Proof.Machine.execExitOp s
  | .endOp => Sys2Proof.Machine.execEndOp s
  | .packageReset => Sys2Proof.Machine.execPackageReset s
  | .unitSelfTestDone => Sys2Proof.Machine.execUnitSelfTestDone s
  | .firmwareVerify => Sys2Proof.Machine.execFirmwareVerify s
  | .firmwareUpdate => Sys2Proof.Machine.execFirmwareUpdate s
  | .securityVersionRaise => Sys2Proof.Machine.execSecurityVersionRaise s
  | .measurementExtend => Sys2Proof.Machine.execMeasurementExtend s
  | .attestationRequest => Sys2Proof.Machine.execAttestationRequest s
  | .attestationReport => Sys2Proof.Machine.execAttestationReport s
  | .d2dLost => Sys2Proof.Machine.execD2dLost s
  | .memEccCorrected => Sys2Proof.Machine.execMemEccCorrected s
  | .memEccUncorrectable => Sys2Proof.Machine.execMemEccUncorrectable s
  | .sramSoftError => Sys2Proof.Machine.execSramSoftError s
  | .internalTimeout => Sys2Proof.Machine.execInternalTimeout s
  | .leaveGrant => Sys2Proof.Machine.execLeaveGrant s
  | .tileLeaveRelease => Sys2Proof.Machine.execTileLeaveRelease s
  | .govstatRead => Sys2Proof.Machine.execGovstatRead s
  | .coolingSample => Sys2Proof.Machine.execCoolingSample s
  | .portLinkUp => Sys2Proof.Machine.execPortLinkUp s
  | .portLinkDown => Sys2Proof.Machine.execPortLinkDown s
  | .portstatRead => Sys2Proof.Machine.execPortstatRead s
  | .malformedFrame => Sys2Proof.Machine.execMalformedFrame s
  | .uetUnsupportedRequest => Sys2Proof.Machine.execUetUnsupportedRequest s
  | .incomingRmaWrite => Sys2Proof.Machine.execIncomingRmaWrite s
  | .incomingRmaRead => Sys2Proof.Machine.execIncomingRmaRead s
  | .incomingFetchAtomic => Sys2Proof.Machine.execIncomingFetchAtomic s
  | .heldLandingRelease => Sys2Proof.Machine.execHeldLandingRelease s
  | .uetAck => Sys2Proof.Machine.execUetAck s
  | .uetNak => Sys2Proof.Machine.execUetNak s
  | .uetRetransmit => Sys2Proof.Machine.execUetRetransmit s
  | .peerLostTimeout => Sys2Proof.Machine.execPeerLostTimeout s
  | .collectiveData => Sys2Proof.Machine.execCollectiveData s
  | .collectivePhaseTimeout => Sys2Proof.Machine.execCollectivePhaseTimeout s
  | .collectiveComplete => Sys2Proof.Machine.execCollectiveComplete s
  | .bridgeForward => Sys2Proof.Machine.execBridgeForward s
  | .registerWrite => Sys2Proof.Machine.execRegisterWrite s
  | .wdiscardRead => Sys2Proof.Machine.execWdiscardRead s
  | .kick => Sys2Proof.Machine.execKick s
  | .kickTake => Sys2Proof.Machine.execKickTake s
  | .kickReread => Sys2Proof.Machine.execKickReread s
  | .replayStart => Sys2Proof.Machine.execReplayStart s
  | .nodeComplete => Sys2Proof.Machine.execNodeComplete s
  | .hostNotify => Sys2Proof.Machine.execHostNotify s
  | .evtheadWrite => Sys2Proof.Machine.execEvtheadWrite s
  | .evtcfgWrite => Sys2Proof.Machine.execEvtcfgWrite s
  | .evtlostRead => Sys2Proof.Machine.execEvtlostRead s
  | .fpcountWrite => Sys2Proof.Machine.execFpcountWrite s
  | .fpthreshWrite => Sys2Proof.Machine.execFpthreshWrite s
  | .ctxCreate => Sys2Proof.Machine.execCtxCreate s
  | .ctxDestroy => Sys2Proof.Machine.execCtxDestroy s
  | .ctxDestroyDone => Sys2Proof.Machine.execCtxDestroyDone s
  | .ctxPartition => Sys2Proof.Machine.execCtxPartition s
  | .ctxPartitionDone => Sys2Proof.Machine.execCtxPartitionDone s
  | .graphRegister => Sys2Proof.Machine.execGraphRegister s
  | .graphRelease => Sys2Proof.Machine.execGraphRelease s
  | .ctxLimits => Sys2Proof.Machine.execCtxLimits s
  | .regionSet => Sys2Proof.Machine.execRegionSet s
  | .regionFree => Sys2Proof.Machine.execRegionFree s
  | .counterSetAssign => Sys2Proof.Machine.execCounterSetAssign s
  | .counterSetRelease => Sys2Proof.Machine.execCounterSetRelease s
  | .counterSetValue => Sys2Proof.Machine.execCounterSetValue s
  | .poolEntry => Sys2Proof.Machine.execPoolEntry s
  | .nodeAging => Sys2Proof.Machine.execNodeAging s
  | .nodeDispatch => Sys2Proof.Machine.execNodeDispatch s
  | .kernelPassedOver => Sys2Proof.Machine.execKernelPassedOver s
  | .blockPlace => Sys2Proof.Machine.execBlockPlace s
  | .batchForm => Sys2Proof.Machine.execBatchForm s
  | .faultRewalk => Sys2Proof.Machine.execFaultRewalk s
  | .hotPageInterval => Sys2Proof.Machine.execHotPageInterval s
  | .catalogueOp => Sys2Proof.Machine.execCatalogueOp s
  | .loadReturn => Sys2Proof.Machine.execLoadReturn s
  | .storeVisible => Sys2Proof.Machine.execStoreVisible s
  | .rangeRegistration => Sys2Proof.Machine.execRangeRegistration s
  | .copyComplete => Sys2Proof.Machine.execCopyComplete s
  | .followOnEntry => Sys2Proof.Machine.execFollowOnEntry s
  | .stashComplete => Sys2Proof.Machine.execStashComplete s
  | .samplerOpComplete => Sys2Proof.Machine.execSamplerOpComplete s
  | .tileStepStart => Sys2Proof.Machine.execTileStepStart s
  | .tileStepBoundary => Sys2Proof.Machine.execTileStepBoundary s
  | .tileOpComplete => Sys2Proof.Machine.execTileOpComplete s
  | .streamEntry => Sys2Proof.Machine.execStreamEntry s
  | .rejoinTimeout => Sys2Proof.Machine.execRejoinTimeout s
  | .ejectHandover => Sys2Proof.Machine.execEjectHandover s
  | .carrelReturn => Sys2Proof.Machine.execCarrelReturn s
  | .reformDraw => Sys2Proof.Machine.execReformDraw s
  | .preemptEntry => Sys2Proof.Machine.execPreemptEntry s
  | .saveComplete => Sys2Proof.Machine.execSaveComplete s
  | .dbgstop => Sys2Proof.Machine.execDbgstop s
  | .dbgresume => Sys2Proof.Machine.execDbgresume s
  | .stopComplete => Sys2Proof.Machine.execStopComplete s
  | .samplostRead => Sys2Proof.Machine.execSamplostRead s
  | .accheadWrite => Sys2Proof.Machine.execAccheadWrite s
  | .rrReadRelease => Sys2Proof.Machine.execRrReadRelease s
  | .rrReadTimeout => Sys2Proof.Machine.execRrReadTimeout s
  | .d2dFlitRetry => Sys2Proof.Machine.execD2dFlitRetry s
  | .fecCodeword => Sys2Proof.Machine.execFecCodeword s
  | .cmdUnassignedOp => Sys2Proof.Machine.execCmdUnassignedOp s
  | .sttStageLoaded => Sys2Proof.Machine.execSttStageLoaded s
  | .tileSourceUnlock => Sys2Proof.Machine.execTileSourceUnlock s

end Sys2Proof.Machine
end

