-- ==== Sys2Proof/Machine/Issue.lean ====
section
/-! DEFINITION. Issuing (spec 05 R116, 09 R191, 11 R233, R240 to R242, 17 R325 to R329): the group that issues, the chain of each of its
threads, and what a lead context issues. -/

namespace Sys2Proof.Machine

/-- A unit of a chain with the GUARD before it. -/
structure Guarded where
  g : Option UnitWord
  u : UnitWord
  deriving DecidableEq, Repr

/-- Ties every GUARD of a chain to the unit after it (R323). -/
def guardedUnits : List UnitWord → List Guarded
  | [] => []
  | [u] => [⟨none, u⟩]
  | u :: v :: r => if u.isGuard then ⟨some u, v⟩ :: guardedUnits r else ⟨none, u⟩ :: guardedUnits (v :: r)

/-- The value of a GUARD for a thread (R323). -/
def guardOf (th : Thread) (i : Instr) : Option Bool :=
  match i with
  | .guard f => some (if f.n = 0 then th.get f.g != 0 else th.get f.g = 0)
  | _ => none

def Guarded.guard (g : Guarded) (th : Thread) : Option Bool := g.g.bind fun u => guardOf th u.instr

/-- The address of a packet slot. -/
def slotAddr (pc : CodeAddr) (slot : Nat) : CodeAddr := BitVec.ofNat 48 (pc.toNat / 3 * 3 + slot)

/-- The first word of a unit, its GUARD included. -/
def Guarded.first (g : Guarded) : Nat := match g.g with | some u => u.slot | none => g.u.slot

/-- The state in which a unit runs for a thread: its address, guard and operands in place. -/
def State.atUnit (s : State) (r : ThreadRef) (pc : CodeAddr) (g : Guarded) (v : Option Bool) (l : Option Latch) : State :=
  ({ s with issue := { s.issue with unit := slotAddr pc g.first, guard := v, latch := l, result := .none, taken := none } }).modThread r
    fun th => { th with pc := slotAddr pc g.u.slot }

/-- The state an outcome leaves. -/
def stateOf (s : State) (o : Host.Outcome State Fault Refusal) : State :=
  match o with
  | .next t => t
  | _ => s

/-- Puts the thread's address back to its chain's first word when it did not get through it. -/
def State.rewind (s : State) (r : ThreadRef) (pc : CodeAddr) : State :=
  if s.issue.result = .blocked then s.modThread r fun th => { th with pc := pc } else s

/-- The operands of every unit, read before anything of the chain is written (R326). -/
def chainLatches (sh : Share) (t : Nat) (th : Thread) (gs : List Guarded) : List (Guarded × Option Bool × Latch) :=
  gs.map fun g => (g, g.guard th, ⟨(shape g.u.instr).srcs.map fun x => readSrc sh t th x⟩)

/-- Performs the units in word order with the operands read, each under the status st the thread issued in; true when every one went
through, and else the unit that did not. (DEDUCED, log entry 31) -/
def performChain (r : ThreadRef) (pc : CodeAddr) (st : TStatus) : List (Guarded × Option Bool × Latch) → State → State × Option Guarded
  | [], s => (s, none)
  | (g, v, l) :: rest, s =>
    let s0 := (s.atUnit r pc g v (some l)).modThread r fun th => { th with status := st }
    let s1 := stateOf s0 (exec g.u.instr s0)
    if s1.issue.result = .done then performChain r pc st rest s1 else (s1, some g)

/-- EXIT and END, the units that may wait after the rest of their chain took effect (R397). -/
def endsThread (i : Instr) : Bool :=
  match i with
  | .exitOp | .endOp => true
  | _ => false

/-- The trap an issue noted. -/
def Issue.trap (x : Issue) : Option Trap := x.taken.map fun e => .sync e.1 e.2.1 e.2.2

/-- A thread's STREAMKEY set. -/
def State.withKey (s : State) (r : ThreadRef) (k : Dword) : State := s.modThread r fun th => { th with key := k }

/-- Every unit of a chain tried by itself in a state, but under the STREAMKEY that the units before it leave (R276, R386): the outcomes, each with
the thread's own key back. -/
def chainTrials (s : State) (r : ThreadRef) (th : Thread) : List Guarded → Dword → List (Guarded × State)
  | [], _ => []
  | g :: rest, k =>
    let s0 := (s.atUnit r th.pc g (g.guard th) none).withKey r k
    let s1 := stateOf s0 (exec g.u.instr s0)
    (g, s1.withKey r th.key) :: chainTrials s r th rest (match s1.thread? r with | some x => x.key | none => k)

/-- A chain of several units for one thread (R325, R326): it goes through whole, or nothing of it has an effect. (DEDUCED, log entry 31) -/
def State.runChain (s : State) (r : ThreadRef) (sh : Share) (th : Thread) (gs : List Guarded) : State :=
  let pc := th.pc
  let trials := chainTrials s r th gs th.key
  match firstTrap (trials.filterMap fun e => e.2.issue.trap) with
  | some t => match trials.find? fun e => e.2.issue.trap = some t with | some e => e.2 | none => s
  | none =>
    match trials.find? fun e => e.2.issue.result = .blocked with
    | some e => (e.2.rewind r pc).modThread r fun x => match x.status with | .wait (.exit _) => { x with status := .wait .retry } | _ => x
    | none =>
      let l := chainLatches sh r.t th gs
      let s1 := gs.foldl (fun a g => a.popAll r (shape g.u.instr).queues) s
      let s2 := gs.foldl (fun a g => poisonRegs a r th.inTrap (shape g.u.instr).srcs) s1
      let (s3, failed) := performChain r pc th.status l s2
      match failed with
      | none => s3
      | some g =>
        match s3.issue.trap with
        | some t => ({ s with issue := { s.issue with unit := s3.issue.unit } }).unitTrap r t
        | none =>
          if endsThread g.u.instr then s3
          else ((s.modThread r fun th => { th with status := .wait .retry }).ended .blocked)

/-- The chain a thread issues at a slot: one that begins there, or the EXIT or END it waits at after the rest of its chain. -/
def chainFor (slot : Nat) (waiting : Bool) (us : List UnitWord) : Option (List UnitWord) :=
  match chainAt slot true us with
  | some c => some c
  | none =>
    if waiting then (us.find? fun u => u.slot = slot && endsThread u.instr).map fun u => [u] else none

/-- Whether a thread waits at EXIT or END. -/
def Thread.exits (th : Thread) : Bool := match th.status with | .wait (.exit _) => true | _ => false

/-- Where a unit of a chain begins, its GUARD included (R234). -/
def unitStart (gs : List Guarded) (u : UnitWord) : Nat := match gs.find? fun g => g.u = u with | some g => g.first | none => u.slot

/-- What a thread issues at its address: the chain there, or the trap of R128, R327 or R328. (DEDUCED, log entry 31) -/
def State.runThread (s : State) (r : ThreadRef) : Host.Outcome State Fault Refusal :=
  match s.block? r.block with
  | none => .next s
  | some b =>
    match b.threads[r.t]?, b.shares[b.home r.t]?, s.ctx? b.ctx with
    | some th, some sh, some c =>
      let s0 : State := { s with issue := { s.issue with
        agent := some (.lane r), start := th.pc, unit := th.pc, chained := false, guard := none, latch := none, result := .none,
        taken := none } }
      match s0.fetchPacket b.die c th.pc.toNat with
      | .trap cause va => .next (s0.unitTrap r (.sync cause 0 va))
      | .dev f pa =>
        if f = .clear then .next (s0.ended .blocked)
        else .next ((s0.physTrap b.ctx f b.die (coreUnit (b.cacheOf r.t th)) pa).ended .done)
      | .words w0 w1 w2 s1 =>
        match chainFor (th.pc.toNat % 3) th.exits (packetUnits w0 w1 w2) with
        | none => .next (s1.unitTrap r (.sync 0x02 0 0))
        | some us =>
          let gs := guardedUnits us
          let s2 : State := { s1 with issue := { s1.issue with chained := 2 ≤ gs.length } }
          match laneChainTrap b.regCount th.inTrap us with
          | some (u, t) => .next (({ s2 with issue := { s2.issue with unit := slotAddr th.pc (unitStart gs u) } }).unitTrap r t)
          | none =>
            match gs with
            | [g] =>
              match exec g.u.instr (s2.atUnit r th.pc g (g.guard th) none) with
              | .next s3 => .next (s3.rewind r th.pc)
              | o => o
            | _ => .next (s2.runChain r sh th gs)
    | _, _, _ => .next s

/-- One thread of the group in hand: PAGE_FATAL of a dropped log entry first, when one stands (R139, R235, R240). -/
def State.issueThread (s : State) (r : ThreadRef) : Host.Outcome State Fault Refusal :=
  match s.thread? r with
  | none => .next s
  | some th =>
    match th.pfatal with
    | some va =>
      if th.inTrap then s.runThread r
      else .next ((s.modThread r fun th => { th with pfatal := none }).takeTrap r ⟨0x07, 0, va, true, false⟩ th.pc 0 false)
    | none => s.runThread r

/-- What a lead context issues: NOPs pass, then one lead unit (R324, R205). -/
def leadUnits (r : LeadRef) (pc : CodeAddr) : List UnitWord → State → Host.Outcome State Fault Refusal
  | [], s => .next s
  | u :: rest, s =>
    let s0 := ({ s with issue := { s.issue with unit := slotAddr pc u.slot, result := .none, taken := none } }).modLead r
      fun l => { l with pc := slotAddr pc u.slot }
    match exec u.instr s0 with
    | .next s1 =>
      if s1.issue.result = .done then (if rest.isEmpty then .next s1 else leadUnits r pc rest s1)
      else if s1.issue.result = .blocked then .next (s1.modLead r fun l => { l with pc := pc })
      else .next s1
    | o => o

/-- One issue of a lead context. -/
def State.runLead (s : State) (r : LeadRef) : Host.Outcome State Fault Refusal :=
  match s.block? r.block with
  | none => .next s
  | some b =>
    match b.shares[r.j]?, s.ctx? b.ctx with
    | some sh, some c =>
      let pc := sh.lead.pc
      let s0 : State := { s with issue := { Issue.none with agent := some (.lead r), start := pc, unit := pc } }
      match s0.fetchPacket b.die c pc.toNat with
      | .trap cause va => .next (s0.leadTrap r (.sync cause 0 va))
      | .dev f pa =>
        if f = .clear then .next (s0.ended .blocked)
        else .next ((s0.physTrap b.ctx f b.die (coreUnit (b.leadCache r.j)) pa).ended .done)
      | .words w0 w1 w2 s1 =>
        match chainAt (pc.toNat % 3) true (packetUnits w0 w1 w2) with
        | none => .next (s1.leadTrap r (.sync 0x02 0 0))
        | some us =>
          let s2 : State := { s1 with issue := { s1.issue with chained := 2 ≤ us.length } }
          match leadChainTrap us with
          | some (u, t) => .next (({ s2 with issue := { s2.issue with unit := slotAddr pc u.slot } }).leadTrap r t)
          | none => leadUnits r pc us s2
    | _, _ => .next s

/-- A lead context issues; a stream's fatal page comes first at its boundary, a synchronous cause that no handler may meet (R211, R235, R239). -/
def State.issueLead (s : State) (r : LeadRef) : Host.Outcome State Fault Refusal :=
  match s.lead? r with
  | none => .next s
  | some l =>
    match l.pfatal with
    | some va =>
      let s1 : State := { s with issue := { Issue.none with agent := some (.lead r), start := l.pc, unit := l.pc } }
      .next ((s1.modLead r fun l => { l with pfatal := none }).takeLeadTrap r ⟨0x07, 0, va, false, false⟩ l.pc (l.pc.toNat % 3) false)
    | none => s.runLead r

/-! Groups (R116, R191). -/

/-- Whether two threads may share a group. -/
def Thread.alike (a b : Thread) : Bool :=
  a.pc = b.pc && a.eff = b.eff && a.inTrap = b.inTrap && a.carrel.isNone && b.carrel.isNone && a.status = b.status

/-- The group of a thread that issues: the threads of its share alike to it, lowest first, at most the lanes (R116); an ejected thread
issues alone (R225). -/
def State.group (s : State) (b : Block) (t : Nat) (th : Thread) : List Nat :=
  if th.carrel.isSome then [t]
  else ((b.onCore (b.home t)).filter fun i =>
    match b.threads[i]? with
    | some x => s.mayIssue b i x && x.alike th
    | none => false).take b.lanes

/-- What follows when the last thread of a group has issued: the votes of a long branch are counted (R217), and a KILL takes effect (R241). -/
def groupEnd (o : Host.Outcome State Fault Refusal) : Host.Outcome State Fault Refusal :=
  match o with
  | .next s => if s.issue.rest = [] then .next s.resolveSplit.sampleGroup.settleKills else .next s
  | o => o

/-- Notes for the keys of the selection that an agent went through an instruction (R117 to R119, R224). -/
def State.noteIssue (s : State) : State :=
  match s.issue.agent.bind fun a => (s.block? a.block).map fun b => (a, b) with
  | some (.lane r, b) =>
    let s1 := s.modThread r fun th => { th with readyAt := none, issued := s.cycle b.die }
    if (s.thread? r).any fun th => th.carrel.isSome then s1
    else
      let core := b.coreNum (b.home r.t)
      { s1 with lastCtx := (s1.lastCtx.filter fun e => !(e.1 = b.die && e.2.1 = core)) ++ [(b.die, core, b.ctx)] }
  | some (.lead l, b) => s.modLead l fun x => { x with readyAt := none, issued := s.cycle b.die }
  | none => s

/-- The outcome of an issue, noted where the agent was not turned away. -/
def noteOutcome (o : Host.Outcome State Fault Refusal) : Host.Outcome State Fault Refusal :=
  match o with
  | .next s => if s.issue.result = .blocked then .next s else .next s.noteIssue
  | o => o

/-- Begins a group: the first thread runs, the others follow in later steps. -/
def State.issueGroup (s : State) (r : ThreadRef) : Host.Outcome State Fault Refusal :=
  match s.block? r.block with
  | none => .next s
  | some b =>
    match b.threads[r.t]? with
    | none => .next s
    | some th =>
      match s.group b r.t th with
      | [] => .next s
      | t :: rest =>
        let s1 : State := { s with issue := { Issue.none with
          agent := some (.lane ⟨r.block, t⟩), group := t :: rest, rest := rest, start := th.pc, mark := s.nextId } }
        groupEnd (noteOutcome (s1.issueThread ⟨r.block, t⟩))

/-- The next thread of the group in hand, unless what happened meanwhile took it from the group. -/
def State.issueNext (s : State) : Host.Outcome State Fault Refusal :=
  match s.issue.agent, s.issue.rest with
  | some (.lane r), t :: rest =>
    let s1 : State := { s with issue := { s.issue with rest := rest, agent := some (.lane ⟨r.block, t⟩) } }
    match s.block? r.block with
    | none => .next { s with issue := { s.issue with rest := [] } }
    | some b =>
      match b.threads[t]? with
      | none => groupEnd (.next s1)
      | some th => if b.issues && s.mayIssue b t th && th.pc = s.issue.start then groupEnd (noteOutcome (s1.issueThread ⟨r.block, t⟩))
        else groupEnd (.next s1)
  | _, _ => .next { s with issue := { s.issue with rest := [] } }

/-- An agent that was chosen issues. -/
def State.issueAgent (s : State) (a : Agent) : Host.Outcome State Fault Refusal :=
  match a with
  | .lane r => s.issueGroup r
  | .lead r => noteOutcome (s.issueLead r)

end Sys2Proof.Machine
end

