-- ==== Sys2Proof/Machine/Cands.lean ====
section
/-! DEFINITION. What may happen next (DESIGN CHOICE, log entry 1): the events that the machine brings about by itself, named with what they are about, and
the agents that may issue. An event that does not apply after all leaves the state as it is. -/

namespace Sys2Proof.Machine

/-- An event by number, for each number of a list. -/
def forNums (is : List Instr) (ns : List Nat) : List (Instr × Arg) := ns.flatMap fun n => is.map fun i => (i, .num n)

/-- Self-tests still running, with either outcome; the boot ROM. -/
def State.startEvents (s : State) : List (Instr × Arg) :=
  (if s.readyBit bitFw then [] else [(.firmwareVerify, .none)]) ++
  (if s.fw.nonces.isEmpty then [] else [(.attestationReport, .none)]) ++
  [Die.a, Die.b].flatMap fun d => (List.range 256).flatMap fun n =>
    let u := BitVec.ofNat 8 n
    if !hasTest u || s.pkg.passed.contains (unitKey d u) || s.pkg.failed.contains (unitKey d u) then []
    else [(.unitSelfTestDone, .unit d u true), (.unitSelfTestDone, .unit d u false)]

/-- The command taken or to be taken (R78). -/
def State.commandEvents (s : State) : List (Instr × Arg) :=
  match s.cmdBusy, s.cmdq with
  | none, [] => []
  | _, _ =>
    ([.ctxCreate, .ctxDestroy, .ctxDestroyDone, .ctxPartition, .ctxPartitionDone, .graphRegister, .graphRelease, .ctxLimits, .regionSet,
      .regionFree, .counterSetAssign, .counterSetRelease, .counterSetValue, .cmdUnassignedOp] : List Instr).map fun i => (i, .none)

/-- The two dies' own events: power leave, tile engines at a boundary or idle, pool entry, hot pages. -/
def dieEvents : List (Instr × Arg) :=
  (List.range 10).map (fun m => (Instr.hotPageInterval, Arg.num m)) ++
  [Die.a, Die.b].flatMap fun d =>
    [(.leaveGrant, .die d), (.poolEntry, .die d)] ++ (List.range 128).flatMap fun c =>
      [(.tileStepBoundary, .core d c), (.tileLeaveRelease, .core d c)]

/-- Contexts, replays and nodes. -/
def State.graphEvents (s : State) : List (Instr × Arg) :=
  forNums [.kickTake, .kickReread, .replayStart] (s.ctxs.map fun c => c.num) ++
  s.allNodes.flatMap fun e =>
    ([.nodeComplete, .hostNotify, .nodeAging, .nodeDispatch, .kernelPassedOver, .blockPlace] : List Instr).map fun i => (i, .node (refOf e.1 e.2))

/-- Engines: operations, batches, landings held. -/
def State.engineEvents (s : State) : List (Instr × Arg) :=
  forNums [.rangeRegistration, .copyComplete, .followOnEntry, .sttStageLoaded, .stashComplete, .samplerOpComplete, .catalogueOp, .tileStepStart,
    .tileSourceUnlock, .tileOpComplete, .collectiveComplete, .collectivePhaseTimeout, .peerLostTimeout, .uetRetransmit]
    (s.ops.map fun o => o.id) ++
  s.channels.map (fun c => (Instr.batchForm, Arg.channel c.die c.ch)) ++
  forNums [.heldLandingRelease] (List.range s.heldPkts.length)

/-- Memory: loads, stores, side entries and held faults. -/
def State.memEvents (s : State) : List (Instr × Arg) :=
  forNums [.loadReturn, .rrReadRelease, .rrReadTimeout] (s.loads.map fun l => l.seq) ++
  forNums [.storeVisible] ((s.stores.map fun x => x.seq) ++ s.sideLog.map fun e => e.seq) ++
  forNums [.faultRewalk] (List.range s.faults.length)

/-- The lane threads and lead contexts of a block. -/
def Block.agents (b : Block) : List Agent :=
  (List.range b.threads.length).map (fun t => Agent.lane ⟨b.id, t⟩) ++ (List.range b.shares.length).map fun j => Agent.lead ⟨b.id, j⟩

/-- Blocks: streams, records, bins, carrels, pre-emption and stops. -/
def Block.events (b : Block) : List (Instr × Arg) :=
  forNums [.saveComplete, .stopComplete] [b.id] ++
  ((List.range b.shares.length).flatMap fun j => (List.range 8).map fun q => (Instr.streamEntry, Arg.stream ⟨b.id, j⟩ q)) ++
  (b.recs.map fun r => (Instr.rejoinTimeout, Arg.record b.id r.id)) ++
  (b.bins.map fun x => (Instr.reformDraw, Arg.record b.id x.id)) ++
  ((List.range b.threads.length).flatMap fun t =>
    [(Instr.ejectHandover, Arg.thread ⟨b.id, t⟩), (Instr.carrelReturn, Arg.thread ⟨b.id, t⟩)]) ++
  b.agents.map fun a => (Instr.preemptEntry, Arg.agent a)

/-- Every event that the machine may bring about by itself. -/
def State.ownEvents (s : State) : List (Instr × Arg) :=
  s.startEvents ++ s.commandEvents ++ dieEvents ++ s.graphEvents ++ s.engineEvents ++ s.memEvents ++ s.blocks.flatMap Block.events

/-- Whether an agent may issue now (R116, R190, R240, R306). -/
def State.ready (s : State) (a : Agent) : Bool :=
  match a with
  | .lane r =>
    match s.block? r.block with
    | some b => (match b.threads[r.t]? with | some th => b.issues && s.mayIssue b r.t th | none => false)
    | none => false
  | .lead r =>
    match s.block? r.block with
    | some b => (match b.shares[r.j]? with | some sh => b.issues && s.leadMayIssue r sh.lead | none => false)
    | none => false

/-- Whether an agent that may issue or try again stands at no wait (R116, R190). -/
def State.unblocked (s : State) (a : Agent) : Bool :=
  s.ready a && match a with
    | .lane r => (s.thread? r).any fun th => th.status != .wait .retry
    | .lead r => (s.lead? r).any fun l => l.status != .wait

/-- Every agent of a block that issues is noted ready, from when on, or not ready; those of a stopped one keep what they have (R117, R119, R306). -/
def State.noteReady (s : State) : State :=
  let since (a : Agent) (d : Die) (old : Option Nat) : Option Nat := if s.unblocked a then (match old with | some c => some c | none => some (s.cycle d)) else none
  { s with blocks := s.blocks.map fun b =>
      if !b.issues then b
      else
        { b with
          threads := b.threads.zipIdx.map fun e => { e.1 with readyAt := since (.lane ⟨b.id, e.2⟩) b.die e.1.readyAt }
          shares := b.shares.zipIdx.map fun e =>
            { e.1 with lead := { e.1.lead with readyAt := since (.lead ⟨b.id, e.2⟩) b.die e.1.lead.readyAt } } } }

/-- What selects among agents: the lanes of a compute core, its lead unit, or a carrel core. -/
inductive Selector where
  | lanes (d : Die) (core : Nat)
  | leads (d : Die) (core : Nat)
  | carrel (d : Die) (core : Nat)
  deriving DecidableEq, Repr

/-- An agent that asks a selector, with its keys in order: of two agents the one whose first differing key is lower issues. -/
structure Asks where
  agent : Agent
  sel : Selector
  keys : List Nat
  deriving DecidableEq, Repr

/-- Whether a list of keys comes first. -/
def keysBefore : List Nat → List Nat → Bool
  | x :: r, y :: q => x < y || (x = y && keysBefore r q)
  | _, _ => false

/-- The key of an agent that has been ready since a cycle: from a number of cycles on, the oldest first; all others behind. -/
def starvedKey (now limit : Nat) (since : Option Nat) : Nat :=
  match since with
  | some c => if c + limit ≤ now then c else 2 ^ 64
  | none => 2 ^ 64

/-- The keys of the issue group of a thread on a compute core (R117), behind the alternation of two contexts (R118). -/
def State.groupKeys (s : State) (b : Block) (t : Nat) (th : Thread) : List Nat :=
  let g := s.group b t th
  let xs := g.filterMap fun i => b.threads[i]?
  let j := b.home t
  let last := s.lastCtx.any fun e => e.1 = b.die && e.2.1 = b.coreNum j && e.2.2 = b.ctx
  let starved := (xs.map fun x => starvedKey (s.cycle b.die) 4096 x.readyAt).foldl min (2 ^ 64)
  [b2n last, starved, 255 - b.cls, th.eff, th.pc.toNat, (xs.map fun x => x.issued).foldl max 0, match b.shares[j]? with | some x => x.slot | none => 0,
    b.wid (g.headD t)]

/-- What an agent that may issue asks, and of whom (R117, R119, R224). -/
def State.asks (s : State) (a : Agent) : Option Asks :=
  match s.block? a.block with
  | none => none
  | some b =>
    match a with
    | .lane r =>
      match b.threads[r.t]? with
      | none => none
      | some th =>
        match th.carrel with
        | some k => some ⟨a, .carrel b.die (k / 16), [th.issued]⟩
        | none => some ⟨a, .lanes b.die (b.coreNum (b.home r.t)), s.groupKeys b r.t th⟩
    | .lead l =>
      match b.shares[l.j]? with
      | none => none
      | some sh => some ⟨a, .leads b.die sh.core, [starvedKey (s.cycle b.die) 256 sh.lead.readyAt, 255 - b.cls, sh.lead.issued]⟩

/-- Whether the rest of an agent's readiness holds now, which the manual leaves to the pipes and operands of an implementation (R116; log entry 38): a free choice for each
agent. -/
def State.accepts (s : State) (a : Agent) : Bool :=
  match a with
  | .lane r => Config.coin s.tick (2 ^ 50 + r.block * 2 ^ 20 + r.t)
  | .lead l => Config.coin s.tick (2 ^ 50 + l.block * 2 ^ 20 + 2 ^ 16 + l.j)

/-- The agents that may issue: those whose selector prefers no other (R117 to R119, R224). -/
def State.issuers (s : State) : List Agent :=
  let xs := s.blocks.flatMap fun b => (b.agents.filter fun a => s.ready a && s.accepts a).filterMap s.asks
  (xs.filter fun x => !(xs.any fun y => y.sel = x.sel && keysBefore y.keys x.keys)).map fun x => x.agent

/-- What may happen next: the oldest input, an event of the machine's own, or an issue. -/
inductive Cand where
  | input
  | own (i : Instr) (a : Arg)
  | issue (a : Agent)
  deriving DecidableEq, Repr

def State.candidates (s : State) : List Cand :=
  (if s.inbox.isEmpty then [] else [.input]) ++ (s.ownEvents.map fun e => Cand.own e.1 e.2) ++ s.issuers.map Cand.issue

/-- Words that a slice issues come from a packet alone: an input is a row of the table without an encoding. -/
def isEvent (i : Instr) : Bool := (encode i).isEmpty

/-- What the management service does whether or not the dies' clocks run (R19, R24 to R27): the package reset, its own requests, and
accesses of the management window. (DEDUCED, log entry 17) -/
def isService (i : Instr) : Bool :=
  match i with
  | .packageReset | .attestationRequest | .attestationReport | .firmwareUpdate | .registerWrite | .govstatRead
  | .portstatRead | .wdiscardRead | .evtlostRead | .samplostRead => true
  | _ => false

end Sys2Proof.Machine
end

