-- ==== Sys2Proof/Machine/Step.lean ====
section
/-! DEFINITION. One step of the machine (DESIGN CHOICE, log entry 1): the next thread of the group that issues, else the agent whose turn is settled,
else one of the things that may happen, by free choice. With the dies' clocks stopped only the management service goes on (R19). -/

namespace Sys2Proof.Machine

/-- Time passes on both dies, by what the hardware chooses (DESIGN CHOICE, log entry 4). -/
def State.advance (s : State) : State :=
  { s with
    tick := s.tick + 1
    cycA := s.cycA + BitVec.ofNat 64 (Config.elapse 0 s.tick)
    cycB := s.cycB + BitVec.ofNat 64 (Config.elapse 1 s.tick) }

/-- An event happens. -/
def State.happen (s : State) (i : Instr) (a : Arg) : Host.Outcome State Fault Refusal := exec i { s with arg := a }

/-- The oldest input comes; one that is no event has no effect. -/
def State.takeInput (s : State) (may : Instr → Bool) : Host.Outcome State Fault Refusal :=
  match s.inbox with
  | (i, a) :: rest => if may i then { s with inbox := rest }.happen i a else .next { s with inbox := rest }
  | [] => .next s

/-- One thing that may happen. -/
def State.act (s : State) (c : Option Cand) : Host.Outcome State Fault Refusal :=
  match c with
  | some .input => s.takeInput isEvent
  | some (.own i a) => s.happen i a
  | some (.issue a) => s.issueAgent a
  | none => .next s

/-- Which of the candidates happens. -/
def State.chosen (s : State) : Option Cand := s.candidates[Config.choose 0 s.tick % (s.candidates.length + 1)]?

/-- A step while the clocks run. -/
def State.run (s : State) : Host.Outcome State Fault Refusal :=
  match s.issue.rest with
  | _ :: _ => s.advance.issueNext
  | [] =>
    match s.turn with
    | some a => ({ s.advance with turn := none }).issueAgent a
    | none => s.noteReady.advance.act s.noteReady.chosen

/-- A step while they stand still: inputs that the management service takes, the reports it owes, and then nothing. (DEDUCED, log entry 17) -/
def State.stand (s : State) : Host.Outcome State Fault Refusal :=
  let t : State := { s with tick := s.tick + 1 }
  match s.inbox, s.fw.nonces with
  | _ :: _, _ => t.takeInput isService
  | [], _ :: _ => t.happen .attestationReport .none
  | [], [] => .fault .clocksStopped

/-- One step. (DEDUCED, log entry 17, DESIGN CHOICE, log entry 38) -/
def step (s : State) : Host.Outcome State Fault Refusal := if s.clocksOn then s.run else s.stand

/-- The state with an instruction at the place from which the next step fetches (see NOTES.md). -/
def State.withFetchWord (s : State) (nbits w : Nat) : State :=
  let s2 := (s.homeWrite 0x10000 (List.replicate 0x24 0)).homeWrite 0x10000 (tableBytes nbits w)
  let isLead := 0x3C ≤ w / 2 ^ 25 % 64
  { s2 with
    inbox := []
    clocksOn := true
    issue := .none
    turn := some (if isLead then .lead ⟨s.nextId, 0⟩ else .lane ⟨s.nextId, 0⟩)
    ctxs := s.ctxs.filter (fun c => c.num ≠ 1023) ++ [fetchCtx]
    blocks := s.blocks ++ [fetchBlock s.nextId]
    nextId := s.nextId + 1 }

end Sys2Proof.Machine
end

