-- ==== Sys2Proof/Safety.lean ====
section
/-! DEFINITION. The terms in which claims speak: what a lane unit or lead unit in hand looks like, what it may change, what stays the
same, and the invariants of the machine. -/

namespace Sys2Proof.Machine

/-! Outcomes. -/

/-- A step or an instruction goes on. -/
def Goes (o : Host.Outcome State Fault Refusal) : Prop := ∃ t, o = .next t

/-! What stays the same. -/

/-- Every byte reads as before: through every cache, at its home, and in every local store. -/
def State.sameBytes (s t : State) : Prop :=
  (∀ a, t.mem.get a = s.mem.get a) ∧ (∀ c a, t.cacheRead c a = s.cacheRead c a) ∧ (∀ a n, t.homeRead a n = s.homeRead a n) ∧
  ∀ id j o n, t.locRead id j o n = s.locRead id j o n

/-- A block without its threads. -/
def Block.bare (b : Block) : Block := { b with threads := [] }

/-- A block without its shares. -/
def Block.lanesOnly (b : Block) : Block := { b with shares := [] }

/-- Of the blocks only one thread may differ. -/
def State.onlyThread (s t : State) (r : ThreadRef) : Prop :=
  (∀ q, q ≠ r → t.thread? q = s.thread? q) ∧ ∀ id, (t.block? id).map Block.bare = (s.block? id).map Block.bare

/-- Of the blocks only one lead context may differ. -/
def State.onlyLead (s t : State) (l : LeadRef) : Prop :=
  (∀ q, q ≠ l → t.lead? q = s.lead? q) ∧ (∀ q, t.thread? q = s.thread? q) ∧
  ∀ id j, (t.share? id j).map (fun x => (x.core, x.slot, x.loc, x.tile)) = (s.share? id j).map fun x => (x.core, x.slot, x.loc, x.tile)

/-! A lane unit in hand (R116, R323, R326, R328). -/

/-- The queues a unit pops now: a chain popped them at its start (R326). -/
def State.pops (s : State) (i : Instr) : List Nat := if s.issue.latch = none then (shape i).queues else []

/-- The sources a unit reads now; a chain read them at its start (R326). -/
def State.reads (s : State) (i : Instr) : List Src := if s.issue.latch = none then (shape i).srcs else []

/-- The operands of a unit in hand: what its chain read, else what its sources hold, with something to pop in every queue it names. -/
def LaneEnv.has (e : LaneEnv) (i : Instr) (s : State) : Prop :=
  match s.issue.latch with
  | some l => e.vals = l.vals ∧ l.vals.map List.length = (shape i).srcs.map Src.w
  | none =>
    e.vals = ((shape i).srcs.map fun x => readSrc e.sh e.r.t e.th x) ∧
    popsOf e.sh e.r.t e.th (shape i).queues = (none, false)

/-- Instruction i is the unit that a thread issues now, alone or in a chain: e names the thread, its block and share, its operands, and
the words at which it stands and goes on. Its guard does not stop it, decode finds nothing illegal, its queues have what it pops; a thread that has ended issues nothing. -/
structure LaneHand (i : Instr) (s : State) (e : LaneEnv) : Prop where
  agent : s.issue.agent = some (.lane e.r)
  block : s.block? e.r.block = some e.b
  thread : e.b.threads[e.r.t]? = some e.th
  core : e.j = e.b.home e.r.t
  share : e.b.shares[e.j]? = some e.sh
  vals : e.has i s
  dest : e.d = (shape i).d
  pc : e.pc = e.th.pc
  next : e.next = BitVec.ofNat 48 (e.th.pc.toNat + unitLen i)
  room : e.th.pc.toNat + unitLen i < 2 ^ 48
  legal : (shape i).illegal e.b.regCount e.th.inTrap = none
  guard : s.issue.guard ≠ some false
  live : e.th.status ≠ .ended

/-- The registers a unit marks as used for the last time (R199, R345). -/
def spentRegs (i : Instr) (s : State) : List (BitVec 7) :=
  ((s.reads i).filter fun x => x.kind = 0 && x.hint = 2).flatMap fun x => (List.range x.w).map fun k => BitVec.ofNat 7 (x.n + k)

/-- The destination registers of a unit. -/
def destRegs (i : Instr) : List (BitVec 7) := (List.range (shape i).dw).map fun k => BitVec.ofNat 7 ((shape i).d + k)

/-- The thread with the queue entries popped that a unit names (R210). -/
def LaneEnv.popped (e : LaneEnv) (i : Instr) (s : State) : Thread := (s.pops i).foldl Thread.pop e.th

/-- The state in which a unit has its effect: its queues popped, its last-use sources poisoned. -/
def LaneEnv.start (e : LaneEnv) (i : Instr) (s : State) : State :=
  poisonRegs (s.popAll e.r (s.pops i)) e.r e.th.inTrap (s.reads i)

/-- The loads that are outstanding after the registers of a list were written (R202). -/
def loadsWithout (th : Thread) (r : ThreadRef) (ns : List (BitVec 7)) (ls : List Load) : List Load :=
  ls.map fun l => ns.foldl (fun l n => l.without (.lane r) (th.lreg n)) l

/-- Registers of a thread but those of a list hold what they held, in both banks (R198). -/
def Thread.keeps (x y : Thread) (ns : List (BitVec 7)) : Prop :=
  (∀ n, n ∉ ns → y.get n = x.get n) ∧ (if x.inTrap then ∀ n, y.v! n = x.v! n ∨ n.toNat < 112 else y.k = x.k)

/-- The frame of a thread that a register form goes through: registers but its destination and its last-use sources, every special
register and count stay; the destination's dirty bits are set; it stands at the next word. -/
structure ThreadWrote (i : Instr) (s : State) (e : LaneEnv) (y : Thread) (ws : List Word) : Prop where
  result : ∀ k, k < ws.length → y.get (BitVec.ofNat 7 (e.d + k)) = ws.getD k 0
  count : ws.length = (shape i).dw
  regs : e.th.keeps y (spentRegs i s ++ destRegs i)
  dirty : ∀ n : BitVec 7, y.dirty.getLsbD n.toNat =
    (e.th.dirty.getLsbD n.toNat || (decide (n ∈ destRegs i) && !(e.th.inTrap && decide (112 ≤ n.toNat))))

/-- What a unit leaves that computes register values ws, goes on at an address, and does nothing else. -/
structure LaneWroteTo (i : Instr) (s t : State) (e : LaneEnv) (pc : CodeAddr) (ws : List Word) : Prop where
  thread : ∃ y, t.thread? e.r = some y ∧ ThreadWrote i s e y ws ∧
    y = { e.th with
          v := y.v, k := y.k, dirty := y.dirty, wrote := y.wrote, dqr := (e.popped i s).dqr, qr := (e.popped i s).qr,
          pc := pc, status := .ready, pass := false }
  others : s.onlyThread t e.r
  bytes : s.sameBytes t
  loads : t.loads = loadsWithout e.th e.r (spentRegs i s ++ destRegs i) s.loads
  issue : t.issue = { s.issue with result := .done }
  rest : t = { s with blocks := t.blocks, loads := t.loads, issue := t.issue }

/-- What a unit leaves that computes register values ws, goes on at the next word, and does nothing else. -/
abbrev LaneWrote (i : Instr) (s t : State) (e : LaneEnv) (ws : List Word) : Prop := LaneWroteTo i s t e e.next ws

/-- A context without its floating-point counters and thresholds. -/
def Ctx.bareFp (c : Ctx) : Ctx := { c with fpCount := Vector.replicate 36 0, fpThresh := Vector.replicate 36 0 }

/-- What a unit leaves that computes register values and may draw random words and raise floating-point events (R252, R260 to R262,
R275): beside its registers, the thread's draw counter and sticky bits, the counters and thresholds of its context, and the event stream. -/
structure LaneCounted (i : Instr) (s t : State) (e : LaneEnv) (ws : List Word) : Prop where
  thread : ∃ y, t.thread? e.r = some y ∧ ThreadWrote i s e y ws ∧ e.th.fpctr &&& y.fpctr = e.th.fpctr ∧
    y = { e.th with
          v := y.v, k := y.k, dirty := y.dirty, wrote := y.wrote, dqr := (e.popped i s).dqr, qr := (e.popped i s).qr, draw := y.draw,
          fpctr := y.fpctr, pc := e.next, status := .ready, pass := false }
  others : s.onlyThread t e.r
  bytes : s.sameBytes t
  loads : t.loads = loadsWithout e.th e.r (spentRegs i s ++ destRegs i) s.loads
  ctxs : t.ctxs.map Ctx.bareFp = s.ctxs.map Ctx.bareFp
  otherCtxs : ∀ n, n ≠ e.b.ctx → t.ctx? n = s.ctx? n
  issue : t.issue = { s.issue with result := .done }
  rest : t = { s with blocks := t.blocks, loads := t.loads, ctxs := t.ctxs, evt := t.evt, out := t.out, issue := t.issue }

/-- An instruction computes some register values whenever it is in hand, and does nothing else but draw and raise events. -/
def Counts (i : Instr) : Prop := ∀ s e, LaneHand i s e → ∃ t ws, exec i s = .next t ∧ LaneCounted i s t e ws

/-- An instruction computes register values from its operands, and does nothing else, whenever it is in hand. -/
def Computes (i : Instr) (g : LaneEnv → List Word) : Prop :=
  ∀ s e, LaneHand i s e → ∃ t, exec i s = .next t ∧ LaneWrote i s t e (g e)

/-- What a unit leaves that changes its own thread by a function and goes on at an address, and does nothing else. The function works on
the thread as the start of the unit leaves it. -/
structure LaneChanged (i : Instr) (s t : State) (e : LaneEnv) (pc : CodeAddr) (f : Thread → Thread) : Prop where
  thread : t.thread? e.r = ((e.start i s).thread? e.r).map fun y => (f y).done pc
  others : s.onlyThread t e.r
  bytes : s.sameBytes t
  loads : t.loads = (e.start i s).loads
  issue : t.issue = { s.issue with result := .done }
  rest : t = { s with blocks := t.blocks, loads := t.loads, issue := t.issue }

/-! A lead unit in hand (R205, R320, R328). -/

/-- Instruction i is the unit that a lead context issues now; one that has ended issues nothing. -/
structure LeadHand (i : Instr) (s : State) (e : LeadEnv) : Prop where
  agent : s.issue.agent = some (.lead e.r)
  block : s.block? e.r.block = some e.b
  share : e.b.shares[e.r.j]? = some e.sh
  lead : e.l = e.sh.lead
  pc : e.pc = e.l.pc
  next : e.next = BitVec.ofNat 48 (e.l.pc.toNat + 2)
  room : e.l.pc.toNat + 2 < 2 ^ 48
  form : (leadShape i).packet = false
  ok : (leadShape i).ok = true
  lim : (leadShape i).lim = true
  live : e.l.status ≠ .ended

/-- What a lead unit leaves that changes its own lead context by a function and goes on at an address, and does nothing else. -/
structure LeadChanged (s t : State) (e : LeadEnv) (pc : CodeAddr) (f : Lead → Lead) : Prop where
  lead : t.lead? e.r = some { f e.l with pc := pc, status := .ready, pass := false }
  others : s.onlyLead t e.r
  bytes : s.sameBytes t
  issue : t.issue = { s.issue with result := .done }
  rest : t = { s with blocks := t.blocks, issue := t.issue }

/-- A lead instruction changes its lead context by a function whenever it is in hand, goes on at the next word, and does nothing else. -/
def LeadComputes (i : Instr) (f : LeadEnv → Lead → Lead) : Prop :=
  ∀ s e, LeadHand i s e → ∃ t, exec i s = .next t ∧ LeadChanged s t e e.next (f e)

end Sys2Proof.Machine
end

