-- ==== Sys2Proof/Certificates/Slice0/Obligations.lean ====
section
/-! DEFINITION. The statements for the provers. A statement about a lane or lead instruction speaks of the unit in hand (LaneHand, LeadHand
of Sys2Proof.Safety): its guard does not stop it, decode finds nothing illegal, its queues have what it pops. -/

namespace Sys2Proof.Claim
end Sys2Proof.Claim

open Sys2Proof Sys2Proof.Machine Sys2Proof.Claim


/-! Integer, logic, move and address forms (spec 19 R349 to R356). -/

/-- The short integer forms of R349 but for its shifts and addresses: what each writes, and nothing else. -/
def Sys2Proof.Claim.ShortIntegerForms : Prop :=
  (∀ f : ShortR,
    Computes (.add f) (fun e => [BitVec.ofNat 32 ((e.x 0).toNat + (e.x 1).toNat)]) ∧
    Computes (.sub f) (fun e => [BitVec.ofInt 32 ((e.x 0).toNat - (e.x 1).toNat : Int)]) ∧
    Computes (.mul f) (fun e => [BitVec.ofNat 32 ((e.x 0).toNat * (e.x 1).toNat)]) ∧
    Computes (.and f) (fun e => [e.x 0 &&& e.x 1]) ∧
    Computes (.or f) (fun e => [e.x 0 ||| e.x 1]) ∧
    Computes (.xor f) (fun e => [e.x 0 ^^^ e.x 1]) ∧
    Computes (.mov f) (fun e => [e.x 0]) ∧
    Computes (.cmpeq f) (fun e => [if e.x 0 = e.x 1 then 1 else 0]) ∧
    Computes (.cmplt f) (fun e => [if (e.x 0).toInt < (e.x 1).toInt then 1 else 0])) ∧
  ∀ f : ShortI,
    Computes (.addi f) (fun e => [BitVec.ofInt 32 ((e.x 0).toInt + f.imm.toInt)]) ∧
    Computes (.andi f) (fun e => [e.x 0 &&& f.imm.signExtend 32]) ∧
    Computes (.ori f) (fun e => [e.x 0 ||| f.imm.signExtend 32]) ∧
    Computes (.xori f) (fun e => [e.x 0 ^^^ f.imm.signExtend 32]) ∧
    Computes (.movi f) (fun _ => [BitVec.ofInt 32 f.imm.toInt])

/-- T of R351: x read as UI32 or as SI32. -/
def Sys2Proof.Claim.reading (u : Bool) (x : Word) : Int := if u then (x.toNat : Int) else x.toInt

/-- The result of ADD, SUB and MAD for an exact value (R351): wrapped, or clamped to the ends of the type. -/
def Sys2Proof.Claim.saturated (mode : BitVec 7) (x : Int) : Word :=
  if mode = 2 then BitVec.ofInt 32 (Max.max (-2 ^ 31) (Min.min x (2 ^ 31 - 1)))
  else if mode = 3 then BitVec.ofInt 32 (Max.max 0 (Min.min x (2 ^ 32 - 1)))
  else BitVec.ofInt 32 x

/-- The arithmetic forms of R351: ADD, SUB and MAD wrap or saturate by SATM, MUL keeps the low word, MULHI the floor of the high one. -/
def Obligations.LongArithmetic : Prop :=
  ∀ f : X3,
    let t := reading (f.mode = 3)
    let h := reading (f.mode = 1)
    Computes (.addLong f) (fun e => [saturated f.mode (t (e.x 0) + t (e.x 1))]) ∧
    Computes (.subLong f) (fun e => [saturated f.mode (t (e.x 0) - t (e.x 1))]) ∧
    Computes (.mad f) (fun e => [saturated f.mode (t (e.x 0) * t (e.x 1) + t (e.x 2))]) ∧
    Computes (.mulLong f) (fun e => [BitVec.ofNat 32 ((e.x 0).toNat * (e.x 1).toNat)]) ∧
    Computes (.mulhi f) (fun e => [BitVec.ofInt 32 ((h (e.x 0) * h (e.x 1)).fdiv (2 ^ 32))])

/-- The shifts of R352 by n places. -/
def Sys2Proof.Claim.shiftedLeft (a : Word) (n : Nat) : Word := if n < 32 then BitVec.ofNat 32 (a.toNat * 2 ^ n) else 0
def Sys2Proof.Claim.shiftedRight (a : Word) (n : Nat) : Word := if n < 32 then BitVec.ofNat 32 (a.toNat / 2 ^ n) else 0
def Sys2Proof.Claim.shiftedArithmetic (a : Word) (n : Nat) : Word :=
  if n < 32 then BitVec.ofInt 32 (a.toInt.fdiv (2 ^ n)) else if a.getLsbD 31 then 0xFFFFFFFF else 0

/-- The logic, shift, order and counting forms of R352, the shifts by an immediate among them. -/
def Obligations.LogicShiftOrderCount : Prop :=
  (∀ f : X3,
    let inv : Word → Word := fun b => if f.mode = 1 then ~~~b else b
    let t := reading (f.mode = 1)
    Computes (.andLong f) (fun e => [e.x 0 &&& inv (e.x 1)]) ∧
    Computes (.orLong f) (fun e => [e.x 0 ||| inv (e.x 1)]) ∧
    Computes (.xorLong f) (fun e => [e.x 0 ^^^ inv (e.x 1)]) ∧
    Computes (.shl f) (fun e => [shiftedLeft (e.x 0) (e.x 1).toNat]) ∧
    Computes (.shr f) (fun e => [shiftedRight (e.x 0) (e.x 1).toNat]) ∧
    Computes (.sar f) (fun e => [shiftedArithmetic (e.x 0) (e.x 1).toNat]) ∧
    Computes (.min f) (fun e => [if t (e.x 0) < t (e.x 1) then e.x 0 else e.x 1]) ∧
    Computes (.max f) (fun e => [if t (e.x 0) < t (e.x 1) then e.x 1 else e.x 0]) ∧
    Computes (.popc f) (fun e => [BitVec.ofNat 32 ((List.range 32).filter fun k => (e.x 0).getLsbD k).length]) ∧
    Computes (.clz f) (fun e => [if e.x 0 = 0 then 32 else BitVec.ofNat 32 (31 - (e.x 0).toNat.log2)])) ∧
  ∀ f : ShortI,
    Computes (.shli f) (fun e => [shiftedLeft (e.x 0) f.imm.toNat]) ∧
    Computes (.shri f) (fun e => [shiftedRight (e.x 0) f.imm.toNat]) ∧
    Computes (.sari f) (fun e => [shiftedArithmetic (e.x 0) f.imm.toNat])

/-- The field that BFE extracts (R353), from the control word's position and length. -/
def Sys2Proof.Claim.extracted (signed : Bool) (a ctl : Word) : Word :=
  let pos := (ctl.extractLsb' 0 8).toNat
  let len := (ctl.extractLsb' 8 8).toNat
  if len = 0 ∨ 32 ≤ pos then 0
  else
    let n := Min.min len (32 - pos)
    let f := a.toNat / 2 ^ pos % 2 ^ n
    if signed ∧ 2 ^ (n - 1) ≤ f then BitVec.ofInt 32 (f - 2 ^ n : Int) else BitVec.ofNat 32 f

/-- The word that BFI leaves (R353), bit by bit. -/
def Sys2Proof.Claim.insertedBit (a b ctl : Word) (k : Nat) : Bool :=
  let pos := (ctl.extractLsb' 0 8).toNat
  let len := (ctl.extractLsb' 8 8).toNat
  if pos ≤ k ∧ k < pos + len then b.getLsbD (k - pos) else a.getLsbD k

/-- BFE and BFI move bit fields (R353). -/
def Sys2Proof.Claim.BitFields : Prop :=
  ∀ f : X3,
    Computes (.bfe f) (fun e => [extracted (f.mode = 1) (e.x 0) (e.x 1)]) ∧
    ∃ g : Word → Word → Word → Word,
      Computes (.bfi f) (fun e => [g (e.x 0) (e.x 1) (e.x 2)]) ∧
      ∀ a b ctl k, k < 32 → (g a b ctl).getLsbD k = insertedBit a b ctl k

/-- The conditions of R350. -/
def Sys2Proof.Claim.condition (c : Nat) (x y : Int) : Prop :=
  (c = 0 ∧ x = y) ∨ (c = 1 ∧ x ≠ y) ∨ (c = 2 ∧ x < y) ∨ (c = 3 ∧ x ≤ y) ∨ (c = 4 ∧ x > y) ∨ (c = 5 ∧ x ≥ y)

/-- CMP writes 1 when its condition holds and 0 otherwise; SEL selects by c and reads all three of its sources, whatever c holds (R354). -/
def Sys2Proof.Claim.CompareAndSelect : Prop :=
  ∀ f : X3,
    (∃ g : Word → Word → Word, Computes (.cmp f) (fun e => [g (e.x 0) (e.x 1)]) ∧
      ∀ a b, let t := reading (f.mode.getLsbD 3)
        (f.mode.toNat % 8 < 6 → f.mode.toNat < 16 → condition (f.mode.toNat % 8) (t a) (t b) → g a b = 1) ∧
        (f.mode.toNat % 8 < 6 → f.mode.toNat < 16 → ¬condition (f.mode.toNat % 8) (t a) (t b) → g a b = 0)) ∧
    Computes (.sel f) (fun e => [if e.x 2 ≠ 0 then e.x 0 else e.x 1]) ∧
    (shape (.sel f)).srcs.length = 3

/-- MOV, MOVP, MOVI and the immediate logic of R350 and R355. -/
def Sys2Proof.Claim.MovesAndImmediates : Prop :=
  (∀ f : X3,
    Computes (.movLong f) (fun e => [e.x 0]) ∧
    Computes (.movp f) (fun e => [e.w 0 0, e.w 0 1])) ∧
  ∀ f : XI,
    Computes (.moviLong f) (fun _ => [BitVec.ofInt 32 f.imm.toInt]) ∧
    Computes (.addiLong f) (fun e => [BitVec.ofInt 32 ((e.x 0).toInt + f.imm.toInt)]) ∧
    Computes (.andiLong f) (fun e => [e.x 0 &&& BitVec.ofInt 32 f.imm.toInt]) ∧
    Computes (.oriLong f) (fun e => [e.x 0 ||| BitVec.ofInt 32 f.imm.toInt]) ∧
    Computes (.xoriLong f) (fun e => [e.x 0 ^^^ BitVec.ofInt 32 f.imm.toInt])

/-- A 64-bit sum in a pair, low word first. -/
def Sys2Proof.Claim.pairOf (x : Int) : List Word := [BitVec.ofInt 32 x, BitVec.ofInt 32 (x / 2 ^ 32)]

/-- A pair of the unit at an odd register: decode finds it illegal with subcode 3 (R198, R356). -/
def Sys2Proof.Claim.OddPairIllegal (i : Instr) : Prop :=
  ∀ count trap, (shape i).ok = true → (∀ x ∈ (shape i).srcs, x.kind = 0 → x.hint ≠ 3) →
    ((shape i).d % 2 = 1 ∨ ∃ x ∈ (shape i).srcs, x.kind = 0 ∧ x.w = 2 ∧ x.n % 2 = 1) → (shape i).illegal count trap = some 3

/-- ADDA and ADDAI add to a 64-bit address in a pair, modulo 2^64 and without an address check; a pair at an odd register is illegal with
subcode 3 (R356). -/
def Sys2Proof.Claim.AddressArithmetic : Prop :=
  (∀ f : X3,
    Computes (.addaLong f) (fun e =>
      pairOf ((e.pair 0).toNat + reading (f.mode.getLsbD 0) (e.x 1) * 2 ^ (f.mode.toNat / 2))) ∧ OddPairIllegal (.addaLong f)) ∧
  (∀ f : ShortR, Computes (.adda f) (fun e => pairOf ((e.pair 0).toNat + (e.x 1).toInt)) ∧ OddPairIllegal (.adda f)) ∧
  (∀ f : ShortI, Computes (.addai f) (fun e => pairOf ((e.pair 0).toNat + f.imm.toInt)) ∧ OddPairIllegal (.addai f)) ∧
  ∀ f : XI, Computes (.addaiLong f) (fun e => pairOf ((e.pair 0).toNat + f.imm.toInt)) ∧ OddPairIllegal (.addaiLong f)


/-! Floating forms (spec 12 R247 to R262, 19 R346, R347, R357 to R370). A code of n bits and a sign bit is read by its magnitude. -/

/-- The place of a code of n bits and a sign bit in the order of its values; the two zeros have one place. -/
def Sys2Proof.Claim.place (n c : Nat) : Int := if c / 2 ^ n % 2 = 1 then -(c % 2 ^ n : Nat) else (c % 2 ^ n : Nat)

/-- The same with −0 below +0 (R359). -/
def Sys2Proof.Claim.placeSigned (n c : Nat) : Int := if c / 2 ^ n % 2 = 1 then -1 - (c % 2 ^ n : Nat) else (c % 2 ^ n : Nat)

/-- The magnitude code of infinity in F32 (n = 31) and F64 (n = 63); a greater one is a NaN (R248). -/
def Sys2Proof.Claim.infMag (n : Nat) : Nat := if n = 31 then 0x7F800000 else 0x7FF0000000000000

def Sys2Proof.Claim.isNan (n c : Nat) : Bool := infMag n < c % 2 ^ n

/-- The table of R360; un says that an operand is a NaN, x and y are the operands' places. -/
def Sys2Proof.Claim.relation (cond : Nat) (un : Bool) (x y : Int) : Bool :=
  if cond = 0 then !un && decide (x = y) else if cond = 1 then un || decide (x ≠ y) else if cond = 2 then !un && decide (x < y)
  else if cond = 3 then !un && decide (x ≤ y) else if cond = 4 then !un && decide (x > y) else if cond = 5 then !un && decide (x ≥ y)
  else if cond = 6 then un else !un

def Sys2Proof.Claim.compared (cond n a b : Nat) : Word :=
  if relation cond (isNan n a || isNan n b) (place n a) (place n b) then 1 else 0

/-- FCMP, its short form FCMPLT, and DCMP write 1 when the relation of their condition holds and 0 otherwise; no NaN raises an event or a
trap (R360). -/
def Sys2Proof.Claim.FloatCompare : Prop :=
  (∀ f : X3,
    Computes (.fcmp f) (fun e => [compared f.mode.toNat 31 (e.x 0).toNat (e.x 1).toNat]) ∧
    Computes (.dcmp f) (fun e => [compared f.mode.toNat 63 (e.pair 0).toNat (e.pair 1).toNat])) ∧
  ∀ f : ShortR, Computes (.fcmplt f) (fun e => [compared 2 31 (e.x 0).toNat (e.x 1).toNat])

/-- A NaN code with its quiet bit set (R249). -/
def Sys2Proof.Claim.quieted (n c : Nat) : Nat := c ||| (if n = 31 then 2 ^ 22 else 2 ^ 51)

/-- The lesser or greater operand of R359, a NaN first or passed over as NUM says. -/
def Sys2Proof.Claim.chosenOperand (n : Nat) (greater num : Bool) (a b : Nat) : Nat :=
  if num ∧ isNan n a ∧ ¬isNan n b then b
  else if num ∧ isNan n b ∧ ¬isNan n a then a
  else if isNan n a then quieted n a
  else if isNan n b then quieted n b
  else if (placeSigned n a < placeSigned n b) ↔ greater = true then b else a

/-- FMIN, FMAX, DMIN and DMAX order −0 below +0, give a NaN when an operand is one or pass it over under NUM, and raise no events (R359). -/
def Sys2Proof.Claim.FloatMinMax : Prop :=
  (∀ f : ShortR,
    Computes (.fmin f) (fun e => [BitVec.ofNat 32 (chosenOperand 31 false false (e.x 0).toNat (e.x 1).toNat)]) ∧
    Computes (.fmax f) (fun e => [BitVec.ofNat 32 (chosenOperand 31 true false (e.x 0).toNat (e.x 1).toNat)])) ∧
  ∀ f : X3,
    let num : Bool := f.mode = 1
    Computes (.fminLong f) (fun e => [BitVec.ofNat 32 (chosenOperand 31 false num (e.x 0).toNat (e.x 1).toNat)]) ∧
    Computes (.fmaxLong f) (fun e => [BitVec.ofNat 32 (chosenOperand 31 true num (e.x 0).toNat (e.x 1).toNat)]) ∧
    Computes (.dmin f) (fun e => pairOf (chosenOperand 63 false num (e.pair 0).toNat (e.pair 1).toNat)) ∧
    Computes (.dmax f) (fun e => pairOf (chosenOperand 63 true num (e.pair 0).toNat (e.pair 1).toNat))

/-- The class of R361 that a code belongs to. -/
def Sys2Proof.Claim.classOf (w : Nat) : Nat :=
  let m := w % 2 ^ 31
  let neg := w / 2 ^ 31 % 2 = 1
  if 0x7F800000 < m then (if m < 0x7FC00000 then 0 else 1)
  else if m = 0x7F800000 then (if neg then 2 else 9)
  else if 0x00800000 ≤ m then (if neg then 3 else 8)
  else if 0 < m then (if neg then 4 else 7)
  else if neg then 5 else 6

/-- FCLASS sets the one bit of its operand's class (R361); FABS clears bit 31 and FNEG inverts it, and no other bit changes (R363). -/
def Sys2Proof.Claim.FloatClassAndSign : Prop :=
  ∀ f : X3,
    Computes (.fclass f) (fun e => [BitVec.ofNat 32 (2 ^ classOf (e.x 0).toNat)]) ∧
    Computes (.fabs f) (fun e => [BitVec.ofNat 32 ((e.x 0).toNat % 2 ^ 31)]) ∧
    Computes (.fneg f) (fun e => [BitVec.ofNat 32 ((e.x 0).toNat + 2 ^ 31)])

/-- The integer beside m / d that a mode chooses for a magnitude of the given sign (R251, R362). -/
def Sys2Proof.Claim.neighbour (mode : Nat) (neg : Bool) (m d : Nat) : Nat :=
  let low := m / d
  let up := mode = 2 ∧ neg ∧ m % d ≠ 0 ∨ mode = 3 ∧ ¬neg ∧ m % d ≠ 0 ∨
    mode = 0 ∧ (d < 2 * (m % d) ∨ (2 * (m % d) = d ∧ low % 2 = 1))
  if up then low + 1 else low

/-- The F32 magnitude code of a whole number below 2^24. -/
def Sys2Proof.Claim.wholeCode (n : Nat) : Nat := if n = 0 then 0 else (n.log2 + 127) * 2 ^ 23 + (n - 2 ^ n.log2) * 2 ^ (23 - n.log2)

/-- The result of FROUND (R362). -/
def Sys2Proof.Claim.roundedWhole (mode w : Nat) : Nat :=
  let m := w % 2 ^ 31
  let sign := w / 2 ^ 31 * 2 ^ 31
  let ex := m / 2 ^ 23
  if 0x7F800000 < m then quieted 31 w
  else if 150 ≤ ex then w
  else
    let sig := if ex = 0 then m else m % 2 ^ 23 + 2 ^ 23
    sign + wholeCode (neighbour mode (0 < sign) sig (2 ^ (150 - Max.max ex 1)))

/-- FROUND writes the whole number that RND chooses, keeps infinities, zeros and the sign, quiets NaNs and raises no events; RND of 4 to 7
is illegal with subcode 2 (R362). -/
def Sys2Proof.Claim.FloatToWhole : Prop :=
  ∀ f : X3,
    (f.mode.toNat < 4 → Computes (.fround f) (fun e => [BitVec.ofNat 32 (roundedWhole f.mode.toNat (e.x 0).toNat)])) ∧
    (4 ≤ f.mode.toNat → ∀ count trap, (shape (.fround f)).illegal count trap = some 2)

/-- The upper half of draw k of a thread from where its counter stands (R275). -/
def Sys2Proof.Claim.drawn (e : LaneEnv) (k : Nat) : Nat := (draw64 e.th.key (e.th.draw + BitVec.ofNat 64 k) >>> 32).toNat

/-- Results rounded in order from exact values, with one draw each under SR (R347): each is given by its operands and its exact value. -/
def Sys2Proof.Claim.results (t : FTy) (q : RndSat) (e : LaneEnv) : Nat → List (List Val × Val) → List FpRes
  | _, [] => []
  | k, (ops, v) :: r =>
    roundTo t q.mode q.sat (if q.mode = .sr then drawn e k else 0) (ops.any Val.isNan) (ops.any Val.isInf) v :: results t q e (k + 1) r

/-- A form rounds exact values once each and writes their codes; it draws once for each under SR, and sets the sticky bits of the events
(R347, R262). -/
def Sys2Proof.Claim.Rounds (i : Instr) (t : FTy) (q : RndSat) (vs : LaneEnv → List (List Val × Val)) (words : List Nat → List Word) : Prop :=
  ∀ s e, LaneHand i s e → ∃ u y,
    let rs := results t q e 0 (vs e)
    exec i s = .next u ∧ LaneCounted i s u e (words (rs.map FpRes.code)) ∧ u.thread? e.r = some y ∧
    y.draw = e.th.draw + BitVec.ofNat 64 (if q.mode = .sr then rs.length else 0) ∧
    ∀ k < 4, y.fpctr.getLsbD k = (e.th.fpctr.getLsbD k || rs.any fun r => [r.ev.nan, r.ev.inf, r.ev.ovf, r.ev.unf].getD k false)

/-- The F32 and F64 operands of a unit. -/
def Sys2Proof.Claim.f32s (e : LaneEnv) (n : Nat) : List Val := (List.range n).map fun k => FTy.f32.value (e.x k).toNat
def Sys2Proof.Claim.f64s (e : LaneEnv) (n : Nat) : List Val := (List.range n).map fun k => FTy.f64.value (e.pair k).toNat

/-- a + b, a − b, a × b and a × b + c of R358 on a list of operands; rd says that the mode is RD, where an exact zero sum is −0 (R251). -/
def Sys2Proof.Claim.sum (rd : Bool) (l : List Val) : List Val × Val := (l, Val.add rd (l.getD 0 .defaultNan) (l.getD 1 .defaultNan))
def Sys2Proof.Claim.diff (rd : Bool) (l : List Val) : List Val × Val := (l, Val.add rd (l.getD 0 .defaultNan) (l.getD 1 .defaultNan).neg)
def Sys2Proof.Claim.prod (l : List Val) : List Val × Val := (l, Val.mul (l.getD 0 .defaultNan) (l.getD 1 .defaultNan))
def Sys2Proof.Claim.fused (rd : Bool) (l : List Val) : List Val × Val :=
  (l, Val.fma rd (l.getD 0 .defaultNan) (l.getD 1 .defaultNan) (l.getD 2 .defaultNan))

/-- One word, and one 64-bit code as a pair. -/
def Sys2Proof.Claim.oneWord (cs : List Nat) : List Word := [BitVec.ofNat 32 (cs.getD 0 0)]
def Sys2Proof.Claim.onePair (cs : List Nat) : List Word := pairOf (cs.getD 0 0)

/-- The F32 forms round the exact sum, difference, product or fused product once (R358); the short forms under RN without saturation. -/
def Sys2Proof.Claim.SingleArithmetic : Prop :=
  (∀ f : ShortR,
    Rounds (.fadd f) .f32 ⟨.rn, false⟩ (fun e => [sum false (f32s e 2)]) oneWord ∧
    Rounds (.fsub f) .f32 ⟨.rn, false⟩ (fun e => [diff false (f32s e 2)]) oneWord ∧
    Rounds (.fmul f) .f32 ⟨.rn, false⟩ (fun e => [prod (f32s e 2)]) oneWord) ∧
  ∀ f : X3,
    let q := RndSat.of f.mode.toNat
    let rd : Bool := q.mode = .rd
    Rounds (.faddLong f) .f32 q (fun e => [sum rd (f32s e 2)]) oneWord ∧
    Rounds (.fsubLong f) .f32 q (fun e => [diff rd (f32s e 2)]) oneWord ∧
    Rounds (.fmulLong f) .f32 q (fun e => [prod (f32s e 2)]) oneWord ∧
    Rounds (.fma f) .f32 q (fun e => [fused rd (f32s e 3)]) oneWord

/-- The F64 forms likewise, on pairs (R358, R364). -/
def Sys2Proof.Claim.DoubleArithmetic : Prop :=
  ∀ f : X3,
    let q := RndSat.of f.mode.toNat
    let rd : Bool := q.mode = .rd
    Rounds (.dadd f) .f64 q (fun e => [sum rd (f64s e 2)]) onePair ∧
    Rounds (.dsub f) .f64 q (fun e => [diff rd (f64s e 2)]) onePair ∧
    Rounds (.dmul f) .f64 q (fun e => [prod (f64s e 2)]) onePair ∧
    Rounds (.dfma f) .f64 q (fun e => [fused rd (f64s e 3)]) onePair

/-- The element operands j of a packed form (R365). -/
def Sys2Proof.Claim.elements (t : FTy) (e : LaneEnv) (n j : Nat) : List Val :=
  (List.range n).map fun k => t.value ((e.x k).toNat / 2 ^ (16 * j) % 2 ^ 16)

/-- Two 16-bit elements in one word, element 0 low. -/
def Sys2Proof.Claim.packed (cs : List Nat) : List Word := [BitVec.ofNat 32 (cs.getD 0 0 + 65536 * cs.getD 1 0)]

/-- The packed forms work on each of the two elements, element 0 first, in BF16 or F16 as MODE bit 4 selects (R365). -/
def Sys2Proof.Claim.PackedArithmetic : Prop :=
  ∀ f : X3,
    let t : FTy := if f.mode.getLsbD 4 then .f16 else .bf16
    let q := RndSat.of f.mode.toNat
    let rd : Bool := q.mode = .rd
    Rounds (.hadd2 f) t q (fun e => [0, 1].map fun j => sum rd (elements t e 2 j)) packed ∧
    Rounds (.hmul2 f) t q (fun e => [0, 1].map fun j => prod (elements t e 2 j)) packed ∧
    Rounds (.hfma2 f) t q (fun e => [0, 1].map fun j => fused rd (elements t e 3 j)) packed ∧
    Computes (.hmin2 f) (fun e => packed ([0, 1].map fun j =>
      minMaxCode t false (f.mode.getLsbD 0) ((e.x 0).toNat / 2 ^ (16 * j) % 2 ^ 16) ((e.x 1).toNat / 2 ^ (16 * j) % 2 ^ 16))) ∧
    Computes (.hmax2 f) (fun e => packed ([0, 1].map fun j =>
      minMaxCode t true (f.mode.getLsbD 0) ((e.x 0).toNat / 2 ^ (16 * j) % 2 ^ 16) ((e.x 1).toNat / 2 ^ (16 * j) % 2 ^ 16)))

/-- The special functions round the exact value of the function under RN, once and without a draw (R370, R256). -/
def Sys2Proof.Claim.SpecialFunctions : Prop :=
  ∀ f : X3, ∀ g ∈ [(Instr.rcp f, SFn.rcp), (.rsq f, .rsq), (.sqrt f, .sqrt), (.log2 f, .log2), (.exp2 f, .exp2), (.sin f, .sin),
      (.cos f, .cos), (.tanh f, .tanh)],
    Rounds g.1 .f32 ⟨.rn, false⟩ (fun e => [(f32s e 1, g.2.eval (FTy.f32.value (e.x 0).toNat))]) oneWord

/-- A code that stands for a number or an infinity rounds to itself in its own format, under every mode, whatever is drawn, and raises no
event but those of an infinity made (R251, R252). -/
def Sys2Proof.Claim.RoundingKeepsCodes : Prop :=
  ∀ (t : FTy) (mode : RMode) (d c : Nat), d < 2 ^ 32 → c < 2 ^ t.width → (t.value c).isNan = false →
    (roundTo t mode false d false true (t.value c)).code = c ∧
    (roundTo t mode false d false true (t.value c)).ev = FpEvents.none


/-! Distribution values (spec 13 R263 to R272, 20 R372 to R384). -/

/-- A form writes a mean and a variance; the mean is the exact one rounded once, with one draw under SR (R272, R376). -/
def Sys2Proof.Claim.MeanRounds (i : Instr) (q : RndSat) (mean : LaneEnv → Val) : Prop :=
  ∀ s e, LaneHand i s e → ∃ u y v,
    exec i s = .next u ∧
    LaneCounted i s u e [BitVec.ofNat 32 (roundTo .f32 q.mode q.sat (if q.mode = .sr then drawn e 0 else 0) false false (mean e)).code, v] ∧
    u.thread? e.r = some y ∧ y.draw = e.th.draw + (if q.mode = .sr then 1 else 0)

/-- The mean that source k brings: the first word of a pair, or a plain F32. -/
def Sys2Proof.Claim.mean (e : LaneEnv) (k : Nat) : Val := FTy.f32.value (e.w k 0).toNat

/-- The MV forms round the exact sum, difference, product, fused product or quotient of the means, or a special function of the mean, once
(R376, R377). -/
def Sys2Proof.Claim.DistributionMeans : Prop :=
  ∀ f : X3,
    let q : RndSat := ⟨(RMode.ofField (f.mode.toNat / 4 % 8)).getD .rn, false⟩
    let rd : Bool := q.mode = .rd
    MeanRounds (.mvadd f) q (fun e => Val.add rd (mean e 0) (mean e 1)) ∧
    MeanRounds (.mvsub f) q (fun e => Val.add rd (mean e 0) (mean e 1).neg) ∧
    MeanRounds (.mvmul f) q (fun e => Val.mul (mean e 0) (mean e 1)) ∧
    MeanRounds (.mvfma f) q (fun e => Val.fma rd (mean e 0) (mean e 1) (mean e 2)) ∧
    MeanRounds (.mvdiv f) q (fun e => Val.div (mean e 0) (mean e 1)) ∧
    MeanRounds (.mvsf f) ⟨.rn, false⟩ (fun e => (SFn.ofField (f.mode.toNat / 4 % 8)).eval (mean e 0)) ∧
    MeanRounds (.svstat f) ⟨.rn, false⟩ (fun e => (svStat (e.sv 0 (f.mode.getLsbD 0) false)).1)

/-- A variance as it is read (R265): without its sign, every NaN the one code. -/
def Sys2Proof.Claim.variance (w : Word) : Word := if isNan 31 w.toNat then 0x7FC00000 else BitVec.ofNat 32 (w.toNat % 2 ^ 31)

/-- MVNEG and MVABS change the mean's sign alone and keep the variance; MVSET builds an MV32 value, MVVAR reads its variance; none raises an
event (R374, R376, R379). -/
def Sys2Proof.Claim.DistributionParts : Prop :=
  ∀ f : X3,
    let kept : Word → Word → Word := fun m v => if isNan 31 m.toNat then 0x7FC00000 else variance v
    (f.mode.getLsbD 1 = false →
      Computes (.mvneg f) (fun e => [BitVec.ofNat 32 ((e.w 0 0).toNat + 2 ^ 31), kept (e.w 0 0) (e.w 0 1)]) ∧
      Computes (.mvabs f) (fun e => [BitVec.ofNat 32 ((e.w 0 0).toNat % 2 ^ 31), kept (e.w 0 0) (e.w 0 1)])) ∧
    (∃ g h : Word → Word → List Word, Computes (.mvneg f) (fun e => g (e.w 0 0) (e.w 0 1)) ∧
      Computes (.mvabs f) (fun e => h (e.w 0 0) (e.w 0 1))) ∧
    Computes (.mvset f) (fun e => [e.x 0, kept (e.x 0) (e.x 1)]) ∧
    (∃ g : Word → Word, Computes (.mvvar f) (fun e => [g (e.w 0 1)]) ∧
      (f.mode = 0 → ∀ v, g v = variance v) ∧
      (f.mode = 1 → ∀ v, (variance v = 0 ∨ 0x7F800000 ≤ (variance v).toNat) → g v = variance v))

/-- The variance of a sum or difference of means is the sum of the variances, rounded up once, when the operands' variances and the mean
are finite, propagation is independent and nothing is accumulated (R266). -/
def Sys2Proof.Claim.VariancesAdd : Prop :=
  ∀ (f : X3) (i : Instr), i = .mvadd f ∨ i = .mvsub f → f.mode.getLsbD 0 = false → f.mode.getLsbD 1 = false → f.mode.getLsbD 5 = false →
    ∀ s e, LaneHand i s e →
      (variance (e.w 0 1)).toNat < 0x7F800000 → (variance (e.w 1 1)).toNat < 0x7F800000 →
      ∃ u y v, exec i s = .next u ∧ LaneCounted i s u e [y, v] ∧
        (isNan 31 y.toNat = true → v = 0x7FC00000) ∧
        (isNan 31 y.toNat = false → v = BitVec.ofNat 32 (roundTo .f32 .ru false 0 false false
          (Val.add false (FTy.f32.value (variance (e.w 0 1)).toNat) (FTy.f32.value (variance (e.w 1 1)).toNat))).code)

/-- Sample words: four F32 words, or eight BF16 elements two to a word, the lower first (R263). -/
def Sys2Proof.Claim.sampleWords (h : Bool) (cs : List Nat) : List Word :=
  if h then (List.range 4).map fun i => BitVec.ofNat 32 (cs.getD (2 * i) 0 + 65536 * cs.getD (2 * i + 1) 0)
  else cs.map fun c => BitVec.ofNat 32 c

/-- Sample j of source k, or the plain F32 that stands for every sample (R270). -/
def Sys2Proof.Claim.sample (e : LaneEnv) (h plain : Bool) (k j : Nat) : Val :=
  if plain then FTy.f32.value (e.w k 0).toNat
  else if h then FTy.bf16.value ((e.w k (j / 2)).toNat / 2 ^ (16 * (j % 2)) % 2 ^ 16) else FTy.f32.value (e.w k j).toNat

/-- The SV forms work sample by sample in ascending order, each sample rounded once to F32 or BF16 (R270, R380, R381, R383). -/
def Sys2Proof.Claim.SampleWiseForms : Prop :=
  ∀ f : X3,
    let h := f.mode.getLsbD 0
    let t : FTy := if h then .bf16 else .f32
    let q : RndSat := ⟨(RMode.ofField (f.mode.toNat / 2 % 8)).getD .rn, false⟩
    let rd : Bool := q.mode = .rd
    let js := List.range (if h then 8 else 4)
    let ab : LaneEnv → Nat → List Val := fun e j => [sample e h false 0 j, sample e h (f.mode.getLsbD 4) 1 j]
    Rounds (.svadd f) t q (fun e => js.map fun j => sum rd (ab e j)) (sampleWords h) ∧
    Rounds (.svsub f) t q (fun e => js.map fun j => diff rd (ab e j)) (sampleWords h) ∧
    Rounds (.svmul f) t q (fun e => js.map fun j => prod (ab e j)) (sampleWords h) ∧
    Rounds (.svfma f) t q (fun e => js.map fun j => fused rd (ab e j ++ [sample e h (f.mode.getLsbD 5) 2 j])) (sampleWords h) ∧
    Rounds (.svsf f) t ⟨.rn, false⟩
      (fun e => js.map fun j => ([sample e h false 0 j], (SFn.ofField (f.mode.toNat / 2 % 8)).eval (sample e h false 0 j))) (sampleWords h) ∧
    (f.mode.getLsbD 1 = false →
      Rounds (.svset f) t ⟨(RMode.ofField (f.mode.toNat / 4 % 8)).getD .rn, false⟩
        (fun e => js.map fun _ => ([mean e 0], mean e 0)) (sampleWords h))

/-- SVSORT writes a rearrangement of its four samples in ascending order, −0 below +0, and NaNs last in their original order (R384). -/
def Obligations.SamplesSorted : Prop :=
  ∀ f : X3, ∃ g : List Word → List Word,
    Computes (.svsort f) (fun e => g (e.vals.getD 0 [])) ∧
    ∀ l, (g l).Perm l ∧
      (g l).Pairwise (fun x y => isNan 31 x.toNat = false → isNan 31 y.toNat = false → placeSigned 31 x.toNat ≤ placeSigned 31 y.toNat) ∧
      (g l).Pairwise (fun x y => isNan 31 x.toNat = true → isNan 31 y.toNat = true) ∧
      (g l).filter (fun x => isNan 31 x.toNat) = l.filter fun x => isNan 31 x.toNat

/-- MVCVT, and SVSET when it generates samples, run to their end: a code or samples are written, draws and events as the form counts them
(R378, R383). -/
def Sys2Proof.Claim.ConversionsRun : Prop := ∀ f : X3, Counts (.mvcvt f) ∧ Counts (.svset f) ∧ Counts (.cvt f)

/-! Conversions (spec 19 R366 to R369). -/

/-- The source of CVT as a number: one word, or both words of a pair. -/
def Sys2Proof.Claim.cvtSource (e : LaneEnv) (wide : Bool) : Nat :=
  (e.w 0 0).toNat + (if wide then 2 ^ 32 * (e.w 0 1).toNat else 0)

/-- An integer of a type from the low bits of a number. -/
def Sys2Proof.Claim.integerOf (signed : Bool) (w x : Nat) : Int :=
  if signed ∧ 2 ^ (w - 1) ≤ x % 2 ^ w then (x % 2 ^ w : Nat) - 2 ^ w else (x % 2 ^ w : Nat)

/-- The least and greatest integer of a type. -/
def Sys2Proof.Claim.least (signed : Bool) (w : Nat) : Int := if signed then -2 ^ (w - 1) else 0
def Sys2Proof.Claim.most (signed : Bool) (w : Nat) : Int := if signed then 2 ^ (w - 1) - 1 else 2 ^ w - 1

/-- How an integer of a type stands in the destination: a pair of words for 64 bits, else one word that extends it (R368). -/
def Sys2Proof.Claim.wholeWords (w : Nat) (n : Int) : List Word := if w = 64 then pairOf n else [BitVec.ofInt 32 n]

/-- The integer of a type that a floating value becomes (R369): 0 for a NaN, an end of the range for an infinity, else the whole number that RND chooses, held to the
range. -/
def Sys2Proof.Claim.wholeIn (mode : RMode) (d : Nat) (signed : Bool) (w : Nat) (v : Val) (n : Int) : Prop :=
  (v.isNan = true → n = 0) ∧ (∀ neg, v = .inf neg → n = if neg then least signed w else most signed w) ∧
  ∀ x, v = .num x → n = Max.max (least signed w) (Min.min (x.toInt mode d) (most signed w))

/-- The whole number of a finite value (R251): m / 2^k and m · 2^k become the integer beside them that the mode chooses, with their sign. -/
def Sys2Proof.Claim.WholesChosen : Prop :=
  ∀ (x : Exact) (mode : RMode) (k d : Nat), RMode.ofField k = some mode → k < 4 → x.more = false →
    (x.toInt mode d).natAbs = neighbour k x.s (x.m * 2 ^ x.x.toNat) (2 ^ (-x.x).toNat) ∧ (x.s = false → 0 ≤ x.toInt mode d) ∧ (x.s = true → x.toInt mode d ≤ 0)

/-- CVT between integer types is exact where the destination holds the value, and wraps or clamps by SAT where it does not; between a
floating type and any other it rounds the exact value once; a NaN gives the integer 0 (R368, R369). -/
def Sys2Proof.Claim.ConversionsRound : Prop :=
  ∀ f : X3,
    let q := RndSat.of f.e.toNat
    (∀ sg w sg' w', CvtTy.of f.mode.toNat = .int sg w → CvtTy.of f.b.toNat = .int sg' w' →
      Computes (.cvt f) (fun e =>
        let x := integerOf sg w (cvtSource e (w = 64))
        wholeWords w' (if q.sat then Max.max (least sg' w') (Min.min x (most sg' w')) else integerOf sg' w' (x % 2 ^ w').toNat))) ∧
    (∀ t t', CvtTy.of f.mode.toNat = .float t → CvtTy.of f.b.toNat = .float t' →
      Rounds (.cvt f) t' q (fun e => [([t.value (cvtSource e (t = .f64) % 2 ^ t.width)], t.value (cvtSource e (t = .f64) % 2 ^ t.width))])
        (fun cs => if t' = .f64 then pairOf (cs.getD 0 0) else [BitVec.ofNat 32 (cs.getD 0 0)])) ∧
    (∀ sg w t', CvtTy.of f.mode.toNat = .int sg w → CvtTy.of f.b.toNat = .float t' →
      Rounds (.cvt f) t' q (fun e => [([], .num (.ofInt (integerOf sg w (cvtSource e (w = 64)))))])
        (fun cs => if t' = .f64 then pairOf (cs.getD 0 0) else [BitVec.ofNat 32 (cs.getD 0 0)])) ∧
    (∀ t sg' w', CvtTy.of f.mode.toNat = .float t → CvtTy.of f.b.toNat = .int sg' w' → ∀ s e, LaneHand (.cvt f) s e → ∃ u y n,
      exec (.cvt f) s = .next u ∧ LaneCounted (.cvt f) s u e (wholeWords w' n) ∧ u.thread? e.r = some y ∧
      y.draw = e.th.draw + (if q.mode = .sr then 1 else 0) ∧ y.fpctr = e.th.fpctr ∧
      wholeIn q.mode (if q.mode = .sr then drawn e 0 else 0) sg' w' (t.value (cvtSource e (t = .f64) % 2 ^ t.width)) n)

/-- MVCVT without a scale writes the mean's code, rounded once with one draw under SR, in the low bits of its even register; a scale that is zero, negative,
infinite or a NaN gives the code of a NaN and a variance NaN (R378). -/
def Sys2Proof.Claim.MeansConverted : Prop :=
  ∀ (f : X3) (s : State) (e : LaneEnv), LaneHand (.mvcvt f) s e →
    let q := RndSat.of f.e.toNat
    let ty := CvtTy.of (f.mode.toNat % 32)
    let scaled := f.mode.getLsbD 5
    let d := if q.mode = .sr then drawn e 0 else 0
    let scale := (e.x 1).toNat
    let useless := isNan 31 scale = true ∨ 2 ^ 31 ≤ scale ∨ scale = 0 ∨ scale = 0x7F800000
    ∃ u y c v, exec (.mvcvt f) s = .next u ∧ LaneCounted (.mvcvt f) s u e [BitVec.ofNat 32 c, v] ∧ u.thread? e.r = some y ∧
      y.draw = e.th.draw + (if q.mode = .sr then 1 else 0) ∧
      (scaled = true → useless → v = 0x7FC00000 ∧ (∀ t, ty = .float t → c = (roundTo t q.mode q.sat 0 false false .defaultNan).code) ∧
        ∀ sg w, ty = .int sg w → c = 0) ∧
      (scaled = false → (∀ t, ty = .float t → c = (roundTo t q.mode q.sat d false false (mean e 0)).code) ∧
        ∀ sg w, ty = .int sg w → ∃ n, wholeIn q.mode d sg w (mean e 0) n ∧ c = (n % 2 ^ w).toNat)


/-! Draw streams (spec 14 R275 to R284, 20 R385 to R387). -/

/-- A form takes n draws and writes words made of them. -/
def Sys2Proof.Claim.Draws (i : Instr) (n : Nat) (g : LaneEnv → List Word) : Prop :=
  ∀ s e, LaneHand i s e → ∃ u y, exec i s = .next u ∧ LaneCounted i s u e (g e) ∧ u.thread? e.r = some y ∧
    y.draw = e.th.draw + BitVec.ofNat 64 n ∧ y.fpctr = e.th.fpctr

/-- Draw64 of R275, on numbers. -/
def Sys2Proof.Claim.draw64Nat (key c : Nat) : Nat :=
  let x := key ^^^ (c * 0x9E3779B97F4A7C15 % 2 ^ 64)
  let x := (x ^^^ (x / 2 ^ 30)) * 0xBF58476D1CE4E5B9 % 2 ^ 64
  let x := (x ^^^ (x / 2 ^ 27)) * 0x94D049BB133111EB % 2 ^ 64
  x ^^^ (x / 2 ^ 31)

/-- The thread draws: RND writes bits 63:32 of one draw, RNDF (d >> 8) × 2^−24, RNDMASK one bit a draw, bit 0 first, and RNDGAUSS the pair
of two draws; each draw moves the counter on by one step (R275, R279, R280, R385). -/
def Sys2Proof.Claim.ThreadDraws : Prop :=
  (∀ key c : Dword, (draw64 key c).toNat = draw64Nat key.toNat c.toNat) ∧
  ∀ f : X3,
    (f.mode.getLsbD 0 = false →
      Draws (.rnd f) 1 (fun e => [BitVec.ofNat 32 (drawn e 0)]) ∧
      Draws (.rndf f) 1 (fun e => [BitVec.ofNat 32 (roundTo .f32 .rn false 0 false false (.num ⟨false, drawn e 0 / 256, -24, false⟩)).code])) ∧
    (∃ g : LaneEnv → Word, Draws (.rndmask f) (f.mode.toNat % 32 + 1) (fun e => [g e]) ∧
      ∀ e k, k < 32 → (g e).getLsbD k = (decide (k ≤ f.mode.toNat % 32) && decide (drawn e k < (e.x 0).toNat))) ∧
    Draws (.rndgauss f) 2 (fun e =>
      let z := gaussPair (BitVec.ofNat 32 (drawn e 0)) (BitVec.ofNat 32 (drawn e 1))
      [BitVec.ofNat 32 z.1, BitVec.ofNat 32 z.2])

/-- The keyed draws leave the counter, and a position of 2^30 or more traps ILLEGAL with subcode 5 (R281, R385). -/
def Sys2Proof.Claim.KeyedDraws : Prop :=
  ∀ f : X3, f.mode.getLsbD 0 = true →
    ∀ s e i, i = .rnd f ∨ i = .rndf f → LaneHand i s e →
      let d : Word := BitVec.ofNat 32 ((sampleDraw e.th.key (e.w 0 0).toNat (e.w 0 1).toNat (f.mode.toNat / 2 % 4)).toNat / 2 ^ 32)
      ((e.w 0 1).toNat < 2 ^ 30 → ∃ t, exec i s = .next t ∧ LaneWrote i s t e [if i = .rnd f then d else uniformF32 d]) ∧
      (2 ^ 30 ≤ (e.w 0 1).toNat → exec i s = .next (s.unitTrap e.r (.sync 0x01 5 0)))

/-- RNDSKIP moves the counter on, RNDSET sets it, RNDGET reads it; HDIG writes a digit of the order key (R284, R385, R387). -/
def Sys2Proof.Claim.DrawCounterAndDigits : Prop :=
  ∀ f : X3,
    (∀ s e, LaneHand (.rndskip f) s e → ∃ t, exec (.rndskip f) s = .next t ∧
      LaneChanged (.rndskip f) s t e e.next fun th => { th with draw := th.draw + e.pair 0 }) ∧
    (∀ s e, LaneHand (.rndset f) s e → ∃ t, exec (.rndset f) s = .next t ∧
      LaneChanged (.rndset f) s t e e.next fun th => { th with draw := e.pair 0 }) ∧
    Computes (.rndget f) (fun e => pairOf e.th.draw.toNat) ∧
    Computes (.hdig f) (fun e =>
      let x := (e.x 0).toNat
      let key := if 2 ^ 31 ≤ x then 2 ^ 32 - 1 - x else x + 2 ^ 31
      [BitVec.ofNat 32 (key / 2 ^ (8 * f.mode.toNat) % 256)])


/-! Control, divergence, ends, traps and system registers (spec 09 to 11, 21 R392 to R398, 23 R462 to R465). -/

/-- A word of the thread's code section below its guard packet (R392). -/
def Sys2Proof.Claim.inCode (e : LaneEnv) (t : Int) : Prop :=
  (e.b.code.word0 : Int) ≤ t ∧ t + 3 < (e.b.code.word0 : Int) + (e.b.code.words : Int)

/-- A unit goes to a word, or traps with a cause when the word may not be gone to. -/
def Sys2Proof.Claim.GoesTo (i : Instr) (s : State) (e : LaneEnv) (ok : Prop) (t : Int) (cause : Nat) : Prop :=
  (ok → ∃ u, exec i s = .next u ∧ LaneChanged i s u e (BitVec.ofInt 48 t) id) ∧
  (¬ok → exec i s = .next (s.unitTrap e.r (.sync cause 0 0)))

/-- A unit goes on at the next word and does nothing else. -/
def Sys2Proof.Claim.FallsThrough (i : Instr) (s : State) (e : LaneEnv) : Prop :=
  ∃ u, exec i s = .next u ∧ LaneChanged i s u e e.next id

/-- A unit writes the return pair and goes to a word, or traps and writes nothing. -/
def Sys2Proof.Claim.LinksTo (i : Instr) (s : State) (e : LaneEnv) (ok : Prop) (t : Int) (cause : Nat) : Prop :=
  (ok → ∃ u, exec i s = .next u ∧ LaneWroteTo i s u e (BitVec.ofInt 48 t) (pairOf e.next.toNat)) ∧
  (¬ok → exec i s = .next (s.unitTrap e.r (.sync cause 0 0)))

/-- Direct and indirect transfers: where each form goes, that one not taken goes on at the next word with its target unchecked, and that a
target outside the code traps RUNOFF at a direct form and STACK at an indirect one, a pair with bits 63:48 set among them (R392, R393,
R395). -/
def Sys2Proof.Claim.TransfersOfControl : Prop :=
  (∀ (f : ShortB) (s : State) (e : LaneEnv),
    let t : Int := e.pc.toNat + f.off.toInt
    (LaneHand (.bz f) s e → (e.x 0 = 0 → GoesTo (.bz f) s e (inCode e t) t 0x03) ∧ (e.x 0 ≠ 0 → FallsThrough (.bz f) s e)) ∧
    (LaneHand (.bnz f) s e → (e.x 0 ≠ 0 → GoesTo (.bnz f) s e (inCode e t) t 0x03) ∧ (e.x 0 = 0 → FallsThrough (.bnz f) s e)) ∧
    (LaneHand (.bra f) s e → GoesTo (.bra f) s e (inCode e t) t 0x03) ∧
    (LaneHand (.call f) s e → LinksTo (.call f) s e (inCode e t) t 0x03)) ∧
  (∀ (f : ShortR) (s : State) (e : LaneEnv),
    let t : Int := (e.pair 0).toNat
    LaneHand (.ret f) s e → GoesTo (.ret f) s e (inCode e t ∧ t < 2 ^ 48) t 0x0F) ∧
  ∀ (f : X3) (s : State) (e : LaneEnv),
    let t : Int := (e.pair 0).toNat
    (LaneHand (.brx f) s e → GoesTo (.brx f) s e (inCode e t ∧ t < 2 ^ 48) t 0x0F) ∧
    (LaneHand (.callr f) s e → LinksTo (.callr f) s e (inCode e t ∧ t < 2 ^ 48) t 0x0F)

/-- What a long branch does for one thread (R217, R394): it goes to its target or on, and leaves its side among those from which the group's
record opens, with the rejoin address and the eject bit. -/
def Sys2Proof.Claim.Forks (i : Instr) (f : XB) (taken : LaneEnv → Prop) : Prop :=
  ∀ s e, LaneHand i s e →
    let t : Int := e.pc.toNat + f.target.toInt
    let rp : CodeAddr := BitVec.ofNat 48 (e.pc.toNat / 3 * 3 + 3 * f.rejoin.toNat)
    (¬taken e ∨ inCode e t → ∃ u, exec i s = .next u ∧ ∃ c : Bool, (c = true ↔ taken e) ∧
      u.issue = { s.issue with votes := s.issue.votes ++ [(e.r.t, c)], split := some (rp, f.ej = 1), result := .done } ∧
      LaneChanged i s { u with issue := { s.issue with result := .done } } e (if c then BitVec.ofInt 48 t else e.next) id) ∧
    (taken e ∧ ¬inCode e t → exec i s = .next (s.unitTrap e.r (.sync 0x03 0 0)))

/-- The long conditional branches, thread by thread (R394). -/
def Sys2Proof.Claim.LongBranches : Prop :=
  ∀ f : XB, Forks (.bzLong f) f (fun e => e.x 0 = 0) ∧ Forks (.bnzLong f) f (fun e => e.x 0 ≠ 0)

/-- SETPRI and YIELD change the path priority, GRANT the grant; an ejected thread's GRANT traps EJECT_XLANE (R193, R195, R396, R398). -/
def Sys2Proof.Claim.PriorityAndGrant : Prop :=
  (∀ (f : ShortI) (s : State) (e : LaneEnv), LaneHand (.setpri f) s e → ∃ t, exec (.setpri f) s = .next t ∧
    LaneChanged (.setpri f) s t e e.next fun th => { th with pri := BitVec.ofInt 4 f.imm.toInt }) ∧
  (∀ (s : State) (e : LaneEnv), LaneHand .yield s e → ∃ t, exec .yield s = .next t ∧
    LaneChanged .yield s t e e.next fun th => { th with yld := true }) ∧
  ∀ (f : ShortI) (s : State) (e : LaneEnv), LaneHand (.grant f) s e →
    (e.th.carrel = none → ∃ t y,
      let g : Nat := if e.b.pmode then Min.min f.imm.toNat 32 else Min.min f.imm.toNat 64
      exec (.grant f) s = .next t ∧ t.thread? e.r = some y ∧ y.g.toNat = g ∧ y.req.toNat = f.imm.toNat ∧ y.stale = false ∧
      LaneWrote (.grant f) s (t.modThread e.r fun x => { x with g := e.th.g, req := e.th.req, stale := e.th.stale }) e [BitVec.ofNat 32 g]) ∧
    (e.th.carrel ≠ none → exec (.grant f) s = .next (s.unitTrap e.r (.sync 0x0B 0 0)))

/-- REJOIN on a home core (R219): at no record of the thread's chain it clears YLD and goes on; at the innermost it waits, and the last
member that comes frees the record, and all go on at the word after it. -/
def Sys2Proof.Claim.RejoinArrives : Prop :=
  ∀ (s : State) (e : LaneEnv), LaneHand .rejoin s e → e.th.carrel = none →
    ((∀ id ∈ e.th.chain, ∀ x ∈ e.b.recs, x.id = id → x.rp ≠ e.pc) → ∃ t, exec .rejoin s = .next t ∧
      LaneChanged .rejoin s t e e.next fun th => { th with yld := false }) ∧
    ∀ (x : RejoinRec) (outer : List Nat), e.th.chain = x.id :: outer → x.rp = e.pc → (e.b.recs.filter fun y => y.id = x.id) = [x] →
      e.r.t ∈ x.members → e.r.t ∉ x.arrived → e.r.t ∉ x.removed →
      ∃ t b y, exec .rejoin s = .next t ∧ t.block? e.r.block = some b ∧ b.threads[e.r.t]? = some y ∧ y.yld = false ∧
        ((∃ m ∈ x.members, m ≠ e.r.t ∧ m ∉ x.arrived ∧ m ∉ x.removed) →
          y.status = .wait (.rejoin x.id) ∧ y.pc = e.pc ∧ ∃ z ∈ b.recs, z.id = x.id ∧ z.arrived = x.arrived ++ [e.r.t]) ∧
        ((∀ m ∈ x.members, m = e.r.t ∨ m ∈ x.arrived ∨ m ∈ x.removed) →
          y.status = .ready ∧ y.pc = e.pc + 1 ∧ (∀ z ∈ b.recs, z.id ≠ x.id) ∧ x.id ∉ y.chain ∧
          ∀ q th, q ≠ e.r.t → e.b.threads[q]? = some th → th.status = .wait (.rejoin x.id) →
            ∃ z, b.threads[q]? = some z ∧ z.status = .ready ∧ z.pc = th.pc + 1)

/-- A thread on its carrel core goes home at a REJOIN of its chain, at a former one when it is late, and at every REFORM; a REJOIN of
neither kind only clears YLD (R226). A REFORM at home files the thread under the address after it, in the bin of that key or a free one, and
takes it out of its records; with no bin free it goes on (R228). -/
def Sys2Proof.Claim.EjectedReturnAndReform : Prop :=
  (∀ (s : State) (e : LaneEnv), LaneHand .rejoin s e → e.th.carrel ≠ none →
    ((∃ id ∈ e.th.chain, ∃ x ∈ e.b.recs, x.id = id ∧ x.rp = e.pc) ∨ (e.th.late = true ∧ e.pc ∈ e.th.lateRp) →
      ∃ t y, exec .rejoin s = .next t ∧ t.thread? e.r = some y ∧ y.status = .wait (.fromCarrel false) ∧ y.pc = e.pc ∧ y.yld = false) ∧
    ((∀ id ∈ e.th.chain, ∀ x ∈ e.b.recs, x.id = id → x.rp ≠ e.pc) → ¬(e.th.late = true ∧ e.pc ∈ e.th.lateRp) →
      ∃ t, exec .rejoin s = .next t ∧ LaneChanged .rejoin s t e e.next fun th => { th with yld := false })) ∧
  ∀ (s : State) (e : LaneEnv), LaneHand .reform s e →
    (e.th.carrel ≠ none → ∃ t y, exec .reform s = .next t ∧ t.thread? e.r = some y ∧ y.status = .wait (.fromCarrel true) ∧ y.yld = false) ∧
    (e.th.carrel = none →
      ((∃ x ∈ e.b.bins, x.core = e.j ∧ x.pc = e.pc + 1) ∨ s.binFree e.b e.j = true → ∃ t b y x, exec .reform s = .next t ∧
        t.block? e.r.block = some b ∧ b.threads[e.r.t]? = some y ∧ y.yld = false ∧ y.status = .filed x.id ∧ y.pc = e.pc + 1 ∧ y.chain = [] ∧
        x ∈ b.bins ∧ x.core = e.j ∧ x.pc = e.pc + 1 ∧ (e.r.t, s.cycle e.b.die) ∈ x.threads) ∧
      ((∀ x ∈ e.b.bins, x.core = e.j → x.pc ≠ e.pc + 1) → s.binFree e.b e.j = false → ∃ t, exec .reform s = .next t ∧
        LaneChanged .reform s t e e.next fun th => { th with yld := false }))

/-- A unit makes its thread wait and has no effect. -/
def Sys2Proof.Claim.Waits (i : Instr) (s : State) (r : ThreadRef) (w : Wait) : Prop :=
  exec i s = .next ((s.modThread r fun th => { th with status := .wait w }).ended .blocked)

/-- The wait at EXIT or END: it keeps the first word of the thread's chain as it stood when the wait began (R242). -/
def Sys2Proof.Claim.exitWait (s : State) (e : LaneEnv) : Wait :=
  .exit (match e.th.status with | .wait (.exit pc) => pc | _ => s.issue.start)

/-- EXIT ends its thread once no store of it is outstanding and no entry of the side log is its own; END awaits its copies and tile operations
first (R138, R397). -/
def Sys2Proof.Claim.EndsOfThreads : Prop :=
  ∀ (s : State) (e : LaneEnv),
    let released := e.th.st = 0 ∧ ∀ x ∈ s.sideLog, x.who ≠ e.r
    let isOver (i : Instr) := ∃ t, exec i s = .next t ∧ ∀ y, t.thread? e.r = some y → y.status = .ended
    (LaneHand .exitOp s e → (released → isOver .exitOp) ∧ (¬released → Waits .exitOp s e.r (exitWait s e))) ∧
    (LaneHand .endOp s e →
      (released ∧ e.th.cp = [] ∧ e.th.tl = [] → isOver .endOp) ∧ (¬(released ∧ e.th.cp = [] ∧ e.th.tl = []) → Waits .endOp s e.r (exitWait s e)))

/-- TRAPCAUSE of a synchronous cause (R234). -/
def Sys2Proof.Claim.causeOf (s : State) (x : Trap) (ejected : Bool) : Word :=
  BitVec.ofNat 32 (x.cause + x.sub * 2 ^ 8 + s.issue.unit.toNat % 3 * 2 ^ 16 + (if s.issue.chained then 2 ^ 18 else 0) +
    (if ejected then 2 ^ 20 else 0))

/-- Taking a synchronous trap that no PREEMPT raises, in a lane thread and in a lead context that have a handler and are in none (R233, R234,
R238): what is recorded, what the banked registers hold, and where it continues; of a lane thread's registers nothing else has changed. -/
def Sys2Proof.Claim.TakingATrap : Prop :=
  (∀ (s : State) (r : ThreadRef) (b : Block) (th : Thread) (cause sub addr : Nat),
    s.block? r.block = some b → b.threads[r.t]? = some th → th.status ≠ .ended → th.trapVec ≠ 0 → th.inTrap = false → cause ≠ 0x13 →
    ∃ y, (s.unitTrap r (.sync cause sub addr)).thread? r = some y ∧
      y.cause = causeOf s (.sync cause sub addr) th.carrel.isSome ∧ y.trapPc = s.issue.start ∧
      y.trapAddr = BitVec.ofNat 64 addr ∧ y.inTrap = true ∧ y.status = .ready ∧
      y.pc = BitVec.ofNat 48 (b.code.word0 + th.trapVec.toNat) ∧
      y.k[0] = y.cause ∧ y.k[1] = 0 ∧ y.k[2] = 0 ∧ y.k[3] = 0 ∧ (∀ n (h : n < 16), 4 ≤ n → y.k[n] = th.k[n]) ∧
      y.v = th.v ∧ y.dirty = th.dirty ∧ y.dqr = th.dqr ∧ y.qr = th.qr ∧ y.fpctr = th.fpctr ∧ y.draw = th.draw ∧ y.key = th.key ∧
      y.trapVec = th.trapVec ∧ y.ld = th.ld ∧ y.chain = th.chain ∧ y.g = th.g) ∧
  ∀ (s : State) (r : LeadRef) (b : Block) (l : Lead) (cause sub addr : Nat),
    s.block? r.block = some b → s.lead? r = some l → l.s[495] ≠ 0 → l.inTrap = false → cause ≠ 0x13 →
    ∃ y, (s.leadTrap r (.sync cause sub addr)).lead? r = some y ∧
      y.lk[0] = (BitVec.ofNat 32 (cause + sub * 2 ^ 8 + s.issue.unit.toNat % 3 * 2 ^ 16 +
        (if s.issue.chained then 2 ^ 18 else 0)) : Word).setWidth 64 ∧
      y.lk[1] = s.issue.start.setWidth 64 ∧ y.lk[2] = BitVec.ofNat 64 addr ∧ y.lk[3] = 0 ∧ (∀ n (h : n < 8), 4 ≤ n → y.lk[n] = l.lk[n]) ∧
      y.s = l.s ∧ y.p = l.p ∧ y.evq = l.evq ∧ y.inTrap = true ∧ y.status = .ready ∧
      y.pc = BitVec.ofNat 48 (b.code.word0 + (l.s[495]).toNat)

/-- A unit that faults on a page has its fault record, or every address that one takes is open to it. -/
def Sys2Proof.Claim.faultTold (s : State) (u : FUnit) (n : NodeRef) (va : Nat) : Prop :=
  (∃ x ∈ s.faults, x.unit = u ∧ x.ctx = n.ctx ∧ x.va / 65536 = va / 65536) ∨
  ∀ c, s.ctx? n.ctx = some c → ∀ pa ∈ [c.root + 24, c.root + 28, c.fqBase + 32 * (c.fqTail.toNat % 2 ^ c.fqSize)], ∀ k,
    s.meets u.die none pa k false = .none ∨ s.meets u.die none pa k false = .clear

/-- A record of n bytes meets no device fault on its way to a place of the context save area. -/
def Sys2Proof.Claim.recordReaches (s : State) (node : NodeRef) (off n : Nat) : Prop :=
  ∀ c, s.ctx? node.ctx = some c → ∀ bs : List Byte, bs.length = n →
    (∀ f pa, s.vread c.home c (c.save + off) 8 ≠ .dev f pa ∧ s.vwrite c.home c (c.save + off) bs ≠ .dev f pa) ∧
    ∀ va, s.vread c.home c (c.save + off) 8 = .absent va ∨ s.vwrite c.home c (c.save + off) bs = .absent va →
      faultTold s (.graph c.home) node va

/-- A trap that no handler takes fails its node with status 0x37 and ends its blocks, once the threads of the issue group in hand have completed their
instruction (R233, R239, R241). -/
def Sys2Proof.Claim.UnhandledTraps : Prop :=
  (∀ (s : State) (r : ThreadRef) (b : Block) (th : Thread) (cause sub addr : Nat),
    s.block? r.block = some b → b.threads[r.t]? = some th → th.status ≠ .ended → th.trapVec = 0 ∨ th.inTrap = true → recordReaches s b.nodeRef 0x40 32 →
    let u := s.unitTrap r (.sync cause sub addr)
    (s.issue.rest = [] → ∀ q y, u.block? r.block = some q → y ∈ q.threads → y.status = .ended) ∧
    (s.issue.rest ≠ [] → u.issue.kills = s.issue.kills ++ [b.nodeRef]) ∧
    ∀ n, s.node? b.nodeRef = some n → ∃ m, u.node? b.nodeRef = some m ∧ m.status = some (n.status.getD 0x37)) ∧
  ∀ (s : State) (n : NodeRef) (id : Nat) (q : Block) (y : Thread), n ∈ s.issue.kills → s.settleKills.issue.kills = [] ∧
    (s.settleKills.block? id = some q → q.nodeRef = n → y ∈ q.threads → y.status = .ended)

/-- SWTRAP traps with its code, and BREAK traps, stops its block when the debug port holds its context, and goes through once its thread has
been let past it (R306, R463). -/
def Sys2Proof.Claim.TrapsOnPurpose : Prop :=
  (∀ (f : XI) (s : State) (e : LaneEnv), LaneHand (.swtrap f) s e →
    exec (.swtrap f) s = .next (s.unitTrap e.r (.sync 0x10 (f.imm.toNat % 256) 0))) ∧
  (∀ (f : YI) (s : State) (e : LeadEnv), LeadHand (.leadSwtrap f) s e →
    exec (.leadSwtrap f) s = .next (s.leadTrap e.r (.sync 0x10 (f.imm.toNat % 256) 0))) ∧
  (∀ (f : X3) (s : State) (e : LaneEnv), LaneHand (.breakOp f) s e →
    (e.th.pass = true → FallsThrough (.breakOp f) s e) ∧
    (e.th.pass = false → s.debugged e.b.ctx = false → exec (.breakOp f) s = .next (s.unitTrap e.r (.sync 0x11 0 0))) ∧
    (e.th.pass = false → s.debugged e.b.ctx = true → ∃ t b, exec (.breakOp f) s = .next t ∧ t.block? e.r.block = some b ∧
      b.stop = some (e.b.stop.getD ⟨2, false, s.cycle e.b.die⟩) ∧ t.thread? e.r = some { e.th with pass := true } ∧
      t.issue = { s.issue with result := .blocked })) ∧
  ∀ (f : Y3) (s : State) (e : LeadEnv), LeadHand (.leadBreak f) s e →
    (e.l.pass = true → ∃ t, exec (.leadBreak f) s = .next t ∧ LeadChanged s t e e.next id) ∧
    (e.l.pass = false → s.debugged e.b.ctx = false → exec (.leadBreak f) s = .next (s.leadTrap e.r (.sync 0x11 0 0))) ∧
    (e.l.pass = false → s.debugged e.b.ctx = true → ∃ t b, exec (.leadBreak f) s = .next t ∧ t.block? e.r.block = some b ∧
      b.stop = some (e.b.stop.getD ⟨2, false, s.cycle e.b.die⟩) ∧ t.lead? e.r = some { e.l with pass := true } ∧
      t.issue = { s.issue with result := .blocked })

/-- RTE and LRTE leave the handler for the saved address; out of a handler they are illegal; a handler that saved its agent parks it; a
saved address outside the code traps STACK (R243, R462). -/
def Sys2Proof.Claim.ReturnsFromHandlers : Prop :=
  (∀ (f : X3) (s : State) (e : LaneEnv), LaneHand (.rte f) s e →
    let saves := e.th.cause.toNat % 256 = 0x13 ∧ e.th.cause.getLsbD 19 = false
    (e.th.inTrap = false → exec (.rte f) s = .next (s.unitTrap e.r (.sync 0x01 0 0))) ∧
    (e.th.inTrap = true → saves → ∃ t, exec (.rte f) s = .next t ∧
      t.thread? e.r = some { e.th with inTrap := false, status := .parked, pass := false }) ∧
    (e.th.inTrap = true → ¬saves → inCode e e.th.trapPc.toNat → e.b.stage ≠ .resuming → ∃ t, exec (.rte f) s = .next t ∧
      LaneChanged (.rte f) s t e e.th.trapPc fun th => { th with inTrap := false }) ∧
    (e.th.inTrap = true → ¬saves → ¬inCode e e.th.trapPc.toNat → exec (.rte f) s = .next (s.unitTrap e.r (.sync 0x0F 0 0)))) ∧
  ∀ (f : Y3) (s : State) (e : LeadEnv), LeadHand (.lrte f) s e →
    let saves := e.l.cause.toNat % 256 = 0x13 ∧ e.l.cause.getLsbD 19 = false
    let back := e.b.code.word0 ≤ (e.l.lk[1]).toNat ∧ (e.l.lk[1]).toNat + 3 < e.b.code.word0 + e.b.code.words
    (e.l.inTrap = false → exec (.lrte f) s = .next (s.leadTrap e.r (.sync 0x01 0 0))) ∧
    (e.l.inTrap = true → saves → ∃ t, exec (.lrte f) s = .next t ∧
      t.lead? e.r = some { e.l with inTrap := false, status := .parked, pass := false }) ∧
    (e.l.inTrap = true → ¬saves → back → e.b.stage ≠ .resuming → ∃ t, exec (.lrte f) s = .next t ∧
      LeadChanged s t e ((e.l.lk[1]).setWidth 48) fun l => { l with inTrap := false }) ∧
    (e.l.inTrap = true → ¬saves → ¬back → exec (.lrte f) s = .next (s.leadTrap e.r (.sync 0x0F 0 0)))

/-- What a lane thread reads of its system registers (R105, R196, R197, R214, R234, R262, R276). -/
def Sys2Proof.Claim.sysRegs (e : LaneEnv) : List (Nat × Nat) :=
  let th := e.th
  let g := if th.g = 0 then 1 else th.g.toNat
  let wid := e.b.b * 2 ^ e.b.w0 + e.r.t
  [(0x01, e.r.t % g + e.r.t / g * 2 ^ 16), (0x02, wid), (0x03, wid / 2 ^ 32),
   (0x04, th.pri.toNat + (if th.yld then 15 else th.pri.toNat) * 16 + (if th.yld then 256 else 0) + (if th.carrel.isSome then 512 else 0) +
     (if th.late then 1024 else 0) + th.chain.length % 8 * 2048),
   (0x05, th.ld % 64 + th.st % 64 * 2 ^ 8 + th.cp.length % 16 * 2 ^ 16 + th.tl.length % 16 * 2 ^ 24),
   (0x08, th.dirty.toNat), (0x09, th.dirty.toNat / 2 ^ 32), (0x0A, th.dirty.toNat / 2 ^ 64), (0x0B, th.dirty.toNat / 2 ^ 96),
   (0x10, th.cause.toNat), (0x11, th.trapPc.toNat), (0x12, th.trapPc.toNat / 2 ^ 32), (0x13, th.trapMask.toNat),
   (0x14, th.trapMask.toNat / 2 ^ 32), (0x15, th.trapAddr.toNat), (0x16, th.trapAddr.toNat / 2 ^ 32), (0x17, th.trapVec.toNat),
   (0x18, th.fpctr.toNat), (0x1C, th.key.toNat), (0x1D, th.key.toNat / 2 ^ 32)]

/-- RDSR, short and long, in lane code: what each listed register reads; GRANT clears STALE; WAYQUOTA is the die's (R155, R195, R464). -/
def Sys2Proof.Claim.ReadingSystemRegisters : Prop :=
  ∀ (i : Instr) (n : Nat), (∃ f : ShortI, i = .rdsr f ∧ f.imm.toNat = n) ∨ (∃ f : X3, i = .rdsrLong f ∧ f.mode.toNat = n) →
    ∀ s e, LaneHand i s e →
      (∀ v, (n, v) ∈ sysRegs e → ∃ t, exec i s = .next t ∧ LaneWrote i s t e [BitVec.ofNat 32 v]) ∧
      (n = 0x40 → ∃ t, exec i s = .next t ∧
        LaneWrote i s t e [BitVec.ofNat 32 (match e.b.die with | .a => s.pkg.wayA | .b => s.pkg.wayB).toNat]) ∧
      (n = 0x00 → ∃ t y, exec i s = .next t ∧ t.thread? e.r = some y ∧ y.stale = false ∧
        LaneWrote i s (t.modThread e.r fun x => { x with stale := e.th.stale }) e
          [BitVec.ofNat 32 (e.th.g.toNat + (if e.th.stale then 128 else 0) + e.th.req.toNat * 256)])

/-- What WRSR makes of a thread that writes v to register n, where lane code may write it (R196, R234, R262, R276). -/
def Sys2Proof.Claim.sysWritten (n : Nat) (v : Word) (th : Thread) : Thread :=
  if n = 0x11 then { th with trapPc := BitVec.ofNat 48 (th.trapPc.toNat / 2 ^ 32 * 2 ^ 32 + v.toNat) }
  else if n = 0x12 then { th with trapPc := BitVec.ofNat 48 (th.trapPc.toNat % 2 ^ 32 + v.toNat % 2 ^ 16 * 2 ^ 32) }
  else if n = 0x17 then { th with trapVec := v }
  else if n = 0x18 then { th with fpctr := BitVec.ofNat 32 (v.toNat % 32) }
  else if n = 0x1C then { th with key := BitVec.ofNat 64 (th.key.toNat / 2 ^ 32 * 2 ^ 32 + v.toNat) }
  else if n = 0x1D then { th with key := BitVec.ofNat 64 (th.key.toNat % 2 ^ 32 + v.toNat * 2 ^ 32) }
  else th

/-- WRSR, short and long, in lane code: the writable registers; a TRAPVEC that begins no packet of the code below the guard packet is illegal
with subcode 5; every other listed register traps PROTECT (R155, R196, R234, R464). -/
def Sys2Proof.Claim.WritingSystemRegisters : Prop :=
  ∀ (i : Instr) (n : Nat), (∃ f : ShortI, i = .wrsr f ∧ f.imm.toNat = n) ∨ (∃ f : X3, i = .wrsrLong f ∧ f.mode.toNat = n) →
    ∀ s e, LaneHand i s e →
      let v := e.x 0
      let vec := v = 0 ∨ (v.toNat % 3 = 0 ∧ v.toNat + 3 < e.b.code.words)
      (n ∈ [0x11, 0x12, 0x17, 0x18, 0x1C, 0x1D] → (n = 0x17 → vec) → ∃ t, exec i s = .next t ∧ LaneChanged i s t e e.next (sysWritten n v)) ∧
      (n = 0x17 → ¬vec → exec i s = .next (s.unitTrap e.r (.sync 0x01 5 0))) ∧
      (n ∉ [0x11, 0x12, 0x17, 0x18, 0x1C, 0x1D] → exec i s = .next (s.unitTrap e.r (.sync 0x08 2 0)))

/-- WAYQUOTA in lead code: it reads as 64 bits; only context 0 writes it, and a value with a field above 16, fields that sum to more than 16
or a reserved bit changes nothing (R155, R464). RDCYC writes the die's cycle counter in lane and lead code (R465). -/
def Sys2Proof.Claim.LeadSystemRegisters : Prop :=
  (∀ (f : X3) (s : State) (e : LaneEnv), LaneHand (.rdcyc f) s e → ∃ t, exec (.rdcyc f) s = .next t ∧
    LaneWrote (.rdcyc f) s t e (pairOf (match e.b.die with | .a => s.cycA | .b => s.cycB).toNat)) ∧
  ∀ (f : Y3) (s : State) (e : LeadEnv),
    (LeadHand (.leadRdcyc f) s e → ∃ t, exec (.leadRdcyc f) s = .next t ∧
      LeadChanged s t e e.next fun l => l.put f.d (match e.b.die with | .a => s.cycA | .b => s.cycB)) ∧
    (LeadHand (.leadRdsr f) s e → ∃ t, exec (.leadRdsr f) s = .next t ∧
      LeadChanged s t e e.next fun l => l.put f.d (match e.b.die with | .a => s.pkg.wayA | .b => s.pkg.wayB)) ∧
    (LeadHand (.leadWrsr f) s e →
      let v := e.l.get f.a
      let r (k : Nat) : Nat := v.toNat / 256 ^ k % 256
      let takes := v.toNat < 2 ^ 32 ∧ (∀ k, k < 4 → r k ≤ 16) ∧ r 0 + r 1 + r 2 + r 3 ≤ 16
      let q (d : Die) (old : Dword) : Dword := if takes ∧ d = e.b.die then v else old
      (e.b.ctx ≠ 0 → exec (.leadWrsr f) s = .next (s.leadTrap e.r (.sync 0x08 2 0))) ∧
      (e.b.ctx = 0 → ∃ t, exec (.leadWrsr f) s = .next t ∧ t.pkg = { s.pkg with wayA := q .a s.pkg.wayA, wayB := q .b s.pkg.wayB } ∧
        LeadChanged s { t with pkg := s.pkg } e e.next id))

/-! What holds of every unit (spec 09 R210, 17 R323, R328, R344). -/

/-- A unit of lane code, but for NOP, which both slices run, and the words that only trap. -/
def Sys2Proof.Claim.LaneForm (i : Instr) : Prop :=
  encode i ≠ [] ∧ (shape i).pipe ≠ .lead ∧ (∀ f, i ≠ .nop f) ∧ (∀ f, i ≠ .guardWord f) ∧ ∀ w x, i ≠ .unassignedEncoding w x

/-- Before anything else a lane form checks how decode finds it: advancing past 2^48 − 1 traps RUNOFF, an illegal form traps ILLEGAL with the
first subcode of R328's order, and a lead context that meets one traps ILLEGAL with subcode 0 (R237, R328). -/
def Sys2Proof.Claim.LaneFormsDecodeFirst : Prop :=
  ∀ (i : Instr) (s : State), LaneForm i →
    (∀ r b sh, s.issue.agent = some (.lead r) → s.block? r.block = some b → b.shares[r.j]? = some sh →
      exec i s = .next (s.leadTrap r (.sync 0x01 0 0))) ∧
    ∀ r b th sh, s.issue.agent = some (.lane r) → s.block? r.block = some b → b.threads[r.t]? = some th → b.shares[b.home r.t]? = some sh →
      (2 ^ 48 ≤ th.pc.toNat + (encode i).length → exec i s = .next (s.unitTrap r (.sync 0x03 0 0))) ∧
      (th.pc.toNat + (encode i).length < 2 ^ 48 →
        ((shape i).ok = false → exec i s = .next (s.unitTrap r (.sync 0x01 2 0))) ∧
        ((shape i).ok = true → (∃ x ∈ (shape i).srcs, x.kind = 0 ∧ x.hint = 3) → exec i s = .next (s.unitTrap r (.sync 0x01 4 0))) ∧
        ((shape i).ok = true → (∀ x ∈ (shape i).srcs, x.kind = 0 → x.hint ≠ 3) →
          (regsOk b.regCount th.inTrap (shape i).d (shape i).dw = false ∨ ∃ x ∈ (shape i).srcs, x.regOk b.regCount th.inTrap = false) →
          exec i s = .next (s.unitTrap r (.sync 0x01 3 0))) ∧
        ((shape i).illegal b.regCount th.inTrap ≠ some 2 → (shape i).illegal b.regCount th.inTrap ≠ some 4 →
          (shape i).illegal b.regCount th.inTrap ≠ some 3 → (shape i).lim = false → exec i s = .next (s.unitTrap r (.sync 0x01 5 0))))

/-- Where the guard of a thread is false, a unit reads its sources with their last-use poison, pops its queues, goes on at the next word, and
does nothing else, whatever the form (R323). -/
def Sys2Proof.Claim.FalseGuardsStopEffects : Prop :=
  ∀ (i : Instr) (s : State) (e : LaneEnv), LaneForm i → s.issue.guard = some false →
    LaneHand i { s with issue := { s.issue with guard := none } } e → ∃ t, exec i s = .next t ∧ LaneChanged i s t e e.next id

/-- The traps that come before QUEUE in R235's order and need no popped value: ILLEGAL, STACK, EJECT_XLANE, GRANT_CHANGED, XLANE_MASK. -/
def Sys2Proof.Claim.beforeQueue (x : Trap) : Prop := x.cause = 0x01 ∨ x.cause = 0x0F ∨ x.cause = 0x0B ∨ x.cause = 0x09 ∨ x.cause = 0x0A

/-- A unit that no chain has latched and that pops a queue with nothing in it waits, or traps QUEUE with the queue's number when nothing will
come any more; a trap that stands before QUEUE is taken first (R210, R235). -/
def Sys2Proof.Claim.QueuesBeforeEffects : Prop :=
  ∀ (i : Instr) (s : State) (r : ThreadRef) (b : Block) (th : Thread) (sh : Share), LaneForm i →
    s.issue.agent = some (.lane r) → s.block? r.block = some b → b.threads[r.t]? = some th → b.shares[b.home r.t]? = some sh →
    th.pc.toNat + (encode i).length < 2 ^ 48 → (shape i).illegal b.regCount th.inTrap = none → s.issue.latch = none →
    (∀ q, (popsOf sh r.t th (shape i).queues).1 = some q →
      exec i s = .next (s.unitTrap r (.sync 0x0D q 0)) ∨ ∃ x, beforeQueue x ∧ exec i s = .next (s.unitTrap r x)) ∧
    (popsOf sh r.t th (shape i).queues = (none, true) →
      Waits i s r .retry ∨ ∃ x, beforeQueue x ∧ exec i s = .next (s.unitTrap r x))

/-- A lead form checks its word first: PACKET for a chain bit in its extension, ILLEGAL with subcode 2 and 5, RUNOFF; a lane thread that
meets one traps ILLEGAL with subcode 0 (R320, R328, R407). -/
def Sys2Proof.Claim.LeadFormsDecodeFirst : Prop :=
  ∀ (i : Instr) (s : State), (shape i).pipe = .lead →
    (∀ r b th, s.issue.agent = some (.lane r) → s.block? r.block = some b → b.threads[r.t]? = some th →
      exec i s = .next (s.unitTrap r (.sync 0x01 0 0))) ∧
    ∀ r b sh, s.issue.agent = some (.lead r) → s.block? r.block = some b → b.shares[r.j]? = some sh →
      let x := leadShape i
      (x.packet = true → exec i s = .next (s.leadTrap r (.sync 0x02 0 0))) ∧
      (x.packet = false → x.ok = false → exec i s = .next (s.leadTrap r (.sync 0x01 2 0))) ∧
      (x.packet = false → x.ok = true → x.lim = false → exec i s = .next (s.leadTrap r (.sync 0x01 5 0))) ∧
      (x.packet = false → x.ok = true → x.lim = true → 2 ^ 48 ≤ sh.lead.pc.toNat + 2 → exec i s = .next (s.leadTrap r (.sync 0x03 0 0)))

/-- NOP goes on at the next word in either slice; a GUARD leaves its value to the next unit; a guard word traps RUNOFF and an encoding that no
row assigns ILLEGAL: in a lead context with subcode 0, in a lane thread with 2 for REJOIN, REFORM, YIELD, EXIT and END with a field that is not
zero, 1 for the function of another stepping, else 0 (R84, R323, R328, R344, R396). -/
def Obligations.WordsOfNoForm : Prop :=
  (∀ (f : ShortN) (s : State) (e : LaneEnv), LaneHand (.nop f) s e → FallsThrough (.nop f) s e) ∧
  (∀ (f : ShortN) (s : State) (r : LeadRef) (l : Lead), s.issue.agent = some (.lead r) → s.lead? r = some l → f.x = 0 → l.pc.toNat + 1 < 2 ^ 48 →
    ∃ t, exec (.nop f) s = .next t ∧ s.onlyLead t r ∧ s.sameBytes t ∧ t = { s with blocks := t.blocks, issue := t.issue } ∧
      t.lead? r = some { l with pc := l.pc + 1, status := .ready, pass := false }) ∧
  (∀ (f : GuardW) (s : State) (e : LaneEnv), LaneHand (.guard f) s e → ∃ t, exec (.guard f) s = .next t ∧
    t.issue = { s.issue with guard := some (if f.n = 0 then e.x 0 != 0 else e.x 0 = 0), result := .done } ∧
    LaneChanged (.guard f) s { t with issue := { s.issue with result := .done } } e e.next id) ∧
  (∀ (f : ShortN) (s : State) (r : ThreadRef), s.issue.agent = some (.lane r) → exec (.guardWord f) s = .next (s.unitTrap r (.sync 0x03 0 0))) ∧
  (∀ (f : ShortN) (s : State) (r : LeadRef), s.issue.agent = some (.lead r) → exec (.guardWord f) s = .next (s.leadTrap r (.sync 0x03 0 0))) ∧
  (∀ (w x : Word) (s : State) (r : LeadRef), s.issue.agent = some (.lead r) →
    exec (.unassignedEncoding w x) s = .next (s.leadTrap r (.sync 0x01 0 0))) ∧
  ∀ (w x : Word) (s : State) (r : ThreadRef), s.issue.agent = some (.lane r) →
    let p := w.toNat / 2 ^ 25 % 64
    let fields := p ∈ [0x23, 0x24, 0x25, 0x27, 0x28]
    (fields → exec (.unassignedEncoding w x) s = .next (s.unitTrap r (.sync 0x01 2 0))) ∧
    (p = 0x3A ∧ funcOf w = 0x00F → exec (.unassignedEncoding w x) s = .next (s.unitTrap r (.sync 0x01 1 0))) ∧
    (¬fields → ¬(p = 0x3A ∧ funcOf w = 0x00F) → exec (.unassignedEncoding w x) s = .next (s.unitTrap r (.sync 0x01 0 0)))


/-! Cross-lane exchange (spec 10 R231, 12 R258, R259, 21 R399 to R405). -/

/-- The cross-lane forms. -/
def Sys2Proof.Claim.XForm (i : Instr) : Prop :=
  (∃ f, i = .shfl f) ∨ (∃ f, i = .bcast f) ∨ (∃ f, i = .vote f) ∨ (∃ f, i = .matchOp f) ∨ (∃ f, i = .red f) ∨ (∃ f, i = .scan f) ∨
  (∃ f, i = .elect f) ∨ ∃ f, i = .swz f

/-- The gang position of the thread in hand. -/
def Sys2Proof.Claim.gangPos (e : LaneEnv) : Nat := e.r.t % e.th.g.toNat

/-- The thread at a position of its gang. -/
def Sys2Proof.Claim.gangThread (e : LaneEnv) (q : Nat) : Option Thread := e.b.threads[e.r.t / e.th.g.toNat * e.th.g.toNat + q]?

/-- The member mask (R399): source c, the last one; for SWZ the quad (R405). -/
def Sys2Proof.Claim.maskOf (i : Instr) (e : LaneEnv) : Dword :=
  match i with
  | .swz _ => BitVec.ofNat 64 (15 * 2 ^ (gangPos e / 4 * 4))
  | _ => e.pair (e.vals.length - 1)

/-- What the mask must be: not zero, no position at or above G, the own one named; for BCAST the position named as well (R399, R401). -/
def Sys2Proof.Claim.maskGood (i : Instr) (e : LaneEnv) : Prop :=
  let m := maskOf i e
  (∀ q, m.getLsbD q = true → q < e.th.g.toNat) ∧ m.getLsbD (gangPos e) = true ∧
  ∀ f, i = .bcast f → (e.x 1).toNat < e.th.g.toNat ∧ m.getLsbD (e.x 1).toNat = true

/-- Another position waits at the same word under the same G with another mask, and one of the two masks names the other (R399). -/
def Sys2Proof.Claim.conflictsAt (i : Instr) (e : LaneEnv) (q : Nat) : Prop :=
  q < e.th.g.toNat ∧ q ≠ gangPos e ∧ ∃ th y, gangThread e q = some th ∧ th.arrival = some y ∧ th.status = .wait (.xlane none) ∧ th.g = e.th.g ∧
    y.pc = e.pc ∧ y.mask ≠ maskOf i e ∧ ((maskOf i e).getLsbD q = true ∨ y.mask.getLsbD (gangPos e) = true)

/-- A position is absent (R231). -/
def Sys2Proof.Claim.absentAt (e : LaneEnv) (q : Nat) : Prop := q ≠ gangPos e ∧ ∀ th, gangThread e q = some th → th.status = .ended

/-- What a named position brings to the wait: the operands of the thread in hand, or of one that waits at the same word with the same mask
and the same G. -/
def Sys2Proof.Claim.brings (i : Instr) (e : LaneEnv) (q : Nat) (v : List (List Word)) : Prop :=
  (maskOf i e).getLsbD q = true ∧ ((q = gangPos e ∧ v = e.vals) ∨
    (q ≠ gangPos e ∧ ∃ th y, gangThread e q = some th ∧ th.arrival = some y ∧ th.status = .wait (.xlane none) ∧ th.g = e.th.g ∧
      y.pc = e.pc ∧ y.mask = maskOf i e ∧ v = y.vals))

/-- A thread comes to a cross-lane form (R399): ejected it traps EJECT_XLANE, with a stale grant GRANT_CHANGED, with a bad mask XLANE_MASK, and so
it does with those that it conflicts with; else it waits, and the last named member that comes gives every member that came its result. -/
def Sys2Proof.Claim.CrossLaneArrival : Prop :=
  ∀ (i : Instr) (s : State) (e : LaneEnv), XForm i → LaneHand i s e → (∀ res, e.th.status ≠ .wait (.xlane (some res))) →
    e.th.g = 8 ∨ e.th.g = 16 ∨ e.th.g = 32 ∨ e.th.g = 64 →
    (e.th.carrel ≠ none → exec i s = .next (s.unitTrap e.r (.sync 0x0B 0 0))) ∧
    (e.th.carrel = none → e.th.stale = true → exec i s = .next (s.unitTrap e.r (.sync 0x09 0 0))) ∧
    (e.th.carrel = none → e.th.stale = false →
      (¬maskGood i e → exec i s = .next (s.unitTrap e.r (.sync 0x0A 0 0))) ∧
      (maskGood i e → (∃ q, conflictsAt i e q) → ∃ ws, exec i s = .next ((s.trapWaiters e.b ws).unitTrap e.r (.sync 0x0A 0 0)) ∧
        ∀ u, u ∈ ws ↔ ∃ q, conflictsAt i e q ∧ u = e.r.t / e.th.g.toNat * e.th.g.toNat + q) ∧
      (maskGood i e → (∀ q, ¬conflictsAt i e q) →
        ((∃ q, (maskOf i e).getLsbD q = true ∧ ¬absentAt e q ∧ ∀ v, ¬brings i e q v) → ∃ t, exec i s = .next t ∧
          t.thread? e.r = some { e.th with
            status := .wait (.xlane none), arrival := some ⟨i, e.pc, maskOf i e, e.vals, s.issue.chained⟩ }) ∧
        ((∀ q, (maskOf i e).getLsbD q = true → absentAt e q ∨ ∃ v, brings i e q v) → ∃ t ms absent, exec i s = .next t ∧
          ms.length = e.th.g.toNat ∧ (∀ q v, q < e.th.g.toNat → (ms.getD q none = some v ↔ brings i e q v)) ∧
          (∀ q, absent.testBit q = true ↔ (maskOf i e).getLsbD q = true ∧ absentAt e q) ∧
          ∀ q v, brings i e q v → ∃ y, t.thread? ⟨e.r.block, e.r.t / e.th.g.toNat * e.th.g.toNat + q⟩ = some y ∧ y.arrival = none ∧
            y.status = .wait (.xlane (some (xResult i ms q (maskOf i e).toNat absent))))))

/-- A thread whose wait is over writes its result and goes on, and does nothing else (R399). -/
def Sys2Proof.Claim.CrossLaneReturns : Prop :=
  ∀ (i : Instr) (s : State) (e : LaneEnv) (res : List Word), XForm i → LaneHand i s e → e.th.status = .wait (.xlane (some res)) →
    res.length = (shape i).dw → ∃ t, exec i s = .next t ∧ LaneWrote i s t e res

/-- How a result stands in the destination (R400): with ST two words of result and two of the absent mask. -/
def Sys2Proof.Claim.laid (st wide : Bool) (res absent : Nat) : List Word :=
  let words (x : Nat) : List Word := [BitVec.ofNat 32 x, BitVec.ofNat 32 (x / 2 ^ 32)]
  if st then words res ++ words absent else if wide then words res else [BitVec.ofNat 32 res]

/-- The value a of a member. -/
def Sys2Proof.Claim.valueA (w64 : Bool) (m : List (List Word)) : Nat :=
  let a := m.getD 0 []
  (a.getD 0 0).toNat + (if w64 then (a.getD 1 0).toNat * 2 ^ 32 else 0)

/-- What SHFL and BCAST read from a source position: zero of an absent member. -/
def Sys2Proof.Claim.readAt (ms : List Member) (w64 : Bool) (q : Nat) : Nat := ((ms.getD q none).map (valueA w64)).getD 0

/-- The source position of SHFL (R401). -/
def Sys2Proof.Claim.sourceOf (smode : Nat) (p b : Nat) : Int :=
  if smode = 0 then b else if smode = 1 then (p : Int) - b else if smode = 2 then (p : Int) + b else ((p ^^^ b : Nat) : Int)

/-- The results of SHFL, BCAST, VOTE, MATCH, ELECT and SWZ for the present member at position p, from what every position brought (R400 to
R402, R405). -/
def Sys2Proof.Claim.CrossLaneResults : Prop :=
  ∀ (ms : List Member) (p mask absent : Nat) (own : List (List Word)), ms.length ≤ 64 → ms.getD p none = some own →
    let present (q : Nat) : Prop := ∃ m, ms.getD q none = some m
    let first (m : List (List Word)) : Word := (m.getD 0 []).getD 0 0
    let b : Nat := ((own.getD 1 []).getD 0 0).toNat
    (∀ f : X3,
      let w64 := f.mode.getLsbD 5
      let st := f.mode.getLsbD 6
      let src := sourceOf (f.mode.toNat % 4) p b
      xResult (.shfl f) ms p mask absent = laid st w64
        (if 0 ≤ src ∧ src < ms.length ∧ mask.testBit src.toNat then readAt ms w64 src.toNat else valueA w64 own) absent ∧
      (b < ms.length → mask.testBit b = true → xResult (.bcast f) ms p mask absent = laid st w64 (readAt ms w64 b) absent) ∧
      (f.mode.toNat % 4 = 0 → ∃ r, xResult (.vote f) ms p mask absent = laid st true r absent ∧
        r < 2 ∧ (r = 1 ↔ ∃ q m, ms.getD q none = some m ∧ first m ≠ 0)) ∧
      (f.mode.toNat % 4 = 1 → ∃ r, xResult (.vote f) ms p mask absent = laid st true r absent ∧
        r < 2 ∧ (r = 1 ↔ ∀ q m, ms.getD q none = some m → first m ≠ 0)) ∧
      (f.mode.toNat % 4 = 2 → ∃ r, xResult (.vote f) ms p mask absent = laid st true r absent ∧
        ∀ q, r.testBit q = true ↔ ∃ m, ms.getD q none = some m ∧ first m ≠ 0) ∧
      (∃ r, xResult (.matchOp f) ms p mask absent = laid st true r absent ∧
        ∀ q, r.testBit q = true ↔ ∃ m, ms.getD q none = some m ∧ valueA w64 m = valueA w64 own) ∧
      ∃ l, present l ∧ (∀ q, q < l → ¬present q) ∧
        xResult (.elect f) ms p mask absent = laid st false ((if l = p then 1 else 0) + 2 ^ 8 * l) absent) ∧
    ∀ f : ShortR, xResult (.swz f) ms p mask absent =
      [BitVec.ofNat 32 (readAt ms false (p / 4 * 4 + b / 2 ^ (2 * (p % 4)) % 4))]

/-- The tree sum of R258 over 2^k positions: its two halves pairwise, level by level. -/
def Sys2Proof.Claim.treeOf : Nat → (Nat → Word) → Word
  | 0, v => v 0
  | k + 1, v => addF32 (treeOf k v) (treeOf k fun i => v (2 ^ k + i))

/-- The integer reductions of R403, on the list of contributions. -/
def Sys2Proof.Claim.Reduces (op : Nat) (xs : List Word) (r : Word) : Prop :=
  (op = 0 → r.toNat = (xs.map BitVec.toNat).sum % 2 ^ 32) ∧
  (op = 1 → ∀ k, k < 32 → (r.getLsbD k = true ↔ ∀ x ∈ xs, x.getLsbD k = true)) ∧
  (op = 2 → ∀ k, k < 32 → (r.getLsbD k = true ↔ ∃ x ∈ xs, x.getLsbD k = true)) ∧
  (op = 3 → ∀ k, k < 32 → (r.getLsbD k = true ↔ (xs.filter fun x => x.getLsbD k).length % 2 = 1)) ∧
  (op = 4 → if xs = [] then r = 0x7FFFFFFF else r ∈ xs ∧ ∀ x ∈ xs, r.toInt ≤ x.toInt) ∧
  (op = 5 → if xs = [] then r = 0x80000000 else r ∈ xs ∧ ∀ x ∈ xs, x.toInt ≤ r.toInt) ∧
  (op = 6 → if xs = [] then r = 0xFFFFFFFF else r ∈ xs ∧ ∀ x ∈ xs, r.toNat ≤ x.toNat) ∧
  (op = 7 → if xs = [] then r = 0 else r ∈ xs ∧ ∀ x ∈ xs, x.toNat ≤ r.toNat)

/-- RED gives every member the reduction of all contributions, SCAN that of the positions before or up to its own; OP 8 of RED is the tree of R258
over 2^k positions, −0 standing for a position that brings nothing, where no NaN is brought; an infinity of one sign is the sum of OP 9, infinities
of both signs are the default NaN (R258, R259, R403, R404). -/
def Sys2Proof.Claim.Reductions : Prop :=
  ∀ (ms : List Member) (p mask absent : Nat) (f : X3),
    let op := f.mode.toNat % 16
    let st := f.mode.getLsbD 6
    let first (m : List (List Word)) : Word := (m.getD 0 []).getD 0 0
    let brought (n : Nat) : List Word := (ms.take n).filterMap fun m => m.map first
    let nan (x : Word) : Prop := 0x7F800000 < x.toNat % 2 ^ 31
    (∃ r : Word, xResult (.red f) ms p mask absent = laid st false r.toNat absent ∧ Reduces op (brought ms.length) r ∧
      (op = 8 → (∀ x ∈ brought ms.length, ¬nan x) → ∀ k, k ≤ 6 → ms.length = 2 ^ k →
        r = treeOf k fun i => ((ms.getD i none).map first).getD 0x80000000) ∧
      (op = 9 → (∀ x ∈ brought ms.length, ¬nan x) → 0x7F800000 ∈ brought ms.length →
        r = if 0xFF800000 ∈ brought ms.length then 0x7FC00000 else 0x7F800000)) ∧
    ∃ r : Word, xResult (.scan f) ms p mask absent = laid st false r.toNat absent ∧
      Reduces op (brought (if f.mode.getLsbD 4 then p + 1 else p)) r


/-! Loads, stores, atomics, reductions and discards (spec 06 R130 to R138, 07 R151, R152, R157, 08 R183, 22 R418 to R427). -/

/-- The state with the notes of sampling (R309) as they were before the unit. -/
def Sys2Proof.Claim.unsampled (s t : State) : State := { t with issue := { t.issue with ls := s.issue.ls, lsPc := s.issue.lsPc, lsLoc := s.issue.lsLoc } }

/-- The number in a list of bytes, low byte first (R3). -/
def Sys2Proof.Claim.little : List Byte → Nat
  | [] => 0
  | b :: r => b.toNat + 256 * little r

/-- The destination registers of a load of 1, 2, 4, 8 or 16 bytes (R421). -/
def Sys2Proof.Claim.loaded (sext : Bool) (bs : List Byte) : List Word :=
  let v := little bs
  let n := bs.length
  if n ≤ 2 then [BitVec.ofInt 32 (if sext ∧ 2 ^ (8 * n - 1) ≤ v then (v : Int) - 2 ^ (8 * n) else v)]
  else (List.range (n / 4)).map fun k => BitVec.ofNat 32 (v / 2 ^ (32 * k))

/-- The n low bytes of a store's data (R422): from its source's words, low word first. -/
def Sys2Proof.Claim.storeData (ws : List Word) (n : Nat) : List Byte :=
  (List.range n).map fun k => BitVec.ofNat 8 ((ws.getD (k / 4) 0).toNat / 256 ^ (k % 4))

/-- The local address of a form (R418): a + off modulo 2^32. -/
def Sys2Proof.Claim.localAddr (e : LaneEnv) (off : Int) : Nat := (((e.x 0).toNat + off) % 2 ^ 32).toNat

/-- The global address of a form (R418): the pair a + off modulo 2^64. -/
def Sys2Proof.Claim.globalAddr (e : LaneEnv) (off : Int) : Nat := (((e.pair 0).toNat + off) % 2 ^ 64).toNat

/-- Bytes of local space that a block has (R152): la to la + n − 1 within one of its shares. -/
def Sys2Proof.Claim.localThere (e : LaneEnv) (la n : Nat) : Prop :=
  la < 2 ^ 23 ∧ la / 2 ^ 18 < e.b.shares.length ∧ la % 2 ^ 18 + n ≤ e.b.loc

/-- The byte k of a local access is one of the share in which the access begins. -/
def Sys2Proof.Claim.byteThere (b : Block) (la k : Nat) : Prop :=
  (la + k) / 2 ^ 18 = la / 2 ^ 18 ∧ la + k < 2 ^ 23 ∧ (la + k) / 2 ^ 18 < b.shares.length ∧ (la + k) % 2 ^ 18 < b.loc

/-- A 16-byte access of which one half has been performed (R152, R168). -/
def Sys2Proof.Claim.halfDone (e : LaneEnv) : Prop := ∃ upper ws, e.th.status = .wait (.half upper ws)

/-- What stands against a local access of n bytes (R183, R234, R418): ALIGN, EXTENT with its first byte that is not there, then RANGE_LOCK where a lock
meets it; level 2 for a load, which a locked source does not stop, 1 for every other. -/
def Sys2Proof.Claim.LocalTraps (i : Instr) (s : State) (e : LaneEnv) (la n level : Nat) : Prop :=
  let hit := s.lock e.acor.skip (.loc e.b.id la n)
  (la % n ≠ 0 → exec i s = .next (s.unitTrap e.r (.sync 0x04 0 la))) ∧
  (la % n = 0 → ¬localThere e la n → ∃ k, k < n ∧ (∀ x, x < k → byteThere e.b la x) ∧ ¬byteThere e.b la k ∧
    exec i s = .next (s.unitTrap e.r (.sync 0x05 0 (la + k)))) ∧
  (la % n = 0 → localThere e la n → level ≤ hit → ∃ k, k < n ∧ exec i s = .next (s.unitTrap e.r (.sync 0x06 (hit - 1) (la + k))))

/-- A local access that nothing stands against. -/
def Sys2Proof.Claim.localOk (s : State) (e : LaneEnv) (la n level : Nat) : Prop :=
  la % n = 0 ∧ localThere e la n ∧ s.lock e.acor.skip (.loc e.b.id la n) < level

/-- Local loads: the registers take the bytes, and nothing else changes (R421); one of 16 bytes outside a chain may take its halves at two
times, the first before the thread waits (R168). -/
def Sys2Proof.Claim.LoadsLocal (i : Instr) (off : Int) (n : Nat) (sext : Bool) : Prop :=
  ∀ s e, LaneHand i s e →
    let la := localAddr e off
    let bytes (o m : Nat) := s.locRead e.b.id (la / 2 ^ 18) (la % 2 ^ 18 + o) m
    let whole := ∃ t, exec i s = .next t ∧ LaneWrote i s (unsampled s t) e (loaded sext (bytes 0 n))
    (¬halfDone e → LocalTraps i s e la n 2 ∧
      (localOk s e la n 2 → (n ≠ 16 ∨ s.issue.chained = true → whole) ∧
        (whole ∨ ∃ upper, Waits i s e.r (.half upper (loaded sext (bytes (if upper then 8 else 0) 8)))))) ∧
    ∀ upper ws, e.th.status = .wait (.half upper ws) → n = 16 → ws.length = 2 → ∃ t, exec i s = .next t ∧
      LaneWrote i s (unsampled s t) e (if upper then loaded sext (bytes 0 8) ++ ws else ws ++ loaded sext (bytes 8 8))

/-- What a unit leaves that writes bytes of its block's local store, at la where something is written, and otherwise only its registers, and for one that
synchronises what happened before its thread's next access (R169). -/
structure Sys2Proof.Claim.StoredLocal (i : Instr) (s t : State) (e : LaneEnv) (la : Nat) (bs : List Byte) (ws : List Word) (sync : Bool) : Prop where
  thread : ∃ y, t.thread? e.r = some y ∧ ThreadWrote i s e y ws ∧
    y = { e.th with
          v := y.v, k := y.k, dirty := y.dirty, wrote := y.wrote, dqr := (e.popped i s).dqr, qr := (e.popped i s).qr, pc := e.next,
          know := if sync then y.know else e.th.know, seen := if sync then y.seen else e.th.seen, status := .ready, pass := false }
  threads : ∀ q, q ≠ e.r → t.thread? q = s.thread? q
  leads : ∀ l, t.lead? l = s.lead? l
  tiles : ∀ id j, (t.share? id j).map (fun x => (x.core, x.slot, x.tile)) = (s.share? id j).map fun x => (x.core, x.slot, x.tile)
  stored : t.locRead e.b.id (la / 2 ^ 18) (la % 2 ^ 18) bs.length = bs
  others : ∀ id j o, ¬(id = e.b.id ∧ j = la / 2 ^ 18 ∧ la % 2 ^ 18 ≤ o ∧ o < la % 2 ^ 18 + bs.length) → t.locRead id j o 1 = s.locRead id j o 1
  memory : t.mem = s.mem
  loads : t.loads = loadsWithout e.th e.r (spentRegs i s ++ destRegs i) s.loads
  issue : t.issue = { s.issue with result := .done, ls := t.issue.ls, lsPc := t.issue.lsPc, lsLoc := t.issue.lsLoc }
  rest : t = { s with blocks := t.blocks, loads := t.loads, cached := t.cached, issue := t.issue }

/-- One half of a 16-byte local store is done, and the thread waits to store the other (R168). -/
def Sys2Proof.Claim.StoredHalf (s t : State) (e : LaneEnv) (la : Nat) (bs : List Byte) (upper : Bool) : Prop :=
  t.thread? e.r = some { e.th with status := .wait (.half upper []) } ∧ t.mem = s.mem ∧ t.cached = s.cached ∧
  t.locRead e.b.id (la / 2 ^ 18) (la % 2 ^ 18) bs.length = bs ∧
  ∀ id j o, ¬(id = e.b.id ∧ j = la / 2 ^ 18 ∧ la % 2 ^ 18 ≤ o ∧ o < la % 2 ^ 18 + bs.length) → t.locRead id j o 1 = s.locRead id j o 1

/-- Local stores (R422): once every earlier load of the thread has returned (R172), whole, or one of 16 bytes outside a chain by its halves (R168). -/
def Sys2Proof.Claim.StoresLocal (i : Instr) (off : Int) (n : Nat) : Prop :=
  ∀ s e, LaneHand i s e →
    let la := localAddr e off
    let bs := storeData (e.vals.getD 1 []) n
    let half (upper : Bool) := (bs.drop (if upper then 8 else 0)).take 8
    let whole := ∃ t, exec i s = .next t ∧ t.cached = s.cached ∧ StoredLocal i s t e la bs [] false
    let loading := ∃ l ∈ s.loads, l.who = .lane e.r
    (¬halfDone e → LocalTraps i s e la n 1 ∧
      (localOk s e la n 1 → (loading → Waits i s e.r .retry) ∧
        (¬loading → (n ≠ 16 ∨ s.issue.chained = true → whole) ∧
          (whole ∨ ∃ t upper, exec i s = .next t ∧ StoredHalf s t e (la + if upper then 8 else 0) (half upper) upper)))) ∧
    ∀ upper ws, e.th.status = .wait (.half upper ws) → n = 16 → la % 16 = 0 → localThere e la 16 → ∃ t, exec i s = .next t ∧
      t.cached = s.cached ∧ StoredLocal i s t e (la + if upper then 0 else 8) (half (!upper)) [] false

/-- Loads and stores of local space, short and long: the address, the traps before the effect, the bytes moved, and the frame (R418, R420 to
R422). -/
def Sys2Proof.Claim.LocalLoadsAndStores : Prop :=
  (∀ f : ShortI, LoadsLocal (.ldl f) f.imm.toInt 4 false ∧ StoresLocal (.stl f) f.imm.toInt 4) ∧
  ∀ f : XM, LoadsLocal (.ldlLong f) f.off.toInt (2 ^ (f.mode.toNat % 8)) (f.mode.getLsbD 3) ∧
    StoresLocal (.stlLong f) f.off.toInt (2 ^ (f.mode.toNat % 8))

/-- The width of an atomic (R423). -/
def Sys2Proof.Claim.atomBytes (op : Nat) : Nat := if op = 11 ∨ op = 12 ∨ op = 13 then 8 else 4

/-- The value that an atomic writes over m, if it writes (R423). -/
def Sys2Proof.Claim.atomWrites (op : Nat) (e : LaneEnv) (m : Nat) : Option Nat :=
  let b := (e.x 1).toNat
  let si (x : Nat) : Int := (BitVec.ofNat 32 x).toInt
  if op = 0 then some ((m + b) % 2 ^ 32)
  else if op = 1 then some (m &&& b)
  else if op = 2 then some (m ||| b)
  else if op = 3 then some (m ^^^ b)
  else if op = 4 then some (if si b < si m then b else m)
  else if op = 5 then some (if si m < si b then b else m)
  else if op = 6 then some (if b < m then b else m)
  else if op = 7 then some (if m < b then b else m)
  else if op = 8 ∨ op = 15 then some b
  else if op = 9 then (if m = b then some (e.w 1 1).toNat else none)
  else if op = 10 then some (roundTo .f32 .rn false 0 false false (Val.add false (FTy.f32.value m) (FTy.f32.value b))).code
  else if op = 11 then some ((m + (e.pair 1).toNat) % 2 ^ 64)
  else if op = 12 then some (e.pair 1).toNat
  else if op = 13 then (if m = (e.pair 1).toNat then some ((e.w 1 3).toNat * 2 ^ 32 + (e.w 1 2).toNat) else none)
  else none

/-- ATOML on one access of its share (R423 to R425): it waits while a load of its thread is outstanding (R172), with a release part while a store is
outstanding or logged, with an order while a synchronising store is outstanding (R171); the destination takes the old value, but for OP 15; the
store takes what the operation makes of it; an acquire drops the copies of the thread's core and nothing that is owned. -/
def Sys2Proof.Claim.LocalAtomics : Prop :=
  ∀ (f : XM) (s : State) (e : LaneEnv), LaneHand (.atoml f) s e →
    let op := f.mode.toNat % 16
    let ord := f.mode.toNat / 16
    let n := atomBytes op
    let la := localAddr e f.off.toInt
    let old := s.locRead e.b.id (la / 2 ^ 18) (la % 2 ^ 18) n
    let released := e.th.st = 0 ∧ ∀ x ∈ s.sideLog, x.who ≠ e.r
    let waits := (2 ≤ ord ∧ ¬released) ∨ (∃ l ∈ s.loads, l.who = .lane e.r) ∨
      (ord ≠ 0 ∧ ∃ x ∈ s.stores, x.who = .lane e.r ∧ ∃ o, x.atom = some o ∧ o.ord ≠ 0)
    LocalTraps (.atoml f) s e la n 1 ∧
    (localOk s e la n 1 → waits → Waits (.atoml f) s e.r .retry) ∧
    (localOk s e la n 1 → ¬waits → ∃ t bs, exec (.atoml f) s = .next t ∧
      bs.length = n ∧ little bs = (atomWrites op e (little old)).getD (little old) ∧
      StoredLocal (.atoml f) s t e la bs (if op = 15 then [] else loaded false old) true ∧
      (∀ a k, t.homeRead a k = s.homeRead a k) ∧ (∀ x ∈ s.cached, x.owned = true → x ∈ t.cached) ∧
      (ord % 2 = 0 → t.cached = s.cached))

/-- What R130 and R183 make of an access of code that is in no handler to global space, for the extent that governs it. -/
def Sys2Proof.Claim.GlobalAccessChecks : Prop :=
  ∀ (s : State) (a : Acor) (c : Ctx) (node : RNode) (va n level align : Nat) (need : Need),
    s.ctx? a.b.ctx = some c → s.node? a.b.nodeRef = some node → a.handler = false → 0 < n →
    (va % align ≠ 0 → s.chk a va n need level align = .trap (.sync 0x04 0 (va % 2 ^ 56))) ∧
    (va % align = 0 →
      (2 ^ 56 < va + n ∨ (∀ x ∈ node.exts, x.reach va < n) → s.chk a va n need level align = .trap (.sync 0x05 0 (va % 2 ^ 56))) ∧
      ∀ pre x post, node.exts = pre ++ x :: post → va + n ≤ 2 ^ 56 → x.walked = false → n ≤ x.reach va →
        (∀ y ∈ pre, y.walked = true ∨ y.reach va < n) →
        ((need.rd = true ∧ x.rd = false) ∨ (need.wr = true ∧ x.wr = false) →
          s.chk a va n need level align = .trap (.sync 0x08 0 (va % 2 ^ 56))) ∧
        ((need.rd = true → x.rd = true) → (need.wr = true → x.wr = true) →
          (need.wr = true → c.protects va n = true → s.chk a va n need level align = .trap (.sync 0x08 1 (va % 2 ^ 56))) ∧
          (¬(need.wr = true ∧ c.protects va n = true) → (∀ k, s.watched a.b.ctx va n k = false) →
            (∀ pa cls, x.page va = .mapped pa cls →
              let hit := max (s.lock a.skip (.phys pa n)) (s.lock a.skip (.virt a.b.ctx va n))
              (hit < level → s.chk a va n need level align = .ok pa) ∧
              (level ≤ hit → ∃ k, k < n ∧ s.chk a va n need level align = .trap (.sync 0x06 (hit - 1) (va + k)))) ∧
            (x.page va = .absent → s.verdict (.agent a.who) a.b.ctx va = none →
              let hit := s.lock a.skip (.virt a.b.ctx va n)
              (hit < level → s.chk a va n need level align = .absent) ∧
              (level ≤ hit → 0 < level → ∃ k, k < n ∧ s.chk a va n need level align = .trap (.sync 0x06 (hit - 1) (va + k)))) ∧
            (x.page va = .fatal → s.verdict (.agent a.who) a.b.ctx va = none → 0 < level → s.chk a va n need level align = .fatal))))

/-- What a unit leaves that makes an access outstanding: its thread is as its start left it but for f, its dirty bits and its clocks. -/
structure Sys2Proof.Claim.Issued (i : Instr) (s t : State) (e : LaneEnv) (dirty : Bool) (f : Thread → Thread) : Prop where
  thread : ∃ y z, (e.start i s).thread? e.r = some y ∧ t.thread? e.r = some z ∧
    z = { f y with pc := e.next, status := .ready, pass := false, wclk := z.wclk, rclk := z.rclk, dirty := z.dirty } ∧
    ∀ n : BitVec 7, z.dirty.getLsbD n.toNat =
      (y.dirty.getLsbD n.toNat || (dirty && decide (n ∈ destRegs i) && !(e.th.inTrap && decide (112 ≤ n.toNat))))
  others : s.onlyThread t e.r
  bytes : s.sameBytes t
  issue : t.issue = { s.issue with result := .done, ls := t.issue.ls, lsPc := t.issue.lsPc }
  rest : t = { s with
    blocks := t.blocks, loads := t.loads, stores := t.stores, sideLog := t.sideLog, holds := t.holds, dbg := t.dbg, nextId := t.nextId,
    tags := t.tags, hot := t.hot, issue := t.issue }

/-- The parts of an access: one, or the two halves of 16 bytes (R168). -/
def Sys2Proof.Claim.parts (n : Nat) : List (Nat × Nat) := if n = 16 then [(0, 8), (8, 8)] else [(0, n)]

/-- What an address on an access's way meets: it waits for a unit across the link whose bit is clear, else its context takes the device fault (R12,
R22). -/
def Sys2Proof.Claim.MeetsDevice (i : Instr) (s : State) (e : LaneEnv) (out : Chk) : Prop :=
  ∀ x pa, out = .dev x pa → (x = .clear → Waits i s e.r .retry) ∧ (x ≠ .clear → ∃ t, exec i s = .next t ∧
    unsampled s t = unsampled s (((e.start i s).physTrap e.b.ctx x e.b.die (coreUnit e.acor.cache) pa).ended .done))

/-- The checks of an access came out against it: the unit traps, holds its thread on an absent page, or traps PAGE_FATAL. -/
def Sys2Proof.Claim.GlobalTraps (i : Instr) (s : State) (e : LaneEnv) (va n level : Nat) (need : Need) : Prop :=
  (∀ x, s.chk e.acor va n need level n = .trap x → exec i s = .next (s.unitTrap e.r x)) ∧
  MeetsDevice i s e (s.chk e.acor va n need level n) ∧
  (s.chk e.acor va n need level n = .fatal → exec i s = .next (s.unitTrap e.r (.sync 0x07 0 va))) ∧
  (s.chk e.acor va n need level n = .absent → faultTold s e.acor.unit e.b.nodeRef va →
    ∃ t, exec i s = .next t ∧ t.thread? e.r = some { e.th with status := .wait .held } ∧
      ∃ x ∈ t.holds, x.who = .agent (.lane e.r) ∧ x.va / 65536 = va / 65536)

/-- Global loads (R202, R203, R421). -/
def Sys2Proof.Claim.LoadsGlobal (i : Instr) (off : Int) (n : Nat) (sext : Bool) : Prop :=
  ∀ s e, LaneHand i s e →
    let va := globalAddr e off
    let waits := s.logHas e.acor va = true ∨ 63 ≤ e.th.ld
    GlobalTraps i s e va n 2 .load ∧
    ∀ pa, s.chk e.acor va n .load 2 n = .ok pa → (waits → Waits i s e.r .retry) ∧
      (¬waits → ∃ t new, exec i s = .next t ∧ Issued i s t e true (fun y => { y with ld := y.ld + 1 }) ∧
        t.loads = (e.start i s).loads ++ new ∧ t.stores = s.stores ∧ t.sideLog = s.sideLog ∧
        new.map (fun l => (l.who, l.cache, l.pa, l.n, l.sext, l.atom, l.hold)) =
          (parts n).map (fun p => (.lane e.r, e.b.cacheOf e.r.t e.th, pa + p.1, p.2, sext, none, false)) ∧
        new.flatMap (fun l => l.dst) = (destRegs i).map fun r => some (e.th.lreg r))

/-- Global stores and reductions (R136, R203, R422, R425): outstanding, or in the side log behind the entries of their page. -/
def Sys2Proof.Claim.StoresGlobal (i : Instr) (off : Int) (bs : LaneEnv → List Byte) (atom : LaneEnv → Option AtomOp) (rfunc : Nat) : Prop :=
  ∀ s e, LaneHand i s e →
    let va := globalAddr e off
    let n := (bs e).length
    (∀ x, s.chk e.acor va n .store 1 n = .trap x → exec i s = .next (s.unitTrap e.r x)) ∧
    MeetsDevice i s e (s.chk e.acor va n .store 1 n) ∧
    (s.chk e.acor va n .store 1 n = .fatal → ∃ t, exec i s = .next t ∧
      LaneChanged i s (unsampled s t) e e.next fun th => { th with pfatal := some (th.pfatal.getD va) }) ∧
    (∀ pa, s.chk e.acor va n .store 1 n = .ok pa → s.logHas e.acor va = false →
      (63 ≤ e.th.st → Waits i s e.r .retry) ∧
      (e.th.st < 63 → ∃ t new, exec i s = .next t ∧ Issued i s t e false (fun y => { y with st := y.st + 1 }) ∧
        t.stores = s.stores ++ new ∧ t.loads = (e.start i s).loads ∧ t.sideLog = s.sideLog ∧
        new.map (fun x => (x.who, x.cache, x.pa, x.bytes, x.atom, x.discard)) =
          (parts n).map (fun p => (.lane e.r, e.b.cacheOf e.r.t e.th, pa + p.1, ((bs e).drop p.1).take p.2, atom e, false)))) ∧
    (∀ pa, s.chk e.acor va n .store 1 n = .ok pa → s.logHas e.acor va = true →
      (s.logRoom e.acor = false → Waits i s e.r .retry) ∧
      (s.logRoom e.acor = true → ∃ t x, exec i s = .next t ∧ Issued i s t e false id ∧ t.stores = s.stores ∧
        t.sideLog = s.sideLog ++ [x] ∧ x.who = e.r ∧ x.va = va ∧ x.red = (atom e).isSome ∧ x.rfunc.toNat = rfunc ∧
        x.byteEn.toNat = (2 ^ n - 1) * 2 ^ (va % 16) ∧ x.data.toNat = little (bs e) * 2 ^ (8 * (va % 16)))) ∧
    (s.chk e.acor va n .store 1 n = .absent → s.logRoom e.acor = false → Waits i s e.r .retry) ∧
    (s.chk e.acor va n .store 1 n = .absent → s.logRoom e.acor = true → faultTold s e.acor.unit e.b.nodeRef va → ∃ t x, exec i s = .next t ∧ t.stores = s.stores ∧
      t.sideLog = s.sideLog ++ [x] ∧ x.who = e.r ∧ x.va = va ∧ x.pa = none ∧
      ∃ g ∈ t.faults, g.unit = e.acor.unit ∧ g.ctx = e.b.ctx ∧ g.va / 65536 = va / 65536)

/-- The operand of an atomic as the unit's sources give it (R423). -/
def Sys2Proof.Claim.operandOf (mode : Nat) (e : LaneEnv) : AtomOp :=
  let op := mode % 16
  ⟨op, if atomBytes op = 8 then e.pair 1 else BitVec.ofNat 64 (e.x 1).toNat,
   if op = 13 then e.w 1 3 ++ e.w 1 2 else BitVec.ofNat 64 (e.w 1 1).toNat, mode / 16⟩

/-- Global loads and stores, short and long, and GRED: the address, the traps and waits before the effect, and the access that is outstanding
afterwards with its bytes, its destination and its count (R136, R203, R418 to R425). -/
def Sys2Proof.Claim.GlobalLoadsAndStores : Prop :=
  (∀ f : ShortI, LoadsGlobal (.ld f) f.imm.toInt 4 false ∧
    StoresGlobal (.st f) f.imm.toInt (fun e => storeData (e.vals.getD 1 []) 4) (fun _ => none) 0) ∧
  ∀ f : XM, LoadsGlobal (.ldLong f) f.off.toInt (2 ^ (f.mode.toNat % 8)) (f.mode.getLsbD 3) ∧
    StoresGlobal (.stLong f) f.off.toInt (fun e => storeData (e.vals.getD 1 []) (2 ^ (f.mode.toNat % 8))) (fun _ => none) 0 ∧
    StoresGlobal (.gred f) f.off.toInt (fun e => storeData (e.vals.getD 1 []) (atomBytes (f.mode.toNat % 16)))
      (fun e => some (operandOf f.mode.toNat e)) f.mode.toNat

/-- ATOM (R423 to R425): a release part holds the thread at issue until its stores are visible and its entries replayed; an acquire part holds it
afterwards; OP 15 is an outstanding store, every other an outstanding read with its operation, counted in LD unless it holds the thread. -/
def Sys2Proof.Claim.GlobalAtomics : Prop :=
  ∀ (f : XM) (s : State) (e : LaneEnv), LaneHand (.atom f) s e →
    let op := f.mode.toNat % 16
    let ord := f.mode.toNat / 16
    let n := atomBytes op
    let va := globalAddr e f.off.toInt
    let need : Need := if op = 15 then .store else .both
    let released := e.th.st = 0 ∧ ∀ x ∈ s.sideLog, x.who ≠ e.r
    let full := if op = 15 then 63 ≤ e.th.st else ord % 2 = 0 ∧ 63 ≤ e.th.ld
    let waits := s.logHas e.acor va = true ∨ (2 ≤ ord ∧ ¬released) ∨ full
    GlobalTraps (.atom f) s e va n 1 need ∧
    ∀ pa, s.chk e.acor va n need 1 n = .ok pa → (waits → Waits (.atom f) s e.r .retry) ∧
      (¬waits → op ≠ 15 → ∃ t x, exec (.atom f) s = .next t ∧
        Issued (.atom f) s t e true (fun y => { y with ld := if ord % 2 = 1 then y.ld else y.ld + 1 }) ∧
        t.loads = (e.start (.atom f) s).loads ++ [x] ∧ t.stores = s.stores ∧ t.sideLog = s.sideLog ∧ x.who = .lane e.r ∧ x.pa = pa ∧
        x.n = n ∧ x.atom = some (operandOf f.mode.toNat e) ∧ x.hold = decide (ord % 2 = 1) ∧
        x.dst = (destRegs (.atom f)).map fun r => some (e.th.lreg r)) ∧
      (¬waits → op = 15 → ∃ t x, exec (.atom f) s = .next t ∧ Issued (.atom f) s t e false (fun y => { y with st := y.st + 1 }) ∧
        t.stores = s.stores ++ [x] ∧ t.loads = (e.start (.atom f) s).loads ∧ t.sideLog = s.sideLog ∧ x.who = .lane e.r ∧ x.pa = pa ∧
        x.bytes.length = n ∧ x.atom = some (operandOf f.mode.toNat e) ∧ x.discard = false)

/-- DISCARD, short and long: an outstanding discard of its line, counted in ST; on an absent or fatal page it completes at once without effect (R131,
R427). -/
def Sys2Proof.Claim.Discards : Prop :=
  ∀ (i : Instr) (off : Int), (∃ f : ShortI, i = .discard f ∧ off = f.imm.toInt) ∨ (∃ f : XM, i = .discardLong f ∧ off = f.off.toInt) →
    ∀ s e, LaneHand i s e →
      let va := globalAddr e off
      let waits := s.logHas e.acor va = true ∨ 63 ≤ e.th.st
      (∀ x, s.chk e.acor va 128 .store 1 128 = .trap x → exec i s = .next (s.unitTrap e.r x)) ∧
      MeetsDevice i s e (s.chk e.acor va 128 .store 1 128) ∧
      (s.chk e.acor va 128 .store 1 128 = .absent ∨ s.chk e.acor va 128 .store 1 128 = .fatal → ∃ t, exec i s = .next t ∧ LaneChanged i s (unsampled s t) e e.next id) ∧
      ∀ pa, s.chk e.acor va 128 .store 1 128 = .ok pa → (waits → Waits i s e.r .retry) ∧
        (¬waits → ∃ t x, exec i s = .next t ∧ Issued i s t e false (fun y => { y with st := y.st + 1 }) ∧
          t.stores = s.stores ++ [x] ∧ t.loads = (e.start i s).loads ∧ t.sideLog = s.sideLog ∧ x.who = .lane e.r ∧ x.pa = pa ∧
          x.bytes.length = 128 ∧ x.discard = true)


/-! Fences, waiting on an address, the barrier, mailboxes, counters (spec 07 R162 to R164, 08 R169 to R184, 22 R426 to R437). -/

/-- No store of the thread in hand is outstanding or in the side log (R138). -/
def Sys2Proof.Claim.storesDone (s : State) (e : LaneEnv) : Prop := e.th.st = 0 ∧ ∀ x ∈ s.sideLog, x.who ≠ e.r

/-- What a release that is no access waits for: its stores, and its loads (R138, R172). -/
def Sys2Proof.Claim.quiet (s : State) (e : LaneEnv) : Prop := storesDone s e ∧ ∀ l ∈ s.loads, l.who ≠ .lane e.r

/-- The latest value of every byte stays, and a cache holds no copy any more (R177). -/
def Sys2Proof.Claim.Acquired (s t : State) (c : Cache) : Prop :=
  (∀ a n, t.homeRead a n = s.homeRead a n) ∧ ∀ x ∈ t.cached, x.cache = c → x.owned = true

/-- The state t without what an acquire and a use of lines left in it, and with what happened before the thread's next access as it was. -/
def Sys2Proof.Claim.settledAs (s t : State) (e : LaneEnv) : State :=
  { unsampled s t with mem := s.mem, cached := s.cached, tags := s.tags, hot := s.hot, holds := s.holds }.modThread e.r fun y =>
    { y with know := e.th.know }

/-- A unit writes its destination, acquires, and does nothing else. -/
def Sys2Proof.Claim.WroteAcquiring (i : Instr) (s t : State) (e : LaneEnv) (ws : List Word) : Prop :=
  Acquired s t (e.b.cacheOf e.r.t e.th) ∧ LaneWrote i s (settledAs s t e) e ws

/-- A unit changes its thread, acquires, and does nothing else. -/
def Sys2Proof.Claim.ChangedAcquiring (i : Instr) (s t : State) (e : LaneEnv) (f : Thread → Thread) : Prop :=
  Acquired s t (e.b.cacheOf e.r.t e.th) ∧ LaneChanged i s (settledAs s t e) e e.next f

/-- FENCE (R169, R174, R426): what each kind waits for; no fence changes the latest value of a byte; an acquire fence takes up what the thread has read from,
and drops the copies of its cache; after a full one no cache owns a byte with a store of the thread behind it, and its die's far cache
holds no copy; a release fence keeps what lies before it for the thread's later atomics. -/
def Sys2Proof.Claim.Fences : Prop :=
  ∀ (f : XM) (s : State) (e : LaneEnv), LaneHand (.fence f) s e →
    let kind := f.mode.toNat % 4
    let loadsDone := e.th.ld = 0 ∧ ∀ l ∈ s.loads, l.who ≠ .lane e.r
    let ready := (2 ≤ kind → storesDone s e) ∧ (kind % 2 = 1 → loadsDone)
    let know := if kind % 2 = 1 then e.th.know.join e.th.seen.clk else e.th.know
    let c := e.b.cacheOf e.r.t e.th
    (¬ready → Waits (.fence f) s e.r .retry) ∧
    (ready → ∃ t, exec (.fence f) s = .next t ∧
      t.thread? e.r = some { e.th with
        know := know, seen := if kind % 2 = 1 then .none else e.th.seen,
        relClk := if 2 ≤ kind then some (know.add (.lane e.r, s.nextId)) else e.th.relClk, pc := e.next, status := .ready, pass := false } ∧
      s.onlyThread t e.r ∧ (∀ a n, t.homeRead a n = s.homeRead a n) ∧
      (kind % 2 = 0 → t.mem = s.mem ∧ t.cached = s.cached) ∧
      (kind % 2 = 1 → ∀ x ∈ t.cached, x.cache = c → x.owned = true) ∧
      (kind = 3 → (∀ x ∈ t.cached, x.owned = true → ∀ p ∈ x.cover, p.1 = .lane e.r → s.nextId ≤ p.2) ∧
        ∀ x ∈ t.cached, x.cache = .far c.die → x.owned = true) ∧
      t = { s with blocks := t.blocks, mem := t.mem, cached := t.cached, tags := t.tags, hot := t.hot, issue := t.issue })

/-- WAITA (R429, R431): on an access that its checks let pass it waits for what its thread has outstanding at the address, then reads the word as an
acquire; an unexpected value, or a full wake table, ends it with that value; else it is registered and parked, and once woken it returns what
it reads then. -/
def Sys2Proof.Claim.WaitingOnAnAddress : Prop :=
  ∀ (f : XM) (s : State) (e : LaneEnv), LaneHand (.waita f) s e →
    let n := if f.mode = 0 then 4 else 8
    let want := if f.mode = 0 then (e.x 1).toNat else (e.pair 1).toNat
    let va := globalAddr e f.off.toInt
    let words (v : Nat) : List Word := if f.mode = 0 then [BitVec.ofNat 32 v] else pairOf v
    (e.th.status ≠ .wait (.address true) → GlobalTraps (.waita f) s e va n 2 .load ∧
      ∀ pa, s.chk e.acor va n .load 2 n = .ok pa →
        let quietHere := s.logHas e.acor va = false ∧ s.homeQuiet (.lane e.r) pa n = true
        let v := little (s.homeRead pa n)
        let full := 4096 ≤ (s.wakes.filter fun w => w.die = homeDie pa).length
        (¬quietHere → Waits (.waita f) s e.r .retry) ∧
        (quietHere → s.meets e.b.die none pa n true ≠ .none → MeetsDevice (.waita f) s e (.dev (s.meets e.b.die none pa n true) pa)) ∧
        (quietHere → homeOf pa ≠ .window → s.meets e.b.die none pa n true = .none →
          (v ≠ want ∨ full → ∃ t, exec (.waita f) s = .next t ∧ t.wakes = s.wakes ∧ WroteAcquiring (.waita f) s t e (words v)) ∧
          (v = want → ¬full → ∃ t, exec (.waita f) s = .next t ∧ t.thread? e.r = some { e.th with
              status := .wait (.address false), know := e.th.know.join (s.syncN pa n).clk } ∧
            t.wakes = s.wakes ++ [⟨homeDie pa, e.b.ctx, pa, e.r⟩] ∧ Acquired s t (e.b.cacheOf e.r.t e.th)))) ∧
    (e.th.status = .wait (.address true) → ∀ pa cls, s.access e.b.die e.b.nodeRef e.th.inTrap va n .load = .pa pa cls →
      homeOf pa ≠ .window → s.meets e.b.die none pa n true = .none →
      ∃ t, exec (.waita f) s = .next t ∧ WroteAcquiring (.waita f) s t e (words (little (s.homeRead pa n))))

/-- WAKE (R430, R431): once everything that its thread wrote is performed, it wakes registered threads of its word, oldest first and as many as
asked for, writes how many, takes them out of the table, and leaves those of other lines; it reads and writes no memory. -/
def Sys2Proof.Claim.WakingThreads : Prop :=
  ∀ (f : XM) (s : State) (e : LaneEnv), LaneHand (.wake f) s e →
    let va := globalAddr e f.off.toInt
    let performed := (∀ x ∈ s.stores, x.who ≠ .lane e.r) ∧ (∀ l ∈ s.loads, l.who = .lane e.r → l.atom = none) ∧ ∀ x ∈ s.sideLog, x.who ≠ e.r
    GlobalTraps (.wake f) s e va 4 3 .load ∧
    ∀ pa, s.chk e.acor va 4 .load 3 4 = .ok pa → (¬performed → Waits (.wake f) s e.r .retry) ∧
      (performed →
        let there := s.wakes.filter fun w => w.ctx = e.b.ctx && w.pa = pa
        let k := if (e.x 1).toNat = 0 then there.length else Min.min (e.x 1).toNat there.length
        ∃ t y, exec (.wake f) s = .next t ∧ t.thread? e.r = some y ∧ ThreadWrote (.wake f) s e y [BitVec.ofNat 32 k] ∧ y.pc = e.next ∧
          y.status = .ready ∧ s.sameBytes t ∧
          (∀ w ∈ there.take k, w ∉ t.wakes ∧ ∀ th, w.who ≠ e.r → s.thread? w.who = some th → th.status = .wait (.address false) →
            t.thread? w.who = some { th with status := .wait (.address true) }) ∧
          (∀ w ∈ s.wakes, w.ctx ≠ e.b.ctx ∨ w.pa / 128 ≠ pa / 128 → w ∈ t.wakes) ∧
          t = { s with blocks := t.blocks, loads := t.loads, wakes := t.wakes, holds := t.holds, issue := t.issue })

/-- A block is as before but for its threads, its phase count and what happened before the arrivals at its barrier. -/
def Sys2Proof.Claim.arrivedIn (e : LaneEnv) (b : Block) (th : Thread) : Prop :=
  let ph (u : Nat) (x : Thread) : Nat := if u = e.r.t then e.th.ph.toNat + 1 else x.ph.toNat
  let live (p : Nat) : Prop := ∃ u x, e.b.threads[u]? = some x ∧ x.status ≠ .ended ∧ ph u x ≤ p
  b = { e.b with threads := b.threads, bp := b.bp, barIn := b.barIn, barNext := b.barNext, barDone := b.barDone } ∧ b.threads[e.r.t]? = some th ∧
  (∀ u, u ≠ e.r.t → b.threads[u]? = e.b.threads[u]?) ∧
  (live e.b.bp.toNat → b.bp = e.b.bp) ∧
  (¬live e.b.bp.toNat → live (e.b.bp.toNat + 1) → b.bp = e.b.bp + 1)

/-- The block barrier (R432): a thread two phases ahead, or with work to be released, waits; else it arrives, and the phase completes when no
live thread is behind it; a wait ends, as an acquire, when the phase count has come to the thread's arrivals. -/
def Sys2Proof.Claim.BlockBarrier : Prop :=
  ∀ (f : XM) (s : State) (e : LaneEnv), e.th.ph.toNat < 2 ^ 64 - 1 → e.b.bp.toNat < 2 ^ 64 - 2 →
    let may := e.th.ph - e.b.bp ≠ 2 ∧ quiet s e
    let passed := e.th.ph.toNat ≤ e.b.bp.toNat
    (LaneHand (.barrierarrive f) s e →
      (¬may → Waits (.barrierarrive f) s e.r .retry) ∧
      (may → ∃ t b, exec (.barrierarrive f) s = .next t ∧ t.block? e.r.block = some b ∧
        arrivedIn e b { e.th with ph := e.th.ph + 1, pc := e.next, status := .ready, pass := false } ∧ t.mem = s.mem ∧ t.cached = s.cached ∧
        ∀ id, id ≠ e.r.block → t.block? id = s.block? id)) ∧
    (LaneHand (.barrierwait f) s e →
      (f.mode = 0 ∨ e.th.status = .wait .barrier →
        (passed → ∃ t, exec (.barrierwait f) s = .next t ∧ ChangedAcquiring (.barrierwait f) s t e id) ∧
        (¬passed → Waits (.barrierwait f) s e.r (if f.mode = 0 then .retry else .barrier))) ∧
      (f.mode ≠ 0 → e.th.status ≠ .wait .barrier →
        (¬may → Waits (.barrierwait f) s e.r .retry) ∧
        (may → ∃ t b, exec (.barrierwait f) s = .next t ∧ t.block? e.r.block = some b ∧
          arrivedIn e b { e.th with ph := e.th.ph + 1, status := .wait .barrier })))

/-- A mailbox that an MBINIT's values may set up (R162). -/
def Sys2Proof.Claim.boxValues (e : LaneEnv) (glob : Bool) (base v : Nat) : Prop :=
  let size := 16 * (v % 2 ^ 11)
  let k := v / 2 ^ 11 % 2 ^ 7
  v < 2 ^ 23 ∧ 16 ≤ size ∧ size ≤ 16384 ∧ 1 ≤ k ∧ k ≤ 64 ∧ v / 2 ^ 18 % 2 ^ 5 < e.b.shares.length ∧
  (glob = false → ∀ i, i < k → localThere e (base + i * size) size)

/-- Only the mailboxes of one block may have changed. -/
def Sys2Proof.Claim.onlyBox (s t : State) (e : LaneEnv) (id m : Nat) (x : Mailbox) : Prop :=
  (∀ q, q ≠ e.r → t.thread? q = s.thread? q) ∧
  ∀ k, (t.block? k).map Block.bare = (s.block? k).map fun b => if k = id then { b.bare with boxes := b.boxes.set m (some x) } else b.bare

/-- MBINIT sets up a mailbox with counters of zero, or traps MAILBOX (R162, R164, R434). -/
def Sys2Proof.Claim.MailboxSetup : Prop :=
  ∀ (f : XM) (s : State) (e : LaneEnv), LaneHand (.mbinit f) s e →
    let glob := decide (f.mode = 1)
    let m := f.off.toNat % 32
    let v := (e.x 1).toNat
    let base := if f.mode = 1 then (e.pair 0).toNat else (e.x 0).toNat
    let good := m < e.b.code.launch.boxes ∧ boxValues e glob base v
    (¬good → exec (.mbinit f) s = .next (s.unitTrap e.r (.sync 0x0E 0 0))) ∧
    (good → ∃ t, exec (.mbinit f) s = .next t ∧
      onlyBox s t e e.b.id m ⟨glob, base, 16 * (v % 2 ^ 11), v / 2 ^ 11 % 2 ^ 7, v / 2 ^ 18 % 2 ^ 5, 0, 0, 0, 0, [], []⟩ ∧
      t.thread? e.r = ((e.start (.mbinit f) s).thread? e.r).map fun y => y.done e.next)

/-- MBPUT and MBGET on a mailbox that the form finds (R163, R235, R435): the traps, those of the slot's address before MAILBOX, the waits, the counter
that moves on by one, what happened before a publication or a return, the slot's address that MBGET writes; a form that finds no mailbox traps MAILBOX, as one of the own block does whose number is too high or that no MBINIT set up (R164). -/
def Sys2Proof.Claim.MailboxTransfers : Prop :=
  ∀ (f : XM) (s : State) (e : LaneEnv),
    let full := f.mode.getLsbD 0
    (f.mode.getLsbD 1 = false → (e.b.code.launch.boxes ≤ f.off.toNat % 32 ∨ e.b.boxes.getD (f.off.toNat % 32) none = none) → e.box? s f = none) ∧
    (LaneHand (.mbput f) s e →
      (e.box? s f = none → exec (.mbput f) s = .next (s.unitTrap e.r (.sync 0x0E 0 0))) ∧
      ∀ b m x, e.box? s f = some (b, m, x) →
        let nothing := if full then x.pub = x.claim else x.ret = x.take
        (¬quiet s e → Waits (.mbput f) s e.r .retry) ∧
        let slot := e.slotChk s x ((if full then x.pub else x.ret).toNat % x.k)
        let k := e.th.know.add (.lane e.r, s.nextId)
        (quiet s e → ∀ y, slot = some (.trap y) → exec (.mbput f) s = .next (s.unitTrap e.r y)) ∧
        (quiet s e → (∀ y, slot ≠ some (.trap y)) → nothing → exec (.mbput f) s = .next (s.unitTrap e.r (.sync 0x0E 0 0))) ∧
        (quiet s e → slot = none → ¬nothing → ∃ t, exec (.mbput f) s = .next t ∧
          onlyBox s t e b.id m (if full then { x with pub := x.pub + 1, pubK := x.pubK.join k } else
            { x with ret := x.ret + 1, retK := x.retK.join k }) ∧ t.mem = s.mem ∧ t.cached = s.cached ∧
          t.thread? e.r = ((e.start (.mbput f) s).thread? e.r).map fun y => y.done e.next)) ∧
    (LaneHand (.mbget f) s e →
      (e.box? s f = none → exec (.mbget f) s = .next (s.unitTrap e.r (.sync 0x0E 0 0))) ∧
      ∀ b m x, e.box? s f = some (b, m, x) →
        let ready := (if full then x.pub ≠ x.take else (x.claim.toNat - x.ret.toNat : Int) % 2 ^ 32 < x.k) ∧ (x.glob = true → e.th.ld < 63)
        let i := (if full then x.take else x.claim).toNat % x.k
        (¬ready → Waits (.mbget f) s e.r .retry) ∧
        (ready → e.slotChk s x i = none → ∃ t y, exec (.mbget f) s = .next t ∧
          onlyBox s t e b.id m (if full then { x with take := x.take + 1 } else { x with claim := x.claim + 1 }) ∧
          t.thread? e.r = some y ∧ ThreadWrote (.mbget f) s e y (pairOf ((x.base + i * x.size : Nat) % 2 ^ 64)) ∧ y.pc = e.next ∧
          y.status = .ready ∧ Acquired s t (e.b.cacheOf e.r.t e.th) ∧
          t = { s with blocks := t.blocks, loads := t.loads, holds := t.holds, cached := t.cached, issue := t.issue }))

/-- WAITC waits until each count is at or below its field, then goes on, an acquire where a limit of copies or tile operations can bind (R184, R203,
R436). CWAIT waits until its counter has come to the threshold, or not at all with NB, and writes the counter's value as an acquire; it
traps on a name outside the counters and on a counter of another context (R437). -/
def Sys2Proof.Claim.WaitingOnCounters : Prop :=
  (∀ (f : XI) (s : State) (e : LaneEnv), LaneHand (.waitc f) s e →
    let v := f.imm.toNat
    let low := e.th.ld ≤ v % 2 ^ 6 ∧ e.th.st ≤ v / 2 ^ 6 % 2 ^ 6 ∧ e.th.cp.length ≤ v / 2 ^ 12 % 2 ^ 4 ∧ e.th.tl.length ≤ v / 2 ^ 16 % 2 ^ 4
    (¬low → Waits (.waitc f) s e.r .retry) ∧
    (low → v / 2 ^ 12 % 2 ^ 8 = 255 → ∃ t, exec (.waitc f) s = .next t ∧ LaneChanged (.waitc f) s (unsampled s t) e e.next id) ∧
    (low → v / 2 ^ 12 % 2 ^ 8 ≠ 255 → ∃ t, exec (.waitc f) s = .next t ∧ ChangedAcquiring (.waitc f) s t e id)) ∧
  ∀ (f : X3) (s : State) (e : LaneEnv), LaneHand (.cwait f) s e →
    let v := (e.x 0).toNat
    let d : Die := if v / 2 ^ 13 % 2 = 1 then .b else .a
    (2 ^ 14 ≤ v → exec (.cwait f) s = .next (s.unitTrap e.r (.sync 0x01 5 0))) ∧
    (v < 2 ^ 14 →
      ((∀ c, s.counter? d (v % 2 ^ 13) = some c → c.ctx ≠ e.b.ctx) → exec (.cwait f) s = .next (s.unitTrap e.r (.sync 0x08 0 0))) ∧
      ∀ c, s.counter? d (v % 2 ^ 13) = some c → c.ctx = e.b.ctx →
        (f.mode ≠ 1 → c.val.toNat < (e.x 1).toNat → Waits (.cwait f) s e.r .retry) ∧
        (f.mode = 1 ∨ (e.x 1).toNat ≤ c.val.toNat → ∃ t, exec (.cwait f) s = .next t ∧ WroteAcquiring (.cwait f) s t e [c.val]))


/-! Engine commands: copies, collectives, triggered sends, receive counters, the corner-turn stage (spec 23 R438 to R448, R461, 22 R428). -/

/-- The state with an operation that waits to register. -/
def Sys2Proof.Claim.entered (s : State) (o : Op) : State := { s with ops := s.ops ++ [o], nextId := s.nextId + 1 }

/-- Nothing stands against an operation that its command enters: its unit is there, its issuer's count is below its limit, its engine has an
entry, and no lock, ring, earlier waiting operation, logged store or access to be performed stands against its ranges (R55, R103, R138, R182,
R204, R416, R438). -/
def Sys2Proof.Claim.mayEnter (s : State) (o : Op) : Prop :=
  let u := entered s o
  u.opUnit o = .ready ∧ u.underLimit o = true ∧ u.entryFree o = true ∧ u.rangesFree o = true

/-- A registered operation: its ranges lock, and a copy has its engine (R103, R182). -/
def Sys2Proof.Claim.registered (s : State) (o : Op) : Op :=
  { o with lockSrc := s.srcSpans o, lockDst := s.dstSpans o, engine := if o.isCopy then s.pickEngine o.die o.ctx else none, phase := .registered }

/-- What a lane command leaves whose operation registers: the operation stands last, the thread counts it, takes its result and goes on; nothing else
but the thread's clocks and the sticky bit that says one overflowed (R203, R312, R438). -/
structure Sys2Proof.Claim.LaneIssues (i : Instr) (s t : State) (e : LaneEnv) (x : Op) (ws : List Word) : Prop where
  ops : t.ops = (s.ops.filter fun y => y.id != s.nextId) ++ [x]
  next : t.nextId = s.nextId + 1
  counts : ∃ y, t.thread? e.r = some y ∧ y.cp = e.th.cp ++ (if x.count = .cp then [(x.id, false)] else []) ∧
    y.tl = e.th.tl ++ (if x.count = .tl then [(x.id, false)] else []) ∧ y.st = e.th.st + (if x.count = .st then 1 else 0)
  rest : LaneWrote i s (unsampled s { t.modThread e.r (fun y =>
      { y with cp := e.th.cp, tl := e.th.tl, st := e.th.st, wclk := e.th.wclk, rclk := e.th.rclk }) with
    ops := s.ops, nextId := s.nextId, dbg := s.dbg }) e ws

/-- A lane command whose checks came out well in a state u, which is s but for its holds: its operation registers and the thread goes on, or it waits and
the thread with it, in which case no operation has come to be registered (R438). back undoes in the next state what u undid of s. -/
def Sys2Proof.Claim.LaneCommand (i : Instr) (s u : State) (e : LaneEnv) (o : Op) (back : State → State) : Prop :=
  (mayEnter u o → ∃ t, exec i s = .next t ∧ LaneIssues i s (back t) e (registered u o) []) ∧
  (¬mayEnter u o → u.opUnit o ≠ .failed → ∃ t, exec i s = .next t ∧ ∀ x ∈ t.ops, x ∈ s.ops ∨ x = o)

/-- What a lead command leaves whose operation registers; it is counted in no count, and completes with a record (R416, R438). -/
structure Sys2Proof.Claim.LeadIssues (s t : State) (e : LeadEnv) (x : Op) (f : Lead → Lead) : Prop where
  ops : t.ops = (s.ops.filter fun y => y.id != s.nextId) ++ [x]
  next : t.nextId = s.nextId + 1
  rest : LeadChanged s { t.modLead e.r (fun y => { y with wclk := e.l.wclk }) with ops := s.ops, nextId := s.nextId, dbg := s.dbg } e e.next f

/-- A lead command whose checks came out well. -/
def Sys2Proof.Claim.LeadCommand (i : Instr) (s u : State) (e : LeadEnv) (o : Op) (back : State → State) : Prop :=
  (mayEnter u o → ∃ t, exec i s = .next t ∧ LeadIssues s (back t) e (registered u o) id) ∧
  (¬mayEnter u o → u.opUnit o ≠ .failed → ∃ t, exec i s = .next t ∧ ∀ x ∈ t.ops, x ∈ s.ops ∨ x = o)

/-- A place that a command names: a local one by the low word of its operand (R440). -/
def Sys2Proof.Claim.placed (b : Block) (isLocal : Bool) (a : Nat) : Loc := if isLocal then .loc b.id a else .glob a

/-- The operands that COPY takes (R440, R441): otherwise it traps ILLEGAL with subcode 5. -/
def Sys2Proof.Claim.copyLegal (src dst c : Nat) : Prop :=
  let len := c % 2 ^ 41
  1 ≤ len ∧ len ≤ 2 ^ 40 ∧ c / 2 ^ 43 % 2 ^ 5 = 0 ∧ (c.testBit 41 = true → src < 2 ^ 32) ∧ (c.testBit 42 = true → dst < 2 ^ 32) ∧
  (c.testBit 41 = c.testBit 42 → ¬(src < dst + len ∧ dst < src + len))

/-- COPY of lane and lead code (R438, R440, R441): what is illegal, that a range that R130 or R152 refuses traps, and the operation that it issues
otherwise, with its places, its length and its tag. -/
def Sys2Proof.Claim.CopyIssues : Prop :=
  let x (b : Block) (src c : Nat) := rangeAt (placed b (c.testBit 41) src) (c % 2 ^ 41)
  let y (b : Block) (dst c : Nat) := rangeAt (placed b (c.testBit 42) dst) (c % 2 ^ 41)
  let op (u : State) (a : Acor) (src dst c : Nat) : Op :=
    u.newOp a (BitVec.ofNat 16 (c / 2 ^ 48)) (.copy (x a.b src c).at_ (y a.b dst c).at_ (c % 2 ^ 41) none) [x a.b src c] [y a.b dst c]
  (∀ (f : X3) (s : State) (e : LaneEnv), LaneHand (.copy f) s e → e.th.heldOp = none →
    let u := e.start (.copy f) s
    let src := (e.pair 0).toNat
    let dst := (e.pair 1).toNat
    let c := (e.pair 2).toNat
    (¬copyLegal src dst c → exec (.copy f) s = .next (s.unitTrap e.r (.sync 0x01 5 0))) ∧
    (copyLegal src dst c →
      (∀ z, u.areasTrap e.acor [x e.b src c] [y e.b dst c] = some z → exec (.copy f) s = .next (s.unitTrap e.r z)) ∧
      (u.areasTrap e.acor [x e.b src c] [y e.b dst c] = none → LaneCommand (.copy f) s u e (op u e.acor src dst c) id))) ∧
  ∀ (f : Y3) (s : State) (e : LeadEnv), LeadHand (.leadCopy f) s e → (∀ n, e.l.status ≠ .op n) →
    let src := (e.l.get f.a).toNat
    let dst := (e.l.get f.b).toNat
    let c := (e.l.get f.e).toNat
    (¬copyLegal src dst c → exec (.leadCopy f) s = .next (s.leadTrap e.r (.sync 0x01 5 0))) ∧
    (copyLegal src dst c →
      (∀ z, s.areasTrap e.acor [x e.b src c] [y e.b dst c] = some z → exec (.leadCopy f) s = .next (s.leadTrap e.r z)) ∧
      (s.areasTrap e.acor [x e.b src c] [y e.b dst c] = none → LeadCommand (.leadCopy f) s s e (op s e.acor src dst c) id))

/-- The operands that COPYF takes (R442); its destination lies in a share of the issuer's block. -/
def Sys2Proof.Claim.copyfLegal (b : Block) (src dst c : Nat) : Prop :=
  let len := c % 2 ^ 24
  1 ≤ len ∧ len ≤ 2 ^ 23 ∧ (c.testBit 24 = false → c / 2 ^ 27 % 2 ^ 5 = 0) ∧ c.testBit 47 = false ∧ (c.testBit 46 = true → src < 2 ^ 32) ∧
  (c.testBit 46 = true → ¬(src < dst + len ∧ dst < src + len)) ∧ (b.local? dst len).isSome = true

/-- COPYF of lane and lead code (R442): as COPY, with the follow-on that goes with it and a pitch that is checked. -/
def Sys2Proof.Claim.CopyfIssues : Prop :=
  let x (b : Block) (src c : Nat) := rangeAt (placed b (c.testBit 46) src) (c % 2 ^ 24)
  let y (b : Block) (d c : Nat) := rangeAt (.loc b.id (d % 2 ^ 32)) (c % 2 ^ 24)
  let pitchOk (c : Nat) : Prop := 1 ≤ c / 2 ^ 32 % 2 ^ 14 ∧ c / 2 ^ 32 % 2 ^ 14 ≤ 8192
  let op (u : State) (a : Acor) (src d c : Nat) : Op :=
    u.newOp a (BitVec.ofNat 16 (c / 2 ^ 48))
      (.copy (x a.b src c).at_ (y a.b d c).at_ (c % 2 ^ 24)
        (some ⟨c.testBit 24, c / 2 ^ 25 % 4, c / 2 ^ 27 % 2 ^ 5, 16 * (c / 2 ^ 32 % 2 ^ 14), d / 2 ^ 32 % 2 ^ 32⟩)) [x a.b src c] [y a.b d c]
  (∀ (f : X3) (s : State) (e : LaneEnv), LaneHand (.copyf f) s e → e.th.heldOp = none →
    let u := e.start (.copyf f) s
    let src := (e.pair 0).toNat
    let d := (e.pair 1).toNat
    let c := (e.pair 2).toNat
    (¬copyfLegal e.b src (d % 2 ^ 32) c → exec (.copyf f) s = .next (s.unitTrap e.r (.sync 0x01 5 0))) ∧
    (copyfLegal e.b src (d % 2 ^ 32) c →
      (¬pitchOk c → exec (.copyf f) s = .next (s.unitTrap e.r (.sync 0x04 0 (d % 2 ^ 32)))) ∧
      (pitchOk c → ∀ z, u.areasTrap e.acor [x e.b src c] [y e.b d c] = some z → exec (.copyf f) s = .next (s.unitTrap e.r z)) ∧
      (pitchOk c → u.areasTrap e.acor [x e.b src c] [y e.b d c] = none → LaneCommand (.copyf f) s u e (op u e.acor src d c) id))) ∧
  ∀ (f : Y3) (s : State) (e : LeadEnv), LeadHand (.leadCopyf f) s e → (∀ n, e.l.status ≠ .op n) →
    let src := (e.l.get f.a).toNat
    let d := (e.l.get f.b).toNat
    let c := (e.l.get f.e).toNat
    (¬copyfLegal e.b src (d % 2 ^ 32) c → exec (.leadCopyf f) s = .next (s.leadTrap e.r (.sync 0x01 5 0))) ∧
    (copyfLegal e.b src (d % 2 ^ 32) c →
      (¬pitchOk c → exec (.leadCopyf f) s = .next (s.leadTrap e.r (.sync 0x04 0 (d % 2 ^ 32)))) ∧
      (pitchOk c → ∀ z, s.areasTrap e.acor [x e.b src c] [y e.b d c] = some z → exec (.leadCopyf f) s = .next (s.leadTrap e.r z)) ∧
      (pitchOk c → s.areasTrap e.acor [x e.b src c] [y e.b d c] = none → LeadCommand (.leadCopyf f) s s e (op s e.acor src d c) id))

/-- A group that has the device's number exactly once and none with a reserved bit (R443, R444). -/
def Sys2Proof.Claim.groupLegal (dev : Nat) (g : List Nat) : Prop := (∀ x ∈ g, x < 2 ^ 21) ∧ (g.filter fun x => x = dev).length = 1

/-- The plain loads of a command's record leave the latest value of every byte, where no debug session records or replays (R438). -/
def Sys2Proof.Claim.readOnly (s u : State) (ctx : Nat) : Prop := s.rrMode ctx = 0 → ∀ a n, u.homeRead a n = s.homeRead a n

/-- COLL of lane and lead code on a record whose fields are legal and a group that could be read (R443, R444): what traps, and the operation that
it issues otherwise, in the state after the reads: its places follow from the rank of the device in the group. -/
def Sys2Proof.Claim.CollIssues : Prop :=
  let aligned (c : CollRec) : Prop := c.src % collBytes c.ty = 0 ∧ c.dst % collBytes c.ty = 0 ∧ c.nslot % 8 = 0
  let areas (c : CollRec) (dev : Nat) (g : List Nat) := collAreas c (g.idxOf dev) g.length
  let op (u : State) (a : Acor) (c : CollRec) (g : List Nat) : Op :=
    u.newOp a c.tag (collWork c g (g.idxOf u.pkg.devnum.toNat)) (areas c u.pkg.devnum.toNat g).1 (areas c u.pkg.devnum.toNat g).2
  (∀ (f : X3) (s : State) (e : LaneEnv), LaneHand (.coll f) s e → e.th.heldOp = none →
    ∀ ws u, e.record (e.start (.coll f) s) (e.pair 0).toNat 64 = .words ws u →
      let v : State := { u with holds := s.holds }
      let w (k : Nat) := ws.getD k 0
      let c := collRec w
      readOnly s u e.b.ctx ∧ (collFields w = false → exec (.coll f) s = .next (s.unitTrap e.r (.sync 0x01 5 0))) ∧
      ∀ g z, v.readGroup e.acor w = .inr (g, z) → (∀ a n, z.homeRead a n = u.homeRead a n) ∧
        (¬groupLegal s.pkg.devnum.toNat g → exec (.coll f) s = .next (s.unitTrap e.r (.sync 0x01 5 0))) ∧
        (groupLegal s.pkg.devnum.toNat g →
          (¬aligned c → ∃ x, x ∈ [c.src, c.dst, c.nslot] ∧ exec (.coll f) s = .next (s.unitTrap e.r (.sync 0x04 0 x))) ∧
          (aligned c → z.areasTrap e.acor (areas c s.pkg.devnum.toNat g).1 (areas c s.pkg.devnum.toNat g).2 = none →
            LaneCommand (.coll f) z (z.unhold (.lane e.r)) e (op (z.unhold (.lane e.r)) e.acor c g) (fun t => { t with holds := z.holds })))) ∧
  ∀ (f : Y3) (s : State) (e : LeadEnv), LeadHand (.leadColl f) s e → (∀ n, e.l.status ≠ .op n) →
    (512 < f.a.toNat + 8 → exec (.leadColl f) s = .next (s.leadTrap e.r (.sync 0x01 5 0))) ∧
    (f.a.toNat + 8 ≤ 512 →
      let w (k : Nat) : Nat := if k < 8 then (e.l.get (BitVec.ofNat 9 (f.a.toNat + k))).toNat else 0
      let c := collRec w
      (collFields w = false → exec (.leadColl f) s = .next (s.leadTrap e.r (.sync 0x01 5 0))) ∧
      ∀ g z, s.readGroup e.acor w = .inr (g, z) → (∀ a n, z.homeRead a n = s.homeRead a n) ∧
        (¬groupLegal s.pkg.devnum.toNat g → exec (.leadColl f) s = .next (s.leadTrap e.r (.sync 0x01 5 0))) ∧
        (groupLegal s.pkg.devnum.toNat g →
          (¬aligned c → ∃ x, x ∈ [c.src, c.dst, c.nslot] ∧ exec (.leadColl f) s = .next (s.leadTrap e.r (.sync 0x04 0 x))) ∧
          (aligned c → z.areasTrap e.acor (areas c s.pkg.devnum.toNat g).1 (areas c s.pkg.devnum.toNat g).2 = none →
            LeadCommand (.leadColl f) z (z.unhold (.lead e.r)) e (op (z.unhold (.lead e.r)) e.acor c g) (fun t => { t with holds := z.holds }))))

/-- COPY and COPYF of lane and lead code. -/
def Sys2Proof.Claim.CopyCommands : Prop := CopyIssues ∧ CopyfIssues

/-- COLL of lane and lead code. -/
def Sys2Proof.Claim.CollectiveCommands : Prop := CollIssues

/-- A record of TSEND that is legal on a die (R445, R446). -/
def Sys2Proof.Claim.sendLegal (d : Die) (w : Nat → Nat) : Prop :=
  let len := w 2 / 2 ^ 32 % 2 ^ 31
  w 0 < 2 ^ 56 ∧ w 1 < 2 ^ 51 ∧ w 2 / 2 ^ 21 % 2 ^ 11 = 0 ∧ w 2 < 2 ^ 63 ∧ w 3 / 2 ^ 46 % 4 = 0 ∧ 1 ≤ len ∧ len ≤ 2 ^ 30 ∧
  ((w 3).testBit 45 = true ↔ d = .b)

/-- An armed send (R48, R445, R446): what it will send, where, when, its entry of the table and its arming number. -/
def Sys2Proof.Claim.armed (w : Nat → Nat) (entry arm : Nat) : Tsend :=
  { src := w 0, off := w 1 % 2 ^ 40, region := w 1 / 2 ^ 40 % 2 ^ 10, rdie := if (w 1).testBit 50 then .b else .a, device := w 2 % 2 ^ 21,
    len := w 2 / 2 ^ 32 % 2 ^ 31, t := BitVec.ofNat 32 (w 3), ctr := w 3 / 2 ^ 32 % 2 ^ 13, entry := entry, arm := arm % 2 ^ 20, order := arm,
    fired := false, sent := 0 }

/-- The arming number of a die. -/
def Sys2Proof.Claim.armingOf (s : State) : Die → Nat
  | .a => s.armA
  | .b => s.armB

/-- The entry of a die's trigger table that a new send takes: the lowest that no armed send holds (R446; that it is the lowest is the model's
choice). -/
def Sys2Proof.Claim.takesEntry (s : State) (d : Die) (n : Nat) : Prop :=
  let held (k : Nat) : Prop := ∃ o ∈ s.ops, o.die = d ∧ o.phase = .registered ∧ ∃ t, o.work = .tsend t ∧ t.fired = false ∧ t.entry = k
  n < 2048 ∧ ¬held n ∧ ∀ k, k < n → held k

/-- What TSEND does with a legal record of its context's counter, in a state u: an armed entry with its handle when its counter has not come to the
threshold yet. -/
def Sys2Proof.Claim.Arms (u : State) (a : Acor) (w : Nat → Nat) (issues : Op → Word → (State → State) → Prop) : Prop :=
  let src := [rangeAt (.glob (w 0)) (w 2 / 2 ^ 32 % 2 ^ 31)]
  let d := a.b.die
  let arm := armingOf u d
  let op (n : Nat) : Op := u.newOp a (BitVec.ofNat 16 (w 3 / 2 ^ 48)) (.tsend (armed w n arm)) src []
  ∀ c n, u.counter? d (w 3 / 2 ^ 32 % 2 ^ 13) = some c → u.areasTrap a src [] = none → mayEnter u (op n) → takesEntry u d n →
    c.val.toNat < w 3 % 2 ^ 32 →
      issues (registered u (op n)) (BitVec.ofNat 32 (n + d.num * 2 ^ 11 + arm % 2 ^ 20 * 2 ^ 12))
        (fun t => { t with armA := u.armA, armB := u.armB, fired := u.fired })

/-- The trap of a send's source that stands highest (R130, R446). -/
def Sys2Proof.Claim.sourceTrap (u : State) (a : Acor) (w : Nat → Nat) : Option Trap :=
  u.areasTrap a [rangeAt (.glob (w 0)) (w 2 / 2 ^ 32 % 2 ^ 31)] []

/-- The counter of a record of TSEND is assigned to the issuer's context (R446). -/
def Sys2Proof.Claim.ownCounter (s : State) (a : Acor) (w : Nat → Nat) : Prop :=
  ∃ c, s.counter? a.b.die (w 3 / 2 ^ 32 % 2 ^ 13) = some c ∧ c.ctx = a.b.ctx

/-- TSEND of lane and lead code (R235, R445, R446): its traps, a counter that is not the context's below what stands higher among the traps of its source, and the entry that it arms with its handle where its counter is below the threshold. -/
def Sys2Proof.Claim.SendArms : Prop :=
  (∀ (f : X3) (s : State) (e : LaneEnv), LaneHand (.tsend f) s e → e.th.heldOp = none →
    ∀ ws u, e.record (e.start (.tsend f) s) (e.pair 0).toNat 32 = .words ws u →
      let w (k : Nat) := ws.getD k 0
      readOnly s u e.b.ctx ∧ (¬sendLegal e.b.die w → exec (.tsend f) s = .next (s.unitTrap e.r (.sync 0x01 5 0))) ∧
      (sendLegal e.b.die w → (∀ z, sourceTrap u e.acor w = some z → (ownCounter s e.acor w ∨ z.priority < 15) →
        exec (.tsend f) s = .next (s.unitTrap e.r z)) ∧
        (¬ownCounter s e.acor w → (∀ z, sourceTrap u e.acor w = some z → 15 ≤ z.priority) →
          exec (.tsend f) s = .next (s.unitTrap e.r (.sync 0x08 0 0)))) ∧
      (sendLegal e.b.die w → ownCounter s e.acor w →
        Arms u e.acor w fun x h back => ∃ t, exec (.tsend f) s = .next t ∧ armingOf t e.b.die = armingOf s e.b.die + 1 ∧
          LaneIssues (.tsend f) u (back t) e x [h])) ∧
  ∀ (f : Y3) (s : State) (e : LeadEnv), LeadHand (.leadTsend f) s e → (∀ n, e.l.status ≠ .op n) →
    (512 < f.a.toNat + 4 → exec (.leadTsend f) s = .next (s.leadTrap e.r (.sync 0x01 5 0))) ∧
    (f.a.toNat + 4 ≤ 512 →
      let w (k : Nat) : Nat := if k < 4 then (e.l.get (BitVec.ofNat 9 (f.a.toNat + k))).toNat else 0
      (¬sendLegal e.b.die w → exec (.leadTsend f) s = .next (s.leadTrap e.r (.sync 0x01 5 0))) ∧
      (sendLegal e.b.die w → (∀ z, sourceTrap s e.acor w = some z → (ownCounter s e.acor w ∨ z.priority < 15) →
        exec (.leadTsend f) s = .next (s.leadTrap e.r z)) ∧
        (¬ownCounter s e.acor w → (∀ z, sourceTrap s e.acor w = some z → 15 ≤ z.priority) →
          exec (.leadTsend f) s = .next (s.leadTrap e.r (.sync 0x08 0 0)))) ∧
      (sendLegal e.b.die w → ownCounter s e.acor w →
        Arms s e.acor w fun x h back => ∃ t, exec (.leadTsend f) s = .next t ∧ armingOf t e.b.die = armingOf s e.b.die + 1 ∧
          LeadIssues s (back t) e x fun l => l.put f.d (h.setWidth 64)))

/-- The armed send that a handle names for a context (R447). -/
def Sys2Proof.Claim.namesSend (s : State) (ctx h : Nat) (o : Op) : Prop :=
  h < 2 ^ 32 ∧ o ∈ s.ops ∧ o.phase = .registered ∧ o.ctx = ctx ∧ o.die = (if h.testBit 11 then .b else .a) ∧
  ∃ t, o.work = .tsend t ∧ t.fired = false ∧ t.entry = h % 2 ^ 11 ∧ t.arm = h / 2 ^ 12

/-- The answer of TDISARM (R447): 0 for an armed entry, 1 for one that has fired, 2 otherwise. -/
def Sys2Proof.Claim.disarmAnswer (s : State) (ctx h : Nat) (v : Nat) : Prop :=
  let hit : Prop := ∃ o, namesSend s ctx h o
  let was : Prop := h < 2 ^ 32 ∧ (⟨if h.testBit 11 then .b else .a, h % 2 ^ 11, ctx, h / 2 ^ 12⟩ : FiredEntry) ∈ s.fired
  (hit → v = 0) ∧ (¬hit → was → v = 1) ∧ (¬hit → ¬was → v = 2)

/-- TDISARM of lane and lead code (R447): its answer; where it removes nothing it does nothing else; what it removes is gone. -/
def Sys2Proof.Claim.SendDisarms : Prop :=
  (∀ (f : X3) (s : State) (e : LaneEnv), LaneHand (.tdisarm f) s e →
    let h := (e.x 0).toNat
    ∃ t y v, exec (.tdisarm f) s = .next t ∧ disarmAnswer s e.b.ctx h v ∧ t.thread? e.r = some y ∧
      ThreadWrote (.tdisarm f) s e y [BitVec.ofNat 32 v] ∧ y.pc = e.next ∧ y.status = .ready ∧
      (v ≠ 0 → LaneWrote (.tdisarm f) s { t.modThread e.r (fun y => { y with wclk := e.th.wclk }) with dbg := s.dbg } e [BitVec.ofNat 32 v]) ∧
      (v = 0 → ∃ o, namesSend s e.b.ctx h o ∧ o ∉ t.ops ∧ ∀ x ∈ s.ops, x.id ≠ o.id → x ∈ t.ops)) ∧
  ∀ (f : Y3) (s : State) (e : LeadEnv), LeadHand (.leadTdisarm f) s e →
    let h := (e.l.get f.a).toNat
    ∃ t l v, exec (.leadTdisarm f) s = .next t ∧ disarmAnswer s e.b.ctx h v ∧ t.lead? e.r = some l ∧
      l.get f.d = BitVec.ofNat 64 v ∧ l.pc = e.next ∧ l.status = .ready ∧
      (v ≠ 0 → LeadChanged s { t.modLead e.r (fun y => { y with wclk := e.l.wclk }) with dbg := s.dbg } e e.next fun l =>
        l.put f.d (BitVec.ofNat 64 v)) ∧
      (v = 0 → ∃ o, namesSend s e.b.ctx h o ∧ o ∉ t.ops ∧ ∀ x ∈ s.ops, x.id ≠ o.id → x ∈ t.ops)

/-- CTRRD and CTRRST of lane and lead code (R448): a bit above bit 13 is illegal, a counter that is not the context's traps PROTECT; the value is
written as an acquire of the landings that it includes, and the reset sets that counter alone to 0. -/
def Sys2Proof.Claim.CountersRead : Prop :=
  let names (s : State) (v : Nat) : Option Counter := s.counter? (if v.testBit 13 then .b else .a) (v % 2 ^ 13)
  let left (s : State) (c : Counter) (resets : Bool) : List Counter :=
    s.counters.map fun x => if resets && x.die = c.die && x.idx = c.idx then { x with val := 0, rel := .none } else x
  (∀ (i : Instr) (resets : Bool), (∃ f : X3, i = .ctrrd f ∧ resets = false) ∨ (∃ f : X3, i = .ctrrst f ∧ resets = true) → ∀ s e, LaneHand i s e →
    let v := (e.x 0).toNat
    (2 ^ 14 ≤ v → exec i s = .next (s.unitTrap e.r (.sync 0x01 5 0))) ∧
    (v < 2 ^ 14 → (∀ c, names s v = some c → c.ctx ≠ e.b.ctx) → exec i s = .next (s.unitTrap e.r (.sync 0x08 0 0))) ∧
    (v < 2 ^ 14 → ∀ c, names s v = some c → c.ctx = e.b.ctx → ∃ t, exec i s = .next t ∧ t.counters = left s c resets ∧
      WroteAcquiring i s { t.modThread e.r (fun y => { y with wclk := e.th.wclk }) with counters := s.counters, dbg := s.dbg } e [c.val])) ∧
  ∀ (i : Instr) (f : Y3) (resets : Bool), (i = .leadCtrrd f ∧ resets = false) ∨ (i = .leadCtrrst f ∧ resets = true) → ∀ s e, LeadHand i s e →
    let v := (e.l.get f.a).toNat
    (2 ^ 14 ≤ v → exec i s = .next (s.leadTrap e.r (.sync 0x01 5 0))) ∧
    (v < 2 ^ 14 → (∀ c, names s v = some c → c.ctx ≠ e.b.ctx) → exec i s = .next (s.leadTrap e.r (.sync 0x08 0 0))) ∧
    (v < 2 ^ 14 → ∀ c, names s v = some c → c.ctx = e.b.ctx → ∃ t, exec i s = .next t ∧ t.counters = left s c resets ∧
      Acquired s t (e.b.leadCache e.r.j) ∧
      LeadChanged s { t.modLead e.r (fun y => { y with wclk := e.l.wclk, know := e.l.know }) with
        counters := s.counters, mem := s.mem, cached := s.cached, tags := s.tags, hot := s.hot, dbg := s.dbg } e e.next
        fun l => l.put f.d (c.val.setWidth 64))

/-- Triggered sends and receive counters from lane and lead code (R445 to R448). -/
def Obligations.SendsAndCounters : Prop := SendArms ∧ SendDisarms ∧ CountersRead

/-- A pitch word that R428 admits. -/
def Sys2Proof.Claim.pitchesOk (v : Nat) : Prop := v < 2 ^ 54 ∧ ∀ k, k < 3 → 1 ≤ v / 2 ^ (18 * k) % 2 ^ 18 ∧ v / 2 ^ (18 * k) % 2 ^ 18 ≤ 131072

/-- The move that STT and STASH issue (R160, R428). -/
def Sys2Proof.Claim.turnMove (v x a b : Nat) : Stash :=
  ⟨x, 128 * (v % 2 ^ 18), a, 128 * (v / 2 ^ 18 % 2 ^ 18), b, 128 * (v / 2 ^ 36 % 2 ^ 18), none⟩

/-- The operation of a move: 64 rows of 128 bytes at each destination. -/
def Sys2Proof.Claim.turnOp (u : State) (a : Acor) (pc : CodeAddr) (m : Stash) : Op :=
  u.newOp a (pc.setWidth 16) (.stash m) [] [⟨.glob m.a, 64, 128, m.pa⟩, ⟨.glob m.b, 64, 128, m.pb⟩]

/-- STT and STASH (R160, R161, R428, R461): a pitch outside 1 to 131,072, a reserved bit or a misaligned address traps ALIGN; else the move is
issued: STASH goes on with its operation registered; STT is held with it registered and counted in ST, and goes on once the stage has read
all rows. -/
def Sys2Proof.Claim.CornerTurnCommands : Prop :=
  let good (v x a b : Nat) : Prop := pitchesOk v ∧ x % 128 = 0 ∧ a % 128 = 0 ∧ b % 128 = 0
  (∀ (f : X3) (s : State) (e : LaneEnv), LaneHand (.stt f) s e →
    let u := e.start (.stt f) s
    let v := (e.pair 3).toNat
    let x := (e.x 0).toNat
    let a := (e.pair 1).toNat
    let b := (e.pair 2).toNat
    let m := turnMove v x a b
    let o := turnOp u e.acor e.pc m
    (e.th.heldOp = none → ¬good v x a b → ∃ z, exec (.stt f) s = .next (s.unitTrap e.r (.sync 0x04 0 z))) ∧
    (e.th.heldOp = none → good v x a b → u.areasTrap e.acor [⟨.loc e.b.id x, 64, 128, m.sp⟩] o.dst = none → u.turnLocks e.acor m = none →
      e.turnChk u m = none → mayEnter (u.unhold (.lane e.r)) o → ∃ t y, exec (.stt f) s = .next t ∧
        t.ops = (s.ops.filter fun z => z.id != s.nextId) ++ [registered (u.unhold (.lane e.r)) o] ∧
        t.thread? e.r = some y ∧ y = { e.th with status := .wait (.op o.id), st := e.th.st + 1, wclk := y.wclk } ∧ s.onlyThread t e.r ∧ s.sameBytes t) ∧
    (∀ id, e.th.status = .wait (.op id) → ∀ z k, s.op? id = some z → z.phase = .registered → z.issuer = .agent (.lane k) →
      ∀ m' rows, z.work = .stash m' → m'.rows = some rows →
        ∃ t, exec (.stt f) s = .next t ∧ LaneWrote (.stt f) s (unsampled s t) e [])) ∧
  ∀ (f : Y3) (s : State) (e : LeadEnv), LeadHand (.stash f) s e → (∀ n, e.l.status ≠ .op n) →
    let v := (e.l.get f.d).toNat
    let x := (e.l.get f.a).toNat % 2 ^ 32
    let a := (e.l.get f.b).toNat
    let b := (e.l.get f.e).toNat
    let m := turnMove v x a b
    let o := turnOp s e.acor e.pc m
    (¬good v x a b → ∃ z, exec (.stash f) s = .next (s.leadTrap e.r (.sync 0x04 0 z))) ∧
    (good v x a b → s.areasTrap e.acor [⟨.loc e.b.id x, 64, 128, m.sp⟩] o.dst = none → s.turnLocks e.acor m = none →
      LeadCommand (.stash f) s s e o id)

/-! The tile engine's commands (spec 15 R289 to R296, 23 R454 to R460). -/

/-- The records that TSHAPE takes (R289, R291). -/
def Sys2Proof.Claim.recordOk (v : Nat) : Prop :=
  let ta := v % 16
  let tb := v / 16 % 16
  let mode := v / 2 ^ 8 % 4
  let m := v / 2 ^ 12 % 2 ^ 7
  let k := v / 2 ^ 19 % 2 ^ 9
  let n := v / 2 ^ 28 % 2 ^ 7
  let kmax := if mode = 2 then 32 else if ta ≤ 1 then 64 else if ta = 6 ∨ ta = 8 then 256 else if ta = 9 then 32 else 128
  let nmax := if mode ≠ 2 ∧ ta = 9 then 32 else 64
  v < 2 ^ 45 ∧ ta ≤ 9 ∧ tb ≤ 9 ∧ mode ≤ 2 ∧ (ta = tb ∨ (ta, tb) ∈ [(2, 3), (3, 2), (4, 5), (5, 4)]) ∧
  1 ≤ m ∧ m ≤ 64 ∧ 1 ≤ k ∧ k ≤ kmax ∧ 1 ≤ n ∧ n ≤ nmax ∧ v / 2 ^ 37 % 2 ^ 6 + m ≤ 64 ∧
  (v.testBit 10 = true → k % 32 = 0 ∧ (mode = 2 ∨ (2 ≤ ta ∧ ta ≤ 7 ∧ 2 ≤ tb ∧ tb ≤ 7))) ∧
  (mode = 1 → ta ≤ 1 ∧ k = 16 ∧ n = 16) ∧ (mode = 2 → ta = 0 ∧ v / 2 ^ 35 % 4 = 0)

/-- TSHAPE (R291, R312, R456): a record that breaks R291 is illegal with subcode 5; any other is written whole, the issuer's WCLK and the debug
record of clocks that ran over may change, and nothing else does. -/
def Sys2Proof.Claim.ShapesSet : Prop :=
  (∀ (f : X3) (s : State) (e : LaneEnv), LaneHand (.tshape f) s e →
    let v := e.pair 0
    (¬recordOk v.toNat → exec (.tshape f) s = .next (s.unitTrap e.r (.sync 0x01 5 0))) ∧
    (recordOk v.toNat → ∃ t, exec (.tshape f) s = .next t ∧
      (t.share? e.b.id e.j).map (fun x => x.tile) = some { e.sh.tile with sh := e.sh.tile.sh.set! (f.mode.toNat % 4) (some v) } ∧
      LaneChanged (.tshape f) s { (t.modSlot e.b.id e.j fun _ => e.sh.tile).modThread e.r (fun y => { y with wclk := e.th.wclk }) with dbg := s.dbg }
        e e.next id)) ∧
  ∀ (f : Y3) (s : State) (e : LeadEnv), LeadHand (.leadTshape f) s e →
    let v := e.l.get f.a
    (¬recordOk v.toNat → exec (.leadTshape f) s = .next (s.leadTrap e.r (.sync 0x01 5 0))) ∧
    (recordOk v.toNat → ∃ t, exec (.leadTshape f) s = .next t ∧
      (t.share? e.b.id e.r.j).map (fun x => x.tile) = some { e.sh.tile with sh := e.sh.tile.sh.set! (f.mode.toNat % 4) (some v) } ∧
      LeadChanged s { (t.modSlot e.b.id e.r.j fun _ => e.sh.tile).modLead e.r (fun y => { y with wclk := e.l.wclk }) with dbg := s.dbg } e e.next id)

/-- The tiles of a mask. -/
def Sys2Proof.Claim.tilesOf (mask : Nat) : List Nat := (List.range 32).filter fun k => mask.testBit k

/-- A tile command as it is issued (R454, R456): its record is copied now. -/
def Sys2Proof.Claim.tileOf (a : Acor) (fn mode : Nat) (r : Dword) (mask x b c : Nat) : TileCmd :=
  { fn := fn, block := a.b.id, j := a.j, shn := mode % 4, sh := r, tile := mode / 4 % 32, mask := mask, a := x, b := b, c := c,
    started := false, bound := false, plane := none, bytes := none }

/-- The operation of a tile command. -/
def Sys2Proof.Claim.tileOp (u : State) (a : Acor) (pc : CodeAddr) (t : TileCmd) (src dst : List Area) : Op :=
  u.newOp a (pc.setWidth 16) (.tile t) src dst

/-- TLDW, TMMA and TST on a slot's record, in the order of R235 (R294, R295, R454, R459): what traps, and that the rest is issued. skip is a member of
a chain other than its head, which reads none of its operands (R300, R458). -/
def Sys2Proof.Claim.RecordForm (u : State) (a : Acor) (slot : TileSlot) (pc : CodeAddr) (fn mode x b c : Nat) (traps : Trap → Prop)
    (issues : Op → Prop) : Prop :=
  let p := b / 2 ^ 32 % 2 ^ 14
  let ofmt := b / 2 ^ 48 % 4
  let stray (mode2 : Bool) : Prop := if fn = 6 then b / 2 ^ 46 % 4 ≠ 0 ∨ 2 ^ 50 ≤ b else 2 ^ 46 ≤ b ∨ (mode2 ∧ 2 ^ 32 ≤ c)
  let odd (f64 : Bool) : Prop := fn = 6 ∧ (ofmt = 3 ∨ (ofmt ≠ 0 ∧ f64 = true))
  let crooked : Prop := p = 0 ∨ 8192 < p ∨ x % 16 ≠ 0
  let rec_ := slot.sh.toList.getD (mode % 4) none
  (rec_ = none →
    (stray false → traps (.sync 0x01 2 0)) ∧ (¬stray false → odd false → traps (.sync 0x01 5 0)) ∧
    (¬stray false → ¬odd false → crooked → traps (.sync 0x04 0 x)) ∧ (¬stray false → ¬odd false → ¬crooked → traps (.sync 0x0C 0 0))) ∧
  ∀ v, rec_ = some v →
    let r := shapeRec v
    let t := tileOf a fn mode v 0 x b c
    let skip := notHead a t
    let src := if skip then [] else t.areas.1
    let dst := if skip then [] else t.areas.2
    let fine : Prop := skip = true ∨ (¬stray (decide (r.mode = 2)) ∧ ¬crooked ∧ (∀ y ∈ t.bases, y % 16 = 0) ∧ u.areasTrap a src dst = none)
    (skip = false → stray (decide (r.mode = 2)) → traps (.sync 0x01 2 0)) ∧
    (skip = false → ¬stray (decide (r.mode = 2)) → odd (decide (r.ta = 9)) → traps (.sync 0x01 5 0)) ∧
    (skip = false → ¬stray (decide (r.mode = 2)) → ¬odd (decide (r.ta = 9)) → crooked → traps (.sync 0x04 0 x)) ∧
    (fine → ¬odd (decide (r.ta = 9)) →
      ((∃ k ∈ t.names, fn ≠ 3 ∧ u.tileHeld a.b.id a.j k = false) → traps (.sync 0x0C 0 0)) ∧
      (fn = 5 → (u.tagsAhead a.b.id a.j).1 ≠ some r.tag → traps (.sync 0x0C 0 0)) ∧
      ((∃ q, a.who = .lane q) → r.chain ≠ 0 → traps (.sync 0x0C 0 0)) ∧
      (u.tileShapeBad a t = false → issues (tileOp u a pc t src dst)))

/-- TSAVE and TLOAD (R460). -/
def Sys2Proof.Claim.MemoryForm (u : State) (a : Acor) (pc : CodeAddr) (saves : Bool) (mode x b c : Nat) (traps : Trap → Prop) (issues : Op → Prop) : Prop :=
  let t := tileOf a (if saves then 7 else 8) mode 0 0 x b c
  let area := [rangeAt (.glob x) 16384]
  let src := if saves then [] else area
  let dst := if saves then area else []
  (x % 128 ≠ 0 → traps (.sync 0x04 0 (x % 2 ^ 56))) ∧
  (x % 128 = 0 → (∀ z, u.areasTrap a src dst = some z → traps z) ∧
    (u.areasTrap a src dst = none →
      (u.tileHeld a.b.id a.j (mode / 4 % 32) = false → traps (.sync 0x0C 0 0)) ∧
      (u.tileHeld a.b.id a.j (mode / 4 % 32) = true → issues (tileOp u a pc t src dst))))

/-- The forms of lane code and of lead code that use a record, with their function. -/
def Sys2Proof.Claim.recordForms : List (Nat × (X3 → Instr) × (Y3 → Instr)) := [(3, .tldw, .leadTldw), (5, .tmma, .leadTmma), (6, .tst, .leadTst)]

/-- The tile commands with operands in lane and lead code (R454, R457 to R460). -/
def Sys2Proof.Claim.TileCommands : Prop :=
  ShapesSet ∧
  (∀ p ∈ recordForms, ∀ (f : X3) (s : State) (e : LaneEnv), LaneHand (p.2.1 f) s e → e.th.heldOp = none →
    RecordForm (e.start (p.2.1 f) s) e.acor e.sh.tile e.pc p.1 f.mode.toNat (e.x 0).toNat (e.pair 1).toNat (e.pair 2).toNat
      (fun z => exec (p.2.1 f) s = .next (s.unitTrap e.r z)) (fun o => LaneCommand (p.2.1 f) s (e.start (p.2.1 f) s) e o id)) ∧
  (∀ p ∈ recordForms, ∀ (f : Y3) (s : State) (e : LeadEnv), LeadHand (p.2.2 f) s e → (∀ n, e.l.status ≠ .op n) →
    RecordForm s e.acor e.sh.tile e.pc p.1 f.mode.toNat ((e.l.get f.a).toNat % 2 ^ 32) (e.l.get f.b).toNat (e.l.get f.e).toNat
      (fun z => exec (p.2.2 f) s = .next (s.leadTrap e.r z)) (fun o => LeadCommand (p.2.2 f) s s e o id)) ∧
  (∀ p ∈ [(true, Instr.tsave, Instr.leadTsave), (false, .tload, .leadTload)],
    (∀ (f : X3) (s : State) (e : LaneEnv), LaneHand (p.2.1 f) s e → e.th.heldOp = none →
      MemoryForm (e.start (p.2.1 f) s) e.acor e.pc p.1 f.mode.toNat (e.pair 0).toNat (e.pair 1).toNat (e.pair 2).toNat
        (fun z => exec (p.2.1 f) s = .next (s.unitTrap e.r z)) (fun o => LaneCommand (p.2.1 f) s (e.start (p.2.1 f) s) e o id)) ∧
    ∀ (f : Y3) (s : State) (e : LeadEnv), LeadHand (p.2.2 f) s e → (∀ n, e.l.status ≠ .op n) →
      MemoryForm s e.acor e.pc p.1 f.mode.toNat (e.l.get f.a).toNat (e.l.get f.b).toNat (e.l.get f.e).toNat
        (fun z => exec (p.2.2 f) s = .next (s.leadTrap e.r z)) (fun o => LeadCommand (p.2.2 f) s s e o id))

/-- The answer of a TCLAIM (R295, R455). -/
def Sys2Proof.Claim.claimAnswer (s : State) (b : Block) (j : Nat) (slot : TileSlot) (mask : Nat) : Word → Prop :=
  let elsewhere : Prop := ∃ k ∈ tilesOf mask, ∃ x ∈ s.blocks, x.die = b.die ∧ x.id ≠ b.id ∧ ∃ sh ∈ x.shares, sh.core = b.coreNum j ∧
    (sh.tile.tile? k).isSome = true
  let all := (List.range 32).filter fun k => mask.testBit k || (slot.tile? k).isSome
  fun v => (elsewhere → v = 1) ∧ (¬elsewhere → 16 < all.length → v = 2) ∧ (¬elsewhere → all.length ≤ 16 → v = 0)

/-- What a claim leaves of a slot: a granted one holds its tiles, all zero, beside those it held; a refused one changes nothing. -/
def Sys2Proof.Claim.claimed (old new : TileSlot) (mask : Nat) (v : Word) : Prop :=
  (v ≠ 0 → new = old) ∧
  (v = 0 → new = { old with tiles := new.tiles } ∧ ∀ k, k < 32 → new.tile? k = if mask.testBit k then some [] else old.tile? k)

/-- No command of a slot that is in its order names a tile of a mask. -/
def Sys2Proof.Claim.noneNames (s : State) (block j mask : Nat) : Prop :=
  ∀ o ∈ s.ops, o.phase = .registered → ∀ t, o.work = .tile t → t.block = block → t.j = j → ∀ k ∈ t.names, k ∉ tilesOf mask

/-- TCLAIM that no earlier command keeps waiting: its answer, and the tiles that it takes; TFREE and TSWAP are issued and go on (R455, R457). -/
def Sys2Proof.Claim.TilesClaimedAndFreed : Prop :=
  (∀ (f : X3) (s : State) (e : LaneEnv), LaneHand (.tclaim f) s e → e.th.heldOp = none →
    let u := e.start (.tclaim f) s
    let mask := (e.x 0).toNat
    let o := tileOp u e.acor e.pc (tileOf e.acor 0 0 0 mask mask (e.pair 1).toNat (e.pair 2).toNat) [] []
    mayEnter u o → noneNames s e.b.id e.j mask → ∃ t v slot, exec (.tclaim f) s = .next t ∧ claimAnswer s e.b e.j e.sh.tile mask v ∧
      (t.share? e.b.id e.j).map (fun x => x.tile) = some slot ∧ claimed e.sh.tile slot mask v ∧ t.ops = s.ops.filter (fun x => x.id != s.nextId) ∧
      LaneWrote (.tclaim f) s { (t.modSlot e.b.id e.j fun _ => e.sh.tile).modThread e.r (fun y => { y with wclk := e.th.wclk }) with
        ops := s.ops, nextId := s.nextId, dbg := s.dbg } e [v]) ∧
  (∀ (f : Y3) (s : State) (e : LeadEnv), LeadHand (.leadTclaim f) s e → (∀ n, e.l.status ≠ .op n) →
    let mask := (e.l.get f.a).toNat % 2 ^ 32
    let o := tileOp s e.acor e.pc (tileOf e.acor 0 f.mode.toNat 0 mask mask (e.l.get f.b).toNat (e.l.get f.e).toNat) [] []
    mayEnter s o → noneNames s e.b.id e.r.j mask → ∃ t v slot, exec (.leadTclaim f) s = .next t ∧ claimAnswer s e.b e.r.j e.sh.tile mask v ∧
      (t.share? e.b.id e.r.j).map (fun x => x.tile) = some slot ∧ claimed e.sh.tile slot mask v ∧ t.ops = s.ops.filter (fun x => x.id != s.nextId) ∧
      LeadChanged s { (t.modSlot e.b.id e.r.j fun _ => e.sh.tile).modLead e.r (fun y => { y with wclk := e.l.wclk }) with
        ops := s.ops, nextId := s.nextId, dbg := s.dbg } e e.next fun l => l.put f.d (v.setWidth 64)) ∧
  (∀ p ∈ [(1, Instr.tfree, Instr.leadTfree), (4, .tswap, .leadTswap)],
    (∀ (f : X3) (s : State) (e : LaneEnv), LaneHand (p.2.1 f) s e → e.th.heldOp = none →
      let x := (e.x 0).toNat
      let t := tileOf e.acor p.1 f.mode.toNat 0 (if p.1 = 1 then x else 0) x (e.pair 1).toNat (e.pair 2).toNat
      LaneCommand (p.2.1 f) s (e.start (p.2.1 f) s) e (tileOp (e.start (p.2.1 f) s) e.acor e.pc t [] []) id) ∧
    ∀ (f : Y3) (s : State) (e : LeadEnv), LeadHand (p.2.2 f) s e → (∀ n, e.l.status ≠ .op n) →
      let x := (e.l.get f.a).toNat % 2 ^ 32
      let t := tileOf e.acor p.1 f.mode.toNat 0 (if p.1 = 1 then x else 0) x (e.l.get f.b).toNat (e.l.get f.e).toNat
      LeadCommand (p.2.2 f) s s e (tileOp s e.acor e.pc t [] []) id)

/-! The sampler, the page catalogue and the batch-forming queue (spec 05 R121 to R123, 06 R143 to R146, 20 R388, R389, 23 R449 to R453). -/

/-- A lane command that holds its thread: its operation registers and the thread waits for it; what it computes comes when it has finished (R287,
R438, R453). -/
structure Sys2Proof.Claim.Holds (s t : State) (e : LaneEnv) (x : Op) : Prop where
  ops : t.ops = (s.ops.filter fun y => y.id != s.nextId) ++ [x]
  next : t.nextId = s.nextId + 1
  thread : ∃ y, t.thread? e.r = some y ∧ y = { e.th with status := .wait (.op x.id), wclk := y.wclk }
  others : s.onlyThread t e.r
  bytes : s.sameBytes t

/-- A thread that its command held goes on with the words of a finished operation, which is gone then. -/
def Sys2Proof.Claim.HeldGoesOn (i : Instr) (many : Nat) : Prop :=
  ∀ s e, LaneHand i s e → ∀ id o ws, e.th.status = .wait (.op id) → s.op? id = some o → o.phase = .finished ws → ws.length = many → ws ≠ [] →
    ∃ t, exec i s = .next t ∧ t.ops = s.ops.filter (fun x => x.id != id) ∧ LaneWrote i s { t with ops := s.ops } e ws

/-- The parts of flat local space that a range takes, as sources or destinations (R109, R388). -/
def Sys2Proof.Claim.flatIn (b : Block) (x n : Nat) : Prop := x + n ≤ b.c * b.loc

/-- MINP (R388): the limits of V, the alignments and the extents of its three ranges; else its operation registers and its thread is held; with the
operation finished the thread goes on with its count. -/
def Sys2Proof.Claim.MinpIssues : Prop :=
  ∀ f : X3, HeldGoesOn (.minp f) 1 ∧ ∀ (s : State) (e : LaneEnv), LaneHand (.minp f) s e → e.th.heldOp = none →
    let u := e.start (.minp f) s
    let logits := (e.w 0 0).toNat
    let mask := (e.w 0 1).toNat
    let list := (e.w 1 0).toNat
    let v := (e.w 1 1).toNat
    let o := u.newOp e.acor 0 (.sample ⟨false, 0, 0, 0, e.vals.getD 0 [], e.vals.getD 1 [], e.vals.getD 2 []⟩)
      (e.b.flatAreas logits (4 * v) ++ e.b.flatAreas mask ((v + 7) / 8)) (e.b.flatAreas list (16 + 8 * v))
    let inside := flatIn e.b logits (4 * v) ∧ flatIn e.b mask ((v + 7) / 8) ∧ flatIn e.b list (16 + 8 * v)
    (v = 0 ∨ 262144 < v → exec (.minp f) s = .next (s.unitTrap e.r (.sync 0x01 5 0))) ∧
    (1 ≤ v → v ≤ 262144 →
      (logits % 4 ≠ 0 ∨ list % 16 ≠ 0 → ∃ z, exec (.minp f) s = .next (s.unitTrap e.r (.sync 0x04 0 z))) ∧
      (logits % 4 = 0 → list % 16 = 0 → (¬inside → ∃ z, exec (.minp f) s = .next (s.unitTrap e.r (.sync 0x05 0 z))) ∧
        (inside → mayEnter u o → ∃ t, exec (.minp f) s = .next t ∧ Holds s t e (registered u o))))

/-- CATDRAW (R389): the scale, the position, the alignment and the extent of the header; else its operation registers and its thread is held; with
the operation finished the thread goes on with the token and the status, or traps EXTENT, at the address it finished with alone, where the list broke R282. -/
def Sys2Proof.Claim.CatdrawIssues : Prop :=
  ∀ f : X3, HeldGoesOn (.catdraw f) 2 ∧ ∀ (s : State) (e : LaneEnv), LaneHand (.catdraw f) s e →
    let u := e.start (.catdraw f) s
    let list := (e.x 0).toNat
    let scale := (e.x 1).toNat
    let positive := scale ≠ 0 ∧ scale < 0x7F800000
    let o := u.newOp e.acor 0 (.sample ⟨true, e.th.key, f.mode.toNat % 4, 0, e.vals.getD 0 [], e.vals.getD 1 [], e.vals.getD 2 []⟩) (e.b.flatAreas list 16) []
    (e.th.heldOp = none →
      (¬positive ∨ 2 ^ 30 ≤ (e.w 2 1).toNat → exec (.catdraw f) s = .next (s.unitTrap e.r (.sync 0x01 5 0))) ∧
      (positive → (e.w 2 1).toNat < 2 ^ 30 →
        (list % 16 ≠ 0 → ∃ z, exec (.catdraw f) s = .next (s.unitTrap e.r (.sync 0x04 0 z))) ∧
        (list % 16 = 0 → ¬flatIn e.b list 16 → ∃ z, exec (.catdraw f) s = .next (s.unitTrap e.r (.sync 0x05 0 z))) ∧
        (list % 16 = 0 → flatIn e.b list 16 → mayEnter u o → ∃ t, exec (.catdraw f) s = .next t ∧ Holds s t e (registered u o)))) ∧
    (∀ id z at_, e.th.status = .wait (.op id) → s.op? id = some z → z.phase = .finished [at_] →
      exec (.catdraw f) s = .next (s.unitTrap e.r (.sync 0x05 0 at_.toNat)))

/-- The operation of a catalogue form: on the controller of its context's home die (R145, R453). -/
def Sys2Proof.Claim.catOp (u : State) (e : LaneEnv) (fn : Nat) (take : Bool) (page n : Nat) : Op :=
  let home := match u.ctx? e.b.ctx with | some x => x.home | none => e.b.die
  { u.newOp e.acor 0 (.cat ⟨fn, take, e.pair 0, page, n⟩) [] [] with die := home }

/-- A catalogue form whose thread is not held yet: a release waits for what its thread wrote (R138, R146); then the operation registers and holds the
thread. One whose operation has finished goes on with its page, status and references, as an acquire on a hit, EXISTS and REPLACED
(R146). -/
def Sys2Proof.Claim.CatForm (i : Instr) (s : State) (e : LaneEnv) (rel : Bool) (o : Op) : Prop :=
  (e.th.heldOp = none →
    (rel = true → ¬quiet s e → Waits i s e.r .retry) ∧
    ((rel = true → quiet s e) → mayEnter (e.start i s) o → ∃ t, exec i s = .next t ∧ Holds s t e (registered (e.start i s) o))) ∧
  ∀ id z ws, e.th.status = .wait (.op id) → s.op? id = some z → z.phase = .finished ws → 4 ≤ ws.length → ∃ t, exec i s = .next t ∧
    t.ops = s.ops.filter (fun x => x.id != id) ∧
    (ws.getD 2 0 ∉ [0, 3, 4] → LaneWrote i s { t with ops := s.ops } e (ws.take 4)) ∧
    (ws.getD 2 0 ∈ [0, 3, 4] → WroteAcquiring i s { t with ops := s.ops } e (ws.take 4))

/-- KVLOOK, KVINS and KVUNREF (R146, R453). -/
def Sys2Proof.Claim.CatalogueIssues : Prop :=
  (∀ (f : X3) (s : State) (e : LaneEnv), LaneHand (.kvlook f) s e →
    CatForm (.kvlook f) s e false (catOp (e.start (.kvlook f) s) e 0 (f.mode.getLsbD 0) 0 0)) ∧
  (∀ (f : X3) (s : State) (e : LaneEnv), LaneHand (.kvunref f) s e → CatForm (.kvunref f) s e true (catOp (e.start (.kvunref f) s) e 2 false 0 0)) ∧
  ∀ (f : X3) (s : State) (e : LaneEnv), LaneHand (.kvins f) s e →
    let page := (e.pair 1).toNat
    let n := (e.x 2).toNat
    let good := 1 ≤ n ∧ n ≤ 0xFFFF ∧ page % 65536 = 0 ∧ page < 2 ^ 56
    (e.th.heldOp = none → ¬good → exec (.kvins f) s = .next (s.unitTrap e.r (.sync 0x01 5 0))) ∧
    (good → CatForm (.kvins f) s e true (catOp (e.start (.kvins f) s) e 1 false page n))

/-- The sampler's and the catalogue's commands. -/
def Obligations.SamplerAndCatalogue : Prop := MinpIssues ∧ CatdrawIssues ∧ CatalogueIssues

/-- A channel of a die (R121). -/
def Sys2Proof.Claim.channelOf (s : State) (d : Die) (ch : Nat) (c : Channel) : Prop := s.channel? d ch = some c

/-- A channel that a context owns. -/
def Sys2Proof.Claim.owns (s : State) (e : LaneEnv) (ch : Nat) (c : Channel) : Prop := channelOf s e.b.die ch c ∧ c.owner = some e.b.ctx

/-- A unit that leaves its channel with one change, and its destination with a value. -/
def Sys2Proof.Claim.ChannelLeft (s t : State) (d : Die) (ch : Nat) (c : Channel) : Prop :=
  t.channel? d ch = some c ∧ ∀ d' k, (d', k) ≠ (d, ch) → t.channel? d' k = s.channel? d' k

/-- BFJOIN (R123, R235, R450): a row count outside 1 to the channel's MAXROWS traps QUEUE with subcode 9; a channel that is not the context's traps
PROTECT, which stands below QUEUE; it waits
while its release is not done or 64 entries are queued; then its entry stands last and the thread is held; with the entry returned it goes on with
the value, as an acquire. -/
def Sys2Proof.Claim.Joins : Prop :=
  ∀ (f : X3) (s : State) (e : LaneEnv), LaneHand (.bfjoin f) s e →
    let ch := f.mode.toNat % 8
    let rows := (e.x 0).toNat
    let fresh := ∀ id v, e.th.status ≠ .wait (.join id v)
    let there := s.bfqState e.b.die = .ready
    let tooMany := rows = 0 ∨ ∃ c, channelOf s e.b.die ch c ∧ c.owner ≠ none ∧ c.maxRows < rows
    (fresh → ¬tooMany → (¬∃ c, owns s e ch c) → exec (.bfjoin f) s = .next (s.unitTrap e.r (.sync 0x08 0 0))) ∧
    (fresh → tooMany → exec (.bfjoin f) s = .next (s.unitTrap e.r (.sync 0x0D 9 0))) ∧
    (∀ c, fresh → owns s e ch c → 1 ≤ rows → rows ≤ c.maxRows → there →
      let queued := c.entries.filter fun x => x.batch.isNone
      (¬quiet s e ∨ 64 ≤ queued.length → Waits (.bfjoin f) s e.r .retry) ∧
      (quiet s e → queued.length < 64 → ∃ t x y, exec (.bfjoin f) s = .next t ∧
        t.thread? e.r = some y ∧ y = { e.th with status := .wait (.join s.nextId none), wclk := y.wclk } ∧ t.nextId = s.nextId + 1 ∧
        ChannelLeft s t e.b.die ch { c with entries := c.entries ++ [x] } ∧ x.id = s.nextId ∧ x.who = e.r ∧ x.ctx = e.b.ctx ∧ x.rows = rows ∧
        x.payload = e.pair 1 ∧ x.cycle = s.cycle e.b.die ∧ x.core = e.b.coreNum e.j ∧ x.slot = e.sh.slot ∧ x.cluster = e.b.b / 2 ^ e.b.code.launch.width 1 ∧ x.batch = none ∧ s.sameBytes t ∧ s.onlyThread t e.r)) ∧
    (∀ id v, e.th.status = .wait (.join id (some v)) → ∃ t, exec (.bfjoin f) s = .next t ∧ WroteAcquiring (.bfjoin f) s t e [v]) ∧
    (∀ id, e.th.status = .wait (.join id none) → Waits (.bfjoin f) s e.r (.join id none))

/-- The list that BFTAKE writes (R451), as numbers of 16 bytes. -/
def Sys2Proof.Claim.batchWords (x : Batch) : List Nat :=
  (x.num % 2 ^ 32 + x.entries.length * 2 ^ 32 + x.rows * 2 ^ 64) ::
    x.entries.map fun p => p.1.toNat + p.2.1 * 2 ^ 64 + p.2.2 % 2 ^ 32 * 2 ^ 96

/-- A taker stands before another: it came in an earlier cycle, or in the same on a lower core, or there in a lower block slot (R123). -/
def Sys2Proof.Claim.earlier (x y : Taker) : Prop :=
  x.cycle < y.cycle ∨ (x.cycle = y.cycle ∧ (x.core < y.core ∨ (x.core = y.core ∧ x.slot < y.slot)))

/-- BFTAKE (R122, R123, R451): ALIGN, EXTENT and PROTECT; without a batch for it, in the cycle in which it comes, or behind an earlier taker the thread
waits in the order of takers; else it takes the first batch that nobody took, writes its list, and goes on with the handle, as an acquire. -/
def Sys2Proof.Claim.Takes : Prop :=
  ∀ (f : X3) (s : State) (e : LaneEnv), LaneHand (.bftake f) s e →
    let ch := f.mode.toNat % 8
    let la := (e.x 0).toNat
    let there := s.bfqState e.b.die = .ready
    (la % 16 ≠ 0 → exec (.bftake f) s = .next (s.unitTrap e.r (.sync 0x04 0 la))) ∧
    (la % 16 = 0 → (e.b.local? la 1040).isNone = true → ∃ k, k < 1040 ∧ (∀ x, x < k → byteThere e.b la x) ∧ ¬byteThere e.b la k ∧
      exec (.bftake f) s = .next (s.unitTrap e.r (.sync 0x05 0 (la + k)))) ∧
    (la % 16 = 0 → (e.b.local? la 1040).isSome = true →
      ((¬∃ c, owns s e ch c) → exec (.bftake f) s = .next (s.unitTrap e.r (.sync 0x08 0 0))) ∧
      ∀ c j o, owns s e ch c → there → (e.start (.bftake f) s).locChk e.acor la 1040 1 16 = .inr (j, o) →
        let now := s.cycle e.b.die
        let first := ∃ p, c.takers.find? (fun x => decide (x.who = e.r)) = some p ∧ p.cycle < now ∧ ∀ q ∈ c.takers, q.who = e.r ∨ ¬earlier q p
        ((∀ x ∈ c.batches, x.taker.isSome = true) ∨ ¬first → ∃ t c', exec (.bftake f) s = .next t ∧
          t.thread? e.r = some { e.th with status := .wait .retry } ∧ channelOf t e.b.die ch c' ∧
          ((∃ q ∈ c.takers, q.who = e.r) → c' = c) ∧
          ((∀ q ∈ c.takers, q.who ≠ e.r) → c' = { c with takers := c.takers ++ [⟨e.r, now, e.b.coreNum e.j, e.sh.slot⟩] })) ∧
        (first → ∀ pre x post, c.batches = pre ++ x :: post → (∀ y ∈ pre, y.taker.isSome = true) → x.taker = none → ∃ t y c', exec (.bftake f) s = .next t ∧
          channelOf t e.b.die ch c' ∧ (∀ q ∈ c'.takers, q.who ≠ e.r) ∧ c'.entries = c.entries ∧ (∃ z ∈ c'.batches, z.num = x.num ∧ z.taker = some e.b.id) ∧
          t.locRead e.b.id j o (16 * (x.entries.length + 1)) = (batchWords x).flatMap (bytesOf 16) ∧
          t.thread? e.r = some y ∧ ThreadWrote (.bftake f) s e y [BitVec.ofNat 32 (ch + x.num % 2 ^ 29 * 8)] ∧ y.pc = e.next ∧ y.status = .ready ∧
          Acquired s t (e.b.cacheOf e.r.t e.th)))

/-- BFDONE (R123, R452): a handle that names no batch that its context took is illegal with subcode 5; it waits until what its thread did is released;
then the batch and its entries are gone and each joiner that still waits has the value. -/
def Sys2Proof.Claim.Dones : Prop :=
  ∀ (f : X3) (s : State) (e : LaneEnv), LaneHand (.bfdone f) s e →
    let h := (e.x 0).toNat
    let named (c : Channel) (x : Batch) : Prop :=
      owns s e (h % 8) c ∧ x ∈ c.batches ∧ x.num % 2 ^ 29 = h / 8 ∧ ∃ id b, x.taker = some id ∧ b ∈ s.blocks ∧ b.id = id ∧ b.ctx = e.b.ctx
    ((¬∃ c x, named c x) → exec (.bfdone f) s = .next (s.unitTrap e.r (.sync 0x01 5 0))) ∧
    ((∃ c x, named c x) → s.bfqState e.b.die = .ready →
      (¬quiet s e → Waits (.bfdone f) s e.r .retry) ∧
      (quiet s e → ∃ t c c' x, exec (.bfdone f) s = .next t ∧ named c x ∧ channelOf t e.b.die (h % 8) c' ∧
        c' = { c with entries := c.entries.filter fun y => y.batch != some x.num, batches := c.batches.filter fun y => y.num != x.num } ∧
        s.sameBytes t ∧ (∃ y z, (e.start (.bfdone f) s).thread? e.r = some y ∧ t.thread? e.r = some z ∧
          z = { y.done e.next with wclk := z.wclk, know := z.know }) ∧
        ∀ y ∈ c.entries, y.batch = some x.num → ∀ th, y.who ≠ e.r → s.thread? y.who = some th → th.status = .wait (.join y.id none) →
          t.thread? y.who = some { th with
            status := .wait (.join y.id (some (e.x 1))), know := th.know.join (e.th.know.add (.lane e.r, s.nextId)) }))

/-- The values that BFCFG takes (R121, R449). -/
def Sys2Proof.Claim.cfgOk (v : Nat) : Prop :=
  let thresh := v % 2 ^ 13
  let rows := v / 2 ^ 16 % 2 ^ 13
  let age := v / 2 ^ 32 % 2 ^ 21
  v / 2 ^ 13 % 8 = 0 ∧ v / 2 ^ 29 % 8 = 0 ∧ v < 2 ^ 53 ∧ 1 ≤ thresh ∧ thresh ≤ rows ∧ rows ≤ 4096 ∧ 16 ≤ age ∧ age ≤ 2 ^ 20

/-- BFCFG (R121, R449): its limits, a channel of another context, the wait for entries and untaken batches; a channel that nobody owned becomes the
context's, with the values. -/
def Sys2Proof.Claim.Configures : Prop :=
  ∀ (f : Y3) (s : State) (e : LeadEnv), LeadHand (.bfcfg f) s e →
    let ch := f.mode.toNat % 8
    let v := (e.l.get f.a).toNat
    let d := e.b.die
    let set (c : Channel) : Channel := { c with owner := some e.b.ctx, thresh := v % 2 ^ 13, maxRows := v / 2 ^ 16 % 2 ^ 13, age := v / 2 ^ 32 % 2 ^ 21 }
    let busy (c : Channel) : Prop := (∃ x ∈ c.entries, x.batch = none) ∨ ∃ x ∈ c.batches, x.taker = none
    (¬cfgOk v → exec (.bfcfg f) s = .next (s.leadTrap e.r (.sync 0x01 5 0))) ∧
    (cfgOk v → s.bfqState d = .ready →
      (∀ c, channelOf s d ch c →
        (∀ o, c.owner = some o → o ≠ e.b.ctx → exec (.bfcfg f) s = .next (s.leadTrap e.r (.sync 0x08 0 0))) ∧
        (c.owner = some e.b.ctx → busy c → ∃ t, exec (.bfcfg f) s = .next t ∧ t.lead? e.r = some { e.l with status := .wait } ∧
          t.channels = s.channels) ∧
        (c.owner = none ∨ (c.owner = some e.b.ctx ∧ ¬busy c) → ∃ t, exec (.bfcfg f) s = .next t ∧ ChannelLeft s t d ch (set c) ∧
          LeadChanged s { t with channels := s.channels } e e.next id)) ∧
      (s.channel? d ch = none → ∃ t c, exec (.bfcfg f) s = .next t ∧ ChannelLeft s t d ch (set c) ∧ c.entries = [] ∧ c.batches = [] ∧
        c.nextBatch = 1 ∧ LeadChanged s { t with channels := s.channels } e e.next id))

/-- The batch-forming queue's forms (R121 to R123, R449 to R452). -/
def Sys2Proof.Claim.BatchForming : Prop := Joins ∧ Takes ∧ Dones ∧ Configures

/-! The lead slice (spec 21 R407 to R416, 23 R466). -/

/-- A scalar under T (R408). -/
def Sys2Proof.Claim.scalar (u : Bool) (x : Dword) : Int := if u then (x.toNat : Int) else x.toInt

/-- A condition of R409 by its number. -/
def Sys2Proof.Claim.condition64 (k : Nat) (x y : Int) : Bool :=
  (k = 0 && x = y) || (k = 1 && x != y) || (k = 2 && x < y) || (k = 3 && x ≤ y) || (k = 4 && y < x) || (k = 5 && y ≤ x)

/-- The constant of MOVI and MOVHI (R410). -/
def Sys2Proof.Claim.constant (f : YI) : Nat := f.imm.toNat + (if f.mode.getLsbD 0 then 2 ^ 31 else 0)

/-- The scalar forms of R408 and R410: what each writes, and that it does nothing else. -/
def Sys2Proof.Claim.ScalarForms : Prop :=
  (∀ f : Y3,
    let u := f.mode.getLsbD 0
    let puts (g : Dword → Dword → Dword → Dword) (e : LeadEnv) (l : Lead) : Lead := l.put f.d (g (e.l.get f.a) (e.l.get f.b) (e.l.get f.e))
    let inv (b : Dword) : Dword := if u then ~~~b else b
    let t := scalar u
    LeadComputes (.leadAdd f) (puts fun a b _ => BitVec.ofNat 64 (a.toNat + b.toNat)) ∧
    LeadComputes (.leadSub f) (puts fun a b _ => BitVec.ofInt 64 (a.toNat - b.toNat : Int)) ∧
    LeadComputes (.leadMul f) (puts fun a b _ => BitVec.ofNat 64 (a.toNat * b.toNat)) ∧
    LeadComputes (.leadMulhi f) (puts fun a b _ => BitVec.ofInt 64 ((t a * t b).fdiv (2 ^ 64))) ∧
    LeadComputes (.leadAnd f) (puts fun a b _ => a &&& inv b) ∧
    LeadComputes (.leadOr f) (puts fun a b _ => a ||| inv b) ∧
    LeadComputes (.leadXor f) (puts fun a b _ => a ^^^ inv b) ∧
    LeadComputes (.leadShl f) (puts fun a b _ => if b.toNat < 64 then BitVec.ofNat 64 (a.toNat * 2 ^ b.toNat) else 0) ∧
    LeadComputes (.leadShr f) (puts fun a b _ => if b.toNat < 64 then BitVec.ofNat 64 (a.toNat / 2 ^ b.toNat) else 0) ∧
    LeadComputes (.leadSar f) (puts fun a b _ =>
      if b.toNat < 64 then BitVec.ofInt 64 (a.toInt.fdiv (2 ^ b.toNat)) else if a.toInt < 0 then BitVec.allOnes 64 else 0) ∧
    LeadComputes (.leadMin f) (puts fun a b _ => if t a ≤ t b then a else b) ∧
    LeadComputes (.leadMax f) (puts fun a b _ => if t b ≤ t a then a else b) ∧
    LeadComputes (.leadSel f) (puts fun a b c => if c ≠ 0 then a else b)) ∧
  (∀ f : YS, LeadComputes (.leadAddi f) (fun e l => l.put f.d (BitVec.ofInt 64 ((e.l.get f.a).toInt + f.imm.toInt)))) ∧
  ∀ f : YI,
    LeadComputes (.leadMovi f) (fun _ l =>
      l.put f.d (if f.mode.getLsbD 1 then BitVec.ofInt 64 (BitVec.ofNat 32 (constant f)).toInt else BitVec.ofNat 64 (constant f))) ∧
    LeadComputes (.movhi f) (fun e l => l.put f.d (BitVec.ofNat 64 ((e.l.get f.d).toNat % 2 ^ 32 + constant f * 2 ^ 32)))

/-- A lead unit makes its context wait and has no effect. -/
def Sys2Proof.Claim.LeadWaits (i : Instr) (s : State) (r : LeadRef) (w : LStatus) : Prop :=
  exec i s = .next ((s.modLead r fun l => { l with status := w }).ended .blocked)

/-- CMP sets its p register alone; BP and BRA go where R392 lets them and trap RUNOFF elsewhere; one not taken goes on; END ends its context with an
empty event queue (R207, R409, R410, R412). -/
def Sys2Proof.Claim.LeadControl : Prop :=
  (∀ (f : Y3) (s : State) (e : LeadEnv), LeadHand (.leadCmp f) s e →
    let u := f.mode.getLsbD 3
    let v := condition64 (f.mode.toNat % 8) (scalar u (e.l.get f.a)) (scalar u (e.l.get f.b))
    ∃ t p, exec (.leadCmp f) s = .next t ∧ LeadChanged s t e e.next (fun l => { l with p := p }) ∧
      ∀ k, k < 8 → p.getLsbD k = if k = f.d.toNat then v else e.l.p.getLsbD k) ∧
  (∀ (f : YB) (i : Instr) (taken : LeadEnv → Prop), (i = .bp f ∧ taken = fun e => e.l.p.getLsbD f.cp.toNat ≠ decide (f.n = 1)) ∨ (i = .leadBra f ∧ taken = fun _ => True) →
    ∀ (s : State) (e : LeadEnv), LeadHand i s e →
      let t : Int := e.pc.toNat + f.off.toInt
      let there := (e.b.code.word0 : Int) ≤ t ∧ t + 3 < (e.b.code.word0 : Int) + (e.b.code.words : Int)
      (taken e → there → ∃ u, exec i s = .next u ∧ LeadChanged s u e (BitVec.ofInt 48 t) id) ∧
      (taken e → ¬there → exec i s = .next (s.leadTrap e.r (.sync 0x03 0 0))) ∧
      (¬taken e → ∃ u, exec i s = .next u ∧ LeadChanged s u e e.next id)) ∧
  ∀ (f : Y3) (s : State) (e : LeadEnv), LeadHand (.leadEnd f) s e → ∃ t, exec (.leadEnd f) s = .next t ∧
    (∀ l, t.lead? e.r = some l → l = { e.l with status := .ended, evq := [] }) ∧
    (t.block? e.r.block = none → ∀ th ∈ e.b.threads, th.status = .ended)

/-- Where a lead load or store goes (R411). -/
def Sys2Proof.Claim.leadAddr (e : LeadEnv) (f : YS) : Nat := (BitVec.ofInt 64 ((e.l.get f.a).toInt + f.imm.toInt)).toNat

/-- The value that a lead load writes (R411). -/
def Sys2Proof.Claim.leadLoaded (sext : Bool) (bs : List Byte) : Dword :=
  if sext then (BitVec.ofNat (8 * bs.length) (little bs)).signExtend 64 else BitVec.ofNat 64 (little bs)

/-- The traps of a lead access of local space, in their order (R151, R152, R183, R411). -/
def Sys2Proof.Claim.LeadLocalTraps (i : Instr) (s : State) (e : LeadEnv) (a n level : Nat) : Prop :=
  (a % n ≠ 0 → exec i s = .next (s.leadTrap e.r (.sync 0x04 0 (a % 2 ^ 32)))) ∧
  (a % n = 0 → 2 ^ 32 ≤ a → exec i s = .next (s.leadTrap e.r (.sync 0x05 0 (a % 2 ^ 32)))) ∧
  (a % n = 0 → a < 2 ^ 32 → e.b.local? a n = none → ∃ k, k < n ∧ (∀ x, x < k → byteThere e.b a x) ∧ ¬byteThere e.b a k ∧
    exec i s = .next (s.leadTrap e.r (.sync 0x05 0 (a + k)))) ∧
  (a % n = 0 → a < 2 ^ 32 → (e.b.local? a n).isSome = true → level ≤ s.lock e.acor.skip (.loc e.b.id a n) →
    ∃ k sub, k < n ∧ exec i s = .next (s.leadTrap e.r (.sync 0x06 sub (a + k))))

/-- The checks of a lead access of global space that come out against it (R12, R22, R130, R131, R183, R411). -/
def Sys2Proof.Claim.LeadGlobalTraps (i : Instr) (s : State) (e : LeadEnv) (a n level : Nat) (need : Need) : Prop :=
  (∀ x, s.chk e.acor a n need level n = .trap x → exec i s = .next (s.leadTrap e.r x)) ∧
  (∀ x pa, s.chk e.acor a n need level n = .dev x pa → (x = .clear → LeadWaits i s e.r .wait) ∧
    (x ≠ .clear → exec i s = .next ((s.physTrap e.b.ctx x e.b.die (coreUnit e.acor.cache) pa).ended .done))) ∧
  (s.chk e.acor a n need level n = .fatal → exec i s = .next (s.leadTrap e.r (.sync 0x07 0 a))) ∧
  (s.chk e.acor a n need level n = .absent → faultTold s e.acor.unit e.b.nodeRef a → ∃ t, exec i s = .next t ∧ t.lead? e.r = some { e.l with status := .held } ∧
    ∃ x ∈ t.holds, x.who = .agent (.lead e.r) ∧ x.va / 65536 = a / 65536)

/-- Lead loads and stores (R411), where no sampling is on (R307): a local load writes its register and a local store its bytes; a global load and store
are outstanding, the load holding its context until its value is written. -/
def Sys2Proof.Claim.LeadLoadsAndStores : Prop :=
  ∀ (f : YS) (s : State) (e : LeadEnv), s.sampling e.b.ctx = false →
    let n := 2 ^ (f.mode.toNat % 4)
    let isLocal := f.mode.getLsbD 3
    let a := leadAddr e f
    let bs := bytesOf n (e.l.get f.d).toNat
    (LeadHand (.leadLd f) s e →
      (isLocal = true → LeadLocalTraps (.leadLd f) s e a n 2 ∧
        (a % n = 0 → a < 2 ^ 32 → (e.b.local? a n).isSome = true → s.lock e.acor.skip (.loc e.b.id a n) < 2 → ∃ t, exec (.leadLd f) s = .next t ∧
          LeadChanged s (unsampled s t) e e.next fun l => l.put f.d (leadLoaded (f.mode.getLsbD 2) (s.locRead e.b.id (a / 2 ^ 18) (a % 2 ^ 18) n)))) ∧
      (isLocal = false → LeadGlobalTraps (.leadLd f) s e a n 2 .load ∧
        ∀ pa, s.chk e.acor a n .load 2 n = .ok pa → ∃ t x, exec (.leadLd f) s = .next t ∧ t.loads = s.loads ++ [x] ∧ x.who = .lead e.r ∧
          x.cache = e.b.leadCache e.r.j ∧ x.pa = pa ∧ x.n = n ∧ x.sext = f.mode.getLsbD 2 ∧ x.atom = none ∧ x.sd = f.d ∧ x.hold = true ∧
          LeadChanged s { (unsampled s t).modLead e.r (fun l => { l with rclk := e.l.rclk }) with
            loads := s.loads, nextId := s.nextId, dbg := s.dbg, holds := s.holds, tags := s.tags, hot := s.hot } e e.next id)) ∧
    (LeadHand (.leadSt f) s e →
      (isLocal = true → LeadLocalTraps (.leadSt f) s e a n 1 ∧
        (a % n = 0 → a < 2 ^ 32 → (e.b.local? a n).isSome = true → s.lock e.acor.skip (.loc e.b.id a n) < 1 → ∃ t, exec (.leadSt f) s = .next t ∧
          t.lead? e.r = some { e.l with pc := e.next, status := .ready, pass := false } ∧ t.mem = s.mem ∧ t.cached = s.cached ∧
          (∀ q, t.thread? q = s.thread? q) ∧ t.locRead e.b.id (a / 2 ^ 18) (a % 2 ^ 18) n = bs ∧
          (∀ id j o, ¬(id = e.b.id ∧ j = a / 2 ^ 18 ∧ a % 2 ^ 18 ≤ o ∧ o < a % 2 ^ 18 + n) → t.locRead id j o 1 = s.locRead id j o 1) ∧
          t = { s with blocks := t.blocks, issue := t.issue })) ∧
      (isLocal = false → LeadGlobalTraps (.leadSt f) s e a n 1 .store ∧
        ∀ pa, s.chk e.acor a n .store 1 n = .ok pa → ∃ t x, exec (.leadSt f) s = .next t ∧ t.stores = s.stores ++ [x] ∧ x.who = .lead e.r ∧
          x.cache = e.b.leadCache e.r.j ∧ x.pa = pa ∧ x.bytes = bs ∧ x.atom = none ∧ x.discard = false ∧
          LeadChanged s { (unsampled s t).modLead e.r (fun l => { l with wclk := e.l.wclk }) with
            stores := s.stores, nextId := s.nextId, dbg := s.dbg, holds := s.holds, tags := s.tags, hot := s.hot } e e.next id))

/-- A thread of a lead context's core that has not ended. -/
def Sys2Proof.Claim.liveHere (e : LeadEnv) (th : Thread) : Prop := ∃ t ∈ e.b.onCore e.r.j, e.b.threads[t]? = some th ∧ th.status ≠ .ended

/-- DPUSH appends the low word of its register to the decision queue, and waits while some live thread of the core has 64 entries to pop
(R208, R413). -/
def Sys2Proof.Claim.Pushes : Prop :=
  ∀ (f : Y3) (s : State) (e : LeadEnv), LeadHand (.dpush f) s e →
    let full := ∃ th, liveHere e th ∧ e.l.dqw - th.dqr = 64
    (full → LeadWaits (.dpush f) s e.r .wait) ∧
    (¬full → ∃ t q, exec (.dpush f) s = .next t ∧ LeadChanged s t e e.next (fun l => { l with dq := q, dqw := l.dqw + 1 }) ∧
      ∀ k (h : k < 64), q[k] = if k = e.l.dqw.toNat % 64 then (e.l.get f.a).setWidth 32 else e.l.dq[k])

/-- QSET (R209, R414): the descriptor's limits, the ring's place, with entries for as many threads as s499 says; it waits while the old ring has a running stream or an entry that some live thread of
the core has not popped; then it sets the ring with nothing written and the read indices of its core's threads to zero. -/
def Sys2Proof.Claim.SetsRing : Prop :=
  ∀ (f : Y3) (s : State) (e : LeadEnv), LeadHand (.qset f) s e →
    let n := f.mode.toNat % 8
    let v := (e.l.get f.a).toNat
    let base := v % 2 ^ 32
    let d := v / 2 ^ 32 % 2 ^ 7
    let perThread := v.testBit 40
    let threads := (e.l.s[499]).toNat % 2 ^ 11
    let entry := if perThread then 4 * threads else 4
    let good := 2 ≤ d ∧ d ≤ 64 ∧ v.testBit 39 = false ∧ v < 2 ^ 41
    let fits := base < 2 ^ 23 ∧ base / 2 ^ 18 = e.r.j ∧ base % 2 ^ 18 + d * entry ≤ e.b.loc
    let busy := ∃ q, e.l.queues.toList.getD n none = some q ∧
      ((∃ x, q.stream = some x ∧ x.running = true) ∨ ∃ th, liveHere e th ∧ BitVec.ofNat 16 q.written ≠ th.qr.toList.getD n 0)
    (¬good → exec (.qset f) s = .next (s.leadTrap e.r (.sync 0x01 5 0))) ∧
    (good → base % 16 ≠ 0 → exec (.qset f) s = .next (s.leadTrap e.r (.sync 0x04 0 base))) ∧
    (good → base % 16 = 0 → ¬fits → exec (.qset f) s = .next (s.leadTrap e.r (.sync 0x05 0 base))) ∧
    (good → base % 16 = 0 → fits → busy → LeadWaits (.qset f) s e.r .wait) ∧
    (good → base % 16 = 0 → fits → ¬busy → ∃ t, exec (.qset f) s = .next t ∧
      t.lead? e.r = some { e.l with queues := e.l.queues.set! n (some ⟨base % 2 ^ 18, d, perThread, threads, 0, none⟩), pc := e.next, status := .ready, pass := false } ∧
      (∀ q th, s.thread? q = some th → t.thread? q =
        some (if q.block = e.r.block ∧ e.b.home q.t = e.r.j then { th with qr := th.qr.set! n 0 } else th)) ∧
      s.sameBytes t ∧ t = { s with blocks := t.blocks, issue := t.issue })

/-- The stream of seven registers, where R415 takes them. -/
def Sys2Proof.Claim.streamTakes (e : LeadEnv) (a : BitVec 9) (q : Queue) : Prop :=
  let r (k : Nat) : Dword := e.l.get (BitVec.ofNat 9 (a.toNat + k))
  q.stream = none ∧ (r 0).toNat / 2 ^ 56 % 2 ^ 7 = 0 ∧ (∀ k, 2 ≤ k → k ≤ 6 → -(2 ^ 39) ≤ (r k).toInt ∧ (r k).toInt < 2 ^ 39) ∧ (q.perThread = false → r 6 = 0)

/-- Entry m of such a stream lies here (R211). -/
def Sys2Proof.Claim.streamAt (e : LeadEnv) (a : BitVec 9) (m : Nat) : Int :=
  let r (k : Nat) : Dword := e.l.get (BitVec.ofNat 9 (a.toNat + k))
  let c (k : Nat) : Nat := (r 1).toNat / 2 ^ (16 * k) % 2 ^ 16 + 1
  (((r 0).toNat % 2 ^ 56 : Nat) + (m % c 0 : Nat) * (r 2).toInt + (m / c 0 % c 1 : Nat) * (r 3).toInt + (m / (c 0 * c 1) % c 2 : Nat) * (r 4).toInt +
    (m / (c 0 * c 1 * c 2) : Nat) * (r 5).toInt) % 2 ^ 56

/-- How many entries it has. -/
def Sys2Proof.Claim.streamLen (e : LeadEnv) (a : BitVec 9) : Nat :=
  let w := (e.l.get (BitVec.ofNat 9 (a.toNat + 1))).toNat
  (w % 2 ^ 16 + 1) * (w / 2 ^ 16 % 2 ^ 16 + 1) * (w / 2 ^ 32 % 2 ^ 16 + 1) * (w / 2 ^ 48 % 2 ^ 16 + 1)

/-- An address that a stream may read (R130, R152, R211). -/
def Sys2Proof.Claim.streamMay (s : State) (e : LeadEnv) (glob : Bool) (a : Nat) : Prop :=
  a % 4 = 0 ∧ (if glob then ∀ c sub, s.access e.b.die e.b.nodeRef e.l.inTrap a 4 .load ≠ .trap c sub else (e.b.local? a 4).isSome = true)

/-- QSTART (R211, R415): no queue, a queue whose stream has started, or a field out of its range is illegal with subcode 5; an address that fails traps;
else the stream runs and nothing else changes. -/
def Sys2Proof.Claim.StartsStream : Prop :=
  ∀ (f : Y3) (s : State) (e : LeadEnv), LeadHand (.qstart f) s e →
    let n := f.mode.toNat % 8
    let q := e.l.queues.toList.getD n none
    let w := (e.l.get (BitVec.ofNat 9 f.a.toNat)).toNat
    let ts := (e.l.get (BitVec.ofNat 9 (f.a.toNat + 6))).toInt
    (q = none → exec (.qstart f) s = .next (s.leadTrap e.r (.sync 0x01 5 0))) ∧
    ∀ x, q = some x →
      let each := if x.perThread then x.n else 1
      let glob := !w.testBit 63
      let at_ (m k : Nat) : Nat := if x.perThread then ((streamAt e f.a m + k * ts) % 2 ^ 64).toNat else (streamAt e f.a m).toNat
      let may := ∀ m k, m < streamLen e f.a → k < each → streamMay s e glob (at_ m k)
      (¬streamTakes e f.a x → exec (.qstart f) s = .next (s.leadTrap e.r (.sync 0x01 5 0))) ∧
      (streamTakes e f.a x → ¬may → ∃ c sub z, exec (.qstart f) s = .next (s.leadTrap e.r (.sync c sub z))) ∧
      (streamTakes e f.a x → may → ∃ t y, exec (.qstart f) s = .next t ∧ y.base = w % 2 ^ 56 ∧ y.glob = glob ∧ y.ts = ts ∧ y.pos = 0 ∧ y.running = true ∧
        LeadChanged s t e e.next fun l => { l with queues := l.queues.set! n (some { x with stream := some y }) })

/-- EWAIT (R184, R416): the oldest record of the event queue, with LOST, into two registers, as an acquire; an empty queue blocks the context, or gives
LOST alone under NB. -/
def Sys2Proof.Claim.TakesRecord : Prop :=
  ∀ (f : Y3) (s : State) (e : LeadEnv), LeadHand (.ewait f) s e →
    let lost : Dword := if e.l.lost = 0 then 0 else 2 ^ 62
    (∀ x rest, e.l.evq = x :: rest → ∃ t, exec (.ewait f) s = .next t ∧ Acquired s t (e.b.leadCache e.r.j) ∧
      LeadChanged s { t.modLead e.r (fun l => { l with know := e.l.know }) with cached := s.cached } e e.next fun l =>
        (({ l with lost := 0, evq := rest }).put f.d (x.w0 ||| lost)).put (f.d + 1) x.w1) ∧
    (e.l.evq = [] → f.mode = 1 → ∃ t, exec (.ewait f) s = .next t ∧
      LeadChanged s t e e.next fun l => (({ l with lost := 0 }).put f.d lost).put (f.d + 1) 0) ∧
    (e.l.evq = [] → f.mode ≠ 1 → LeadWaits (.ewait f) s e.r .wait)

/-- CKPT (R95, R466): it waits for the threads of its core; then its context has arrived and goes on; a round that is not whole waits for the others; a
whole one whose arrivals agree leaves its record in the save area, after the stores of the arrived threads are at their homes, and one whose arrivals
differ leaves none. -/
def Sys2Proof.Claim.Arrives : Prop :=
  ∀ (f : Y3) (s : State) (e : LeadEnv), LeadHand (.ckpt f) s e →
    let node := e.b.nodeRef
    let mine : CkptArrival := ⟨node, e.b.b, e.b.c, e.r.j, e.l.get f.a, e.l.get f.b, s.blockKnows e.b⟩
    let u : State := { s with ckpts := s.ckpts ++ [mine] }
    let round := roundOf u.ckpts node
    let ready := ∀ t ∈ e.b.onCore e.r.j, ∀ th, e.b.threads[t]? = some th →
      s.atDq e.b e.sh t th = true ∧ th.st = 0 ∧ ∀ x ∈ s.sideLog, x.who ≠ ⟨e.b.id, t⟩
    (¬ready → LeadWaits (.ckpt f) s e.r .wait) ∧
    (ready → recordReaches s node 0 64 → ∃ t, exec (.ckpt f) s = .next t ∧ t.lead? e.r = some { e.l with pc := e.next, status := .ready, pass := false } ∧ t.blocks.length = s.blocks.length ∧
      ∀ x p c, s.node? node = some x → s.replay? node.ctx node.seq = some p → s.ctx? node.ctx = some c →
        (roundWhole round x.blocks = false → t.ckpts = u.ckpts ∧ LeadChanged s { t with ckpts := s.ckpts } e e.next id) ∧
        (roundWhole round x.blocks = true → (∃ y ∈ round, ∃ z ∈ round, y.step ≠ z.step ∨ y.desc ≠ z.desc) → t.mem = s.mem ∧ t.cached = s.cached) ∧
        (roundWhole round x.blocks = true → (∀ y ∈ round, y.step = mine.step ∧ y.desc = mine.desc) →
          ∀ v, (u.settle (round.foldl (fun k y => k.join y.clk) [])).vwrite c.home c c.save (ckptBytes mine p.handle) = .ok v →
            t.mem = v.mem ∧ t.cached = v.cached))

/-- The lead context's queues, records and checkpoints (R95, R208 to R211, R413 to R416, R466). -/
def Sys2Proof.Claim.LeadQueues : Prop := Pushes ∧ SetsRing ∧ StartsStream ∧ TakesRecord ∧ Arrives

/-! The package, its faults and its host window (spec 01 R11 to R30, 03 R61, R66, R74 to R77, 16 R305, R478). -/

/-- The READYF bit of a unit of one kind (R20, R30). -/
def Sys2Proof.Claim.ownBit (d : Die) (u k : Nat) : Prop :=
  let x := if d = .b then 1 else 0
  (u = 0x91 ∧ k = 15 + x) ∨ (u = 0x90 ∧ k = 19 + x) ∨ (u = 0x92 ∧ k = 21 + x) ∨ (u = 0x93 ∧ k = 23 + x) ∨ (u = 0x94 ∧ k = 25 + x) ∨
  (u = 0x95 ∧ k = 13 + x) ∨ (0x96 ≤ u ∧ u ≤ 0x99 ∧ k = 3 + 4 * x + (u - 0x96)) ∨ (u = 0x9A ∧ k = 11 + x) ∨ (u = 0x9B ∧ k = 27 + x) ∨
  (u = 0x9C ∧ k = 2) ∨ (0xA0 ≤ u ∧ u ≤ 0xA7 ∧ k = 48 + 8 * x + (u - 0xA0))

/-- A unit that reaches no memory of its die: L2, HBM, second tier, the link, a port. -/
def Sys2Proof.Claim.alone (u : Nat) : Prop := (0x95 ≤ u ∧ u ≤ 0x9A) ∨ u = 0x9C ∨ 0xA0 ≤ u

/-- A die's L2FC and HBM bits are set (R21). -/
def Sys2Proof.Claim.dieOpen (p : Pkg) (d : Die) : Prop :=
  let x := if d = .b then 1 else 0
  p.readyF.getLsbD (13 + x) = true ∧ ∀ k, k < 4 → p.readyF.getLsbD (3 + 4 * x + k) = true

/-- A package reset (R20, R478): nothing is ready, no unit has ended its self-test, no context, block, operation or access is left, and the registers of the
host window, of the governors and of the debug unit have their reset values. That memory keeps what it held is the model's choice (log entry 15). -/
def Sys2Proof.Claim.Resets : Prop :=
  ∀ s : State, ∃ t, exec .packageReset s = .next t ∧ t.pkg = Pkg.reset ∧ t.pkg.readyF = 0 ∧ t.pkg.readyC = 0 ∧ t.pkg.passed = [] ∧ t.pkg.failed = [] ∧
    t.ctxs = [] ∧ t.blocks = [] ∧ t.ops = [] ∧ t.loads = [] ∧ t.stores = [] ∧ t.sideLog = [] ∧ t.replays = [] ∧ t.cached = [] ∧
    t.evt = Evt.reset ∧ t.dbg = Dbg.reset ∧ t.clocksOn = true ∧ t.fw.staged = none ∧ t.fw.fused = s.fw.fused ∧
    (∀ image sig version, s.fw.staged = some (image, sig, version) → t.fw.image = image ∧ t.fw.sig = sig ∧ t.fw.version = version) ∧
    t.mem = s.mem ∧ t.poison = s.poison

/-- The end of a unit's self-test (R20, R21, R23). After one that passes, every unit that has passed has its bit set, but for those that need their die's
L2FC and HBM bits while these are clear; the copy engines have theirs once all 16 have passed; no bit clears. One that fails sets no bit and is posted with
context 0xFFFF. The boot ROM, and no self-test, sets MGMT. -/
def Sys2Proof.Claim.TestsEnd : Prop :=
  ∀ (s : State) (d : Die) (u : BitVec 8), s.arg = .unit d u true ∨ s.arg = .unit d u false → hasTest u = true →
    unitKey d u ∉ s.pkg.passed → unitKey d u ∉ s.pkg.failed →
    (s.arg = .unit d u true → ∃ t, exec .unitSelfTestDone s = .next t ∧ t = { s with pkg := t.pkg } ∧
      t.pkg.passed = s.pkg.passed ++ [unitKey d u] ∧ t.pkg.failed = s.pkg.failed ∧
      (∀ k, k < 64 → s.pkg.readyF.getLsbD k = true → t.pkg.readyF.getLsbD k = true) ∧
      (∀ k, k < 256 → s.pkg.readyC.getLsbD k = true → t.pkg.readyC.getLsbD k = true) ∧
      (∀ e v k, (e, v) ∈ t.pkg.passed → ownBit e (BitVec.toNat v) k → alone (BitVec.toNat v) ∨ dieOpen t.pkg e → t.pkg.readyF.getLsbD k = true) ∧
      (∀ k, t.pkg.readyF.getLsbD k = true → s.pkg.readyF.getLsbD k = true ∨
        (∃ e v, (e, v) ∈ t.pkg.passed ∧ ownBit e (BitVec.toNat v) k ∧ (alone (BitVec.toNat v) ∨ dieOpen t.pkg e)) ∨
        ∃ e, k = 17 + (if e = Die.b then 1 else 0) ∧ dieOpen t.pkg e ∧ ∀ j, j < 16 → (e, BitVec.ofNat 8 (0x80 + j)) ∈ t.pkg.passed) ∧
      (∀ e, dieOpen t.pkg e → (∀ j, j < 16 → (e, BitVec.ofNat 8 (0x80 + j)) ∈ t.pkg.passed) →
        t.pkg.readyF.getLsbD (17 + if e = Die.b then 1 else 0) = true) ∧
      (∀ e v, (e, v) ∈ t.pkg.passed → BitVec.toNat v < 0x80 → dieOpen t.pkg e →
        t.pkg.readyC.getLsbD (128 * (if e = Die.b then 1 else 0) + BitVec.toNat v) = true) ∧
      (u.toNat < 0x80 → ¬dieOpen t.pkg d → s.pkg.readyC.getLsbD (128 * (if d = Die.b then 1 else 0) + u.toNat) = false →
        t.pkg.readyC.getLsbD (128 * (if d = Die.b then 1 else 0) + u.toNat) = false)) ∧
    (s.arg = .unit d u false → ∃ t v c, exec .unitSelfTestDone s = .next t ∧ 1 ≤ c ∧ c ≤ 7 ∧
      v = 0xFFFF + u.toNat * 2 ^ 16 + c * 2 ^ 24 + (if d = .b ∧ u ≠ 0xFE then 2 ^ 32 else 0) ∧
      t = ({ s with pkg := { s.pkg with failed := s.pkg.failed ++ [unitKey d u] } } : State).post d 0x07 0 0xFFFF (BitVec.ofNat 64 v) 0 0)

/-- Firmware, measurement slots and attestation (R24 to R27). -/
def Sys2Proof.Claim.Firmwares : Prop :=
  ∀ s : State,
    let mgmt := s.pkg.readyF.getLsbD 0
    let fw := s.pkg.readyF.getLsbD 1
    (fw = false → (Die.a, 0xFE) ∈ s.pkg.passed ∨ (Die.a, 0xFE) ∈ s.pkg.failed → ∃ t, exec .firmwareVerify s = .next t ∧ t = { s with fw := t.fw, pkg := t.pkg } ∧
      t.fw.slots[1] = BitVec.ofNat 512 (little (shake256 s.fw.image)) ∧ (∀ k (h : k < 8), 3 ≤ k → t.fw.slots[k] = s.fw.slots[k]) ∧
      t.pkg = { s.pkg with readyF := t.pkg.readyF } ∧
      (t.pkg.readyF.getLsbD 1 = true ↔ s.fw.sig.length = 29792 ∧ Config.signatureValid s.fw.image s.fw.sig = true ∧ s.fw.fused ≤ s.fw.version) ∧
      ((Die.a, 0xFE) ∉ s.pkg.failed → t.pkg.readyF.getLsbD 0 = true)) ∧
    (fw = false → (Die.a, 0xFE) ∉ s.pkg.passed → (Die.a, 0xFE) ∉ s.pkg.failed → exec .firmwareVerify s = .next s) ∧
    (∀ image sig version, s.arg = .firmware image sig version → mgmt = true → ∃ t, exec .firmwareUpdate s = .next t ∧
      t = { s with fw := { s.fw with staged := some (image, sig, version) }, out := s.out ++ [.answer .taken] }) ∧
    (∀ v sig, s.arg = .raise v sig → mgmt = true → fw = true → ∃ t, exec .securityVersionRaise s = .next t ∧
      let ok := Config.raiseValid v sig = true ∧ s.fw.fused < v
      (ok → t = { s with fw := { s.fw with fused := v }, out := s.out ++ [.answer .taken] }) ∧ (¬ok → t = { s with out := s.out ++ [.answer .refused] })) ∧
    (∀ j data, s.arg = .extend j data → mgmt = true → fw = true → ∃ t, exec .measurementExtend s = .next t ∧
      (3 ≤ j → j < 8 → t = { s with fw := t.fw, out := s.out ++ [.answer .taken] } ∧ t.fw = { s.fw with slots := t.fw.slots } ∧
        ∀ k (h : k < 8), t.fw.slots[k] = if k = j then
          BitVec.ofNat 512 (little (shake256 (bytesOf 64 (s.fw.slots[k]).toNat ++ shake256 data))) else s.fw.slots[k]) ∧
      (j < 3 → t = { s with out := s.out ++ [.answer .refused] })) ∧
    (∀ n, s.arg = .nonce n → mgmt = true → ∃ t, exec .attestationRequest s = .next t ∧
      (s.fw.nonces.length < 5 → t = { s with fw := { s.fw with nonces := s.fw.nonces ++ [n] } }) ∧
      (5 ≤ s.fw.nonces.length → t = { s with out := s.out ++ [.answer .busy] })) ∧
    ∀ n rest, s.fw.nonces = n :: rest → mgmt = true → ∃ t v sig, exec .attestationReport s = .next t ∧ (v = s.fw.version ∨ v = s.fw.fused) ∧
      t = { s with fw := { s.fw with nonces := rest }
                   out := s.out ++ [.report n s.pkg.devnum 0x04B0 v s.fw.slots.toList sig] }

/-- Reset, self-test, firmware and attestation. -/
def Sys2Proof.Claim.PackageService : Prop := Resets ∧ TestsEnd ∧ Firmwares

/-- What a device fault does (R28, R29): the context's blocks, accesses, operations, side log, faults, holds and replay are gone, and the work of every other
context stays; the host is told. -/
def Sys2Proof.Claim.Discarded (s t : State) (n : Nat) : Prop :=
  (∀ b ∈ t.blocks, b.ctx ≠ n) ∧ (∀ o ∈ t.ops, o.ctx ≠ n) ∧ (∀ l ∈ t.loads, l.node.ctx ≠ n) ∧ (∀ x ∈ t.stores, x.node.ctx ≠ n) ∧
  (∀ x ∈ t.sideLog, x.ctx ≠ n) ∧ (∀ x ∈ t.faults, x.ctx ≠ n) ∧ (∀ x ∈ t.holds, x.ctx ≠ n) ∧ (∀ x ∈ t.replays, x.ctx ≠ n) ∧
  (∀ x ∈ t.ckpts, x.node.ctx ≠ n) ∧ (∀ x ∈ t.owed, x.node.ctx ≠ n) ∧ (∀ b ∈ s.blocks, b.ctx ≠ n → ∃ b' ∈ t.blocks, b'.id = b.id ∧ b'.threads = b.threads) ∧ (∀ o ∈ s.ops, o.ctx ≠ n → o ∈ t.ops) ∧
  (∀ x ∈ s.sideLog, x.ctx ≠ n → x ∈ t.sideLog)

/-- A device fault with its cause, unit and die (R28, R29). -/
def Sys2Proof.Claim.FaultsContext : Prop :=
  ∀ (s : State) (n cause : Nat) (d : Die) (u : BitVec 8), Discarded s (s.deviceFault n cause d u) n

/-- A device fault of a unit, which the hardware may take out of service with it: its bit is clear then (R21, R28). -/
def Sys2Proof.Claim.Charged (s t : State) (n cause : Nat) (d : Die) (u : BitVec 8) : Prop :=
  t = s.deviceFault n cause d u ∨
    (t = (s.deviceFault n cause d u).outOfService d u ∧ (∀ k, ownBit (unitKey d u).1 u.toNat k → t.pkg.readyF.getLsbD k = false) ∧
      (u.toNat < 0x80 → t.pkg.readyC.getLsbD (128 * (if d = .b then 1 else 0) + u.toNat) = false) ∧
      (0x80 ≤ u.toNat → u.toNat ≤ 0x8F → t.pkg.readyF.getLsbD (17 + if d = .b then 1 else 0) = false))

/-- Errors of memory and of other units (R11, R13, R28): a corrected error is counted on its die; an uncorrectable one poisons its line; a charged one, and
an internal timeout, faults its context; a flit that failed 16 times loses the link, and with it every context that works on both dies. -/
def Sys2Proof.Claim.Errors : Prop :=
  ∀ s : State,
    (∀ d, s.arg = .die d → ∃ t, exec .memEccCorrected s = .next t ∧ t = { s with pkg := t.pkg } ∧
      t.pkg = (if d = .a then { s.pkg with eccA := s.pkg.eccA + 1 } else { s.pkg with eccB := s.pkg.eccB + 1 })) ∧
    (∀ pa, s.arg = .num pa → ∃ t, exec .memEccUncorrectable s = .next t ∧ t = { s with poison := t.poison } ∧
      ∀ l, l ∈ t.poison ↔ l ∈ s.poison ∨ (l = pa / 128 * 128 ∧ ∃ d, homeOf pa = .hbm d ∨ homeOf pa = .tier2 d)) ∧
    (∀ d, s.arg = .soft (.corrected d) → ∃ t, exec .sramSoftError s = .next t ∧
      t = { s with pkg := if d = .a then { s.pkg with softA := s.pkg.softA + 1 } else { s.pkg with softB := s.pkg.softB + 1 } }) ∧
    (∀ n d u, s.arg = .soft (.charged n d u) → (s.ctx? n).isSome = true → hasTest u = true → ¬(u = 0xFE ∧ d = .b) →
      ∃ t, exec .sramSoftError s = .next t ∧ Charged s t n 2 d u) ∧
    (∀ pa, s.arg = .soft (.line pa) → (∃ d, homeOf pa = .hbm d ∨ homeOf pa = .tier2 d) → ∃ t, exec .sramSoftError s = .next t ∧ pa / 128 * 128 ∈ t.poison) ∧
    (∀ n d u, s.arg = .charge n d u → (s.ctx? n).isSome = true → hasTest u = true ∨ u = 0xFF → ¬(u = 0xFE ∧ d = .b) →
      ∃ t, exec .internalTimeout s = .next t ∧ Charged s t n 7 d u ∧ (u = 0xFF → t = s.deviceFault n 7 d u)) ∧
    (s.pkg.readyF.getLsbD 2 = true → ∃ t, exec .d2dFlitRetry s = .next t ∧ t = { s with pkg := { s.pkg with flitRetries := t.pkg.flitRetries } } ∧
      1 ≤ t.pkg.flitRetries ∧ (t.pkg.flitRetries = 1 ∨ (t.pkg.flitRetries = s.pkg.flitRetries + 1 ∧ s.pkg.flitRetries < 16))) ∧
    (s.pkg.readyF.getLsbD 2 = true → 16 ≤ s.pkg.flitRetries → ∃ t, exec .d2dLost s = .next t ∧ t.pkg.readyF.getLsbD 2 = false ∧
      (∀ n c, s.ctx? n = some c → Die.a ∈ s.ctxDies n → Die.b ∈ s.ctxDies n → ∀ b ∈ t.blocks, b.ctx ≠ n)) ∧
    (s.pkg.flitRetries < 16 → ∃ t, exec .d2dLost s = .next t ∧ t = s)

/-- What a sample of R18 says, for an inlet of at least 15 °C: its quantities in tenths of a degree and hundredths of a litre per minute. -/
def Sys2Proof.Claim.tripped (c : Coolant) : Prop := 450 < c.inlet ∨ c.flow < 160 ∨ 1050 < c.junctionA ∨ 1050 < c.junctionB
def Sys2Proof.Claim.warned (c : Coolant) : Prop := ¬tripped c ∧ (400 < c.inlet ∨ c.flow < 200 ∨ 950 < c.junctionA ∨ 950 < c.junctionB)

/-- Cooling (R18, R19): each sample sets the state; a warning is posted when the state enters it; the slow row ends with 100 normal samples in a row; a trip faults every context, stops the clocks and
clears every bit but MGMT. -/
def Sys2Proof.Claim.Cools : Prop :=
  ∀ (s : State) (c : Coolant), s.arg = .coolant c → 150 ≤ c.inlet → s.pkg.thermal ≠ 2 →
    (tripped c → ∃ t, exec .coolingSample s = .next t ∧ t.clocksOn = false ∧ t.pkg.thermal = 2 ∧ t.pkg.readyC = 0 ∧
      (∀ k, t.pkg.readyF.getLsbD k = (decide (k = 0) && s.pkg.readyF.getLsbD 0)) ∧ ∀ n x, s.ctx? n = some x → ∀ b ∈ t.blocks, b.ctx ≠ n) ∧
    (warned c →
      let s1 : State := { s with pkg := { s.pkg with thermal := 1, slow := true, normalRun := 0 } }
      (s.pkg.thermal = 0 → ∃ t, exec .coolingSample s = .next t ∧ t = s1.post .a 0x08 0 0xFFFF 1 0 0) ∧
      (s.pkg.thermal ≠ 0 → ∃ t, exec .coolingSample s = .next t ∧ t = s1)) ∧
    (¬tripped c → ¬warned c →
      (s.pkg.slow = true → s.pkg.normalRun < 99 → ∃ t, exec .coolingSample s = .next t ∧
        t = { s with pkg := { s.pkg with thermal := 0, normalRun := s.pkg.normalRun + 1 } }) ∧
      (s.pkg.slow = false ∨ 99 ≤ s.pkg.normalRun → ∃ t, exec .coolingSample s = .next t ∧
        t = { s with pkg := { s.pkg with thermal := 0, slow := false, normalRun := 0 } }))

/-- Device faults, errors and cooling. -/
def Sys2Proof.Claim.FaultsAndCooling : Prop := FaultsContext ∧ Errors ∧ Cools

/-- The record of an event as the device numbers it (R75). -/
def Sys2Proof.Claim.record (s : State) (d : Die) (type status : BitVec 8) (n : Nat) (x y z : Dword) : EvRec :=
  ⟨d, type, status, BitVec.ofNat 16 n, s.evt.eseq, x, y, z⟩

/-- Whether the host's buffer takes a record now: enabled, of a size that R74 allows, and not full. -/
def Sys2Proof.Claim.takes (s : State) : Prop :=
  let k := s.evt.cfg.toNat % 32
  s.evt.cfg.toNat.testBit 8 = true ∧ 6 ≤ k ∧ k ≤ 20 ∧ s.evt.tail - s.evt.head ≠ BitVec.ofNat 32 (2 ^ k)

/-- EVTCFG holds a size that R74 allows, or its EN is clear. -/
def Sys2Proof.Claim.sized (e : Evt) : Prop := e.cfg.toNat.testBit 8 = false ∨ (6 ≤ e.cfg.toNat % 32 ∧ e.cfg.toNat % 32 ≤ 20)

/-- An event is written at its place, held on its die behind the others, or dropped and counted without a number (R74, R75); the next number is never 0. -/
def Sys2Proof.Claim.Posts : Prop :=
  ∀ (s : State) (d : Die) (type status : BitVec 8) (n : Nat) (x y z : Dword), sized s.evt →
    let t := s.post d type status n x y z
    let r := record s d type status n x y z
    let next := if s.evt.eseq = 0xFFFFFFFF then 1 else s.evt.eseq + 1
    let mine := (s.evt.held.filter fun e => e.die = d).length
    (s.evt.held = [] → takes s → t = { s with
      out := s.out ++ [.event (32 * (s.evt.tail.toNat % 2 ^ (s.evt.cfg.toNat % 32))) r], evt := { s.evt with eseq := next, tail := s.evt.tail + 1 } }) ∧
    (s.evt.held ≠ [] ∨ ¬takes s → mine < 256 → t = { s with evt := { s.evt with eseq := next, held := s.evt.held ++ [r] } }) ∧
    (s.evt.held ≠ [] ∨ ¬takes s → 256 ≤ mine → t = { s with evt := { s.evt with lost := t.evt.lost } } ∧
      t.evt.lost.toNat = Min.min (s.evt.lost.toNat + 1) (2 ^ 64 - 1))

/-- Held records leave in order as far as there is room when EVTHEAD or EVTCFG is written (R75). -/
def Sys2Proof.Claim.Drains : Prop :=
  ∀ (s : State) (v : Dword), s.arg = .dword v → s.readyBit bitMgmt = true → s.readyBit bitFw = true → ∀ i, i = .evtheadWrite ∨ i = .evtcfgWrite →
    let s1 : State := if i = .evtheadWrite then { s with evt := { s.evt with head := v.setWidth 32 } } else { s with evt := { s.evt with cfg := v &&& 0x11F } }
    sized s1.evt → ∃ t k, exec i s = .next t ∧ k ≤ s.evt.held.length ∧ t.evt.held = s.evt.held.drop k ∧ t.evt.eseq = s.evt.eseq ∧
      t.evt.tail = s.evt.tail + BitVec.ofNat 32 k ∧ (∃ l, t.out = s.out ++ l ∧ l.length = k) ∧
      (k < s.evt.held.length → ¬takes t) ∧ (takes s1 → s.evt.held ≠ [] → 1 ≤ k) ∧ t = { s1 with out := t.out, evt := t.evt }

/-- Events to the host (R74, R75). -/
def Sys2Proof.Claim.EventRecords : Prop := Posts ∧ Drains

/-- A write of a register of the window whose bits are mask and which has no other effect (R61, R74, R305). -/
def Sys2Proof.Claim.plainRegister (s : State) (off : Nat) (v : Dword) : Option State :=
  let mask (n : Nat) : Nat := v.toNat % 2 ^ n
  if off = 0x100 then some { s with pkg := { s.pkg with devnum := BitVec.ofNat 21 (mask 21) } }
  else if off = 0x108 then some { s with pkg := { s.pkg with peerbase := BitVec.ofNat 56 (mask 56 / 2 ^ 16 * 2 ^ 16) } }
  else if off = 0x110 then some { s with pkg := { s.pkg with colltmo := v } }
  else if off = 0x600 then some { s with evt := { s.evt with host0 := v } }
  else if off = 0x608 then some { s with evt := { s.evt with host1 := v } }
  else if off = 0x610 then some { s with evt := { s.evt with key := BitVec.ofNat 64 (mask 56) } }
  else none

/-- Accesses of the window that go through (R61): a write of a register leaves its named bits; a read gives the value and clears what is cleared by
reading; accesses that are no register are discarded and counted, and so is every write while the service or its firmware is not ready (R22). -/
def Sys2Proof.Claim.Accesses : Prop :=
  ∀ s : State,
    let up := s.readyBit bitMgmt = true ∧ s.readyBit bitFw = true
    let counted : State := { s with pkg := { s.pkg with wdiscard := if s.pkg.wdiscard = 0xFFFFFFFFFFFFFFFF then s.pkg.wdiscard else s.pkg.wdiscard + 1 } }
    (∀ w, s.arg = .window w →
      (¬up → exec .registerWrite s = .next counted) ∧
      (up → w.off < 0x800 → w.len ≠ 8 ∨ w.off % 8 ≠ 0 → exec .registerWrite s = .next counted) ∧
      (up → w.len = 8 → ∀ t, plainRegister s w.off (BitVec.ofNat 64 w.val) = some t → exec .registerWrite s = .next t) ∧
      (up → w.len = 8 → ∀ k, k < 64 → w.off = 0x400 + 8 * k → ∃ t, exec .registerWrite s = .next t ∧ t = { s with pkg := { s.pkg with bridge := t.pkg.bridge } } ∧
        ∀ j (h : j < 64), t.pkg.bridge[j] = if j = k then BitVec.ofNat 64 (w.val % 2 ^ 22) else s.pkg.bridge[j])) ∧
    (∀ d, s.arg = .die d → ∃ t, exec .govstatRead s = .next t ∧
      let g := match d with | .a => s.govA | .b => s.govB
      t.out = s.out ++ [.value (BitVec.ofNat 64 (g.held.length % 256 + g.pending.length % 256 * 2 ^ 8 + s.pkg.thermal.toNat * 2 ^ 16 + g.longest.toNat * 2 ^ 32))] ∧
      { t with out := s.out } = (match d with | .a => { s with govA := { g with longest := 0 } } | .b => { s with govB := { g with longest := 0 } })) ∧
    (∀ k (h : k < 16), s.arg = .num k → ∃ t, exec .portstatRead s = .next t ∧
      let p := s.pkg.ports[k]
      t.out = s.out ++ [.value (BitVec.ofNat 64 ((if p.up then 1 else 0) + (if p.an then 2 else 0) + (if p.llr then 4 else 0) + p.fecCor.toNat * 2 ^ 8 +
        p.fecUnc.toNat * 2 ^ 32 + p.drops.toNat * 2 ^ 48))] ∧
      (∀ j (h : j < 16), t.pkg.ports[j] = if j = k then { p with fecCor := 0, fecUnc := 0, drops := 0 } else s.pkg.ports[j]) ∧
      { t with out := s.out } = { s with pkg := { s.pkg with ports := t.pkg.ports } }) ∧
    (exec .wdiscardRead s = .next { s with pkg := { s.pkg with wdiscard := 0 }, out := s.out ++ [.value s.pkg.wdiscard] }) ∧
    (exec .evtlostRead s = .next { s with evt := { s.evt with lost := 0 }, out := s.out ++ [.value s.evt.lost] }) ∧
    (s.live (s.dbg.cfg.toNat % 2 ^ 10) = true →
      exec .samplostRead s = .next { s with dbg := { s.dbg with sampLost := 0 }, out := s.out ++ [.value s.dbg.sampLost] } ∧
      (up → ∀ v, s.arg = .dword v → ∃ l, exec .accheadWrite s = .next { s with dbg := { s.dbg with accHead := v, tagLog := s.dbg.tagLog ++ l } } ∧
        (s.dbg.cfg.toNat / 2 ^ 12 % 4 ≠ 2 → l = [])))

/-- Kicks and the counters of a context at the window (R66, R68, R76, R77): a kick whose number is within 16 of E and new is stored, else KICK_SEQ is posted;
a counter or threshold takes its value; without its context, with the context being destroyed, or with its graph controller not ready a kick is
discarded. -/
def Sys2Proof.Claim.ContextRegisters : Prop :=
  ∀ s : State, s.readyBit bitMgmt = true → s.readyBit bitFw = true →
    (∀ n k c, s.arg = .kick n k → n < 1024 → s.ctx? n = some c →
      let q : Word := BitVec.ofNat 32 (k.toNat / 2 ^ 32)
      let seen := ∃ x ∈ c.kicks, BitVec.ofNat 32 (BitVec.toNat x / 2 ^ 32) = q
      (c.stat = 3 ∨ s.readyBit (bitGc c.home) = false → exec .kick s = .next s.discard) ∧
      (c.stat ≠ 3 → s.readyBit (bitGc c.home) = true →
        ((q - c.e).toNat < 16 → ¬seen → ∃ t c', exec .kick s = .next t ∧ t.ctx? n = some c' ∧ c' = { c with kicks := c.kicks ++ [k] } ∧
          (∀ m, m ≠ n → t.ctx? m = s.ctx? m) ∧ t = { s with ctxs := t.ctxs }) ∧
        (16 ≤ (q - c.e).toNat ∨ seen → ∃ st, exec .kick s = .next (s.post c.home 0x04 st n (q.setWidth 64) (c.e.setWidth 64) 0)))) ∧
    (∀ n k, s.arg = .kick n k → n < 1024 → s.ctx? n = none → exec .kick s = .next s.discard) ∧
    ∀ i n k v c, i = .fpcountWrite ∨ i = .fpthreshWrite → s.arg = .fp n k v → n < 1024 → k < 36 → s.ctx? n = some c → ∃ t c', exec i s = .next t ∧
      t.ctx? n = some c' ∧ (∀ m, m ≠ n → t.ctx? m = s.ctx? m) ∧ t = { s with ctxs := t.ctxs, evt := t.evt, out := t.out } ∧
      (i = .fpcountWrite → c'.fpCount.toList = c.fpCount.toList.set k v) ∧
      (i = .fpthreshWrite → c'.fpCount = c.fpCount ∧ ∀ j, j ≠ k → c'.fpThresh.toList[j]? = c.fpThresh.toList[j]?)

/-- The host's window (R22, R61, R66, R68, R74, R76, R77). -/
def Sys2Proof.Claim.HostWindow : Prop := Accesses ∧ ContextRegisters

/-! Ports, landings, sends, collectives, leave (spec 01 R14 to R17, 02 R32 to R60). -/

/-- A port as the transport and the codewords leave it (R32 to R34): a port that comes up takes its link's terms, one that goes down loses them, a malformed
frame and an unsupported request count in DROPS of a port that carries traffic, and corrected and uncorrectable codewords count with saturation. -/
def Sys2Proof.Claim.Ports : Prop :=
  ∀ (s : State) (p : Nat) (h : p < 16),
    let only (t : State) (x : Port) : Prop := (∀ j (h : j < 16), t.pkg.ports[j] = if j = p then x else s.pkg.ports[j]) ∧
      { t with out := s.out } = { s with pkg := { s.pkg with ports := t.pkg.ports } }
    let x := s.pkg.ports[p]
    let dropped : Port := { x with drops := if x.drops = 0xFFFF then x.drops else x.drops + 1 }
    let up := s.pkg.readyF.getLsbD (48 + p) = true ∧ x.up = true
    (∀ an llr, s.arg = .portUp p an llr → ∃ t, exec .portLinkUp s = .next t ∧ only t { x with up := true, an := an, llr := llr } ∧ t.out = s.out) ∧
    (s.arg = .num p → (∀ o ∈ s.ops, o.towards = none) → ∃ t, exec .portLinkDown s = .next t ∧
      only t { x with up := false, an := false, llr := false } ∧ t.out = s.out) ∧
    (s.arg = .num p → up → ∃ t, exec .malformedFrame s = .next t ∧ only t dropped ∧ t.out = s.out) ∧
    (∀ src, s.arg = .request p src → up → ∃ t, exec .uetUnsupportedRequest s = .next t ∧ only t dropped ∧ t.out = s.out ++ [.nak src 2]) ∧
    (s.arg = .codeword p true → ∃ t, exec .fecCodeword s = .next t ∧ t.out = s.out ∧
      only t { x with fecCor := if x.fecCor = 0xFFFFFF then x.fecCor else x.fecCor + 1 }) ∧
    (s.arg = .codeword p false → ∃ t, exec .fecCodeword s = .next t ∧ t.out = s.out ∧
      only t { x with fecUnc := if x.fecUnc = 0xFFFF then x.fecUnc else x.fecUnc + 1 })

/-- The entry of a peer in the peer table (R38). -/
def Sys2Proof.Claim.peerEntry (s : State) (dev : Nat) : Nat := little (s.homeRead (s.pkg.peerbase.toNat + 32 * dev) 32)

/-- A port that may carry traffic of a die to a peer: in the mask of its valid entry, up, on the die or across a link that is up (R33, R38, R40). -/
def Sys2Proof.Claim.carries (s : State) (d : Die) (dev p : Nat) : Prop :=
  p < 16 ∧ (peerEntry s dev).testBit 144 = true ∧ (peerEntry s dev).testBit (128 + p) = true ∧ s.pkg.readyF.getLsbD (48 + p) = true ∧
    (∃ h : p < 16, s.pkg.ports[p].up = true) ∧ ((p < 8 ↔ d = .a) ∨ s.pkg.readyF.getLsbD 2 = true)

/-- How a frame of a class leaves: by a port that may carry it, of its own die where one may, with what the peer's entry says (R34, R38, R40, R43). -/
def Sys2Proof.Claim.leaves (s : State) (d : Die) (dev cls : Nat) (v : Via) : Prop :=
  carries s d dev v.port ∧ ((∃ p, carries s d dev p ∧ (p < 8 ↔ d = .a)) → (v.port < 8 ↔ d = .a)) ∧ v.cls = cls ∧
    v.rod = (peerEntry s dev).testBit 145 ∧ v.addr.toNat = peerEntry s dev % 2 ^ 128 ∧ v.job.toNat = peerEntry s dev / 2 ^ 168 % 2 ^ 24

/-- An operation with packets on their way that no port of its peer's mask carries any more ends with NO_ROUTE (R33, R40); the bridge forwards a packet to
the member of its key in traffic class 1, refuses it where the key is invalid, and lands its own (R42, R43). -/
def Sys2Proof.Claim.Routes : Prop :=
  (∀ (s : State) (p : Nat) (o : Op), s.arg = .num p → p < 16 → s.ops = [o] →
    let t0 := s.modPort p fun x => { x with up := false, an := false, llr := false }
    (∀ d, o.towards = some d → d = s.pkg.devnum.toNat ∨ (∃ k, carries t0 o.die d k) → exec .portLinkDown s = .next t0) ∧
    (∀ d, o.towards = some d → d ≠ s.pkg.devnum.toNat → (¬∃ k, carries t0 o.die d k) → exec .portLinkDown s = .next (t0.netOver o 0x24))) ∧
  ∀ (s : State) (p : HeldPkt) (port src : Nat), s.arg = .bridge p → p.from_ = (port, src) → port < 16 → s.portUp port = true →
    let e := s.pkg.bridge.toList.getD (p.key.toNat % 64) 0
    let d := e.toNat % 2 ^ 21
    let side : Die := if port < 8 then .a else .b
    (e.getLsbD 21 = false → exec .bridgeForward s = .next { s with out := s.out ++ [.nak src 1] }) ∧
    (e.getLsbD 21 = true → d = s.pkg.devnum.toNat → exec .bridgeForward s = .next (s.arrive p)) ∧
    (e.getLsbD 21 = true → d ≠ s.pkg.devnum.toNat →
      ((∃ k, carries s side d k) → ∃ t v, exec .bridgeForward s = .next t ∧ leaves s side d 1 v ∧ t = { s with out := s.out ++ [.bridge v d p] }) ∧
      ((¬∃ k, carries s side d k) → exec .bridgeForward s = .next s))

/-- The region that the key of a packet names (R45). -/
def Sys2Proof.Claim.keyNames (s : State) (key : Word) (r : Region) : Prop :=
  let sel := key.toNat / 64
  sel < 2 ^ 11 ∧ s.regions.find? (fun x => x.die = (if sel.testBit 10 then .b else .a) && x.idx = sel % 2 ^ 10) = some r

/-- No packet of a packet's ordered flow is held before it (R35). -/
def Sys2Proof.Claim.inOrder (s : State) (p : HeldPkt) : Prop := p.flow = none ∨ ∀ q ∈ s.heldPkts, q.flow ≠ p.flow

/-- The answer to a packet: frames of at most 4,096 bytes that hold it (R31). -/
def Sys2Proof.Claim.answers (src : Nat) (bs : List Byte) (l : List Out) : Prop :=
  ∃ fs : List (List Byte), fs ≠ [] ∧ l = fs.map (Out.reply src) ∧ fs.flatten = bs ∧ ∀ f ∈ fs, f.length ≤ 4096

/-- Bytes of a region's context that lie in one page of memory that admits an access, free of locks and of faults, on the side of the link where the packet
comes in or beyond it while it is up (R22, R36, R183). -/
def Sys2Proof.Claim.landsAt (s : State) (port : Nat) (r : Region) (va n level : Nat) (need : Need) (pa : Nat) : Prop :=
  ∃ c base size rd wr t2 cls, s.ctx? r.ctx = some c ∧ s.walk r.die c va = .leaf base size rd wr t2 cls ∧ pa = base + va % size ∧
    va % 65536 + n ≤ 65536 ∧ 1 ≤ n ∧ (need.rd = true → rd = true) ∧ (need.wr = true → wr = true ∧ c.protects va n = false) ∧
    s.lock none (.virt r.ctx va n) < level ∧ s.lock none (.phys pa n) < level ∧ s.meets r.die none pa n need.rd = .none ∧ homeOf pa ≠ .window ∧
    (r.die = (if port < 8 then .a else .b) ∨ s.pkg.readyF.getLsbD 2 = true)

/-- No armed send waits for a counter. -/
def Sys2Proof.Claim.noSends (s : State) (d : Die) (i : Nat) : Prop := ∀ o ∈ s.ops, ∀ t, o.work = .tsend t → ¬(o.die = d ∧ t.ctr = i)

/-- An incoming write (R35, R36, R44 to R46): one of an ordered flow waits behind those held; a key that names no region is refused and counted at its port; a packet that reaches beyond the region is
refused; one that may land leaves its bytes, leaves all others, answers, and advances the region's counter by its unit. -/
def Sys2Proof.Claim.WritesLand : Prop :=
  ∀ (s : State) (p : RmaWrite), s.arg = .rmaWrite p → p.port < 16 → s.portUp p.port = true → p.key.toNat / 64 ≠ 0x3FFFFFF →
    (¬inOrder s (.write p) → exec .incomingRmaWrite s = .next { s with heldPkts := s.heldPkts ++ [.write p] }) ∧
    (inOrder s (.write p) → (¬∃ r, keyNames s p.key r) → exec .incomingRmaWrite s = .next (({ s with out := s.out ++ [.nak p.src 1] } : State).dropAt p.port)) ∧
    ∀ r, inOrder s (.write p) → keyNames s p.key r → (∀ m ∈ s.msgs, ¬(m.src = p.src ∧ m.msg = p.msg ∧ m.die = r.die ∧ m.idx = r.idx)) →
      (r.len < p.off + p.total ∨ p.total < p.at_ + p.data.length → (s.ctx? r.ctx).isSome = true →
        exec .incomingRmaWrite s = .next { s with out := s.out ++ [.nak p.src 0] }) ∧
      ∀ pa c, p.at_ + p.data.length ≤ p.total → p.off + p.total ≤ r.len → landsAt s p.port r (r.base + (p.off + p.at_)) p.data.length 1 .store pa →
        s.counter? r.die r.ctr = some c → noSends s r.die r.ctr → c.val.toNat + p.data.length < 2 ^ 32 →
        ∃ t c', exec .incomingRmaWrite s = .next t ∧ t.out = s.out ++ [.reply p.src []] ∧
          (∀ k (h : k < p.data.length), t.homeRead (pa + k) 1 = [p.data[k]]) ∧
          (∀ a, ¬(pa ≤ a ∧ a < pa + p.data.length) → t.homeRead a 1 = s.homeRead a 1) ∧
          t.counter? r.die r.ctr = some c' ∧ (∀ d i, (d, i) ≠ (r.die, r.ctr) → t.counter? d i = s.counter? d i) ∧
          (2 ≤ r.unit → c'.val.toNat = c.val.toNat + p.data.length) ∧
          (r.unit = 0 → c'.val.toNat = c.val.toNat + if p.data.length = p.total then 1 else 0) ∧
          t = { s with mem := t.mem, cached := t.cached, tags := t.tags, poison := t.poison, syncs := t.syncs, stamps := t.stamps, counters := t.counters, msgs := t.msgs,
                       out := t.out, holds := t.holds, hot := t.hot }

/-- An incoming read answers with the bytes and changes no byte; an incoming fetching atomic answers with the old value and leaves the sum, or the new value
where the compare held, as a release (R31, R36, R37, R169); each is refused beyond the region. -/
def Sys2Proof.Claim.ReadsLand : Prop :=
  (∀ (s : State) (p : RmaRead), s.arg = .rmaRead p → inOrder s (.read p) → p.port < 16 → s.portUp p.port = true → p.key.toNat / 64 ≠ 0x3FFFFFF →
    ((¬∃ r, keyNames s p.key r) → exec .incomingRmaRead s = .next (({ s with out := s.out ++ [.nak p.src 1] } : State).dropAt p.port)) ∧
    ∀ r, keyNames s p.key r →
      (r.len < p.off + p.len → (s.ctx? r.ctx).isSome = true → exec .incomingRmaRead s = .next { s with out := s.out ++ [.nak p.src 0] }) ∧
      ∀ pa, p.off + p.len ≤ r.len → landsAt s p.port r (r.base + p.off) p.len 2 .load pa → ∃ t l, exec .incomingRmaRead s = .next t ∧
        answers p.src (s.homeRead pa p.len) l ∧ t = { s with out := s.out ++ l, tags := t.tags, hot := t.hot }) ∧
  ∀ (s : State) (p : RmaAtomic), s.arg = .rmaAtomic p → inOrder s (.atomic p) → p.port < 16 → s.portUp p.port = true → p.key.toNat / 64 ≠ 0x3FFFFFF →
    ((¬∃ r, keyNames s p.key r) → exec .incomingFetchAtomic s = .next (({ s with out := s.out ++ [.nak p.src 1] } : State).dropAt p.port)) ∧
    ∀ r, keyNames s p.key r → ∀ pa, p.off + 8 ≤ r.len → (r.base + p.off) % 8 = 0 → landsAt s p.port r (r.base + p.off) 8 1 .both pa → ∃ t,
      exec .incomingFetchAtomic s = .next t ∧ t.out = s.out ++ [.reply p.src (s.homeRead pa 8)] ∧
      (let old := little (s.homeRead pa 8)
       let new := if p.cas then (if old = p.cmp.toNat then p.val.toNat else old) else (old + p.val.toNat) % 2 ^ 64
       little (t.homeRead pa 8) = new) ∧
      (p.cas = false ∨ little (s.homeRead pa 8) = p.cmp.toNat → (homeDie pa = .a → (t.sync pa).a = true) ∧ (homeDie pa = .b → (t.sync pa).b = true)) ∧
      ∀ a, ¬(pa ≤ a ∧ a < pa + 8) → t.homeRead a 1 = s.homeRead a 1

/-- A held packet that may land now lands as it would have when it came, and is held no more; one of an ordered flow only once none of its flow is held before
it (R35, R131, R183). -/
def Sys2Proof.Claim.HeldLands : Prop :=
  ∀ (s : State) (i : Nat) (p : HeldPkt), s.arg = .num i → s.heldPkts[i]? = some p → p.from_.1 < 16 →
    let s0 : State := { s with heldPkts := s.heldPkts.eraseIdx i }
    let first := p.flow = none ∨ ∀ j q, j < i → s.heldPkts[j]? = some q → HeldPkt.flow q ≠ p.flow
    (¬first → exec .heldLandingRelease s = .next s) ∧
    (∀ u a, first → s0.landPkt p = .taken u a → ∃ t l, exec .heldLandingRelease s = .next t ∧
      answers p.from_.2 a l ∧ t = { u with holds := t.holds, out := u.out ++ l }) ∧
    (∀ u, first → s0.landPkt p = .held u → ∃ t, exec .heldLandingRelease s = .next t ∧ t.heldPkts = s.heldPkts ∧ t.out = u.out ∧ t.mem = u.mem)

/-- What the network brings to landing regions. -/
def Sys2Proof.Claim.Landings : Prop := Ports ∧ Routes ∧ WritesLand ∧ ReadsLand ∧ HeldLands

/-- An operation that completes (R184, R203, R439): it is gone and every other operation stays; a lane issuer's counts fall by it once all earlier ones of its
class are over; a lead issuer has a record with its tag, status and kind; a node no longer waits for it. -/
def Sys2Proof.Claim.CompletionReports : Prop :=
  ∀ (s : State) (o : Op) (status : Nat),
    let t := s.finishOp o status
    let kind := match o.work with | .copy _ _ _ _ => 1 | .coll _ => 2 | .tsend _ => 3 | .tile _ => 4 | .stash _ => 5 | .sample _ => 6 | .cat _ => 7
    let word1 (w : Dword) : Prop := match o.work with
      | .copy _ dst _ _ => w = BitVec.ofNat 64 (match dst with | .glob va => va | .loc _ la => la)
      | .coll c => w = c.ctag
      | .tsend x => w = BitVec.ofNat 64 x.src
      | .stash x => w = BitVec.ofNat 64 x.a
      | _ => w = 0
    (∀ x, x ∈ t.ops ↔ x ∈ s.ops ∧ x.id ≠ o.id) ∧
    (∀ r th y, o.issuer = .agent (.lane r) → s.thread? r = some th → t.thread? r = some y →
      (o.count = .st → y.st = th.st - 1) ∧ (o.count ≠ .st → y.st = th.st) ∧
      (∀ e, e.1 ≠ o.id → e.2 = false → (e ∈ y.cp ↔ e ∈ th.cp)) ∧ (∀ e, e.1 ≠ o.id → e.2 = false → (e ∈ y.tl ↔ e ∈ th.tl)) ∧
      (∀ e ∈ y.cp.head?, e.2 = false) ∧ (∀ e ∈ y.tl.head?, e.2 = false) ∧ (∀ e ∈ y.cp, e.1 = o.id → e.2 = true)) ∧
    (∀ l x y, o.issuer = .agent (.lead l) → o.count ≠ .no → s.lead? l = some x → x.status ≠ .ended → t.lead? l = some y → ∃ q,
      y.evq = x.evq ++ [q] ∧ q.w0.toNat % 2 ^ 32 = o.tag.toNat + status % 256 * 2 ^ 16 + kind * 2 ^ 24 ∧ q.w0.getLsbD 61 = false ∧ q.w0.getLsbD 63 = true ∧ word1 q.w1) ∧
    (∀ n x y, o.issuer = .node n → s.node? n = some x → x.op = some o.id → t.node? n = some y → y.op = none ∧
      (status = 0 → y.status = x.status) ∧ (status ≠ 0 → x.status = none → y.status = some (BitVec.ofNat 8 status)))

/-- The end of sends and collectives on the network (R33, R45, R48, R56): the last acknowledgement ends a send with OK, a refusal with REMOTE_PROTECT, 400,000,000
cycles without one with PEER_LOST; what is sent again leaves the device and nothing changes. -/
def Sys2Proof.Claim.SendsEnd : Prop :=
  ∀ (s : State) (id : Nat) (o : Op) (x : Tsend), s.arg = .num id → s.op? id = some o → o.work = .tsend x → o.phase = .registered → x.sent ≠ 0 →
    x.device ≠ s.pkg.devnum.toNat → s.issuerHeld o = false →
    exec .uetAck s = .next (s.finishOp o 0) ∧ exec .uetNak s = .next (s.finishOp o 0x25) ∧
    (x.sent - 1 + 400000000 ≤ s.cycle o.die → exec .peerLostTimeout s = .next (s.finishOp o 0x20)) ∧
    (s.cycle o.die < x.sent - 1 + 400000000 → exec .peerLostTimeout s = .next s) ∧
    exec .uetRetransmit s = .next { s with out := s.out ++ [.again id] }

/-- Elements of a collective's shards (R53): the first n mod N shards have one element more. -/
def Sys2Proof.Claim.shardOf (n count i : Nat) : Nat × Nat := (i * (n / count) + Min.min i (n % count), n / count + if i < n % count then 1 else 0)

/-- Combining two partials of a sum, maximum or minimum of SI32, and of a sum of F32 (R54). -/
def Sys2Proof.Claim.Combines : Prop :=
  ∀ a b : Nat, a < 2 ^ 32 → b < 2 ^ 32 →
    let si (x : Nat) : Int := (BitVec.ofNat 32 x).toInt
    combineCode 4 0 a b = (a + b) % 2 ^ 32 ∧ combineCode 4 1 a b = (if si a < si b then b else a) ∧ combineCode 4 2 a b = (if si b < si a then b else a) ∧
    combineCode 1 0 a b = rne .f32 (Val.add false (FTy.f32.value a) (FTy.f32.value b))

/-- A collective's steps on its device (R14, R54 to R58): it asks leave for its phase; a phase begun, with all its input and everything acknowledged, ends its leave
and the operation, or goes on to the next phase; one that waits too long ends with COLL_TIMEOUT, and data of a collective that differs in what the members agree on with COLL_MISMATCH. -/
def Sys2Proof.Claim.CollectivesGoOn : Prop :=
  ∀ (s : State) (id : Nat) (o : Op) (c : Coll), s.op? id = some o → o.work = .coll c → o.phase = .registered → s.issuerHeld o = false → s.opPages o = .ready →
    (s.opMeets o).1 = .none →
    (s.arg = .num id → c.leave = false → ∃ t, exec .collectiveComplete s = .next t ∧ Requester.coll ∈ (t.gov o.die).pending.map (fun e => e.1) ∧ t.ops = s.ops ∧ t.mem = s.mem) ∧
    (s.arg = .num id → c.leave = true → c.begun = true → c.phaseOver = true → c.sent = none →
      (∀ p, c.nextPhase = some p → ∃ t, exec .collectiveComplete s = .next t ∧ ∃ z ∈ t.ops, z.id = id ∧ ∃ c', z.work = .coll c' ∧ c'.phase = p ∧ c'.leave = false ∧ c'.begun = false) ∧
      (c.nextPhase = none → ∃ t, exec .collectiveComplete s = .next t ∧ ∀ z ∈ t.ops, z.id ≠ id)) ∧
    (s.arg = .num id → c.begun = true → c.phaseOver = false → s.pkg.colltmo ≠ 0 → c.waitFrom + s.pkg.colltmo.toNat < s.cycle o.die →
      ∃ t, exec .collectivePhaseTimeout s = .next t ∧ ∀ z ∈ t.ops, z.id ≠ id) ∧
    (s.arg = .num id → s.pkg.colltmo = 0 → exec .collectivePhaseTimeout s = .next s) ∧
    ∀ p h d, s.arg = .coll p id h d →
      (s.portUp p = false → c.begun = false ∨ c.leave = false → ∃ t, exec .collectiveData s = .next t ∧ t = { s with holds := t.holds }) ∧
      (s.portUp p = true → h = c.head → c.begun = false ∨ c.leave = false → ∃ t, exec .collectiveData s = .next t ∧
        ∃ z ∈ t.ops, z.id = id ∧ z.work = .coll { c with inq := c.inq ++ [d] }) ∧
      (s.portUp p = true → h ≠ c.head → c.begun = true → c.leave = true → c.inq = [] → ∃ t, exec .collectiveData s = .next t ∧ ∀ z ∈ t.ops, z.id ≠ id)

/-- Leave (R14, R15): at most 8 requests, 4 while the slow row holds, are granted in a window of 64 cycles, the oldest first; a tile engine gives its leave back once idle for 256
cycles. -/
def Sys2Proof.Claim.LeaveMoves : Prop :=
  ∀ (s : State) (d : Die), s.arg = .die d →
    let g := s.gov d
    let made := if g.window = s.cycle d / 64 then g.grants else 0
    let most := if s.pkg.slow then 4 else 8
    (g.pending = [] ∨ most ≤ made → exec .leaveGrant s = .next s) ∧
    (∀ c at_, g.pending ≠ [] → made < most → nextRequest g.pending = some (c, at_) → c ≠ .coll → ∃ t, exec .leaveGrant s = .next t ∧
      (t.gov d).held = g.held ++ [c] ∧ (t.gov d).pending = g.pending.erase (c, at_) ∧ (t.gov d).window = s.cycle d / 64 ∧ (t.gov d).grants = made + 1 ∧
      (c, at_) ∈ g.pending ∧ (∀ e ∈ g.pending, at_ ≤ e.2) ∧ t = s.setGov d (t.gov d)) ∧
    ∀ k, ∀ u : State, u = { s with arg := .core d k } →
      ((∃ e ∈ g.idle, e.1 = k ∧ e.2 + 256 ≤ s.cycle d) → Requester.tile k ∈ g.held → ∃ t, exec .tileLeaveRelease u = .next t ∧
        (t.gov d).held = g.held.erase (.tile k) ∧ t = u.setGov d (t.gov d)) ∧
      ((∀ e ∈ g.idle, e.1 = k → s.cycle d < e.2 + 256) → exec .tileLeaveRelease u = .next u)

/-- Sends, collectives and leave on their way. -/
def Sys2Proof.Claim.NetworkOperations : Prop := SendsEnd ∧ Combines ∧ CollectivesGoOn ∧ LeaveMoves


/-! Commands (spec 03 R78 to R82, 06 R124, 08 R141). -/

/-- The OP of a command (R78). -/
def Sys2Proof.Claim.opOf : Instr → Option (BitVec 8)
  | .ctxCreate => some 1
  | .ctxDestroy => some 2
  | .ctxPartition => some 3
  | .graphRegister => some 4
  | .graphRelease => some 5
  | .ctxLimits => some 6
  | .regionSet | .regionFree => some 7
  | .counterSetAssign | .counterSetRelease | .counterSetValue => some 8
  | _ => none

/-- The command that an instruction runs: its OP and, where a word chooses among several, VALID of REGION_SET and the action of COUNTER_SET. -/
def Sys2Proof.Claim.isFor (i : Instr) (q : QCmd) : Prop :=
  opOf i = some q.op ∧ (i = .regionSet → q.c.w1.getLsbD 11 = true) ∧ (i = .regionFree → q.c.w1.getLsbD 11 = false) ∧
  (i = .counterSetAssign → q.c.w1.toNat / 2 ^ 14 % 4 = 0) ∧ (i = .counterSetRelease → q.c.w1.toNat / 2 ^ 14 % 4 = 1) ∧
  (i = .counterSetValue → 2 ≤ q.c.w1.toNat / 2 ^ 14 % 4)

/-- The command q is in hand: it runs, or it is the oldest that waits while none runs (R78). -/
def Sys2Proof.Claim.inHand (s : State) (q : QCmd) : Prop := s.arg = .none ∧ (s.cmdBusy = some q ∨ (s.cmdBusy = none ∧ ∃ r, s.cmdq = q :: r))

/-- The machine with the command in hand running. -/
def Sys2Proof.Claim.running (s : State) (q : QCmd) : State := if s.cmdBusy = some q then s else { s with cmdq := s.cmdq.tail, cmdBusy := some q }

/-- A command has ended with its CMD_DONE event (R75, R78). -/
def Sys2Proof.Claim.cmdEnded (s : State) (q : QCmd) (status : BitVec 8) (x : Nat) : State :=
  ({ s with cmdBusy := none, holds := s.holds.filter fun h => h.who != .cmd q.c.ctx.toNat } : State).post .a 0x0B status q.c.ctx.toNat
    (BitVec.ofNat 64 (q.c.tag.toNat + q.op.toNat * 2 ^ 32)) (BitVec.ofNat 64 x) 0

/-- The bits of a command's operand words that R78 does not assign are zero. -/
def Sys2Proof.Claim.unassignedClear (q : QCmd) : Prop :=
  match q.op.toNat with
  | 1 => q.c.w3.toNat < 2 ^ 16
  | 3 => q.c.w5.toNat < 2 ^ 16 ∧ q.c.w6.toNat < 2
  | 4 => q.c.w2.toNat < 2 ^ 12
  | 5 => q.c.w1.toNat < 2 ^ 12
  | 6 => q.c.w1.toNat < 2 ^ 15
  | 7 => q.c.w1.toNat < 2 ^ 12 ∧ (q.c.w1.getLsbD 11 = true →
      q.c.w2.toNat < 2 ^ 56 ∧ q.c.w3.toNat < 2 ^ 41 ∧ q.c.w4.toNat < 2 ^ 16 ∧ q.c.w4.getLsbD 13 = false)
  | 8 => q.c.w1.toNat < 2 ^ 16 ∧ q.c.w2.toNat < 2 ^ 32
  | _ => True

/-- The queue (R78): a command that arrives waits behind the others; the seventeenth is refused with BUSY; an OP that R78 does not assign ends
with BAD_ARG. -/
def Sys2Proof.Claim.CommandsArrive : Prop :=
  ∀ s : State, s.readyBit bitMgmt = true → s.readyBit bitFw = true →
    (∀ i op c, opOf i = some op ∧ s.arg = .cmd c ∨ (i = .cmdUnassignedOp ∧ s.arg = .badCmd op c ∧ (op = 0 ∨ 8 < op.toNat)) →
      (s.cmdq.length < 16 → exec i s = .next { s with cmdq := s.cmdq ++ [⟨op, c⟩] }) ∧
      (16 ≤ s.cmdq.length → exec i s = .next (s.post .a 0x0B 0x30 c.ctx.toNat (BitVec.ofNat 64 (c.tag.toNat + op.toNat * 2 ^ 32)) 0 0))) ∧
    ∀ q, inHand s q → q.op = 0 ∨ 8 < q.op.toNat → exec .cmdUnassignedOp s = .next (cmdEnded (running s q) q 0x32 0)

/-- A refused command (R78): reserved bits of word 0 or of an operand word end it with BAD_ARG, a context that is free with BAD_CTX, and so does CTX_CREATE
for one that is not. -/
def Sys2Proof.Claim.CommandsRefused : Prop :=
  ∀ (s : State) (i : Instr) (q : QCmd), isFor i q → inHand s q → q.c.ctx.toNat < 1024 →
    let free := s.ctx? q.c.ctx.toNat = none
    (i ≠ .ctxCreate →
      (¬free → q.c.rsv ≠ 0 ∨ ¬unassignedClear q → exec i s = .next (cmdEnded (running s q) q 0x32 0)) ∧
      (free → q.c.rsv = 0 → unassignedClear q → exec i s = .next (cmdEnded (running s q) q 0x31 0))) ∧
    (i = .ctxCreate → (free → q.c.rsv ≠ 0 ∨ ¬unassignedClear q → exec i s = .next (cmdEnded (running s q) q 0x32 0)) ∧
      (¬free → q.c.rsv = 0 → exec i s = .next (cmdEnded (running s q) q 0x31 0)))

/-- Commands arrive, wait, and are refused. -/
def Sys2Proof.Claim.CommandQueue : Prop := CommandsArrive ∧ CommandsRefused

/-- The reserved fields of a translation root are zero and its table is aligned (R124). -/
def Sys2Proof.Claim.rootLegal (r : Nat) : Prop :=
  ∀ f ∈ [(0, 20), (56, 8), (125, 3), (160, 32), (304, 16), (381, 3), (440, 8), (480, 32)], r / 2 ^ (Prod.fst f) % 2 ^ (Prod.snd f) = 0

/-- What the hot-page controllers keep over a creation (R141). -/
def Sys2Proof.Claim.hotKept (h : HotCtl) : Nat × Nat × Dword := (h.len, h.start, h.interval)

/-- CTX_CREATE (R68, R76, R78, R80, R124): a live context with no partition, no kick, no graph and E = 1, whose root's words are read once; a root or a limit
that breaks its rule creates none. A root beyond a unit that is not ready yet waits for it (R22). -/
def Sys2Proof.Claim.Creates : Prop :=
  ∀ (s : State) (q : QCmd), isFor .ctxCreate q → inHand s q → s.ctx? q.c.ctx.toNat = none → q.c.rsv = 0 → q.c.ctx.toNat < 1024 → unassignedClear q →
    let root := q.c.w1.toNat
    let quota := q.c.w3.toNat / 8 % 2 ^ 13
    let r := natOf (s.homeRead root 64)
    let limits := 1 ≤ quota ∧ quota ≤ 4096 ∧ root % 64 = 0
    let met := s.meets .a none root 64 true
    (¬limits → exec .ctxCreate s = .next (cmdEnded (running s q) q 0x32 0)) ∧
    (limits → met = .clear → exec .ctxCreate s = .next (running s q)) ∧
    (limits → met = .none → ¬rootLegal r → exec .ctxCreate s = .next (cmdEnded (running s q) q 0x32 0)) ∧
    (limits → met = .none → rootLegal r → ∃ c h g, exec .ctxCreate s = .next (cmdEnded { running s q with ctxs := s.ctxs ++ [c], hot := h, tags := g } q 0 0) ∧
      c.num = q.c.ctx.toNat ∧ c.stat = 1 ∧ c.root = root ∧ c.save = q.c.w2.toNat ∧ c.home = (if q.c.w3.getLsbD 0 then .b else .a) ∧
      c.classMax = q.c.w3.toNat / 2 % 4 ∧ c.poolQ = quota ∧ c.cores = 0 ∧ c.copyMask = 0 ∧ c.e = 1 ∧ c.kicks = [] ∧ c.taking = none ∧ c.graphs = [] ∧
      c.l0 = r % 2 ^ 56 ∧ c.fqBase = r / 2 ^ 64 % 2 ^ 56 ∧ c.fqSize = r / 2 ^ 120 % 2 ^ 5 ∧
      c.pfTmo = (if r / 2 ^ 256 % 2 ^ 48 = 0 then 200000000 else r / 2 ^ 256 % 2 ^ 48) ∧ c.catBase = r / 2 ^ 320 % 2 ^ 56 ∧
      c.catLog2 = r / 2 ^ 376 % 2 ^ 5 ∧ c.hotBase = r / 2 ^ 384 % 2 ^ 56 ∧ c.hotInt = r / 2 ^ 448 % 2 ^ 32 ∧ c.saveSlots = [] ∧
      (c.num ≠ 0 → h.map hotKept = s.hot.map hotKept) ∧ (c.num = 0 → h.map HotCtl.len = s.hot.map fun _ => c.hotInt * 65536))

/-- Nothing of a context's work is left (R82). -/
def Sys2Proof.Claim.NothingLeft (s : State) (n : Nat) : Prop :=
  (∀ b ∈ s.blocks, b.ctx ≠ n) ∧ (∀ o ∈ s.ops, o.ctx ≠ n) ∧ (∀ l ∈ s.loads, l.node.ctx ≠ n) ∧ (∀ x ∈ s.stores, x.node.ctx ≠ n) ∧
  ∀ x ∈ s.sideLog, x.ctx ≠ n

/-- A context without its save slots in use. -/
def Sys2Proof.Claim.slotless (c : Ctx) : Ctx := { c with saveSlots := [] }

/-- A node that counts as failed in the REPLAY_DONE of a killed replay: it failed, or it was dispatched and had not completed (R82). -/
def Sys2Proof.Claim.countsFailed (x : RNode) : Prop := x.status.isSome = true ∨ x.dispatched = true

/-- CTX_DESTROY (R51, R73, R82): the context ends with its kicks, blocks, operations, regions and counters; nothing of its replays runs on. Once nothing
of its work remains, each replay is reported KILLED with its lowest failed node, after its stores; the context is free and the command ends. -/
def Sys2Proof.Claim.Destroys : Prop :=
  ∀ (s : State) (q : QCmd),
    let n := q.c.ctx.toNat
    (∀ c, isFor .ctxDestroy q → inHand s q → q.c.rsv = 0 → s.ctx? n = some c → c.stat ≠ 3 → ∃ t c', exec .ctxDestroy s = .next t ∧
      t.cmdBusy = some q ∧ t.cmdq = (running s q).cmdq ∧ t.ctx? n = some c' ∧ c'.stat = 3 ∧ c'.kicks = [] ∧ c'.graphs = [] ∧ c'.taking = none ∧
      (∀ m, m ≠ n → (t.ctx? m).map slotless = (s.ctx? m).map slotless) ∧ (∀ b ∈ t.blocks, b.ctx ≠ n) ∧ (∀ o ∈ t.ops, o.ctx ≠ n) ∧
      t.replays.length = s.replays.length ∧
      (∀ (k : Nat) (r : Replay), s.replays[k]? = some r → ∃ y : Replay, t.replays[k]? = some y ∧ y.ctx = r.ctx ∧ y.seq = r.seq ∧ y.tag = r.tag ∧ y.handle = r.handle ∧
        y.nodes.map RNode.idx = r.nodes.map RNode.idx ∧
        (r.ctx = n → ∀ (i : Nat) x z, r.nodes[i]? = some x → y.nodes[i]? = some z → z.phase = .done ∧ (z.status.isSome = true ↔ countsFailed x))) ∧
      t.regions = s.regions.filter (fun r => r.ctx ≠ n) ∧ t.counters = s.counters.filter (fun x => x.ctx ≠ n) ∧
      (∀ h ∈ t.holds, h.ctx ≠ n) ∧ (∀ x ∈ t.channels, x.owner ≠ some n) ∧ t.out = s.out ∧ t.evt = s.evt) ∧
    (∀ c, s.cmdBusy = some q → q.op = 2 → s.ctx? n = some c → c.stat = 3 →
      (NothingLeft s n → ∃ t, exec .ctxDestroyDone s = .next t ∧ t.ctx? n = none ∧ (∀ m, m ≠ n → t.ctx? m = s.ctx? m) ∧ t.cmdBusy = none ∧
        t.replays = s.replays.filter (fun r => r.ctx ≠ n) ∧ (∀ a k, t.homeRead a k = s.homeRead a k) ∧ (∀ f, f ∈ t.faults ↔ f ∈ s.faults ∧ f.ctx ≠ n) ∧
        (s.replays.filter (fun r => r.ctx = n) = [] → ∃ cs fs ks, t = cmdEnded { s with ctxs := cs, faults := fs, keySyncs := ks } q 0 0) ∧
        ∀ r, s.replays.filter (fun r => r.ctx = n) = [r] → ∃ k,
          (let u := cmdEnded (s.post c.home 0x01 0x36 n (BitVec.ofNat 64 (r.seq.toNat + r.tag.toNat * 2 ^ 32)) (BitVec.ofNat 64 r.handle) (BitVec.ofNat 64 k)) q 0 0
           t.out = u.out ∧ t.evt = u.evt) ∧
          (∀ e ∈ t.cached, e.owned = true → ∀ x ∈ r.nodes, e.covered x.ends = false) ∧
          (r.nodes.map RNode.idx = List.range r.nodes.length → r.nodes.length ≤ 65536 →
            ((∃ x ∈ r.nodes, x.status.isSome = true) →
              (∃ x ∈ r.nodes, x.status.isSome = true ∧ x.idx = k) ∧ ∀ x ∈ r.nodes, x.status.isSome = true → k ≤ x.idx) ∧
            ((∀ x ∈ r.nodes, x.status = none) → k = 0xFFFFFFFF))) ∧
      (¬NothingLeft s n → exec .ctxDestroyDone s = .next s))

/-- A core of the mask that the command asks for. -/
def Sys2Proof.Claim.asks (q : QCmd) (i : Nat) : Prop := (q.c.w4 ++ q.c.w3 ++ q.c.w2 ++ q.c.w1 : BitVec 256).getLsbD i = true

/-- The other contexts that hold a core. -/
def Sys2Proof.Claim.sharers (s : State) (n i : Nat) : List Ctx := s.ctxs.filter fun x => x.num != n && x.cores.getLsbD i

/-- A block of a context on a core that a mask does not name. -/
def Sys2Proof.Claim.strays (s : State) (n : Nat) (mask : BitVec 256) : Prop :=
  ∃ b ∈ s.blocks, b.ctx = n ∧ b.resident = true ∧ ∃ x ∈ b.shares, mask.getLsbD (x.core + if b.die = .b then 128 else 0) = false

/-- CTX_PARTITION (R80): a core that another context holds alone, or that would be shared by more than two, or not under PMODE 1, ends it with NO_CORES; else
the masks and PMODE replace the partition, and the context drains while blocks of it stand on cores it lost. -/
def Sys2Proof.Claim.Partitions : Prop :=
  ∀ (s : State) (q : QCmd) (c : Ctx),
    let n := q.c.ctx.toNat
    let mask : BitVec 256 := q.c.w4 ++ q.c.w3 ++ q.c.w2 ++ q.c.w1
    let p := q.c.w6.getLsbD 0
    s.ctx? n = some c →
    (isFor .ctxPartition q → inHand s q → q.c.rsv = 0 → unassignedClear q → c.stat = 1 →
      let clash := ∃ i, i < 256 ∧ asks q i ∧ sharers s n i ≠ [] ∧ ¬(p = true ∧ (sharers s n i).length ≤ 1 ∧ ∀ x ∈ sharers s n i, x.pmode = true)
      (clash → exec .ctxPartition s = .next (cmdEnded (running s q) q 0x35 0)) ∧
      (¬clash → ∃ t c', exec .ctxPartition s = .next t ∧ t.ctx? n = some c' ∧
        c' = { c with cores := mask, copyMask := q.c.w5.setWidth 16, pmode := p, stat := c'.stat } ∧ (∀ m, m ≠ n → t.ctx? m = s.ctx? m) ∧
        (strays s n mask → c'.stat = 2 ∧ t = { running s q with ctxs := t.ctxs }) ∧
        (¬strays s n mask → c'.stat = 1 ∧ ∃ cs, t = cmdEnded { running s q with ctxs := cs } q 0 0))) ∧
    (s.cmdBusy = some q → q.op = 3 → c.stat = 2 →
      (strays s n c.cores → exec .ctxPartitionDone s = .next s) ∧
      (¬strays s n c.cores → ∃ t, exec .ctxPartitionDone s = .next t ∧ t.ctx? n = some { c with stat := 1 } ∧
        (∀ m, m ≠ n → t.ctx? m = s.ctx? m) ∧ ∃ cs, t = cmdEnded { s with ctxs := cs } q 0 0))

/-- CTX_LIMITS (R78, R81). -/
def Sys2Proof.Claim.Limits : Prop :=
  ∀ (s : State) (q : QCmd) (c : Ctx), isFor .ctxLimits q → inHand s q → q.c.rsv = 0 → unassignedClear q → s.ctx? q.c.ctx.toNat = some c →
    let quota := q.c.w1.toNat / 4
    ((quota = 0 ∨ 4096 < quota) → exec .ctxLimits s = .next (cmdEnded (running s q) q 0x32 0)) ∧
    (1 ≤ quota → quota ≤ 4096 → ∃ t cs, exec .ctxLimits s = .next t ∧ t = cmdEnded { running s q with ctxs := cs } q 0 0 ∧
      t.ctx? q.c.ctx.toNat = some { c with classMax := q.c.w1.toNat % 4, poolQ := quota } ∧ ∀ m, m ≠ q.c.ctx.toNat → t.ctx? m = s.ctx? m)

/-- Commands for contexts. -/
def Sys2Proof.Claim.ContextCommands : Prop := Creates ∧ Destroys ∧ Partitions ∧ Limits

/-- The die and index that REGION_SET and COUNTER_SET name. -/
def Sys2Proof.Claim.regionOf (q : QCmd) : Die × Nat := (if q.c.w1.getLsbD 10 then .b else .a, q.c.w1.toNat % 2 ^ 10)
def Sys2Proof.Claim.counterOf (q : QCmd) : Die × Nat := (if q.c.w1.getLsbD 13 then .b else .a, q.c.w1.toNat % 2 ^ 13)

/-- REGION_SET (R44, R78, R79). -/
def Sys2Proof.Claim.RegionsSet : Prop :=
  ∀ (s : State) (q : QCmd) (c : Ctx) (i : Instr), i = .regionSet ∨ i = .regionFree → isFor i q → inHand s q → q.c.rsv = 0 → unassignedClear q →
    s.ctx? q.c.ctx.toNat = some c →
    let (d, k) := regionOf q
    let n := q.c.ctx.toNat
    let len := q.c.w3.toNat
    let ctr := q.c.w4.toNat % 2 ^ 13
    let unit := q.c.w4.toNat / 2 ^ 14
    let legal := q.c.w2.toNat % 64 = 0 ∧ 64 ≤ len ∧ len ≤ 2 ^ 40 ∧ len % 64 = 0 ∧ unit ≤ 2 ∧ ∃ x ∈ s.counters, x.die = d ∧ x.idx = ctr ∧ x.ctx = n
    let taken := ∃ r ∈ s.regions, r.die = d ∧ r.idx = k ∧ r.ctx ≠ n
    (i = .regionSet → ¬legal → ¬taken → exec i s = .next (cmdEnded (running s q) q 0x32 0)) ∧
    ((i = .regionSet → legal) → taken → exec i s = .next (cmdEnded (running s q) q 0x33 0)) ∧
    ((i = .regionSet → legal) → ¬taken → ∃ rs ms, exec i s = .next (cmdEnded { running s q with regions := rs, msgs := ms } q 0 0) ∧
      (∀ m, m ∈ ms ↔ m ∈ s.msgs ∧ (m.die, m.idx) ≠ (d, k)) ∧
      ∀ r, r ∈ rs ↔ (r ∈ s.regions ∧ (r.die, r.idx) ≠ (d, k)) ∨ (i = .regionSet ∧ r = ⟨d, k, n, q.c.w2.toNat, len, ctr, unit⟩))

/-- COUNTER_SET (R47, R78, R79). -/
def Sys2Proof.Claim.CountersSet : Prop :=
  ∀ (s : State) (q : QCmd) (c : Ctx) (i : Instr), i = .counterSetAssign ∨ i = .counterSetRelease ∨ i = .counterSetValue → isFor i q → inHand s q →
    q.c.rsv = 0 → unassignedClear q → s.ctx? q.c.ctx.toNat = some c →
    let (d, k) := counterOf q
    let n := q.c.ctx.toNat
    let refused (code : BitVec 8) := exec i s = .next (cmdEnded (running s q) q code 0)
    (q.c.w1.toNat / 2 ^ 14 = 3 → refused 0x32) ∧
    (∀ x, q.c.w1.toNat / 2 ^ 14 ≠ 3 → s.counter? d k = some x → x.ctx ≠ n → refused 0x33) ∧
    (s.counter? d k = none →
      (i = .counterSetAssign → exec i s = .next (cmdEnded { running s q with counters := s.counters ++ [⟨d, k, n, 0, .none⟩] } q 0 0)) ∧
      (i = .counterSetRelease → refused 0x32)) ∧
    ∀ x, q.c.w1.toNat / 2 ^ 14 ≠ 3 → s.counter? d k = some x → x.ctx = n →
      (i = .counterSetRelease →
        ((∃ r ∈ s.regions, r.die = d ∧ r.ctr = k) → refused 0x33) ∧
        ((∀ r ∈ s.regions, ¬(r.die = d ∧ r.ctr = k)) → ∃ cs, exec i s = .next (cmdEnded { running s q with counters := cs } q 0 0) ∧
          ∀ y, y ∈ cs ↔ y ∈ s.counters ∧ (y.die, y.idx) ≠ (d, k))) ∧
      (i ≠ .counterSetRelease → noSends s d k → ∃ t cs, exec i s = .next t ∧ t = cmdEnded { running s q with counters := cs } q 0 0 ∧
        t.counter? d k = some { x with val := if i = .counterSetAssign then 0 else q.c.w2.setWidth 32, rel := .none } ∧
        ∀ e j, (e, j) ≠ (d, k) → t.counter? e j = s.counter? e j)

/-- Landing regions and receive counters. -/
def Sys2Proof.Claim.RegionCommands : Prop := RegionsSet ∧ CountersSet

/-- GRAPH_REGISTER and GRAPH_RELEASE (R65, R78): an object that is not aligned is not checked; a handle in use is refused; an object that fails a check is refused
with its offset, one on an absent page waits for it and one beyond a unit that is not ready for the unit; one that passes is registered under the handle with its code; a registered handle is released unless its replay runs. -/
def Sys2Proof.Claim.GraphsKept : Prop :=
  ∀ (s : State) (q : QCmd) (c : Ctx), inHand s q → q.c.rsv = 0 → unassignedClear q → s.ctx? q.c.ctx.toNat = some c →
    (isFor .graphRegister q →
      let va := q.c.w1.toNat
      let h := q.c.w2.toNat
      let found := (running s q).graphCheck (.cmd c.num) c va h
      (va % 64 ≠ 0 → exec .graphRegister s = .next (cmdEnded (running s q) q 0x32 0)) ∧
      (va % 64 = 0 →
        ((∃ g ∈ c.graphs, g.handle = h) → exec .graphRegister s = .next (cmdEnded (running s q) q 0x33 0)) ∧
        ((∀ g ∈ c.graphs, g.handle ≠ h) →
          (∀ a, found = .hold a → ∃ t, exec .graphRegister s = .next t ∧ t.cmdBusy = some q ∧ ∃ h ∈ t.holds, h.who = .cmd c.num ∧ h.va / 65536 = a / 65536) ∧
          (∀ x off, found = .dev x off → x.f = .clear → exec .graphRegister s = .next (running s q)) ∧
          (∀ off, found = .bad off → exec .graphRegister s = .next (cmdEnded (running s q) q 0x34 off)) ∧
          (∀ g codes, found = .ok g codes → ∃ t, exec .graphRegister s = .next t ∧ t.cmdBusy = none ∧
            t.ctx? c.num = some { c with graphs := c.graphs ++ [g], codes := c.codes ++ codes } ∧ (∀ m, m ≠ c.num → t.ctx? m = s.ctx? m) ∧
            g.handle = h ∧ g.va = va)))) ∧
    (isFor .graphRelease q →
      let h := q.c.w1.toNat
      let known := ∃ g ∈ c.graphs, g.handle = h
      let runs := ∃ r ∈ s.replays, r.ctx = c.num ∧ r.handle = h
      (¬known → ¬runs → exec .graphRelease s = .next (cmdEnded (running s q) q 0x32 0)) ∧
      (known → runs → exec .graphRelease s = .next (cmdEnded (running s q) q 0x33 0)) ∧
      (known → ¬runs → ∃ t c' cs, exec .graphRelease s = .next t ∧ t = cmdEnded { running s q with ctxs := cs } q 0 0 ∧
        t.ctx? c.num = some c' ∧ c' = { c with graphs := c'.graphs } ∧ (∀ g, g ∈ c'.graphs ↔ g ∈ c.graphs ∧ g.handle ≠ h) ∧
        ∀ m, m ≠ c.num → t.ctx? m = s.ctx? m))

/-- The object's header (R62, R65): one that cannot be read fails at offset 0; a wrong magic number fails at offset 0, and a wrong version at offset 4. -/
def Sys2Proof.Claim.HeadersChecked : Prop :=
  ∀ (s : State) (who : Holder) (c : Ctx) (va h : Nat), s.gcDev who c va 64 = none → s.gcAbsent who c va 64 = none →
    (s.gcNat who c va 64 = none → s.graphCheck who c va h = .bad 0) ∧
    ∀ x, s.gcNat who c va 64 = some x →
      (x % 2 ^ 32 ≠ 0x47524150 → s.graphCheck who c va h = .bad 0) ∧
      (x % 2 ^ 32 = 0x47524150 → x / 2 ^ 32 % 2 ^ 16 ≠ 1 → s.graphCheck who c va h = .bad 4)

/-- The fifth check (R65): the edges form a cycle exactly when no numbering of the nodes rises along every edge; the node reported is the lowest that
remains, each of whose like has a predecessor that remains. -/
def Sys2Proof.Claim.CyclesFound : Prop :=
  ∀ (g : GHead) (succs : List (List Nat)),
    (cycleFails g succs = [] ↔ ∃ rank : Nat → Nat, ∀ i j, i < succs.length → j < succs.length → j ∈ succs.getD i [] → rank i < rank j) ∧
    ∀ k off, (k, off) ∈ cycleFails g succs → k = 5 ∧ ∃ left : List Nat, ∃ i, off = g.nodeOff + 64 * i ∧ i ∈ left ∧ (∀ j ∈ left, i ≤ j) ∧
      (∀ j, j ∈ left → j < succs.length ∧ ∃ p ∈ left, j ∈ succs.getD p []) ∧
      ∃ rank : Nat → Nat, ∀ j, j < succs.length → j ∉ left → ∀ p, p < succs.length → j ∈ succs.getD p [] → p ∉ left ∧ rank p < rank j

/-- Registering graphs. -/
def Sys2Proof.Claim.GraphCommands : Prop := GraphsKept ∧ HeadersChecked ∧ CyclesFound


/-! Replays (spec 03 R66 to R73, 05 R99 to R102). -/

/-- A kick that step 1 of R69 takes: it names a graph of the context, its reserved fields are zero, PATCH is aligned, NPATCH is at most 4,096. -/
def Sys2Proof.Claim.kickLegal (c : Ctx) (k : Kick) : Prop :=
  (∃ g ∈ c.graphs, g.handle = k.toNat % 2 ^ 32) ∧ k.toNat / 2 ^ 120 % 2 ^ 8 = 0 ∧ k.toNat / 2 ^ 173 % 2 ^ 19 = 0 ∧ k.toNat / 2 ^ 224 = 0 ∧
  k.toNat / 2 ^ 64 % 2 ^ 56 % 8 = 0 ∧ k.toNat / 2 ^ 160 % 2 ^ 13 ≤ 4096

/-- The bytes of a kick's patch table as the graph controller reads them now; none where a byte cannot be read (R67, R69). -/
def Sys2Proof.Claim.patchTable (s : State) (c : Ctx) (k : Kick) : Option (List Byte) :=
  s.gcBytes (.kick c.num) c (k.toNat / 2 ^ 64 % 2 ^ 56) (32 + 16 * (k.toNat / 2 ^ 160 % 2 ^ 13))

/-- The table's bytes reach the graph controller without a device fault or a wait for a unit (R12, R13, R22). -/
def Sys2Proof.Claim.tableReached (s : State) (c : Ctx) (k : Kick) : Prop :=
  s.gcDev (.kick c.num) c (k.toNat / 2 ^ 64 % 2 ^ 56) (32 + 16 * (k.toNat / 2 ^ 160 % 2 ^ 13)) = none

/-- No page of the table is absent. -/
def Sys2Proof.Claim.tablePresent (s : State) (c : Ctx) (k : Kick) : Prop :=
  s.gcAbsent (.kick c.num) c (k.toNat / 2 ^ 64 % 2 ^ 56) (32 + 16 * (k.toNat / 2 ^ 160 % 2 ^ 13)) = none

/-- A little-endian 8-byte word of a table. -/
def Sys2Proof.Claim.wordAt (bs : List Byte) (off : Nat) : Nat := natOf ((bs.drop off).take 8)

/-- The table is the kick's (R67): PSEQ, PCOUNT and CRC. -/
def Sys2Proof.Claim.agrees (k : Kick) (bs : List Byte) : Prop :=
  wordAt bs 0 % 2 ^ 32 = k.toNat / 2 ^ 32 % 2 ^ 32 ∧ wordAt bs 0 / 2 ^ 32 = k.toNat / 2 ^ 160 % 2 ^ 13 ∧
  (crc32c bs).toNat = k.toNat / 2 ^ 128 % 2 ^ 32

/-- An entry that R67 allows and whose slot the parameter block has. -/
def Sys2Proof.Claim.entryLegal (g : Graph) (bs : List Byte) (i : Nat) : Prop :=
  let w := wordAt bs (32 + 16 * i)
  w < 2 ^ 18 ∧ w / 2 ^ 16 ≠ 3 ∧ w % 2 ^ 16 < g.paramBytes / 8 ∧ w % 2 ^ 16 ≤ 8191

/-- The words of the header beyond the first are zero. -/
def Sys2Proof.Claim.headerLegal (bs : List Byte) : Prop := wordAt bs 8 = 0 ∧ wordAt bs 16 = 0 ∧ wordAt bs 24 = 0

/-- A kick's event: its type and ARG2 (R75); the spec gives its STATUS byte no value. -/
def Sys2Proof.Claim.kickEvent (s : State) (c : Ctx) (k : Kick) (type status : BitVec 8) (x : Nat) : State :=
  s.post c.home type status c.num (BitVec.ofNat 64 (k.toNat / 2 ^ 32 % 2 ^ 32 + k.toNat / 2 ^ 192 % 2 ^ 32 * 2 ^ 32)) (BitVec.ofNat 64 (k.toNat % 2 ^ 32))
    (BitVec.ofNat 64 x)

/-- The kick in hand was consumed with an event: nothing else changed but the context's queue. -/
def Sys2Proof.Claim.Consumed (s t : State) (n : Nat) (c : Ctx) (k : Kick) (type : BitVec 8) (x : Nat) : Prop :=
  t.ctx? n = some { c with taking := none } ∧ (∀ m, m ≠ n → t.ctx? m = s.ctx? m) ∧
  ∃ cs hs ts ht st, t = kickEvent { s with ctxs := cs, holds := hs, tags := ts, hot := ht } c k type st x ∧ ∀ h ∈ s.holds, h.who ≠ .kick n → h ∈ hs

/-- The kick in hand waits at a step with these re-reads and, from step 6 on, with this table. -/
def Sys2Proof.Claim.WaitsAt (s t : State) (n : Nat) (c : Ctx) (k : Kick) (step rereads : Nat) (table : List Byte) : Prop :=
  (∃ x, t.ctx? n = some { c with taking := some x } ∧ x.kick = k ∧ x.step = step ∧ x.rereads = rereads ∧ (step = 6 → x.table = table)) ∧
  (∀ m, m ≠ n → t.ctx? m = s.ctx? m) ∧ ∃ cs hs ts ht, t = { s with ctxs := cs, holds := hs, tags := ts, hot := ht } ∧ ∀ h ∈ s.holds, h.who ≠ .kick n → h ∈ hs

/-- What a read of the table comes to (R69 steps 2 to 5), for the step at which an unreadable byte is reported; disagree says what a table that is not the
kick's leads to. -/
def Sys2Proof.Claim.TableJudged (s t : State) (n : Nat) (c : Ctx) (k : Kick) (step rereads : Nat) (disagree : List Byte → Prop) : Prop :=
  (patchTable s c k = none → Consumed s t n c k 0x03 (step + 0xFFFFFF * 2 ^ 8)) ∧
  ∀ bs, patchTable s c k = some bs →
    (¬agrees k bs → disagree bs) ∧
    ∀ g, agrees k bs → c.graphs.find? (fun g => g.handle = k.toNat % 2 ^ 32) = some g →
      let count := k.toNat / 2 ^ 160 % 2 ^ 13
      (¬headerLegal bs → Consumed s t n c k 0x03 (5 + 0xFFFFFF * 2 ^ 8)) ∧
      (∀ i, headerLegal bs → i < count → ¬entryLegal g bs i → (∀ j, j < i → entryLegal g bs j) → Consumed s t n c k 0x03 (5 + i * 2 ^ 8)) ∧
      (headerLegal bs → (∀ i, i < count → entryLegal g bs i) → WaitsAt s t n c k 6 rereads bs)

/-- Kicks are taken in sequence (R68, R69 steps 1 to 5): the kick whose SEQ is E is taken and E advances whatever comes of it; a broken kick, an unreadable table
and a broken table are KICK_BAD; a table that is the kick's lets it wait for its graph, one that is not is read again. -/
def Sys2Proof.Claim.KicksTaken : Prop :=
  ∀ (s : State) (n : Nat) (c : Ctx), s.arg = .num n → s.ctx? n = some c → c.taking = none →
    ((∀ k ∈ c.kicks, k.toNat / 2 ^ 32 % 2 ^ 32 ≠ c.e.toNat) → exec .kickTake s = .next s) ∧
    ∀ k, c.kicks.find? (fun k => BitVec.ofNat 32 (BitVec.toNat k / 2 ^ 32) = c.e) = some k →
      let c1 : Ctx := { c with kicks := c.kicks.erase k, e := c.e + 1 }
      ∃ t, exec .kickTake s = .next t ∧
        (¬kickLegal c k → Consumed s t n c1 k 0x03 (1 + 0xFFFFFF * 2 ^ 8)) ∧
        (kickLegal c k → tableReached s c k → tablePresent s c k → TableJudged s t n c1 k 2 0 fun _ => WaitsAt s t n c1 k 4 0 []) ∧
        (kickLegal c k → tableReached s c k → ¬tablePresent s c k → (∃ c' x, t.ctx? n = some c' ∧ c'.e = c.e + 1 ∧ c'.kicks = c.kicks.erase k ∧ c'.taking = some x ∧
          x.kick = k ∧ x.step = 2) ∧ ∃ h ∈ t.holds, h.who = .kick n)

/-- Re-reads (R69 step 4): the k-th falls due 8,000 k cycles after the step began, and not before; the sixteenth that disagrees is KICK_STALE. -/
def Sys2Proof.Claim.KicksReread : Prop :=
  ∀ (s : State) (n : Nat) (c : Ctx) (x : Taking), s.arg = .num n → s.ctx? n = some c → c.taking = some x → x.step = 4 →
    let due := x.start + 8000 * (x.rereads + 1) ≤ (match c.home with | .a => s.cycA | .b => s.cycB).toNat
    (¬due → exec .kickReread s = .next s) ∧
    (due → tableReached s c x.kick → tablePresent s c x.kick → ∃ t, exec .kickReread s = .next t ∧
      TableJudged s t n c x.kick 4 x.rereads fun bs =>
        (x.rereads = 15 → Consumed s t n c x.kick 0x02 (crc32c bs).toNat) ∧ (x.rereads ≠ 15 → WaitsAt s t n c x.kick 4 (x.rereads + 1) []))

/-- The physical address of a node's first extent (R63, R102). -/
def Sys2Proof.Claim.standsAt (s : State) (c : Ctx) (g : Graph) (x : GNode) (pa : Nat) : Prop :=
  ∃ d base size rd wr ex cls, x.exts.head? = some d ∧
    (let va := s.slot c g (d.toNat % 2 ^ 13) + d.toNat / 2 ^ 64 % 2 ^ 64
     s.walk c.home c va = .leaf base size rd wr ex cls ∧ pa = base + va % size)

/-- A node that chooses its die by its first extent finds it mapped (R102). -/
def Sys2Proof.Claim.dieFound (s : State) (c : Ctx) (g : Graph) (x : GNode) : Prop :=
  x.die = 3 → x.kind ≠ 0 → x.exts = [] ∨ ∃ pa, standsAt s c g x pa

/-- How an entry of a node of a replay that has just begun stands (R63, R69 step 8, R71, R102). -/
def Sys2Proof.Claim.Begun (s : State) (c : Ctx) (g : Graph) (x : GNode) (y : RNode) (i : Nat) : Prop :=
  y.idx = i ∧ y.preds = x.npred ∧ y.status = none ∧ y.translated = false ∧ y.again = [] ∧ y.nextBlock = 0 ∧
  (x.npred = 0 → y.phase = .ready ∧ (x.die = 0 → y.die = c.home) ∧ (x.die = 1 → y.die = .a) ∧ (x.die = 2 → y.die = .b) ∧
    (x.die = 3 → x.kind ≠ 0 → ∀ pa, standsAt s c g x pa → y.die = homeDie pa)) ∧
  (x.npred ≠ 0 → y.phase = .waiting)

/-- A replay begins when no replay of its handle runs (R69 steps 6 to 8, R70): the nodes without predecessors are ready, in node order. A table of one entry
that the host has not changed is applied to its slot. -/
def Sys2Proof.Claim.ReplaysStart : Prop :=
  ∀ (s : State) (n : Nat) (c : Ctx) (x : Taking) (g : Graph), s.arg = .num n → s.ctx? n = some c → c.taking = some x → x.step = 6 →
    c.graphs.find? (fun g => g.handle = x.kick.toNat % 2 ^ 32) = some g →
    let runs := ∃ r ∈ s.replays, r.ctx = n ∧ r.handle = x.kick.toNat % 2 ^ 32
    let seq : Word := BitVec.ofNat 32 (x.kick.toNat / 2 ^ 32)
    let count := x.kick.toNat / 2 ^ 160 % 2 ^ 13
    (runs → exec .replayStart s = .next s) ∧
    (¬runs → s.replay? n seq = none →
      (∀ gn ∈ g.nodes, gn.npred = 0 → dieFound s c g gn ∧ (gn.die = 3 → gn.kind ≠ 0 → gn.exts ≠ [] → count = 0)) → ∃ t r, exec .replayStart s = .next t ∧ t.ctx? n = some { c with taking := none } ∧
      (∀ m, m ≠ n → t.ctx? m = s.ctx? m) ∧ t.replays = s.replays ++ [r] ∧ r.ctx = n ∧ r.handle = g.handle ∧ r.seq = seq ∧
      r.tag.toNat = x.kick.toNat / 2 ^ 192 % 2 ^ 32 ∧ r.nodes.length = g.nodes.length ∧
      (∀ i gn, g.nodes[i]? = some gn → ∃ y, r.nodes[i]? = some y ∧ Begun s c g gn y i) ∧
      (∀ (i j : Nat) (a b : RNode), i < j → r.nodes[i]? = some a → r.nodes[j]? = some b → a.phase = .ready → b.phase = .ready → a.order < b.order) ∧
      t.blocks = s.blocks ∧ t.ops = s.ops ∧ t.evt = s.evt ∧ t.out = s.out ∧
      (count = 0 → t.mem = s.mem ∧ t.cached = s.cached) ∧
      (count = 1 → ∀ page,
        let w := wordAt x.table 32
        let v := wordAt x.table 40
        let o := if w / 2 ^ 16 % 4 = 1 then 4 else 0
        let width := if w / 2 ^ 16 % 4 = 2 then 8 else 4
        let at_ := g.va + g.paramOff + 8 * (w % 2 ^ 16) + o
        w < 2 ^ 18 → w / 2 ^ 16 ≠ 3 → w % 2 ^ 16 < g.paramBytes / 8 →
        s.gcNat (.kick n) c (x.kick.toNat / 2 ^ 64 % 2 ^ 56 + 32) 8 = some w → s.gcNat (.kick n) c (x.kick.toNat / 2 ^ 64 % 2 ^ 56 + 40) 8 = some v →
        s.pageOf c at_ = some page →
        t.homeRead (page + at_ % 65536) width = bytesOf width (v % 2 ^ (8 * width)) ∧
        ∀ a, ¬(page + at_ % 65536 ≤ a ∧ a < page + at_ % 65536 + width) → t.homeRead a 1 = s.homeRead a 1))

/-- The check value of the CRC that R67 gives. -/
def Sys2Proof.Claim.CrcChecked : Prop := crc32c [0x31, 0x32, 0x33, 0x34, 0x35, 0x36, 0x37, 0x38, 0x39] = 0xE3069283

/-- Kicks and the start of replays. -/
def Sys2Proof.Claim.KicksAndReplays : Prop := KicksTaken ∧ KicksReread ∧ ReplaysStart ∧ CrcChecked

/-- Nothing of a node's work is left: no block, no operation, and no store on its way (R71). -/
def Sys2Proof.Claim.workOver (s : State) (n : NodeRef) : Prop :=
  (∀ b ∈ s.blocks, b.nodeRef ≠ n) ∧ (∀ o ∈ s.ops, o.issuer ≠ .node n) ∧ (∀ x ∈ s.stores, x.node ≠ n) ∧ ∀ e ∈ s.sideLog, e.node ≠ n

/-- A node completes with status OK (R71): a kernel whose last block was placed and has ended with its stores, a copy or a collective whose engine has ended, a
host-notify node whose record is in the buffer, a join in the pool. -/
def Sys2Proof.Claim.completesOk (s : State) (n : NodeRef) (x : RNode) (kind : Nat) : Prop :=
  x.status = none ∧
  ((kind = 0 ∧ x.phase = .running ∧ x.again = [] ∧ workOver s n) ∨
   ((kind = 1 ∨ kind = 2) ∧ x.phase = .running ∧ x.op = none ∧ workOver s n) ∨
   (kind = 3 ∧ x.phase = .running ∧ ∃ q, x.op = some q ∧ q ≠ 0 ∧ ∀ r ∈ s.evt.held, r.eseq.toNat ≠ q) ∨
   (kind = 4 ∧ x.phase = .pool))

/-- A node that failed completes once nothing of its work is left (R72). -/
def Sys2Proof.Claim.completesFailed (s : State) (n : NodeRef) (x : RNode) : Prop :=
  x.status.isSome = true ∧ (x.phase = .pool ∨ x.phase = .running) ∧ workOver s n

/-- A replay's other nodes: none runs, and none can enter the pool (R72). -/
def Sys2Proof.Claim.restOver (r : Replay) (j : Nat) : Prop :=
  ∀ (i : Nat) (x : RNode), r.nodes[i]? = some x → i ≠ j → x.phase = .waiting ∨ x.phase = .done

/-- A node's completion (R71 to R73): with status OK each successor loses a predecessor and is ready with its last; with another status none does; the stores
that its threads had made are at their homes. A replay that has nothing left to run ends with REPLAY_DONE, which tells the status and index of its lowest failed node, or OK. -/
def Sys2Proof.Claim.NodesComplete : Prop :=
  ∀ (s : State) (n : NodeRef) (r : Replay) (x : RNode) (c : Ctx) (g : Graph) (gn : GNode), s.arg = .node n →
    s.replay? n.ctx n.seq = some r → r.nodes[n.node]? = some x → s.ctx? n.ctx = some c → c.graphs.find? (fun g => g.handle = r.handle) = some g →
    g.nodes[n.node]? = some gn → gn.kind ≤ 4 → r.nodes.map RNode.idx = List.range r.nodes.length →
    r.nodes.length = g.nodes.length → (∀ j z, j ∈ gn.succs → g.nodes[j]? = some z → dieFound s c g z) →
    let ok := completesOk s n x gn.kind
    let failed := completesFailed s n x
    (¬ok → ¬failed → exec .nodeComplete s = .next s) ∧
    (ok ∨ failed → ∃ t, exec .nodeComplete s = .next t ∧ (∀ e ∈ t.cached, e.owned = true → e.covered x.ends = false) ∧
      (∀ a, t.homeRead a 1 = s.homeRead a 1) ∧ t.ctxs = s.ctxs ∧ t.blocks = s.blocks ∧
      t.ops = s.ops ∧
      (∀ q u, (q, u) ≠ (n.ctx, n.seq) → t.replay? q u = s.replay? q u) ∧
      (¬restOver r n.node → ∃ r', t.replay? n.ctx n.seq = some r' ∧ r'.nodes.length = r.nodes.length ∧ t.out = s.out ∧ t.evt = s.evt ∧
        ∀ i y, r.nodes[i]? = some y → ∃ y', r'.nodes[i]? = some y' ∧
          (i = n.node → i ∉ gn.succs → y' = { y with phase := .done }) ∧
          (i ≠ n.node → (failed ∨ i ∉ gn.succs) → y' = y) ∧
          (i ≠ n.node → ok → gn.succs.count i = 1 → y'.preds = y.preds - 1 ∧ y'.status = y.status ∧
            (y.preds = 1 → y'.phase = .ready) ∧ (y.preds ≠ 1 → y'.phase = y.phase))) ∧
      (restOver r n.node → failed ∨ gn.succs = [] → t.replay? n.ctx n.seq = none ∧
        ∀ e ∈ t.cached, e.owned = true → ∀ z ∈ r.nodes, e.covered z.ends = false) ∧
      (restOver r n.node → failed ∨ gn.succs = [] → ∃ k status,
        let u := s.post c.home 0x01 status n.ctx (BitVec.ofNat 64 (r.seq.toNat + r.tag.toNat * 2 ^ 32)) (BitVec.ofNat 64 r.handle) (BitVec.ofNat 64 k)
        t.out = u.out ∧ t.evt = u.evt ∧
        ((∀ y ∈ r.nodes, y.status = none) → status = 0 ∧ k = 0xFFFFFFFF) ∧
        ∀ (i : Nat) (y : RNode) st, r.nodes[i]? = some y → y.status = some st → (∀ (j : Nat) (z : RNode), j < i → r.nodes[j]? = some z → z.status = none) → status = st ∧ k = i))

/-- Another host-notify node that reached the management service before one and has no record yet (R103). -/
def Sys2Proof.Claim.notifiesBefore (s : State) (x : RNode) : Prop :=
  ∃ r ∈ s.replays, ∃ y ∈ r.nodes, y.phase = .running ∧ y.op = none ∧ y.status = none ∧ y.order < x.order ∧
    ∃ q, s.gnode? ⟨r.ctx, r.seq, y.idx⟩ = some q ∧ q.2.2.kind = 3

/-- The NOTIFY record of a host-notify node, in the order in which they reached the management service (R71, R75, R103). -/
def Sys2Proof.Claim.HostNotified : Prop :=
  ∀ (s : State) (n : NodeRef) (x : RNode) (c : Ctx) (g : Graph) (gn : GNode), s.arg = .node n → s.node? n = some x → s.gnode? n = some (c, g, gn) →
    (gn.kind = 3 → x.phase = .running → x.op = none → x.status = none → ¬notifiesBefore s x → ∃ t y, exec .hostNotify s = .next t ∧
      (let u := s.post .a 0x05 0 n.ctx (BitVec.ofNat 64 (gn.b0.toNat % 2 ^ 32)) (BitVec.ofNat 64 n.node) (BitVec.ofNat 64 n.seq.toNat)
       t = { u with replays := t.replays } ∧ t.node? n = some y ∧ y = { x with op := y.op } ∧ (u.evt.eseq ≠ s.evt.eseq → y.op = some s.evt.eseq.toNat)) ∧
      ∀ m, m ≠ n → t.node? m = s.node? m) ∧
    (gn.kind ≠ 3 ∨ x.op.isSome = true ∨ x.phase ≠ .running ∨ notifiesBefore s x → exec .hostNotify s = .next s)

/-- Nodes that enter their pool count against the pool and the quota (R81, R99). -/
def Sys2Proof.Claim.poolHas (s : State) (d : Die) (p : Replay → Prop) [DecidablePred p] : Nat :=
  ((s.replays.flatMap fun r => r.nodes.map fun x => (r, x)).filter fun e => e.2.die = d && e.2.phase = .pool && decide (p e.1)).length

/-- A node is ready and has room in the pool of a die. -/
def Sys2Proof.Claim.mayEnterPool (s : State) (d : Die) (r : Replay) (x : RNode) : Prop :=
  r ∈ s.replays ∧ x ∈ r.nodes ∧ x.die = d ∧ x.phase = .ready ∧ poolHas s d (fun _ => True) < 4096 ∧
  ∃ c, s.ctx? r.ctx = some c ∧ poolHas s d (fun q => q.ctx = r.ctx) < c.poolQ

/-- The home die's graph controller reaches a die's pool: its own, or over the link that of the other die's (R22, R71). -/
def Sys2Proof.Claim.handsOver (s : State) (c : Ctx) (d : Die) : Prop :=
  c.home = d ∨ (s.pkg.readyF.getLsbD 2 = true ∧ s.pkg.readyF.getLsbD (if d = .b then 16 else 15) = true)

/-- Pool entry in the order of readiness, with the node's class capped (R81, R99, R100). -/
def Sys2Proof.Claim.PoolsFill : Prop :=
  ∀ (s : State) (d : Die), s.arg = .die d →
    ((∀ r x, ¬mayEnterPool s d r x) → exec .poolEntry s = .next s) ∧
    ∀ r x c g gn, mayEnterPool s d r x → (∀ r' x', mayEnterPool s d r' x' → (r', x') = (r, x) ∨ x.order < x'.order) →
      s.node? ⟨r.ctx, r.seq, x.idx⟩ = some x → s.gnode? ⟨r.ctx, r.seq, x.idx⟩ = some (c, g, gn) → handsOver s c d → ∃ t, exec .poolEntry s = .next t ∧
        t.node? ⟨r.ctx, r.seq, x.idx⟩ = some { x with phase := .pool, entered := (match d with | .a => s.cycA | .b => s.cycB).toNat, cls := min gn.cls c.classMax } ∧
        (∀ m, m ≠ ⟨r.ctx, r.seq, x.idx⟩ → t.node? m = s.node? m) ∧ t = { s with replays := t.replays }

/-- Aging (R100): a node gains a class for every 200,000 cycles in the pool, up to CLASSMAX; the run class of its blocks stays (R107). -/
def Sys2Proof.Claim.NodesAge : Prop :=
  ∀ (s : State) (n : NodeRef) (x : RNode) (c : Ctx), s.arg = .node n → s.node? n = some x → s.ctx? n.ctx = some c →
    let now := (match x.die with | .a => s.cycA | .b => s.cycB).toNat
    let due := (x.phase = .pool ∨ (x.phase = .running ∧ x.again ≠ [])) ∧ x.entered + 200000 ≤ now ∧ x.cls < c.classMax
    (due → ∃ t, exec .nodeAging s = .next t ∧ t.node? n = some { x with cls := x.cls + 1, entered := x.entered + 200000 } ∧
      (∀ m, m ≠ n → t.node? m = s.node? m) ∧ t = { s with replays := t.replays }) ∧
    (¬due → exec .nodeAging s = .next s)

/-- Nodes of a replay. -/
def Sys2Proof.Claim.NodesOfReplays : Prop := NodesComplete ∧ HostNotified ∧ PoolsFill ∧ NodesAge


/-! Dispatch and placement (spec 05 R99 to R115, 06 R129, 04 R91). -/

/-- One page of a range extent at dispatch (R129): by what the walk finds, what the extent table makes of it. -/
def Sys2Proof.Claim.ExtentsTranslate : Prop :=
  ∀ (s : State) (n : NodeRef) (u : Die) (c : Ctx) (g : Graph) (x : GNode) (d : BitVec 256),
    (s.slotsMeet c g x.slots).1 = .none →
    let v := d.toNat
    let base := s.slot c g (v % 2 ^ 13) + v / 2 ^ 64 % 2 ^ 64
    let len := v / 2 ^ 128 % 2 ^ 64
    let page := base / 65536 * 65536
    x.exts = [d] → 1 ≤ x.next → d.getLsbD 13 = false → 1 ≤ len → base % 65536 + len ≤ 65536 →
    let r := s.translate n u c g x
    let one (p : PageRec) : Prop := ∃ e, r = .ok [e] ∧ e.walked = false ∧ e.rd = d.getLsbD 14 ∧ e.wr = d.getLsbD 15 ∧ e.base = base ∧
      e.reach base = len ∧ (base ≠ 0 → e.reach (base - 1) = 0) ∧ e.page base = p
    match s.walk u c page with
    | .leaf pa size rd wr _ cls =>
      ((d.getLsbD 14 = true → rd = true) ∧ (d.getLsbD 15 = true → wr = true) → one (.mapped (pa + page % size + (base - page)) cls)) ∧
      (¬((d.getLsbD 14 = true → rd = true) ∧ (d.getLsbD 15 = true → wr = true)) → r = .fail)
    | .pend _ => (x.absentOk = true → one .absent) ∧ (x.absentOk = false → s.verdict (.node n) c.num page = none → ∃ p, r = .wait [p] ∧ p.1 = page)
    | .bad _ => (x.absentOk = true → one .fatal) ∧ (x.absentOk = false → r = .fail)
    | .dev f pa => r = .dev f pa

/-- Bytes at or above 2^56 have no leaf (R129). -/
def Sys2Proof.Claim.HighBytesFatal : Prop := ∀ (s : State) (d : Die) (c : Ctx) (va : Nat), 2 ^ 56 ≤ va → ∃ size, s.walk d c va = .bad size

/-- The dispatch order (R101): class, start of the replay, context, index. -/
def Sys2Proof.Claim.sooner (a b : Replay × RNode) : Prop :=
  3 - a.2.cls < 3 - b.2.cls ∨ (3 - a.2.cls = 3 - b.2.cls ∧ (a.1.start < b.1.start ∨ (a.1.start = b.1.start ∧
    (a.1.ctx < b.1.ctx ∨ (a.1.ctx = b.1.ctx ∧ a.2.idx < b.2.idx)))))

/-- A node of the pool that comes first and that its engine can accept (R101). -/
def Sys2Proof.Claim.comesFirst (s : State) (r : Replay) (y : RNode) : Prop :=
  ∃ q ∈ s.replays, ∃ z ∈ q.nodes, z.die = y.die ∧ (z.phase = .pool ∨ (z.phase = .running ∧ z.again ≠ [])) ∧ sooner (q, z) (r, y) ∧
    s.acceptable (q, z) = true

/-- A node of the pool that may not be dispatched before another waits (R101). -/
def Sys2Proof.Claim.InTurn : Prop :=
  ∀ (s : State) (n : NodeRef) (r : Replay) (y : RNode), s.arg = .node n → s.replay? n.ctx n.seq = some r → s.node? n = some y → comesFirst s r y →
    exec .nodeDispatch s = .next s ∧ exec .blockPlace s = .next s

/-- A node stands in its pool and has not been taken up. -/
def Sys2Proof.Claim.Stands (s : State) (n : NodeRef) (y : RNode) (c : Ctx) (g : Graph) (x : GNode) : Prop :=
  s.arg = .node n ∧ s.node? n = some y ∧ s.gnode? n = some (c, g, x) ∧ y.phase = .pool ∧ y.status = none ∧ y.translated = false ∧
  (∀ r, s.replay? n.ctx n.seq = some r → ¬comesFirst s r y) ∧ s.pkg.readyF.getLsbD (if y.die = .b then 16 else 15) = true

/-- Of the machine only one node, and what it is held on, differ. -/
def Sys2Proof.Claim.onlyNode (s t : State) (n : NodeRef) (y : RNode) : Prop :=
  t.node? n = some y ∧ (∀ m, m ≠ n → t.node? m = s.node? m) ∧ (∃ rs hs ts ht k, t = { s with replays := rs, holds := hs, tags := ts, hot := ht, nextId := k }) ∧
  ∀ h, h.who ≠ .node n → (h ∈ t.holds ↔ h ∈ s.holds)

/-- A node's unit takes it now: a kernel is taken by the placer, a host-notify node by the management service (R22, R103, R104). -/
def Sys2Proof.Claim.unitTakes (s : State) (x : GNode) : Prop := x.kind = 0 ∨ (x.kind = 3 ∧ s.pkg.readyF.getLsbD 0 = true)

/-- Dispatch of kernel and host-notify nodes (R91, R103 to R105, R129): a node whose extents fail has status XLATE_FATAL; one that goes on has its extent
table; a kernel has its code and places the lesser of BODY2 and 2^S blocks, and is UNHANDLED where its slot names no loaded object. -/
def Sys2Proof.Claim.NodesDispatch : Prop :=
  ∀ (s : State) (n : NodeRef) (y : RNode) (c : Ctx) (g : Graph) (x : GNode), Stands s n y c g x →
    (x.kind = 4 → exec .nodeDispatch s = .next s) ∧
    (unitTakes s x →
      (s.translate n y.die c g x = .fail → ∃ t, exec .nodeDispatch s = .next t ∧ onlyNode s t n { y with status := some 0x40, again := [] }) ∧
      (∀ ps, s.translate n y.die c g x = .wait ps → ps ≠ [] → ∃ t y', exec .nodeDispatch s = .next t ∧ t.node? n = some y' ∧ y' = y ∧
        ∃ h ∈ t.holds, h.who = .node n) ∧
      (∀ pa, s.translate n y.die c g x = .dev .clear pa → exec .nodeDispatch s = .next s) ∧
      ∀ es, s.translate n y.die c g x = .ok es →
        (x.kind = 3 → ∃ t, exec .nodeDispatch s = .next t ∧ onlyNode s t n { y with phase := .running, exts := es, translated := true, order := s.nextId }) ∧
        (x.kind = 0 → ∀ o, c.codes.find? (fun o => o.va = s.slot c g x.b0.toNat) = some o → o.launch.levels ≤ 6 →
          let sum := ((List.range 6).map fun k => if 1 ≤ k then o.launch.width k else 0).sum
          let blocks := min x.b2.toNat (2 ^ sum)
          ∃ t, exec .nodeDispatch s = .next t ∧ onlyNode s t n { y with exts := es, translated := true, code := o.va, blocks := blocks }) ∧
        (x.kind = 0 → (∀ o ∈ c.codes, o.va ≠ s.slot c g x.b0.toNat) → recordReaches s n 0x40 32 → ∃ t y', exec .nodeDispatch s = .next t ∧ t.node? n = some y' ∧
          y' = { y with status := some 0x37, again := [] }))

/-- The engine that a copy node takes (R103): the lowest of the context's mask with a free entry, else the lowest of 8 to 15. -/
def Sys2Proof.Claim.copyEngine (s : State) (d : Die) (c : Ctx) (e : Nat) : Prop :=
  let free (k : Nat) : Prop := (s.ops.filter fun o => o.die = d && o.engine = some k).length < 4
  let mine (k : Nat) : Prop := k < 8 ∧ c.copyMask.getLsbD (k + if d = .b then 8 else 0) = true
  free e ∧ ((mine e ∧ ∀ k, k < e → mine k → ¬free k) ∨ (8 ≤ e ∧ e < 16 ∧ (∀ k, mine k → ¬free k) ∧ ∀ k, 8 ≤ k → k < e → ¬free k))

/-- Dispatch of a copy node to an engine with a free entry, while no other copy node stands in the pool (R101, R103); without a free entry it
stays in the pool. -/
def Sys2Proof.Claim.CopiesDispatch : Prop :=
  ∀ (s : State) (n : NodeRef) (y : RNode) (c : Ctx) (g : Graph) (x : GNode), Stands s n y c g x → x.kind = 1 →
    s.pkg.readyF.getLsbD (if y.die = .b then 18 else 17) = true →
    (∀ r ∈ s.replays, ∀ z ∈ r.nodes, z.die = y.die → z.phase = .pool → ⟨r.ctx, r.seq, z.idx⟩ = n ∨
      ∃ q, s.gnode? ⟨r.ctx, r.seq, z.idx⟩ = some q ∧ q.2.2.kind ≠ 1) →
    (∀ r ∈ s.replays, ∀ z ∈ r.nodes, (r.ctx, r.seq, z.idx) = (n.ctx, n.seq, n.node) → z = y ∧ s.replay? n.ctx n.seq = some r) →
    (∀ r ∈ s.replays, ∀ z ∈ r.nodes, z.again = []) →
    ((∀ e, ¬copyEngine s y.die c e) → exec .nodeDispatch s = .next s) ∧
    ∀ e es a b, copyEngine s y.die c e → s.translate n y.die c g x = .ok es → es[x.b0.toNat % 2 ^ 8]? = some a → es[x.b0.toNat / 2 ^ 8 % 2 ^ 8]? = some b →
      ∃ t, exec .nodeDispatch s = .next t ∧ t.node? n = some { y with phase := .running, exts := es, translated := true, op := some s.nextId } ∧
        (∀ m, m ≠ n → t.node? m = s.node? m) ∧ t.nextId = s.nextId + 1 ∧ t.blocks = s.blocks ∧ t.ctxs = s.ctxs ∧ t.mem = s.mem ∧
        ∃ o ∈ t.ops, o.id = s.nextId ∧ o.issuer = .node n ∧ o.ctx = n.ctx ∧ o.die = y.die ∧ o.engine = some e ∧
          o.work = .copy (.glob a.base) (.glob b.base) x.b1.toNat none ∧
          (o.src.map fun z => z.rows * z.len).sum = min x.b1.toNat (a.rows * a.len)

/-- Nodes leave the pool for their engines. -/
def Sys2Proof.Claim.NodesDispatched : Prop := ExtentsTranslate ∧ HighBytesFatal ∧ InTurn ∧ NodesDispatch ∧ CopiesDispatch

/-- The shares that resident blocks have on a core. -/
def Sys2Proof.Claim.sharesOn (s : State) (d : Die) (i : Nat) : List (Block × Nat) :=
  (s.blocks.filter fun b => b.die = d && b.resident).flatMap fun b => (b.shares.zipIdx.filter fun e => e.1.core = i).map fun e => (b, e.2)

/-- The threads of a share whose registers the core keeps (R109, R115). -/
def Sys2Proof.Claim.shareThreads (e : Block × Nat) : Nat := ((e.1.onCore e.2).filter fun t => decide (t ∉ e.1.gone)).length

/-- A list of shares and one more of n threads, of w registers each and of l local bytes, stay within budgets (R108). -/
def Sys2Proof.Claim.within (es : List (Block × Nat)) (n w l : Nat) (slots threads regs loc : Nat) : Prop :=
  es.length + 1 ≤ slots ∧ (es.map shareThreads).sum + n ≤ threads ∧ (es.map fun e => shareThreads e * e.1.regCount).sum + n * w ≤ regs ∧
  (es.map fun e => e.1.loc).sum + l ≤ loc

/-- A core that may take a share of a context's block (R108, R110): in the partition, ready, with room for the context under its mode and in all, and with a slot. -/
def Sys2Proof.Claim.takesShare (s : State) (c : Ctx) (d : Die) (n w l i : Nat) : Prop :=
  let bit := i + if d = .b then 128 else 0
  i < 128 ∧ c.cores.getLsbD bit = true ∧ s.pkg.readyC.getLsbD bit = true ∧
  (let own := (sharesOn s d i).filter fun e => e.1.ctx = c.num
   if c.pmode then within own n w l 4 512 32768 131072 else within own n w l 8 1024 65536 262144) ∧
  within (sharesOn s d i) n w l 8 1024 65536 262144 ∧
  ∃ k, k < 8 ∧ ∀ e ∈ sharesOn s d i, ∀ sh, e.1.shares[e.2]? = some sh → sh.slot ≠ k

/-- The shape of a kernel's block (R108, R109): threads to a full core P, cores c, threads to a core m, local bytes to a core L. -/
structure Sys2Proof.Claim.Shaped (l : Launch) (pmode : Bool) (c m loc : Nat) : Prop where
  cores : c = (2 ^ l.width 0 + coreThreads l.regs pmode - 1) / coreThreads l.regs pmode
  threads : m = (2 ^ l.width 0 + c - 1) / c
  store : loc = (l.loc + c * 256 - 1) / (c * 256) * 256

/-- P of R86 and R108. -/
def Sys2Proof.Claim.ThreadsOfCore : Prop :=
  ∀ regs, coreThreads regs false = min 1024 (65536 / ((regs + 1) * 16)) ∧ coreThreads regs true = min 512 (32768 / ((regs + 1) * 16))

/-- What a lead context of a block starts with (R113). -/
def Sys2Proof.Claim.StartsLead (s : State) (c : Ctx) (g : Graph) (x : GNode) (y : RNode) (b : Block) (j : Nat) (sh : Share) : Prop :=
  let l := sh.lead
  let first := x.b1.toNat % 2 ^ 16
  let count := x.b1.toNat / 2 ^ 16 % 2 ^ 16
  l.pc = BitVec.ofNat 48 (b.code.word0 + b.code.leadEntry) ∧ l.status = .ready ∧ l.p = 0 ∧ l.evq = [] ∧ l.dqw = 0 ∧ l.inTrap = false ∧
  (∀ q : Nat, q < 8 → l.queues.toList[q]? = some none) ∧ sh.loc = [] ∧ sh.tile = TileSlot.start ∧
  (count ≤ 496 → ∀ k (h : k < 512), (k < count → l.s[k] = BitVec.ofNat 64 (s.slot c g (first + k))) ∧
    (count ≤ k → k < 496 ∨ 501 < k → l.s[k] = 0) ∧ (k = 496 → l.s[k].toNat = b.b % 2 ^ 64) ∧
    (k = 497 → l.s[k].toNat = b.b * 2 ^ b.w0 % 2 ^ 64) ∧
    (k = 498 → l.s[k] = BitVec.ofNat 64 (j + b.c * 2 ^ 8 + sh.core * 2 ^ 16 + if b.die = .b then 2 ^ 24 else 0)) ∧
    (k = 499 → l.s[k] = BitVec.ofNat 64 ((b.onCore j).length + (if (b.onCore j).length = 0 then 0 else j * b.m) * 2 ^ 16)) ∧
    (k = 500 → l.s[k].toNat = y.blocks % 2 ^ 64) ∧ (k = 501 → l.s[k] = BitVec.ofNat 64 (b.seq.toNat + b.node * 2 ^ 32)))

/-- What a lane thread of a block starts with (R105, R213, R276). -/
def Sys2Proof.Claim.StartsThread (b : Block) (t : Nat) (th : Thread) : Prop :=
  th.pc = BitVec.ofNat 48 (b.code.word0 + b.code.laneEntry) ∧ (∀ r : Nat, th.v.toList[r]?.getD 0 = 0) ∧ (∀ r : Nat, th.k.toList[r]?.getD 0 = 0) ∧ th.dirty = 0 ∧
  th.req = 64 ∧ th.g = (if b.pmode then 32 else 64) ∧ th.stale = false ∧ th.pri = 0 ∧ th.yld = false ∧ th.ld = 0 ∧ th.st = 0 ∧ th.cp = [] ∧ th.tl = [] ∧
  th.dqr = 0 ∧ (∀ q : Nat, th.qr.toList[q]?.getD 0 = 0) ∧ th.key = 0 ∧ th.draw = BitVec.ofNat 64 ((b.b * 2 ^ b.w0 + t) * 2 ^ 40) ∧ th.fpctr = 0 ∧
  th.status = .ready ∧ th.inTrap = false ∧ th.carrel = none ∧ th.trapVec = 0

/-- A block as it is placed (R105, R107, R109, R110, R113, R162, R213). -/
structure Sys2Proof.Claim.Placed (s : State) (n : NodeRef) (c : Ctx) (g : Graph) (x : GNode) (y : RNode) (o : Code) (d : Die) (cs : List Nat) (b : Block) : Prop where
  who : b.ctx = n.ctx ∧ b.seq = n.seq ∧ b.node = n.node ∧ b.b = y.nextBlock ∧ b.die = d ∧ b.code = o
  fresh : b.id = s.nextId ∧ b.stage = .running ∧ b.bp = 0 ∧ b.recs = [] ∧ b.bins = [] ∧ b.slot = none ∧ b.gone = []
  mode : b.pmode = c.pmode ∧ b.cls = min o.launch.cls c.classMax
  boxes : b.boxes = List.replicate o.launch.boxes none
  cores : b.shares.map Share.core = cs
  slots : ∀ sh ∈ b.shares, sh.slot < 8 ∧ ∀ e ∈ sharesOn s d sh.core, ∀ z, e.1.shares[e.2]? = some z → z.slot ≠ sh.slot
  count : b.threads.length = 2 ^ o.launch.width 0
  threads : ∀ (t : Nat) (th : Thread), b.threads[t]? = some th → StartsThread b t th
  leads : ∀ (j : Nat) (sh : Share), b.shares[j]? = some sh → StartsLead s c g x y b j sh

/-- A kernel node with a block to place next, none of it pre-empted, with no other node before it in its pool. -/
def Sys2Proof.Claim.Places (s : State) (n : NodeRef) (y : RNode) (c : Ctx) (g : Graph) (x : GNode) (o : Code) : Prop :=
  s.arg = .node n ∧ s.node? n = some y ∧ s.gnode? n = some (c, g, x) ∧ x.kind = 0 ∧ y.phase = .pool ∧ y.status = none ∧ y.translated = true ∧
  y.again = [] ∧ y.nextBlock < y.blocks ∧ s.pkg.readyF.getLsbD (if y.die = .b then 16 else 15) = true ∧
  c.codes.find? (fun o => o.va = y.code) = some o ∧
  (∀ r ∈ s.replays, ∀ z ∈ r.nodes, z.die = y.die → z.phase = .pool ∨ z.again ≠ [] → s.replay? n.ctx n.seq = some r ∧ z = y)

/-- The block placer (R105 to R111, R113, R308): the next block of a node goes to the lowest cores with room; where there is none it waits; a block that needs more than
32 cores, or more local store than a core has, ends its node with ADMIT_FAIL. -/
def Sys2Proof.Claim.BlocksPlaced : Prop :=
  ∀ (s : State) (n : NodeRef) (y : RNode) (c : Ctx) (g : Graph) (x : GNode) (o : Code) (k m l : Nat), Places s n y c g x o → x.die ≠ 3 →
    o.launch.cohold = false → Shaped o.launch c.pmode k m l → coreThreads o.launch.regs c.pmode ≠ 0 → s.dbg.stops = [] →
    let d := y.die
    let w := (o.launch.regs + 1) * 16
    let own (j : Nat) : Nat := min m (2 ^ o.launch.width 0 - j * m)
    let lowest (cs : List Nat) : Prop := cs.length = k ∧ cs.Pairwise (· < ·) ∧ ∀ (j i : Nat), cs[j]? = some i → takesShare s c d (own j) w l i ∧
      ∀ z, z < i → (∀ (p q : Nat), p < j → cs[p]? = some q → q < z) → ¬takesShare s c d (own j) w l z
    let impossible := 32 < k ∨ (if c.pmode then 131072 else 262144) < l
    (impossible → ∃ t y', exec .blockPlace s = .next t ∧ t.node? n = some y' ∧ y'.status = some 0x36 ∧
      (∃ st, let u := s.post d 0x0A st n.ctx (BitVec.ofNat 64 n.node) (BitVec.ofNat 64 y.nextBlock) 0
       t.out = u.out ∧ t.evt = u.evt) ∧
      ∀ q b th, s.block? q.block = some b → b.nodeRef = n → t.thread? q = some th → th.status = .ended) ∧
    (¬impossible → (∃ es : List Nat, es.Nodup ∧ es.length = k ∧ ∀ i ∈ es, i < 128 ∧ c.cores.getLsbD (i + if d = .b then 128 else 0) = true ∧
        s.pkg.readyC.getLsbD (i + if d = .b then 128 else 0) = true) → (∀ cs, ¬lowest cs) → y.cls ≠ 3 → exec .blockPlace s = .next s) ∧
    (∀ cs, ¬impossible → lowest cs → (s.slotsMeet c g ((List.range (x.b1.toNat / 2 ^ 16 % 2 ^ 16)).map fun i => x.b1.toNat % 2 ^ 16 + i)).1 = .none →
      ∃ t b y', exec .blockPlace s = .next t ∧ t.blocks = s.blocks ++ [b] ∧ Placed s n c g x y o d cs b ∧ b.m = m ∧ b.loc = l ∧
      t.node? n = some y' ∧ y'.nextBlock = y.nextBlock + 1 ∧ y'.phase = (if y.blocks ≤ y.nextBlock + 1 then .running else .pool) ∧
      (∀ q, q ≠ n → t.node? q = s.node? q) ∧ t.nextId = s.nextId + 1 ∧ (s.rrMode n.ctx = 0 → t = { s with blocks := t.blocks, replays := t.replays, nextId := t.nextId, dbg := t.dbg }))

/-- All of a cluster is placed, or none of it, under COHOLD (R110). -/
def Sys2Proof.Claim.ClustersWhole : Prop :=
  ∀ (s t : State) (n : NodeRef) (y : RNode) (c : Ctx) (g : Graph) (x : GNode) (o : Code), Places s n y c g x o → o.launch.cohold = true →
    y.nextBlock % 2 ^ o.launch.width 1 = 0 → exec .blockPlace s = .next t → t.blocks.length ≤ s.blocks.length ∨
    ∃ (l : List Block) (d : Die), t.blocks.length = s.blocks.length + l.length ∧ l.length = min (2 ^ o.launch.width 1) (y.blocks - y.nextBlock) ∧
      (t.blocks.drop s.blocks.length).map (fun b => (b.nodeRef, b.b, b.die)) = (List.range l.length).map fun i => (n, y.nextBlock + i, d)

/-- Only blocks of the context, of a run class below 3, are pre-empted, and only for a node of dispatch class 3 (R114, R242). -/
def Sys2Proof.Claim.VictimsAllowed : Prop :=
  ∀ (s t : State) (n : NodeRef), s.arg = .node n → exec .blockPlace s = .next t → ∀ b ∈ t.blocks, b.stage = .saving →
    ∃ b0 ∈ s.blocks, b0.id = b.id ∧ (b0.stage = .saving ∨ (b0.ctx = n.ctx ∧ b0.cls < 3 ∧ ∃ y, s.node? n = some y ∧ y.cls = 3))

/-- A kernel node that cannot be placed is passed over, and holds back those behind it after 200,000 cycles of that (R101). -/
def Sys2Proof.Claim.PassedOver : Prop :=
  ∀ (s : State) (n : NodeRef) (r : Replay) (y : RNode), s.arg = .node n → s.node? n = some y → s.replay? n.ctx n.seq = some r →
    let now := (match y.die with | .a => s.cycA | .b => s.cycB).toNat
    (s.fitsNow (r, y) = true ∨ y.translated = false ∨ y.status.isSome = true → exec .kernelPassedOver s = .next s) ∧
    (s.fitsNow (r, y) = false → y.phase = .pool → y.translated = true → y.status = none → y.nextBlock < y.blocks →
      (y.passed = none → ∃ t, exec .kernelPassedOver s = .next t ∧ t.node? n = some { y with passed := some now } ∧
        (∀ m, m ≠ n → t.node? m = s.node? m) ∧ t = { s with replays := t.replays }) ∧
      ∀ at_, y.passed = some at_ →
        (at_ + 200000 ≤ now → ∃ t, exec .kernelPassedOver s = .next t ∧ t.node? n = some { y with blocking := true } ∧
          (∀ m, m ≠ n → t.node? m = s.node? m) ∧ t = { s with replays := t.replays }) ∧
        (now < at_ + 200000 → exec .kernelPassedOver s = .next s))

/-- Blocks are placed. -/
def Sys2Proof.Claim.BlockPlacement : Prop := ThreadsOfCore ∧ BlocksPlaced ∧ ClustersWhole ∧ VictimsAllowed ∧ PassedOver


/-! Accesses that complete, held pages, hot pages (spec 06 R134 to R142, 08 R167 to R172, 09 R202, R203, 16 R313, R314). -/

/-- Memory that an access of n bytes of a cache's die reaches with no unit across the link in between and no poison (R12, R13, R22). -/
def Sys2Proof.Claim.near (s : State) (c : Cache) (pa n : Nat) : Prop :=
  (∃ k, homeOf pa = .hbm k ∨ homeOf pa = .tier2 k) ∧ homeDie pa = c.die ∧ ∀ l ∈ s.poison, l + 128 ≤ pa ∨ pa + n ≤ l

/-- Record and replay treats no read of a context (R305, R313). -/
def Sys2Proof.Claim.noRecord (s : State) (ctx : Nat) : Prop :=
  s.dbg.cfg.toNat % 2 ^ 10 ≠ ctx ∨ s.dbg.cfg.toNat / 2 ^ 12 % 4 = 0

/-- The bytes that a thread's plain load finds: those of its own latest earlier store that has not become visible, else what its cache reads without the copies
that are older than the thread's coming to its core (R150, R167). -/
def Sys2Proof.Claim.foundAt (s : State) (l : Load) (floor : Nat) (a : Nat) (v : Byte) : Prop :=
  let mine := s.stores.filter fun x => x.who = l.who && x.seq < l.seq && x.atom.isNone && !x.discard && x.pa ≤ a && a < x.pa + x.bytes.length
  (mine = [] → v = (s.refresh l.cache l.pa l.n floor).cacheRead l.cache a) ∧ ∀ x ∈ mine.getLast?, x.bytes[a - x.pa]? = some v

/-- A plain load of a lane thread returns (R167, R202, R203): every register that it still writes holds its value; LD falls with its last part; no register
other than those changes, no other thread, and no byte of memory where no cache owned one. It does not return before what it follows. -/
def Sys2Proof.Claim.LoadsReturn : Prop :=
  ∀ (s : State) (l : Load) (r : ThreadRef) (th : Thread) (b : Block) (k : Nat), s.arg = .num k → s.loads.find? (fun x => x.seq = k) = some l →
    l.who = .lane r → s.block? r.block = some b → s.thread? r = some th → l.atom = none → l.since = none → near s l.cache l.pa l.n → noRecord s b.ctx →
    let ready := (∀ x ∈ s.loads, x.who = l.who → x.seq < l.seq → x.pa + x.n ≤ l.pa ∨ l.pa + l.n ≤ x.pa) ∧
      ∀ x ∈ s.stores, x.who = l.who → x.seq < l.seq → x.atom.isSome = true ∨ x.discard = true → x.pa + x.bytes.length ≤ l.pa ∨ l.pa + l.n ≤ x.pa
    let clash := ∃ x ∈ s.loads, x.who = l.who ∧ x.seq < l.seq ∧ x.pa < l.pa + l.n ∧ l.pa < x.pa + x.n
    (clash → exec .loadReturn s = .next s) ∧
    (ready → 1 ≤ l.n → ∃ t y bs, exec .loadReturn s = .next t ∧ t.thread? r = some y ∧ (∀ x ∈ t.loads, x.seq ≠ k) ∧ bs.length = l.n ∧
      (∀ (i : Nat) (v : Byte), bs[i]? = some v → foundAt s l th.floor (l.pa + i) v) ∧
      (∀ (i : Nat) (d : LReg) (w : Word), l.dst[i]? = some (some d) → (loadWords l.sext bs)[i]? = some w → (∀ j : Nat, i < j → l.dst[j]? ≠ some (some d)) →
        (if d.bank then y.k.toList[d.i.toNat % 16]? = some w else y.v.toList[d.i.toNat]? = some w) ∨
          ∃ (j : Nat) (x : LReg), i < j ∧ l.dst[j]? = some (some x) ∧ d.bank = true ∧ x.bank = true ∧ x.i.toNat % 16 = d.i.toNat % 16) ∧
      (∀ n : BitVec 7, (∀ d, some d ∈ l.dst → d.i ≠ n ∨ d.bank = true) → y.v.toList[n.toNat]? = th.v.toList[n.toNat]? ∧
        y.dirty.getLsbD n.toNat = th.dirty.getLsbD n.toNat) ∧
      y.ld = th.ld - (if l.hold = false ∧ ∀ x ∈ s.loads, x.seq ≠ k → x.grp ≠ l.grp then 1 else 0) ∧
      y.pc = th.pc ∧ y.status = th.status ∧ y.st = th.st ∧ (∀ q, q ≠ r → t.thread? q = s.thread? q) ∧ (∀ q, t.lead? q = s.lead? q) ∧
      t.stores = s.stores ∧ t.ops = s.ops ∧ ((∀ x ∈ s.cached, x.owned = false) → s.dbg.samples = [] → ∀ a, t.homeRead a 1 = s.homeRead a 1))

/-- A plain store becomes visible once every earlier load of its agent has returned and every earlier store of the same bytes is visible (R168, R172, R203): its
bytes are the latest, ST falls with its last part, and no other byte changes where no cache owned one. -/
def Sys2Proof.Claim.StoresShown : Prop :=
  ∀ (s : State) (x : Store) (r : ThreadRef) (th : Thread) (k : Nat), s.arg = .num k → s.stores.find? (fun x => x.seq = k) = some x → x.who = .lane r →
    s.thread? r = some th → x.atom = none → x.discard = false → near s x.cache x.pa x.bytes.length →
    let behind := (∃ l ∈ s.loads, l.who = x.who ∧ l.seq < x.seq) ∨
      ∃ y ∈ s.stores, y.who = x.who ∧ y.seq < x.seq ∧ y.pa < x.pa + x.bytes.length ∧ x.pa < y.pa + y.bytes.length
    (behind → exec .storeVisible s = .next s) ∧
    (¬behind → ∃ t y, exec .storeVisible s = .next t ∧ t.thread? r = some y ∧ (∀ z ∈ t.stores, z.seq ≠ k) ∧
      (s.dbg.samples = [] → t.homeRead x.pa x.bytes.length = x.bytes) ∧
      y = { th with st := th.st - (if ∀ z ∈ s.stores, z.seq ≠ k → z.grp ≠ x.grp then 1 else 0) } ∧
      (∀ q, q ≠ r → t.thread? q = s.thread? q) ∧ (∀ q, t.lead? q = s.lead? q) ∧ t.loads = s.loads ∧ t.ops = s.ops ∧
      ((∀ z ∈ s.cached, z.owned = false) → s.dbg.samples = [] → ∀ a, ¬(x.pa ≤ a ∧ a < x.pa + x.bytes.length) → t.homeRead a 1 = s.homeRead a 1))

/-- Loads return and stores become visible. -/
def Sys2Proof.Claim.AccessesComplete : Prop := LoadsReturn ∧ StoresShown

/-- Two faults are of one unit on one page. -/
def Sys2Proof.Claim.samePage (u : FUnit) (ctx va : Nat) (f : HeldFault) : Prop := f.unit = u ∧ f.ctx = ctx ∧ f.va / 65536 = va / 65536

/-- What a re-walk makes of an access of a page (R134); none while it goes on holding. -/
def Sys2Proof.Claim.settlement (w : Walk) (late : Prop) (va : Nat) (rd wr : Bool) (v : Option Verdict) : Prop :=
  match w with
  | .leaf pa size r wl _ _ =>
    ((rd = true → r = true) ∧ (wr = true → wl = true) → v = some (.ok (pa + va % size / 65536 * 65536))) ∧
    (¬((rd = true → r = true) ∧ (wr = true → wl = true)) → v = some .denied)
  | .pend _ => (late → v = some .fatal) ∧ (¬late → v = none)
  | .bad _ => v = some .fatal
  | .dev _ _ => v = none

/-- Re-walks of a held fault, every 4,096 cycles (R134, R137, R139): a page still pending keeps it; else each held access of the page has its settlement, those
who waited try again after an acquire, and the entries of the core's side log have their page or are dropped with a fault for their threads. -/
def Sys2Proof.Claim.FaultsWalked : Prop :=
  ∀ (s : State) (i : Nat) (f : HeldFault) (c : Ctx), s.arg = .num i → s.faults[i]? = some f → s.ctx? f.ctx = some c → s.owed = [] →
    let now := (match f.unit.die with | .a => s.cycA | .b => s.cycB).toNat
    let late := c.pfTmo ≤ now - f.since
    let w := s.walk f.unit.die c f.va
    let keeps := (∃ n, w = .pend n) ∧ ¬late
    let mine (e : SideEntry) : Prop := f.unit = .core e.die e.core ∧ e.ctx = f.ctx ∧ e.va / 65536 = f.va / 65536 ∧ e.pa = none
    (now < f.since + 4096 * (f.walks + 1) → exec .faultRewalk s = .next s) ∧
    (f.since + 4096 * (f.walks + 1) ≤ now →
      (∀ pa, w = .dev .clear pa → exec .faultRewalk s = .next s) ∧
      (keeps → ∃ t, exec .faultRewalk s = .next t ∧ t = { s with faults := t.faults } ∧ t.faults.length = s.faults.length ∧
        t.faults[i]? = some { f with walks := f.walks + 1 }) ∧
      (¬keeps → (∀ x pa, w ≠ .dev x pa) → ∃ t, exec .faultRewalk s = .next t ∧ (∀ g ∈ t.faults, ¬samePage f.unit f.ctx f.va g) ∧
        (∀ g ∈ s.faults, ¬samePage f.unit f.ctx f.va g → g ∈ t.faults) ∧ t.holds.length = s.holds.length ∧
        (∀ (k : Nat) (h : HeldAcc), s.holds[k]? = some h →
          (h.unit = f.unit ∧ h.ctx = f.ctx ∧ h.va / 65536 = f.va / 65536 ∧ h.verdict = none →
            ∃ v, t.holds[k]? = some { h with verdict := v } ∧ settlement w late f.va h.rd h.wr v ∧
              ∀ r th, h.who = .agent (.lane r) → s.thread? r = some th → th.status = .wait .held →
                ∃ y, t.thread? r = some y ∧ y.status = .wait .retry ∧ y.pc = th.pc ∧ y.v = th.v) ∧
          (¬(h.unit = f.unit ∧ h.ctx = f.ctx ∧ h.va / 65536 = f.va / 65536 ∧ h.verdict = none) → t.holds[k]? = some h)) ∧
        (∀ pa, settlement w late f.va false true (some (.ok pa)) → t.sideLog.length = s.sideLog.length ∧
          ∀ (k : Nat) (e : SideEntry), s.sideLog[k]? = some e → (mine e → t.sideLog[k]? = some { e with pa := some (pa + e.va % 65536), cls := match w with | .leaf _ _ _ _ _ k => k | _ => 3 }) ∧ (¬mine e → t.sideLog[k]? = some e)) ∧
        ((∀ pa, ¬settlement w late f.va false true (some (.ok pa))) → (∀ e, e ∈ t.sideLog ↔ e ∈ s.sideLog ∧ ¬mine e) ∧
          ∀ e ∈ s.sideLog, mine e → ∀ th, s.thread? e.who = some th → ∃ y, t.thread? e.who = some y ∧ y.pfatal.isSome = true)))

/-- Held pages are settled. -/
def Sys2Proof.Claim.HeldPages : Prop := FaultsWalked

/-- The end of a controller's interval (R141, R142): while context 0 is live and asks for it, its candidates are published by descending estimate and ascending frame
behind a header with the interval's number and their count; then, as at every other end, the sketch and the list are empty. -/
def Sys2Proof.Claim.IntervalsEnd : Prop :=
  ∀ (s : State) (m : Nat) (h : HotCtl), s.arg = .num m → m < 10 → s.hot[m]? = some h → h.len ≠ 0 →
    let now := (if m < 4 ∨ m = 8 then s.cycA else s.cycB).toNat
    (now < h.start + h.len → exec .hotPageInterval s = .next s) ∧
    (h.start + h.len ≤ now →
      let asked (c : Ctx) : Prop := s.ctx? 0 = some c ∧ (c.stat = 1 ∨ c.stat = 2) ∧ c.hotBase ≠ 0 ∧ c.hotInt ≠ 0
      ∃ t h', exec .hotPageInterval s = .next t ∧ t.hot[m]? = some h' ∧ h'.sketch = [] ∧ h'.cand = [] ∧ h'.start = h.start + h.len ∧ h'.len = h.len ∧
        (∀ k, k ≠ m → (t.hot[k]?).map hotKept = (s.hot[k]?).map hotKept) ∧
        ((∀ c, ¬asked c) → h'.interval = h.interval ∧ t = { s with hot := t.hot } ∧ ∀ k, k ≠ m → t.hot[k]? = s.hot[k]?) ∧
        ∀ c, asked c → h.cand.length ≤ 64 → (let met := s.meets (if m < 4 ∨ m = 8 then .a else .b) none (c.hotBase + 2048 * m) 2048 false
          met = .none ∨ met = .clear) → h'.interval = h.interval + 1 ∧
          let at_ := c.hotBase + 2048 * m
          t.homeRead at_ 8 = bytesOf 8 ((h.interval.toNat + 1) % 2 ^ 64) ∧ t.homeRead (at_ + 8) 8 = bytesOf 8 h.cand.length ∧
          t.homeRead (at_ + 16) 48 = List.replicate 48 0 ∧
          (∃ l : List (Nat × Word), l.Perm h.cand ∧ l.Pairwise (fun x y => y.2.toNat < x.2.toNat ∨ (x.2 = y.2 ∧ x.1 ≤ y.1)) ∧
            ∀ (k : Nat) (e : Nat × Word), l[k]? = some e → t.homeRead (at_ + 64 + 16 * k) 16 = bytesOf 8 (e.1 * 65536) ++ bytesOf 8 e.2.toNat) ∧
          (∀ k, h.cand.length ≤ k → k < 64 → t.homeRead (at_ + 64 + 16 * k) 16 = List.replicate 16 0) ∧
          ∀ a, ¬(at_ ≤ a ∧ a < at_ + 1088) → t.homeRead a 1 = s.homeRead a 1)

/-- Hot-page intervals. -/
def Sys2Proof.Claim.HotPages : Prop := IntervalsEnd

/-- The stamp of the line of a replayed read is the logged one (R313, R314); the recorded tag stands for the block that it names in this run. -/
def Sys2Proof.Claim.stampLogged (s : State) (b : Block) (v pa : Nat) : Prop :=
  ∃ x ∈ s.stamps.find? (fun x => x.line = pa / 128 * 128), x.agent.toNat = v / 2 ^ 32 % 2 ^ 16 ∧ x.clock.toNat = v / 2 ^ 64 % 2 ^ 32 ∧
    x.tag.toNat = (match s.blockOfTag b.ctx (v / 2 ^ 16 % 2 ^ 16) with | some w => w.tag.toNat | none => v / 2 ^ 16 % 2 ^ 16)

/-- A read that replay holds (R314): it goes on when its writer has passed its clock, or after more than COLLTMO cycles; a stamp other than the logged one, or the time-out,
sets DIVERGE and records the first such read. -/
def Sys2Proof.Claim.ReplayHolds : Prop :=
  ∀ (s : State) (l : Load) (r : ThreadRef) (b : Block) (c v k : Nat), s.arg = .num k → s.loads.find? (fun x => x.seq = k) = some l → l.who = .lane r →
    s.block? r.block = some b → l.atom = none → l.since = some c → near s l.cache l.pa l.n → s.rrPair l = some (b, v) → s.dbg.samples = [] →
    let goes (i : Instr) (bad : Prop) : Prop := ∃ t, exec i s = .next t ∧ (∀ x ∈ t.loads, x.seq ≠ k) ∧ t.dbg.accTail = s.dbg.accTail + 1 ∧
      (¬bad → t.dbg.rrStat = s.dbg.rrStat ∧ t.dbg.rrDiv = s.dbg.rrDiv) ∧
      (bad → t.dbg.rrStat = s.dbg.rrStat ||| 2 ∧ (s.dbg.rrStat.getLsbD 1 = true → t.dbg.rrDiv = s.dbg.rrDiv) ∧
        (s.dbg.rrStat.getLsbD 1 = false → t.dbg.rrDiv = BitVec.ofNat 64 (b.tag.toNat + r.t % 2 ^ 16 * 2 ^ 16 + l.rclk.toNat * 2 ^ 32)))
    let now := (match b.die with | .a => s.cycA | .b => s.cycB).toNat
    (s.pairReady b.ctx v = false → exec .rrReadRelease s = .next s) ∧
    (s.pairReady b.ctx v = true → goes .rrReadRelease (¬stampLogged s b v l.pa)) ∧
    (now ≤ c + s.pkg.colltmo.toNat → exec .rrReadTimeout s = .next s) ∧
    (c + s.pkg.colltmo.toNat < now → goes .rrReadTimeout True)

/-- Reads under replay. -/
def Sys2Proof.Claim.ReplayedReads : Prop := ReplayHolds


/-! Rejoin time-outs, ejection, reform bins, streams, pre-emption, stops (spec 10 R220 to R229, 09 R211, 11 R232 to R245, 16 R305 to R308). -/

/-- The cycle count of a block's die. -/
def Sys2Proof.Claim.nowOf (s : State) (b : Block) : Nat := (match b.die with | .a => s.cycA | .b => s.cycB).toNat

/-- Of the blocks, only one changed, to this one; nothing else changed. -/
def Sys2Proof.Claim.onlyBlock (s t : State) (id : Nat) (b : Block) : Prop :=
  t.block? id = some b ∧ (∀ k, k ≠ id → t.block? k = s.block? k) ∧ t = { s with blocks := t.blocks }

/-- A rejoin record times out REJOINTMO + 1 cycles after its first arrival, and not before (R220): its missing members are late, its arrived threads go on
behind the rejoin address, and it is in no chain. -/
def Sys2Proof.Claim.RejoinsTimeOut : Prop :=
  ∀ (s : State) (id k : Nat) (b : Block) (x : RejoinRec), s.arg = .record id k → s.block? id = some b → b.recs.find? (fun r => r.id = k) = some x → b.stop = none →
    let due := ∃ c ∈ x.first, c + b.code.launch.rejoinTmo + 1 ≤ nowOf s b
    (¬due → exec .rejoinTimeout s = .next s) ∧
    (due → ∃ t b', exec .rejoinTimeout s = .next t ∧ onlyBlock s t id b' ∧ b' = { b with recs := b'.recs, threads := b'.threads } ∧
      (∀ r, r ∈ b'.recs ↔ r ∈ b.recs ∧ r.id ≠ k) ∧ b'.threads.length = b.threads.length ∧
      ∀ q th, b.threads[q]? = some th → ∃ y, b'.threads[q]? = some y ∧ y.chain = th.chain.filter (fun i => i ≠ k) ∧ y.v = th.v ∧ y.k = th.k ∧
        (Thread.status th = .wait (.rejoin k) → y.pc = th.pc + 1 ∧ y.status = .ready ∧ y.late = th.late) ∧
        (Thread.status th ≠ .wait (.rejoin k) → y.pc = th.pc ∧ y.status = th.status ∧
          (q ∈ x.members ∧ q ∉ x.arrived ∧ q ∉ x.removed → y.late = true ∧ x.rp ∈ y.lateRp) ∧
          (¬(q ∈ x.members ∧ q ∉ x.arrived ∧ q ∉ x.removed) → y.late = th.late ∧ y.lateRp = th.lateRp)))

/-- The hand-over to a carrel context (R167, R223, R232, R306): not before the thread's loads and stores are over, and not once PREEMPT has reached it or its block
stops; registers with a dirty bit go along, the others are zero there, and its later loads are no older than the hand-over. -/
def Sys2Proof.Claim.HandsOver : Prop :=
  ∀ (s : State) (r : ThreadRef) (b : Block) (th : Thread) (i : Nat), s.arg = .thread r → s.block? r.block = some b → b.threads[r.t]? = some th →
    th.status = .wait (.toCarrel i) →
    (th.ld ≠ 0 ∨ th.st ≠ 0 ∨ th.preempt = true ∨ b.stop ≠ none → exec .ejectHandover s = .next s) ∧
    (th.ld = 0 → th.st = 0 → th.preempt = false → b.stop = none → ∃ t y, exec .ejectHandover s = .next t ∧ t.thread? r = some y ∧ (∀ q, q ≠ r → t.thread? q = s.thread? q) ∧
      y = { th with carrel := some i, status := .ready, wrote := 0, v := y.v, homePoison := y.homePoison, floor := s.tick } ∧
      (∀ n (h : n < 128), y.v[n] = if th.dirty.getLsbD n then th.v[n] else 0) ∧
      t = { s with blocks := t.blocks })

/-- The way back of an ejected thread (R201, R226 to R228, R232, R306): not before its loads and stores are over, and not once PREEMPT has reached it or
its block stops; the registers it wrote are dirty; at a rejoin record of its chain it arrives there; a thread that left by
REFORM, or whose record is gone, is filed under the next address where a bin has that key, out of all its records. -/
def Sys2Proof.Claim.ComesBack : Prop :=
  ∀ (s : State) (r : ThreadRef) (b : Block) (th : Thread) (f : Bool), s.arg = .thread r → s.block? r.block = some b → b.threads[r.t]? = some th →
    th.status = .wait (.fromCarrel f) →
    (th.ld ≠ 0 ∨ th.st ≠ 0 ∨ th.preempt = true ∨ b.stop ≠ none → exec .carrelReturn s = .next s) ∧
    (th.ld = 0 → th.st = 0 → th.preempt = false → b.stop = none → ∃ t y, exec .carrelReturn s = .next t ∧ t.thread? r = some y ∧ y.carrel = none ∧
      y.dirty = th.dirty ||| th.wrote ∧ y.k = th.k ∧ y.floor = s.tick ∧ t.cached = s.cached ∧
      (∀ n (h : n < 128), th.homePoison.getLsbD n = false ∨ th.wrote.getLsbD n = true → y.v[n] = th.v[n]) ∧
      (∀ x, f = false → b.recs = [x] → x.rp = th.pc → x.id ∈ th.chain → (∃ q ∈ x.members, q ≠ r.t ∧ q ∉ x.arrived ∧ q ∉ x.removed) →
        y.status = .wait (.rejoin x.id) ∧ y.pc = th.pc) ∧
      (∀ z, b.recs = [] → b.bins = [z] → z.core = b.home r.t → z.pc = th.pc + 1 →
        y.status = .filed z.id ∧ y.pc = th.pc + 1 ∧ ∃ b', t.block? r.block = some b' ∧ b'.bins = [{ z with threads := z.threads ++ [(r.t, nowOf s b)] }]))

/-- A draw from a reform bin (R229): when it holds as many threads as its oldest one's grant, or the oldest is REFORMAGE cycles old; the oldest entries, up to
the lanes of a group, are ready at the key address with LATE and YLD clear. -/
def Sys2Proof.Claim.BinsDrawn : Prop :=
  ∀ (s : State) (id k : Nat) (b : Block) (x : Bin) (q c : Nat) (rest : List (Nat × Nat)) (th : Thread), s.arg = .record id k → s.block? id = some b →
    b.bins.find? (fun x => x.id = k) = some x → b.stop = none → x.threads = (q, c) :: rest → b.threads[q]? = some th →
    let due := th.g.toNat ≤ x.threads.length ∨ c + b.code.launch.reformAge ≤ nowOf s b
    let lanes := if b.pmode then 32 else 64
    (¬due → exec .reformDraw s = .next s) ∧
    (due → ∃ t b', exec .reformDraw s = .next t ∧ onlyBlock s t id b' ∧ b' = { b with bins := b'.bins, threads := b'.threads } ∧
      (∀ p y, b.threads[p]? = some y →
        (p ∈ (x.threads.take lanes).map Prod.fst → b'.threads[p]? = some { y with status := .ready, pc := x.pc, late := false, lateRp := [], yld := false }) ∧
        (p ∉ (x.threads.take lanes).map Prod.fst → b'.threads[p]? = some y)) ∧
      (x.threads.length ≤ lanes → ∀ z ∈ b'.bins, z.id ≠ k) ∧
      (lanes < x.threads.length → b'.bins.find? (fun z => z.id = k) = some { x with threads := x.threads.drop lanes }) ∧
      ∀ z, z.id ≠ k → (z ∈ b'.bins ↔ z ∈ b.bins))

/-- Divergence events. -/
def Sys2Proof.Claim.DivergenceEvents : Prop := RejoinsTimeOut ∧ HandsOver ∧ ComesBack ∧ BinsDrawn

/-- Element k of entry m of a stream lies here (R211). -/
def Sys2Proof.Claim.elementAt (x : Stream) (c s : Nat → Int) (m k : Nat) (t : Bool) : Int :=
  let i (j : Nat) : Int := match j with
    | 0 => m % (c 0).toNat
    | 1 => m / (c 0).toNat % (c 1).toNat
    | 2 => m / ((c 0).toNat * (c 1).toNat) % (c 2).toNat
    | _ => m / ((c 0).toNat * (c 1).toNat * (c 2).toNat) % (c 3).toNat
  let a := (x.base + i 0 * s 0 + i 1 * s 1 + i 2 * s 2 + i 3 * s 3) % 2 ^ 56
  if t then (a + k * x.ts) % 2 ^ 64 else a

/-- An entry of a stream over local space (R208, R209, R211): with a free entry in its ring, the elements of an entry (mode T) or one in all is read
and stands in the ring, and the stream goes on to the next entry or is over; a stream that is over, or whose ring is full, does nothing. -/
def Sys2Proof.Claim.StreamsRun : Prop :=
  ∀ (s : State) (r : LeadRef) (n : Nat) (b : Block) (sh : Share) (q : Queue) (x : Stream) (c0 c1 c2 c3 : Nat) (s0 s1 s2 s3 : Int), s.arg = .stream r n → n < 8 →
    s.block? r.block = some b → b.shares[r.j]? = some sh → sh.lead.queues.toList[n]? = some (some q) → q.stream = some x → b.stop = none → b.stage = .running →
    x.counts = [c0, c1, c2, c3] → x.strides = [s0, s1, s2, s3] →
    let each := if q.perThread then q.n else 1
    let full := ∃ t ∈ b.onCore r.j, ∃ th, b.threads[t]? = some th ∧ th.status ≠ .ended ∧ q.d ≤ (BitVec.ofNat 16 q.written - th.qr.toList.getD n 0).toNat
    let place (k : Nat) : Int := elementAt x ([c0, c1, c2, c3].getD · 0) ([s0, s1, s2, s3].getD · 0) x.pos k q.perThread
    (x.running = false ∨ full ∨ q.d = 0 → exec .streamEntry s = .next s) ∧
    (x.running = true → ¬full → q.d ≠ 0 → x.glob = false → (∀ k, k < each → ∃ j o, b.local? (place k).toNat 4 = some (j, o)) → ∃ t l, exec .streamEntry s = .next t ∧
      t.lead? r = some l ∧
      l = { sh.lead with queues := sh.lead.queues.set! n (some { q with
        written := q.written + 1, stream := some { x with pos := x.pos + 1, running := decide (x.pos + 1 < c0 * c1 * c2 * c3) } }) } ∧
      (∀ k j o, k < each → b.local? (place k).toNat 4 = some (j, o) →
        t.locRead b.id r.j (q.base + q.written % q.d * (4 * each) + 4 * k) 4 = s.locRead b.id j o 4) ∧
      (∀ j o, ¬(j = r.j ∧ q.base + q.written % q.d * (4 * each) ≤ o ∧ o < q.base + q.written % q.d * (4 * each) + 4 * each) →
        t.locRead b.id j o 1 = s.locRead b.id j o 1) ∧
      (∀ p, t.thread? p = s.thread? p) ∧ (∀ m, m ≠ r → t.lead? m = s.lead? m) ∧ t.mem = s.mem ∧ t.cached = s.cached)

/-- The affine address engine. -/
def Sys2Proof.Claim.StreamEntries : Prop := StreamsRun

/-- PREEMPT enters a lane thread once nothing of it is outstanding, and not before (R233, R240, R242): what it waited at it leaves, TRAPPC names where it stood, and the
save address stands in k2:k3. -/
def Sys2Proof.Claim.LanesEnter : Prop :=
  ∀ (s : State) (r : ThreadRef) (b : Block) (th : Thread), s.arg = .agent (.lane r) → s.block? r.block = some b → b.threads[r.t]? = some th →
    (th.preempt = false ∨ th.inTrap = true ∨ th.status = .ended ∨ th.status = .parked → exec .preemptEntry s = .next s) ∧
    (b.stop = none → b.stage = .saving → th.preempt = true → th.inTrap = false → th.pfatal = none → th.status = .ready ∨ th.status = .wait .retry →
      (th.ld ≠ 0 ∨ th.st ≠ 0 ∨ th.cp ≠ [] ∨ th.tl ≠ [] → ∃ t y, exec .preemptEntry s = .next t ∧ t.thread? r = some y ∧ y.inTrap = false ∧ y.pc = th.pc ∧
        y.preempt = true ∧ y.v = th.v ∧ y.k = th.k) ∧
      ∀ c k, th.ld = 0 → th.st = 0 → th.cp = [] → th.tl = [] → (∀ l ∈ s.loads, l.who ≠ .lane r) → th.trapVec ≠ 0 → s.ctx? b.ctx = some c → b.slot = some k →
        ∃ t y, exec .preemptEntry s = .next t ∧ t.thread? r = some y ∧ y.inTrap = true ∧ y.preempt = false ∧ y.trapPc = th.pc ∧
          y.cause = BitVec.ofNat 32 (0x13 + 2 ^ 21 + if th.carrel = none then 0 else 2 ^ 20) ∧ y.k[0] = y.cause ∧ y.k[1] = 0 ∧
          (let a := c.save + 0x10000 + k * 0x4000000 + b.home r.t * 0x200000
           y.k[2] = BitVec.ofNat 32 a ∧ y.k[3] = BitVec.ofNat 32 (a / 2 ^ 32)) ∧ (∀ n (h : n < 16), 4 ≤ n → y.k[n] = th.k[n]) ∧
          y.pc = BitVec.ofNat 48 (b.code.word0 + th.trapVec.toNat) ∧ y.v = th.v ∧ y.dirty = th.dirty ∧ (∀ q, q ≠ r → t.thread? q = s.thread? q))

/-- PREEMPT enters a lead context once every operation that it issued has completed (R238, R242). -/
def Sys2Proof.Claim.LeadsEnter : Prop :=
  ∀ (s : State) (r : LeadRef) (b : Block) (l : Lead) (c : Ctx) (k : Nat), s.arg = .agent (.lead r) → s.block? r.block = some b → s.lead? r = some l → b.stop = none →
    b.stage = .saving → l.preempt = true → l.inTrap = false → l.status = .ready ∨ l.status = .wait → (∀ x ∈ s.loads, x.who ≠ .lead r) → l.s[495] ≠ 0 →
    s.ctx? b.ctx = some c → b.slot = some k →
    ((∃ o ∈ s.ops, o.issuer = .agent (.lead r) ∧ o.phase ≠ .waiting) → ∃ t y, exec .preemptEntry s = .next t ∧ t.lead? r = some y ∧ y.inTrap = false ∧
      y.pc = l.pc ∧ y.preempt = true) ∧
    ((∀ o ∈ s.ops, o.issuer ≠ .agent (.lead r)) → ∃ t y, exec .preemptEntry s = .next t ∧ t.lead? r = some y ∧ y.inTrap = true ∧ y.preempt = false ∧
      y.lk[0] = BitVec.ofNat 64 (0x13 + 2 ^ 21) ∧ y.lk[1] = l.pc.setWidth 64 ∧ y.lk[2] = 0 ∧
      y.lk[3] = BitVec.ofNat 64 (c.save + 0x10000 + k * 0x4000000 + r.j * 0x200000) ∧ (∀ n (h : n < 8), 4 ≤ n → y.lk[n] = l.lk[n]) ∧
      y.pc = BitVec.ofNat 48 (b.code.word0 + (l.s[495]).toNat) ∧ y.s = l.s ∧ y.p = l.p ∧ (∀ q, q ≠ r → t.lead? q = s.lead? q) ∧ ∀ q, t.thread? q = s.thread? q)

/-- Every party of a block being saved has parked or ended, and nothing of it is outstanding (R243). -/
def Sys2Proof.Claim.Parked (s : State) (b : Block) : Prop :=
  b.stage = .saving ∧ (∀ th ∈ b.threads, (th.status = .ended ∨ th.status = .parked) ∧ th.ld = 0 ∧ th.st = 0) ∧
  (∀ x ∈ b.shares, x.lead.status = .ended ∨ x.lead.status = .parked) ∧ (∀ l ∈ s.loads, l.who.block ≠ b.id) ∧ (∀ x ∈ s.stores, x.who.block ≠ b.id) ∧
  (∀ e ∈ s.sideLog, e.who.block ≠ b.id) ∧ ∀ o ∈ s.ops, ∀ a, o.issuer = .agent a → a.block = b.id → o.phase = .waiting

/-- The save completes (R99, R114, R115, R243, R244): not before all have parked; once the core's writes have found their pages, the block is off its cores and among the
blocks of its node to be placed again. -/
def Sys2Proof.Claim.SavesComplete : Prop :=
  ∀ (s : State) (id k : Nat) (b : Block) (c : Ctx), s.arg = .num id → s.block? id = some b → s.ctx? b.ctx = some c → b.slot = some k → b.stop = none →
    (¬Parked s b → exec .saveComplete s = .next s) ∧
    ∀ ws x, Parked s b → s.saveAll b.die c id (b.saveWrites c k) [] = .ok ws → s.node? b.nodeRef = some x → ∃ t b' y, exec .saveComplete s = .next t ∧
      t.block? id = some b' ∧ b'.stage = .saved ∧ b'.resident = false ∧ b'.slot = some k ∧ (∀ j, j ≠ id → t.block? j = s.block? j) ∧
      (∀ sh ∈ b'.shares, sh.tile.tiles = []) ∧ b'.threads.map Thread.status = b.threads.map Thread.status ∧
      t.node? b.nodeRef = some y ∧ y.again = x.again ++ [id] ∧ y.cls = x.cls ∧ t.ctxs = s.ctxs ∧ t.ops = s.ops

/-- What a save writes of a thread is what a resume reads back (R243 to R245): the return address, priority, grant request, handler, dirty bits, draw counter, key, read
indices, v112 to v127 and k4 to k15; the other registers are zero and the grant is that of the mode; STALE and a pending PAGE_FATAL stay (R195, R240). -/
def Sys2Proof.Claim.ThreadsRestored : Prop :=
  ∀ (rd : Nat → Nat → Nat) (tick : Nat) (bp : Dword) (i : Nat) (pmode : Bool) (th : Thread),
    (∀ p ∈ threadParts bp i th, ∀ o n, o + n ≤ p.2.length → rd (p.1 + o) n = natOf ((p.2.drop o).take n)) →
    let y := th.restored rd tick bp i pmode
    y.pc = th.trapPc ∧ y.pri = th.pri ∧ y.yld = th.yld ∧ y.req = th.req ∧ y.trapVec = th.trapVec ∧ y.dqr = th.dqr ∧ y.dirty = th.dirty ∧ y.draw = th.draw ∧
    y.qr = th.qr ∧ y.key = th.key ∧ (∀ n (h : n < 128), 112 ≤ n → y.v[n] = th.v[n]) ∧ (∀ n (h : n < 128), n < 112 → y.v[n] = 0) ∧
    (∀ n (h : n < 16), 4 ≤ n → y.k[n] = th.k[n]) ∧ y.g.toNat = min th.req.toNat (if pmode then 32 else 64) ∧ y.carrel = none ∧ y.late = false ∧
    y.chain = [] ∧ y.ld = 0 ∧ y.st = 0 ∧ y.cp = [] ∧ y.tl = [] ∧ (y.stale = true ↔ th.stale = true ∨ y.g ≠ th.g) ∧ y.pfatal = th.pfatal ∧ y.floor = tick

/-- Pre-emption. -/
def Sys2Proof.Claim.PreemptionEvents : Prop := LanesEnter ∧ LeadsEnter ∧ SavesComplete

/-- The thread state that a save and a resume carry over. -/
def Sys2Proof.Claim.ThreadSaveAndRestore : Prop := ThreadsRestored

/-- DBGSTOP and DBGRESUME (R305, R306, R308): a stop begins in every resident block that it names, and is held when it names none or all of a context; a resume lets the
context's blocks go on, with the times of their records and bins put off by the part of it that they stood still. -/
def Sys2Proof.Claim.StopsAndResumes : Prop :=
  ∀ (s : State) (v : Dword), s.arg = .dword v → s.readyBit bitMgmt = true → s.readyBit bitFw = true → s.live (s.dbg.cfg.toNat % 2 ^ 10) = true →
    let n := s.dbg.cfg.toNat % 2 ^ 10
    let seq := s.dbg.seq.toNat % 2 ^ 32
    let named (b : Block) : Prop := b.ctx = n ∧ (seq = 0xFFFFFFFF ∨ b.seq.toNat = seq) ∧
      (v.getLsbD 63 = true ∨ (b.node = v.toNat / 2 ^ 32 % 2 ^ 16 ∧ b.b = v.toNat % 2 ^ 32)) ∧ b.resident = true
    (∃ t, exec .dbgstop s = .next t ∧ t.blocks.length = s.blocks.length ∧ t = { s with blocks := t.blocks, dbg := t.dbg } ∧
      (∀ (i : Nat) (b : Block), s.blocks[i]? = some b →
        (named b → ∃ b', t.blocks[i]? = some b' ∧ b' = { b with stop := b'.stop } ∧ b'.stop = (match b.stop with | some x => some x | none => some ⟨1, false, nowOf s b⟩)) ∧
        ((∀ b2 ∈ s.blocks, b2.id = b.id → ¬named b2) → t.blocks[i]? = some b)) ∧
      t.dbg = { s.dbg with stops := t.dbg.stops } ∧
      ((∀ b ∈ s.blocks, ¬named b) ∨ v.getLsbD 63 = true → ∃ q, t.dbg.stops = s.dbg.stops ++ [q] ∧ q.ctx = n ∧ q.seq.toNat = seq ∧ q.all = v.getLsbD 63 ∧
        q.node = v.toNat / 2 ^ 32 % 2 ^ 16 ∧ q.block = v.toNat % 2 ^ 32) ∧
      ((∃ b ∈ s.blocks, named b) → v.getLsbD 63 = false → t.dbg.stops = s.dbg.stops)) ∧
    ∃ t, exec .dbgresume s = .next t ∧ t = { s with blocks := t.blocks, dbg := t.dbg } ∧ t.blocks.length = s.blocks.length ∧
      (∀ q, q ∈ t.dbg.stops ↔ q ∈ s.dbg.stops ∧ ¬(q.ctx = n ∧ q.all = true)) ∧
      ∀ (i : Nat) (b : Block), s.blocks[i]? = some b → ∃ b', t.blocks[i]? = some b' ∧ b' = { b with stop := b'.stop, recs := b'.recs, bins := b'.bins, threads := b'.threads, shares := b'.shares } ∧
        (b.ctx ≠ n → b' = b) ∧ (b.ctx = n → b'.stop = none ∧ b'.threads.length = b.threads.length ∧
          (∀ (q : Nat) (th : Thread), b.threads[q]? = some th → ∃ y, b'.threads[q]? = some y ∧ y = { th with readyAt := y.readyAt }) ∧ b'.recs.map RejoinRec.id = b.recs.map RejoinRec.id ∧
          (∀ st (j c : Nat) (r : RejoinRec), b.stop = some st → b.recs[j]? = some r → r.first = some c →
            ∃ r', b'.recs[j]? = some r' ∧ r' = { r with first := some (c + (nowOf s b - max st.since c)) }))

/-- A stop is complete when the block has drained (R306, R307): its event carries the reason and the slot of the dump, or 0xFF_FFFF where a dump is longer than a slot,
and then no byte is written. -/
def Sys2Proof.Claim.StopsComplete : Prop :=
  ∀ (s : State) (id : Nat) (b : Block) (st : Stop), s.arg = .num id → s.block? id = some b → b.stop = some st →
    let drained := (∀ th ∈ b.threads, th.ld = 0 ∧ th.st = 0) ∧ (∀ l ∈ s.loads, l.who.block ≠ b.id) ∧ (∀ x ∈ s.stores, x.who.block ≠ b.id) ∧
      ∀ e ∈ s.sideLog, e.who.block ≠ b.id
    let len := 0x24000 + 576 * b.threads.length + b.shares.length * b.loc
    let size := s.dbg.slot.toNat / 2 ^ 8 % 2 ^ 32 * 65536
    (st.done = true ∨ ¬drained → exec .stopComplete s = .next s) ∧
    (st.done = false → drained →
      (∀ c k f pa, s.ctx? b.ctx = some c → s.vwriteParts b.die c (s.dbg.dump.toNat + k * size) (dumpParts b st.reason ++ [(0x38, bytesOf 8 1)]) ≠ .dev f pa) → ∃ t k u, exec .stopComplete s = .next t ∧ s.writeDump b st.reason = (k, u) ∧
      t.block? id = some { b with stop := some { st with done := true } } ∧ (∀ j, j ≠ id → t.block? j = s.block? j) ∧ t.mem = u.mem ∧
      (let w := u.post b.die 0x0C 0 b.ctx (BitVec.ofNat 64 (b.node + b.b * 2 ^ 32)) (b.seq.setWidth 64) (BitVec.ofNat 64 (st.reason + k * 2 ^ 8))
       t.out = w.out ∧ t.evt = w.evt) ∧
      (size < len ∨ s.dbg.slot.toNat % 2 ^ 8 = 0 → k = 0xFFFFFF ∧ u = s))

/-- The parts of a dump (R307) lie within its length and do not overlap. -/
def Sys2Proof.Claim.DumpsLaidOut : Prop :=
  ∀ (b : Block) (reason : Nat), b.shares.length ≤ 32 →
    (∀ p ∈ dumpParts b reason, p.1 + p.2.length ≤ 0x24000 + 576 * b.threads.length + b.shares.length * b.loc) ∧
    (dumpParts b reason).Pairwise (fun p q => p.1 + p.2.length ≤ q.1 ∨ q.1 + q.2.length ≤ p.1) ∧
    ∀ p ∈ dumpParts b reason, p.1 + p.2.length ≤ 0x38 ∨ 0x40 ≤ p.1

/-- Stops of blocks. -/
def Sys2Proof.Claim.BlockStops : Prop := StopsAndResumes ∧ StopsComplete ∧ DumpsLaidOut

/-! What the engines do by themselves (spec 01 R14, 05 R122, 06 R145, 07 R160, R161, 08 R182, R184, 12 R257, 14 R282 to R286, 15 R292 to R301). -/

/-- A waiting operation registers when nothing stands against it (R182): a held range, a queue ring, an earlier waiting operation, a logged store or an access
still to be performed that its ranges meet keeps it waiting; else its ranges lock, it stands last, and its thread counts it. A unit that failed its self-test charges the context (R22). Triggered sends
and claims of tiles do more, which the statements of their commands give. -/
def Sys2Proof.Claim.Registers : Prop :=
  ∀ (s : State) (k : Nat) (o : Op), s.arg = .num k → s.op? k = some o → o.phase = .waiting →
    let mine := s.srcSpans o ++ s.dstSpans o
    (∀ u n, s.unitOf o = some (u, n) → s.opUnit o = .failed → exec .rangeRegistration s = .next (s.deviceFault o.ctx 4 o.die u)) ∧
    (s.opUnit o ≠ .failed →
      (∀ x ∈ s.ops, x.id ≠ k → x.phase ≠ .waiting → spansHit mine (x.lockSrc ++ x.lockDst) = true → exec .rangeRegistration s = .next s) ∧
      (∀ pre x post, s.ops = pre ++ x :: post → (∀ y ∈ pre, y.id ≠ k) → x.id ≠ k → x.phase = .waiting →
        spansHit mine (s.srcSpans x ++ s.dstSpans x) = true → exec .rangeRegistration s = .next s) ∧
      (∀ b ∈ s.blocks, spansHit mine (ringSpans b) = true → exec .rangeRegistration s = .next s) ∧
      (∀ x ∈ s.stores, spansHit [.phys x.pa x.bytes.length] mine = true → exec .rangeRegistration s = .next s) ∧
      (∀ x ∈ s.loads, spansHit [.phys x.pa x.n] (s.dstSpans o) = true → exec .rangeRegistration s = .next s) ∧
      (s.logHits o = true → exec .rangeRegistration s = .next s) ∧
      (4096 < s.lockEntries + o.src.length + o.dst.length → exec .rangeRegistration s = .next s) ∧
      (s.opUnit o = .ready → s.underLimit o = true → s.entryFree o = true → s.rangesFree o = true → o.engine = none → o.accepted = false →
        (∀ x, o.work ≠ .tsend x) → (∀ x, o.work = .tile x → x.fn ≠ 0) → ∃ t, exec .rangeRegistration s = .next t ∧
          t.ops = (s.ops.filter fun x => x.id != k) ++ [registered s o] ∧ t = { s with ops := t.ops, blocks := t.blocks } ∧
          (∀ q, (∀ r, o.issuer = .agent (.lane r) → q ≠ r) → t.thread? q = s.thread? q) ∧ (∀ q, t.lead? q = s.lead? q) ∧
          ∀ r th, o.issuer = .agent (.lane r) → s.thread? r = some th → t.thread? r = some { th with
            cp := th.cp ++ (if o.count = .cp then [(k, false)] else [])
            tl := th.tl ++ (if o.count = .tl then [(k, false)] else [])
            st := th.st + (if o.count = .st then 1 else 0) }))

/-- The parts of a place lie at physical addresses. -/
def Sys2Proof.Claim.liesAt (ps : List Part) (l : List (Nat × Nat)) : Prop :=
  ps.map (fun p => match p with | .pa a _ n => some (a, n) | _ => none) = l.map some

/-- The latest bytes at physical parts. -/
def Sys2Proof.Claim.bytesIn (s : State) (l : List (Nat × Nat)) : List Byte := l.flatMap fun p => s.homeRead p.1 p.2

/-- An address lies in none of the parts. -/
def Sys2Proof.Claim.outside (l : List (Nat × Nat)) (a : Nat) : Prop := ∀ p ∈ l, a < p.1 ∨ p.1 + p.2 ≤ a

/-- Parts that an operation's die reaches, with no poison, and no two of which meet. -/
def Sys2Proof.Claim.reach (s : State) (d : Die) (l : List (Nat × Nat)) : Prop :=
  (∀ p ∈ l, near s (.far d) p.1 p.2) ∧ l.Pairwise fun p q => p.1 + p.2 ≤ q.1 ∨ q.1 + q.2 ≤ p.1

/-- The bytes that a place of n bytes holds for an operation: in a share's local store, or at physical parts l. -/
def Sys2Proof.Claim.placeHas (s : State) (x : Loc) (n : Nat) (l : List (Nat × Nat)) (bs : List Byte) : Prop :=
  match x with
  | .loc b la => l = [] ∧ (s.share? b (la / 2 ^ 18)).isSome = true ∧ s.locRead b (la / 2 ^ 18) (la % 2 ^ 18) n = bs
  | .glob _ => bytesIn s l = bs

/-- An operation finds the pages of a place. -/
def Sys2Proof.Claim.placeAt (s : State) (o : Op) (x : Loc) (n : Nat) (need : Need) (l : List (Nat × Nat)) : Prop :=
  match x with
  | .loc _ _ => l = []
  | .glob va => liesAt (s.rowParts o va n need) l ∧ reach s o.die l

/-- A state in which an operation that has done its work is not over yet, and the next state in which it is (R184); it holds no page then. -/
def Sys2Proof.Claim.overIn (t u : State) (o : Op) (status : Nat) : Prop := t = { u.finishOp o status with holds := t.holds }

/-- A copy (R14, R103, R184, R441): only the first of its engine's queue goes on; one of more than 1,048,576 bytes asks leave first; else its destination holds
what its source held, no other byte changes, its leave ends, and it is over, or its follow-on is to be entered (R301). -/
def Sys2Proof.Claim.CopiesLand : Prop :=
  ∀ (s : State) (k : Nat) (o : Op) (x y : Loc) (n e : Nat) (follow : Option Follow), s.arg = .num k → s.op? k = some o → o.work = .copy x y n follow →
    o.src = [rangeAt x n] → o.dst = [rangeAt y n] → o.phase = .registered → o.engine = some e →
    let head := (s.ops.find? fun z => z.die = o.die && z.engine = some e).map (fun z => z.id) = some k
    let asks := 1048576 < n ∧ .copy e ∉ (s.gov o.die).held
    (¬head ∨ s.issuerHeld o = true → exec .copyComplete s = .next s) ∧
    (head → s.issuerHeld o = false → asks → ∃ t, exec .copyComplete s = .next t ∧ (∃ c, (.copy e, c) ∈ (t.gov o.die).pending) ∧
      t = s.setGov o.die { s.gov o.die with pending := (t.gov o.die).pending }) ∧
    (head → s.issuerHeld o = false → ¬asks → spansHit o.lockSrc o.lockDst = false →
      ∀ l m bs, placeAt s o x n .load l → placeAt s o y n .store m → placeHas s x n l bs → bs.length = n → (∃ old, placeHas s y n m old) →
        (∀ va, y = .glob va → (m.map fun p => p.2).sum = n) → ∃ t u, exec .copyComplete s = .next t ∧ placeHas u y n m bs ∧
          (∀ a, outside m a → u.homeRead a 1 = s.homeRead a 1) ∧
          (∀ b j a, (∀ la, y = .loc b la → j = la / 2 ^ 18 → a < la % 2 ^ 18 ∨ la % 2 ^ 18 + n ≤ a) → u.locRead b j a 1 = s.locRead b j a 1) ∧
          (u.gov o.die).held = (s.gov o.die).held.erase (.copy e) ∧ u.ops = s.ops ∧
          (follow = none → overIn t u o 0) ∧
          (follow.isSome = true → t = { u with ops := t.ops, holds := t.holds } ∧
            t.ops = u.ops.map fun (z : Op) => if z.id = k then { z with phase := .running, engine := none, lockSrc := [] } else z))

/-- A follow-on (R301, R442): the command of the copy's fields, for the slot of the core whose share holds the destination's first byte, enters that slot's order
once nothing but its copy, and what waits for that copy's destination, stands against what it reads; with no record or one that would trap the copy is over with TILE_REFUSED. -/
def Sys2Proof.Claim.FollowOnsEnter : Prop :=
  ∀ (s : State) (k : Nat) (o : Op) (x : Loc) (n la : Nat) (f : Follow) (b : Block) (id : Nat) (who : Agent), s.arg = .num k → s.op? k = some o →
    o.work = .copy x (.loc id la) n (some f) → o.phase = .running → s.block? id = some b → o.issuer = .agent who →
    let j := la / 2 ^ 18
    let slot := s.slotOf b.id j
    let a : Acor := ⟨who, b, j, b.leadCache j, o.handler, false, true⟩
    (slot.sh.toList.getD f.sh none = none → exec .followOnEntry s = .next (s.finishOp o 0x41)) ∧
    ∀ v, slot.sh.toList.getD f.sh none = some v →
      let r := shapeRec v
      let t : TileCmd := ⟨if f.mma then 5 else 3, b.id, j, f.sh, v, f.tile, 0, la, f.scale + f.pitch / 16 * 2 ^ 32, 0, false, false, none, none⟩
      let y : Op := { o with
        id := s.nextId, core := b.coreNum j, engine := none, work := .tile t, src := t.areas.1, dst := [], lockSrc := [], lockDst := [], phase := .registered }
      (r.mode = 2 ∨ r.chain ≠ 0 ∨ (s.tileTrap a t true).isSome = true → exec .followOnEntry s = .next (s.finishOp o 0x41)) ∧
      let others := s.ops.filter fun z => spansHit (s.srcSpans z ++ s.dstSpans z) o.lockDst = false
      (r.mode ≠ 2 → r.chain = 0 → s.tileTrap a t true = none → (s.dropOp k).rangesOk y others = false → exec .followOnEntry s = .next s) ∧
      (r.mode ≠ 2 → r.chain = 0 → s.tileTrap a t true = none → (s.dropOp k).rangesOk y others = true → s.nextId ≠ k →
        ∃ u, exec .followOnEntry s = .next u ∧ u = { s with ops := u.ops, nextId := s.nextId + 1 } ∧
          u.ops = (s.ops.map fun (z : Op) => if z.id = k then { z with phase := .followed s.nextId } else z) ++ [{ y with lockSrc := s.srcSpans y }])

/-- Copies and their follow-ons. -/
def Sys2Proof.Claim.CopiesComplete : Prop := Registers ∧ CopiesLand ∧ FollowOnsEnter

/-- The corner-turn stage (R160, R161): it takes its core's moves in order and reads 64 rows of 128 bytes; then element (i, j) of 16 bits stands at row i, column j
of the plain copy and at row j, column i of the transposed one, no other byte has changed, and the move is over. -/
def Sys2Proof.Claim.CornersTurn : Prop :=
  ∀ (s : State) (k : Nat) (o : Op) (m : Stash) (a : Agent), s.arg = .num k → s.op? k = some o → o.work = .stash m → o.phase = .registered →
    o.issuer = .agent a → o.src = [] → o.dst = [⟨.glob m.a, 64, 128, m.pa⟩, ⟨.glob m.b, 64, 128, m.pb⟩] →
    let isMove (z : Op) : Bool := match z.work with | .stash _ => true | _ => false
    let first := (s.ops.find? fun z => z.die = o.die && z.core = o.core && z.phase = .registered && isMove z).map (fun z => z.id) = some k
    (¬first ∨ m.rows.isSome = true → exec .sttStageLoaded s = .next s) ∧
    (first → m.rows = none → ∃ t bs, exec .sttStageLoaded s = .next t ∧ t = { s with ops := t.ops } ∧
      t.ops = s.ops.map (fun (z : Op) => if z.id = k then { z with work := .stash { m with rows := some bs } } else z) ∧
      bs.length = 8192 ∧ ∀ i j : Nat, i < 64 → j < 128 →
        bs[128 * i + j]? = (s.locRead a.block ((m.s + i * m.sp) / 2 ^ 18) ((m.s + i * m.sp) % 2 ^ 18) 128)[j]?) ∧
    (m.rows = none ∨ s.issuerHeld o = true → exec .stashComplete s = .next s) ∧
    ∀ bs (p q : Nat → Nat), m.rows = some bs → s.issuerHeld o = false → bs.length = 8192 →
      (∀ i, i < 64 → liesAt (s.rowParts o (m.a + i * m.pa) 128 .store) [(p i, 128)] ∧ liesAt (s.rowParts o (m.b + i * m.pb) 128 .store) [(q i, 128)]) →
      let places := (List.range 64).map (fun i => (p i, 128)) ++ (List.range 64).map fun i => (q i, 128)
      reach s o.die places → ∃ t u, exec .stashComplete s = .next t ∧ overIn t u o 0 ∧ u.ops = s.ops ∧ u.blocks = s.blocks ∧
        (∀ i j, i < 64 → j < 64 → u.homeRead (p i + 2 * j) 2 = (bs.drop (128 * i + 2 * j)).take 2 ∧
          u.homeRead (q j + 2 * i) 2 = (bs.drop (128 * i + 2 * j)).take 2) ∧
        ∀ z, outside places z → u.homeRead z 1 = s.homeRead z 1

/-- The bytes of a survivor list's header and entries (R282), as numbers of 8 bytes. -/
def Sys2Proof.Claim.survivors (count max : Nat) (l : List (Nat × Nat)) : List Byte :=
  bytesOf 8 (count + max * 2 ^ 32) ++ bytesOf 8 0 ++ l.flatMap fun e => bytesOf 8 (e.1 + e.2 * 2 ^ 32)

/-- What MINP keeps of v logits (R283): with nothing permitted no entry and the default NaN; else every permitted token whose logit is at least τ, ascending, with the
greatest permitted logit. -/
def Sys2Proof.Claim.keeps (v : Nat) (logit : Nat → Nat) (permits : Nat → Bool) (cut : Nat) (l : List (Nat × Nat)) (m : Nat) : Prop :=
  let val (x : Nat) := FTy.f32.value x
  let inP (t : Nat) : Prop := t < v ∧ permits t = true ∧ (val (logit t)).isNan = false
  let c : Val := if (val cut).isNan then .inf true else if Val.lt true (val cut) (val 0) then val cut else val 0
  let tau := rne .f32 (Val.add false (val m) c)
  ((∀ t, ¬inP t) → l = [] ∧ m = 0x7FC00000) ∧
  ((∃ t, inP t) → (∃ t, inP t ∧ logit t = m) ∧ (∀ t, inP t → Val.lt true (val m) (val (logit t)) = false) ∧
    (l.map fun e => e.1).Pairwise (fun x y => x < y) ∧ (∀ e ∈ l, e.2 = logit e.1) ∧
    ∀ t, (∃ e ∈ l, e.1 = t) ↔ inP t ∧ (((val m).isInf = true ∧ logit t = m) ∨ ((val m).isInf = false ∧ Val.lt false (val (logit t)) (val tau) = false)))

/-- The sampler takes the operations of its die in order (R287): MINP leaves its list and finishes with the count. -/
def Sys2Proof.Claim.MinpRuns : Prop :=
  ∀ (s : State) (k : Nat) (o : Op) (c : SampCmd) (a : Agent) (b : Block), s.arg = .num k → s.op? k = some o → o.work = .sample c → c.catdraw = false →
    o.issuer = .agent a → s.block? a.block = some b →
    let isSample (z : Op) : Bool := match z.work with | .sample _ => true | _ => false
    let first := (s.ops.find? fun z => z.die = o.die && (z.phase = .registered || z.phase = .running) && isSample z).map (fun z => z.id) = some k
    let w (l : List Word) (i : Nat) : Nat := (l.getD i 0).toNat
    let v := w c.b 1
    let list := w c.b 0
    (¬first → exec .samplerOpComplete s = .next s) ∧
    (first → 1 ≤ v → flatIn b (w c.a 0) (4 * v) → flatIn b (w c.a 1) ((v + 7) / 8) → flatIn b list (16 + 8 * v) → b.loc ≤ 2 ^ 18 → b.c ≤ b.shares.length →
      ∃ t l m, exec .samplerOpComplete s = .next t ∧
        keeps v (fun i => little (s.flatRead b (w c.a 0 + 4 * i) 4)) (fun i => ((s.flatRead b (w c.a 1 + i / 8) 1).getD 0 0).getLsbD (i % 8)) (w c.c 0) l m ∧
        t.flatRead b list (16 + 8 * l.length) = survivors l.length m l ∧
        (∀ x, flatIn b x 1 → (x < list ∨ list + (16 + 8 * l.length) ≤ x) → t.flatRead b x 1 = s.flatRead b x 1) ∧
        t = { s with blocks := t.blocks, ops := t.ops } ∧
        t.ops = s.ops.map fun (z : Op) => if z.id = k then { z with phase := .finished [BitVec.ofNat 32 l.length], lockSrc := [], lockDst := [] } else z)

/-- The token of a draw (R285): the first, by ascending token and then by place, whose weights' exact running sum exceeds d·W / 2^64; none where the sum W is zero. A NaN weight
counts 0 and sets NANW; with an infinite weight, which leaves no sum, the token is the free value (log entry 45). -/
def Sys2Proof.Claim.TokenDrawn : Prop :=
  ∀ (es : List (Nat × Nat)) (max sc : Nat) (d : Dword) (free : Nat) (l : List (Nat × Nat)),
    l = es.mergeSort (fun x y => x.1 ≤ y.1) →
    let w (e : Nat × Nat) : Exact := match weightOf max sc e.2 with | .num x => x | _ => Exact.zero false
    let upTo (i : Nat) : Exact := ((l.take i).map w).foldl (fun a x => a.add x false) (Exact.zero false)
    let u := ((Exact.ofNat d.toNat).mul (upTo l.length)).shift (-64)
    let r := catdrawOf es max sc d free
    let finite := ∀ e ∈ es, (weightOf max sc e.2).isInf = false
    (r.2.testBit 1 = true ↔ ∃ e ∈ es, (weightOf max sc e.2).isNan = true) ∧ r.2 < 4 ∧
    (¬finite → r.2.testBit 0 = false ∧ r.1 = free % 2 ^ 32) ∧
    (finite → r.2.testBit 0 = (upTo l.length).isZero) ∧
    (finite → (upTo l.length).isZero = true → r.1 = 0xFFFFFFFF) ∧
    (finite → (upTo l.length).isZero = false → ∀ (i : Nat) (e : Nat × Nat), l[i]? = some e → u.lt (upTo (i + 1)) = true → (∀ j, j < i → u.lt (upTo (j + 1)) = false) → r.1 = e.1)

/-- CATDRAW (R282, R285, R286): its entries lock once its header tells their number; a list that breaks R282 ends it with the address of the trap
alone (log entry 32); else its words are the token of its
draw and the status, and with the status EMPTY its lead context has a SAMPLE_EMPTY record. -/
def Sys2Proof.Claim.CatdrawRuns : Prop :=
  ∀ (s : State) (k : Nat) (o : Op) (c : SampCmd) (r : ThreadRef) (b : Block), s.arg = .num k → s.op? k = some o → o.work = .sample c →
    c.catdraw = true → o.issuer = .agent (.lane r) → s.block? r.block = some b → s.samplerHead o = true →
    let x := (c.a.getD 0 0).toNat
    let count := little (s.flatRead b x 4)
    let es := (List.range count).map fun i => (little (s.flatRead b (x + 16 + 8 * i) 4), little (s.flatRead b (x + 20 + 8 * i) 4))
    let d := sampleDraw c.key (c.c.getD 0 0).toNat (c.c.getD 1 0).toNat c.mode
    let res := catdrawOf es (little (s.flatRead b (x + 4) 4)) (c.b.getD 0 0).toNat d (Config.freeDword s.tick 0).toNat
    let done (ws : List Word) : List Op := s.ops.map fun (z : Op) => if z.id = k then { z with phase := .finished ws, lockSrc := [], lockDst := [] } else z
    (o.phase = .registered → 262144 < count → ∃ t, exec .samplerOpComplete s = .next t ∧ t = { s with ops := done [BitVec.ofNat 32 (b.flat x)] }) ∧
    (o.phase = .registered → count ≤ 262144 → ¬flatIn b (x + 16) (8 * count) → ∃ t, exec .samplerOpComplete s = .next t ∧
      t = { s with ops := done [BitVec.ofNat 32 (b.flat (max (x + 16) (b.c * b.loc)))] }) ∧
    (o.phase = .registered → count ≤ 262144 → flatIn b (x + 16) (8 * count) →
      let y : Op := { o with src := o.src ++ b.flatAreas (x + 16) (8 * count) }
      (s.rangesFree y = false → exec .samplerOpComplete s = .next s) ∧
      (s.rangesFree y = true → ∃ t, exec .samplerOpComplete s = .next t ∧ t = { s with ops := t.ops } ∧
        t.ops = s.ops.map fun (z : Op) => if z.id = k then { z with src := y.src, lockSrc := s.srcSpans y, phase := .running } else z)) ∧
    (o.phase = .running → flatIn b x (16 + 8 * count) → b.loc ≤ 2 ^ 18 → 1 ≤ b.loc →
      (res.2 % 2 = 0 → ∃ t, exec .samplerOpComplete s = .next t ∧ t = { s with ops := done [BitVec.ofNat 32 res.1, BitVec.ofNat 32 res.2] }) ∧
      (res.2 % 2 = 1 → ∀ q, s.lead? ⟨r.block, b.home r.t⟩ = some q → q.status ≠ .ended → 
        q.evq.length + ({ s with ops := done [BitVec.ofNat 32 res.1, BitVec.ofNat 32 res.2] } : State).leadOut ⟨r.block, b.home r.t⟩ < 256 →
        ∃ t y z, exec .samplerOpComplete s = .next t ∧ t.ops = done [BitVec.ofNat 32 res.1, BitVec.ofNat 32 res.2] ∧ t.lead? ⟨r.block, b.home r.t⟩ = some y ∧
          y.evq = q.evq ++ [z] ∧ z.w0.toNat / 2 ^ 16 % 2 ^ 8 = 0x50 ∧ z.w0.toNat / 2 ^ 24 % 2 ^ 8 = 6 ∧ z.w1 = BitVec.ofNat 64 (b.wid r.t)))

/-- The sampler's operations. -/
def Sys2Proof.Claim.SamplerRuns : Prop := MinpRuns ∧ TokenDrawn ∧ CatdrawRuns

/-- The words with which a catalogue operation finishes (R453): page, status, references, and what the issuer must take in as an acquire. -/
def Sys2Proof.Claim.catWordsOf (page status refs : Nat) (ws : List Word) : Prop :=
  ws.length = 5 ∧ (ws.getD 0 0).toNat + 2 ^ 32 * (ws.getD 1 0).toNat = 65536 * page ∧ ws.getD 2 0 = BitVec.ofNat 32 status ∧ ws.getD 3 0 = BitVec.ofNat 32 refs

/-- A slot as the table holds it (R144). -/
def Sys2Proof.Claim.slotBytes (s : State) (pa key page refs : Nat) : Prop :=
  s.homeRead pa 16 = bytesOf 16 (key + page * 2 ^ 64 + refs * 2 ^ 104 + 2 ^ 127)

/-- The catalogue controller (R145): it takes operations in order of arrival, and does with the first slot that holds the key, else the first free slot, else the
first without references, what its table says; a table that does not serve gives CAT_BAD; what its lines meet is a device fault or a wait (R13, R22). Only
the slot changes, and an insert or unreference releases on its key (R146). -/
def Sys2Proof.Claim.CatalogueRuns : Prop :=
  ∀ (s : State) (k : Nat) (o : Op) (c : CatCmd) (x : Ctx) (a : Agent), s.arg = .num k → s.op? k = some o → o.work = .cat c → o.issuer = .agent a →
    s.ctx? o.ctx = some x → c.fn < 3 → c.page < 2 ^ 56 →
    let isCat (z : Op) : Bool := match z.work with | .cat _ => true | _ => false
    let first := (s.ops.find? fun z => z.die = o.die && z.phase = .registered && isCat z).map (fun z => z.id) = some k
    let meets := s.catMeets x ((s.catAddrs x c.key).getD [])
    let synced (t : State) : Prop := t.keySyncs = if c.fn = 0 then s.keySyncs else (s.keyRelease o.ctx c.key (.at_ (s.issuerDie o) o.clk)).keySyncs
    let isOver (t : State) (page status refs : Nat) : Prop := ∃ ws, catWordsOf page status refs ws ∧ synced t ∧
      t.ops = (s.ops.map fun (z : Op) => if z.id = k then { z with phase := .finished ws, clk := (s.keySync o.ctx c.key).clk } else z) ∧
      t = { s with ops := t.ops, cached := t.cached, keySyncs := t.keySyncs, stamps := t.stamps }
    let same (t : State) : Prop := t.cached = s.cached
    (¬first → exec .catalogueOp s = .next s) ∧
    (first → meets.1 ≠ .none → exec .catalogueOp s = .next (s.physTrap o.ctx meets.1 o.die 0x94 meets.2)) ∧
    (first → meets.1 = .none → (s.catAddrs x c.key).bind s.catSlots = none → ∃ t ws, exec .catalogueOp s = .next t ∧ ws = [0, 0, 8, 0, 0] ∧ synced t ∧
      t.ops = (s.ops.map fun (z : Op) => if z.id = k then { z with phase := .finished ws, clk := [] } else z) ∧
      t = { s with ops := t.ops, keySyncs := t.keySyncs }) ∧
    ∀ l, first → meets.1 = .none → (s.catAddrs x c.key).bind s.catSlots = some l → ∃ t, exec .catalogueOp s = .next t ∧
      let isHit (e : CatSlot) : Prop := e.valid = true ∧ e.key = c.key.toNat
      let only (pa : Nat) : Prop := ∀ a, ¬(pa ≤ a ∧ a < pa + 16) → t.homeRead a 1 = s.homeRead a 1
      let takes (h : CatSlot) (status : Nat) : Prop :=
        (h.refs = 0xFFFF → isOver t 0 6 h.refs ∧ same t) ∧
        (h.refs ≠ 0xFFFF → isOver t h.page status (h.refs + 1) ∧ slotBytes t h.pa h.key h.page (h.refs + 1) ∧ only h.pa)
      let puts (e : CatSlot) (page status : Nat) : Prop :=
        isOver t page status c.n ∧ slotBytes t e.pa c.key.toNat (c.page / 65536) c.n ∧ only e.pa
      ((∀ e ∈ l, ¬isHit e) →
        (c.fn ≠ 1 → isOver t 0 1 0 ∧ same t) ∧
        (c.fn = 1 →
          (∀ pre e post, l = pre ++ e :: post → (∀ y ∈ pre, y.valid = true) → e.valid = false → puts e (c.page / 65536) 2) ∧
          ((∀ e ∈ l, e.valid = true) → (∀ e ∈ l, e.refs ≠ 0) → isOver t 0 5 0 ∧ same t) ∧
          ((∀ e ∈ l, e.valid = true) → ∀ pre e post, l = pre ++ e :: post → (∀ y ∈ pre, y.refs ≠ 0) → e.refs = 0 → puts e e.page 4))) ∧
      ∀ pre h post, l = pre ++ h :: post → (∀ y ∈ pre, ¬isHit y) → isHit h →
        (c.fn = 0 → c.take = false → isOver t h.page 0 h.refs ∧ same t) ∧ (c.fn = 0 → c.take = true → takes h 0) ∧ (c.fn = 1 → takes h 3) ∧
        (c.fn = 2 → h.refs = 0 → isOver t 0 7 0 ∧ same t) ∧
        (c.fn = 2 → h.refs ≠ 0 → isOver t h.page 0 (h.refs - 1) ∧ slotBytes t h.pa h.key h.page (h.refs - 1) ∧ only h.pa)

/-- Rows of entries. -/
def Sys2Proof.Claim.rowSum (l : List BfEntry) : Nat := (l.map fun e => e.rows).sum

/-- An entry stands before another (R122): it joined in an earlier cycle, or in the same one from a lower core, or a lower block slot of the core. -/
def Sys2Proof.Claim.joinedBefore (x y : BfEntry) : Prop :=
  x.cycle < y.cycle ∨ (x.cycle = y.cycle ∧ (x.core < y.core ∨ (x.core = y.core ∧ x.slot < y.slot)))

/-- The batch-forming queue (R122): of the entries that were queued before this cycle it forms a batch when their rows reach THRESH or the oldest is AGE cycles
old, at most one in a cycle; the batch takes whole entries from the oldest on, as many as stay within MAXROWS, and stands last. -/
def Sys2Proof.Claim.BatchesForm : Prop :=
  ∀ (s : State) (d : Die) (ch : Nat) (c : Channel), s.arg = .channel d ch → s.readyBit (bitBfq d) = true → s.channel? d ch = some c →
    let now := s.cycle d
    let seen := c.entries.filter fun e => e.batch.isNone && decide (e.cycle < now)
    let due := c.thresh ≤ rowSum seen ∨ ∃ e ∈ seen, e.cycle + c.age ≤ now
    (seen = [] ∨ ¬due ∨ c.formed = some now → exec .batchForm s = .next s) ∧
    (seen ≠ [] → due → c.formed ≠ some now → ∃ (t : State) (c' : Channel) (l : List BfEntry) (n : Nat), exec .batchForm s = .next t ∧ l.Perm seen ∧ l.Pairwise (fun x y => ¬joinedBefore y x) ∧ t = { s with channels := t.channels } ∧ t.channel? d ch = some c' ∧
      (∀ d' k, (d', k) ≠ (d, ch) → t.channel? d' k = s.channel? d' k) ∧
      (rowSum (l.take n) ≤ c.maxRows ∧ (n < l.length → c.maxRows < rowSum (l.take (n + 1)))) ∧ n ≤ l.length ∧
      c' = { c with
        entries := c.entries.map fun (e : BfEntry) => if e.id ∈ (l.take n).map (fun x => x.id) then { e with batch := some c.nextBatch } else e
        batches := c.batches ++ [⟨c.nextBatch, rowSum (l.take n), (l.take n).map fun e => (e.payload, e.rows, e.cluster), none⟩]
        nextBatch := c.nextBatch + 1
        formed := some now })

/-! Steps of the tile engine (spec 01 R14, 12 R257, 15 R292 to R300). -/

/-- One element's accumulation (R257): group by group; a group with a NaN or with infinities of both signs adds the default NaN, one with an infinity adds that
infinity, any other its exact sum rounded once; each result is rounded again after the addition. The example of R257 gives 1.0. -/
def Sys2Proof.Claim.GroupsAdd : Prop :=
  (∀ (w : FTy) (g old : Nat), (accElem w g old []).code = old) ∧
  (∀ (w : FTy) (g old : Nat) (ps : List (Val × Bool)), w = .f32 ∨ w = .f64 → 1 ≤ g → ps ≠ [] →
    let group := (ps.take g).map fun p => p.1
    let pos := Val.inf false ∈ group
    let neg := Val.inf true ∈ group
    ∃ t : Nat, (accElem w g old ps).code = (accElem w g (rne w (Val.add false (w.value old) (w.value t))) (ps.drop g)).code ∧
      (((∃ v ∈ group, v.isNan = true) ∨ (pos ∧ neg)) → t = rne w .defaultNan) ∧
      ((∀ v ∈ group, v.isNan = false) → pos → ¬neg → t = rne w (.inf false)) ∧ ((∀ v ∈ group, v.isNan = false) → neg → ¬pos → t = rne w (.inf true)) ∧
      (∀ (x : Exact) (l : List Exact), group = .num x :: l.map Val.num → t = rne w (.num (l.foldl (fun a y => a.add y false) x)))) ∧
  let one := FTy.bf16.value 0x3F80
  let ps : List (Val × Bool) := [(Val.mul (FTy.bf16.value 0x4B80) one, false), (Val.mul one one, false), (Val.mul (FTy.bf16.value 0xCB80) one, false)] ++
    List.replicate 13 (FTy.bf16.value 0, false)
  (accElem .f32 16 0 ps).code = 0x3F800000

/-- Element e of the n bytes at a local address of a block, as a code of a tile type (R294). -/
def Sys2Proof.Claim.tileCode (s : State) (block la n ty e : Nat) : Nat :=
  little (s.locRead block (la / 2 ^ 18) (la % 2 ^ 18) n) / 2 ^ (tileBits ty * e) % 2 ^ tileBits ty

/-- The rows of A that a step reads (R294, R298, R299): the elements of each row, and its scale codes where the plain mode scales. -/
def Sys2Proof.Claim.RowsRead : Prop :=
  ∀ (s : State) (o : Op) (t : TileCmd),
    let r := shapeRec t.sh
    let pitch := 16 * (t.b / 2 ^ 32 % 2 ^ 14)
    (s.readA o t).length = r.m ∧ ∀ (i : Nat) (a : ARow), (s.readA o t)[i]? = some a →
      (∀ e, e < (if r.mode = 1 then 256 else r.k) →
        a.elems.getD e 0 = tileCode s t.block (t.a + i * pitch) (if r.mode = 1 then 512 else (r.k * tileBits r.ta + 7) / 8) r.ta e) ∧
      (r.mode = 0 → r.scale = true → ∀ q, q < r.k / 32 → [BitVec.ofNat 8 (a.scales.getD q 0)] =
        ((s.locRead t.block ((t.b % 2 ^ 32 + i * (r.k / 32)) / 2 ^ 18) ((t.b % 2 ^ 32 + i * (r.k / 32)) % 2 ^ 18) (r.k / 32)).drop q).take 1)

/-- The engine of a command's core takes it next (R120, R302): of the commands that it could take none has a higher run class, and none of the same class was issued
before it. -/
def Sys2Proof.Claim.takesNext (s : State) (o : Op) : Prop :=
  ∀ x ∈ s.ops, x.id ≠ o.id → x.die = o.die → x.core = o.core → s.takeable x = true →
    s.opClass x ≤ s.opClass o ∧ (x ∈ s.ops.takeWhile (fun z => z.id != o.id) → s.opClass x < s.opClass o)

/-- A TMMA that may start: in its turn, with no step streaming on its core and taken next there (R292, R302). -/
def Sys2Proof.Claim.mayStart (s : State) (o : Op) (t : TileCmd) : Prop :=
  t.started = false ∧ s.tileTurn o t = true ∧ (∀ x ∈ s.ops, ∀ y, x.work = .tile y → x.die = o.die → x.core = o.core → y.started = true → y.bound = true) ∧ takesNext s o

/-- A step outside a chain (R14, R292, R293, R298, R299): without its turn nothing happens; without leave, or with leave that 256 idle cycles
have ended, it asks for it; else every element of its rows and columns
holds what R257 makes of its products, in uncertainty mode in the mean and the variance tile, in batched mode in the block's tile; no other tile, no other row
and no memory changes. -/
def Sys2Proof.Claim.StepsRun : Prop :=
  ∀ (s : State) (k : Nat) (o : Op) (t : TileCmd), s.arg = .num k → s.op? k = some o → o.work = .tile t → t.fn = 5 → (shapeRec t.sh).chain = 0 →
    let r := shapeRec t.sh
    let w := accTy r.ta
    let slot := s.slotOf t.block t.j
    let leave := Requester.tile o.core ∈ (s.gov o.die).held ∧ ∀ e ∈ (s.gov o.die).idle, e.1 = o.core → s.cycle o.die < e.2 + 256
    (t.started = true ∨ s.tileTurn o t = false → exec .tileStepStart s = .next s) ∧
    (mayStart s o t → ¬leave → ∃ u, exec .tileStepStart s = .next u ∧ (∃ c, (.tile o.core, c) ∈ (u.gov o.die).pending) ∧
      u = s.setGov o.die { s.gov o.die with pending := (u.gov o.die).pending, held := (s.gov o.die).held.erase (.tile o.core), idle := (u.gov o.die).idle }) ∧
    (mayStart s o t → leave → recordOk t.sh.toNat → (s.share? t.block t.j).isSome = true → ∀ p, slot.active = some p → p.tag = r.tag →
      (∀ q ∈ t.names, (slot.tile? q).isSome = true) → ∃ u after, exec .tileStepStart s = .next u ∧ u.slotOf t.block t.j = after ∧
        after = { slot with tiles := after.tiles } ∧ (∃ y ∈ u.ops, y = { o with work := .tile { t with started := true } }) ∧
        u.mem = s.mem ∧ u.cached = s.cached ∧ (∀ q, u.thread? q = s.thread? q) ∧ (∀ q, u.lead? q = s.lead? q) ∧
        (let goes (q row col : Nat) (ps : List (Val × Bool)) : Prop := ∀ m, slot.tile? q = some m → ∃ m', after.tile? q = some m' ∧
          tileGet m' w row col = (accElem w (if r.ta = 9 then 4 else 16) (if r.accum then tileGet m w row col else 0) ps).code % 2 ^ (8 * tileWidth w)
         ∀ (i : Nat) (a : ARow), (s.readA o t)[i]? = some a →
          (r.mode = 0 → ∀ n, n < r.n → goes t.tile (r.row0 + i) n (meanProducts r a p n)) ∧
          (r.mode = 1 → ∀ bb n, bb < 16 → n < 16 → goes (t.tile + bb / 4) (r.row0 + i) (16 * (bb % 4) + n) (batchProducts r a p bb n)) ∧
          (r.mode = 2 → ∀ n, n < r.n → goes t.tile (r.row0 + i) n (meanProducts r a p n) ∧ goes (t.tile + 1) (r.row0 + i) n (varProducts r a p n))) ∧
        ∀ q m, slot.tile? q = some m → ∃ m', after.tile? q = some m' ∧ (q ∉ t.names → m' = m) ∧
          ∀ row col, col < (if r.ta = 9 then 32 else 64) → (row < r.row0 ∨ r.row0 + r.m ≤ row ∨ (r.mode ≠ 1 ∧ r.n ≤ col)) → tileGet m' w row col = tileGet m w row col)

/-- Accumulation and steps. -/
def Sys2Proof.Claim.StepsAccumulate : Prop := GroupsAdd ∧ RowsRead ∧ StepsRun

/-- A step streams on a core: it has started and its boundary has not come (R297). -/
def Sys2Proof.Claim.streams (d : Die) (core : Nat) (x : Op) : Prop :=
  x.die = d ∧ x.core = core ∧ ∃ t, x.work = .tile t ∧ t.started = true ∧ t.bound = false

/-- A step boundary (R292, R296, R297): the rows of the step that streams have been read, so they unlock; a TSWAP that has its turn makes the shadow plane the active
one and leaves the shadow empty. -/
def Sys2Proof.Claim.Boundaries : Prop :=
  ∀ (s : State) (d : Die) (core : Nat), s.arg = .core d core →
    let isSwap (x : Op) : Prop := x.die = d ∧ x.core = core ∧ ∃ t, x.work = .tile t ∧ t.fn = 4
    ((∀ x ∈ s.ops, ¬isSwap x) → ∃ u, exec .tileStepBoundary s = .next u ∧ u = { s with ops := u.ops } ∧ u.ops.length = s.ops.length ∧
      ∀ (i : Nat) (x : Op), s.ops[i]? = some x → ∃ y, u.ops[i]? = some y ∧ y.id = x.id ∧ y.phase = x.phase ∧
        (∀ t, x.work = .tile t → streams d core x → x.phase = .registered → y = { x with work := .tile { t with bound := true }, lockSrc := [] })) ∧
    ∀ o t, (∀ x ∈ s.ops, ¬streams d core x) → o ∈ s.ops → isSwap o → o.work = .tile t → (∀ x ∈ s.ops, isSwap x → x = o) →
      (s.tileTurn o t = false → exec .tileStepBoundary s = .next s) ∧
      (s.tileTurn o t = true → s.ops.count o = 1 → (s.share? t.block t.j).isSome = true → ∃ u : State, exec .tileStepBoundary s = .next (u.checkIssuer o) ∧
        u = { s with ops := s.ops.filter (fun x => x.id != o.id), blocks := u.blocks } ∧
        u.slotOf t.block t.j = { s.slotOf t.block t.j with active := (s.slotOf t.block t.j).shadow, shadow := none })

/-- The last byte of a source has been read (R296): a TLDW keeps its plane, a TLOAD its 16,384 bytes, and the source unlocks, as does the destination of the copy that
fed it (R301). -/
def Sys2Proof.Claim.SourcesRead : Prop :=
  ∀ (s : State) (k : Nat) (o : Op) (t : TileCmd), s.arg = .num k → s.op? k = some o → o.work = .tile t →
    let r := shapeRec t.sh
    let left (u : State) (t' : TileCmd) : Prop := u = { s with ops := u.ops, holds := u.holds, tags := u.tags, hot := u.hot } ∧ ∀ (i : Nat) (x : Op), s.ops[i]? = some x → ∃ y, u.ops[i]? = some y ∧
      (x.id = k → x = o → y = { o with work := .tile t', lockSrc := [] }) ∧
      (x.id ≠ k → x.phase = .followed k → y = { x with lockDst := [] }) ∧ (x.id ≠ k → x.phase ≠ .followed k → y = x)
    (s.tileTurn o t = false ∨ ¬takesNext s o → exec .tileSourceUnlock s = .next s) ∧
    (s.tileTurn o t = true → takesNext s o → t.fn = 3 → t.plane = none → ∃ u p, exec .tileSourceUnlock s = .next u ∧ left u { t with plane := some p } ∧ p.tag = r.tag ∧
      ∀ q n, q < (bRows r).1 → n < r.n →
        p.elems.getD (q * r.n + n) 0 = tileCode s t.block (t.a + q * (16 * (t.b / 2 ^ 32 % 2 ^ 14))) (bRows r).2 r.tb n) ∧
    (s.tileTurn o t = true → takesNext s o → t.fn = 8 → t.bytes = none → o.src = [rangeAt (.glob t.a) 16384] → o.dst = [] →
      ∀ l, liesAt (s.rowParts o t.a 16384 .load) l → reach s o.die l → ∃ u, exec .tileSourceUnlock s = .next u ∧ left u { t with bytes := some (bytesIn s l) })

/-- An operation of a tile engine is over in a state: so is the copy that fed it, instead of it (R301). -/
def Sys2Proof.Claim.tileOverIn (t u : State) (o : Op) : Prop :=
  match u.ops.find? fun x => x.phase = .followed o.id with
  | none => overIn t u o 0
  | some p => overIn t (u.dropOp o.id) p 0

/-- The tiles of a TST with the addresses of their first rows (R459). -/
def Sys2Proof.Claim.storedTiles (r : ShapeRec) (t : TileCmd) : List (Nat × Nat) :=
  if r.mode = 1 then (List.range 4).map fun j => (t.tile + j, t.a + j * r.m * (16 * (t.b / 2 ^ 32 % 2 ^ 14)))
  else if r.mode = 2 then [(t.tile, t.a), (t.tile + 1, t.b % 2 ^ 32)] else [(t.tile, t.a)]

/-- One element as TST writes it (R459): as it is, or rounded to BF16 or F16. -/
def Sys2Proof.Claim.storedElem (w : FTy) (ofmt x : Nat) : List Byte :=
  if ofmt = 0 then bytesOf (tileWidth w) x else bytesOf 2 (rne (if ofmt = 1 then .bf16 else .f16) (FTy.f32.value x))

/-- Commands of the tile engine complete (R292, R295, R296, R455 to R460): TLDW leaves its plane in the shadow, TMMA is over after its boundary, TST leaves the rows of
its tiles, TSAVE a tile's 16,384 bytes, TLOAD fills a tile, TFREE releases tiles, TCLAIM has its answer; each in its turn only. -/
def Sys2Proof.Claim.CommandsEnd : Prop :=
  ∀ (s : State) (k : Nat) (o : Op) (t : TileCmd), s.arg = .num k → s.op? k = some o → o.work = .tile t → (s.share? t.block t.j).isSome = true →
    let r := shapeRec t.sh
    let slot := s.slotOf t.block t.j
    let turn := s.tileTurn o t = true
    let first := o.phase = .registered ∧ ∀ x ∈ (s.slotOps t.block t.j).takeWhile (fun x => x.1.id != k), clears x.2 t = true
    (¬turn → t.fn = 3 ∨ t.fn = 6 ∨ t.fn = 7 → exec .tileOpComplete s = .next s) ∧ (¬takesNext s o → t.fn = 6 ∨ t.fn = 7 → exec .tileOpComplete s = .next s) ∧ (¬first → t.fn ≤ 1 → exec .tileOpComplete s = .next s) ∧
    (turn → t.fn = 3 → ∀ p, t.plane = some p → ∃ v u, exec .tileOpComplete s = .next v ∧ tileOverIn v u o ∧ u = { s with blocks := u.blocks } ∧
      u.slotOf t.block t.j = { slot with shadow := some p }) ∧
    (t.fn = 5 → (t.started = false ∨ t.bound = false → exec .tileOpComplete s = .next s) ∧
      (t.started = true → t.bound = true → ∃ v u, exec .tileOpComplete s = .next (v.setGov o.die u) ∧ tileOverIn v s o)) ∧
    (turn → takesNext s o → t.fn = 6 → recordOk t.sh.toNat → ∃ v u, exec .tileOpComplete s = .next v ∧ tileOverIn v u o ∧
      u = { s with blocks := u.blocks, ctxs := u.ctxs, evt := u.evt, out := u.out } ∧ u.slotOf t.block t.j = slot ∧
      let pitch := 16 * (t.b / 2 ^ 32 % 2 ^ 14)
      let cols := if r.mode = 1 then 64 else r.n
      let len := cols * tstBytes r t.b
      let rows : List (Nat × Nat × Nat) := (storedTiles r t).flatMap fun x => (List.range r.m).map fun i => (x.1, i, x.2 + i * pitch)
      rows.Pairwise (fun x y => x.2.2 + len ≤ y.2.2 ∨ y.2.2 + len ≤ x.2.2) → (∀ x ∈ rows, (s.share? t.block (x.2.2 / 2 ^ 18)).isSome = true ∧ x.2.2 % 2 ^ 18 + len ≤ 2 ^ 18) →
        (t.b / 2 ^ 48 % 4 = 0 ∨ r.ta ≠ 9) →
        ∀ x ∈ rows, ∀ m, slot.tile? x.1 = some m → u.locRead t.block (x.2.2 / 2 ^ 18) (x.2.2 % 2 ^ 18) len =
          (List.range cols).flatMap fun c => storedElem (accTy r.ta) (t.b / 2 ^ 48 % 4) (tileGet m (accTy r.ta) (r.row0 + x.2.1) c)) ∧
    (turn → takesNext s o → t.fn = 7 → o.src = [] → o.dst = [rangeAt (.glob t.a) 16384] → ∀ l m, liesAt (s.rowParts o t.a 16384 .store) l → reach s o.die l →
      (l.map fun p => p.2).sum = 16384 → slot.tile? t.tile = some m → ∃ v u, exec .tileOpComplete s = .next v ∧ tileOverIn v u o ∧
        bytesIn u l = m.read 0 16384 ∧ (∀ a, outside l a → u.homeRead a 1 = s.homeRead a 1) ∧ u.blocks = s.blocks) ∧
    (t.fn = 8 → ∀ bs m, t.bytes = some bs → slot.tile? t.tile = some m → ∃ v u, exec .tileOpComplete s = .next v ∧ tileOverIn v u o ∧
      u = { s with blocks := u.blocks } ∧ (∃ m', (u.slotOf t.block t.j).tile? t.tile = some m' ∧ m'.read 0 bs.length = bs) ∧
      ∀ q, q ≠ t.tile → (u.slotOf t.block t.j).tile? q = slot.tile? q) ∧
    (first → t.fn = 1 → ∃ u : State, exec .tileOpComplete s = .next (u.checkIssuer o) ∧ u = { s with ops := s.ops.filter (fun x => x.id != k), blocks := u.blocks } ∧
      ∀ q, (u.slotOf t.block t.j).tile? q = if q < 32 ∧ t.mask.testBit q then none else slot.tile? q) ∧
    (first → t.fn = 0 → ∃ u v, exec .tileOpComplete s = .next u ∧ claimed slot (u.slotOf t.block t.j) t.mask v ∧ u = { s with ops := u.ops, blocks := u.blocks } ∧
      (∃ y ∈ u.ops, y.id = k ∧ y.phase = .finished [v]) ∧ ((∃ q ∈ tilesOf t.mask, s.heldElsewhere o.die o.core t.block q = true) → v = 1) ∧
      ((∀ q ∈ tilesOf t.mask, s.heldElsewhere o.die o.core t.block q = false) → v = if 16 < ((List.range 32).filter fun q => t.mask.testBit q || (slot.tile? q).isSome).length then 2 else 0))

/-- What the tile engine does by itself beside its steps. -/
def Sys2Proof.Claim.TileCommandsComplete : Prop := Boundaries ∧ SourcesRead ∧ CommandsEnd

/-! The whole machine (spec 01 R19, R20, 09 R190, 17 R315 to R328, 18 R339 to R344). -/

/-- Decode and encode agree for every form of the opcode map, with every field at every value that the form admits (R315 to R323, R339 to R344): what the
encoder writes decodes to the instruction, and the decoder stops where its words end. -/
def Obligations.EncodedFormsDecode : Prop :=
  ∀ (i : Instr) (rest : List Byte), i.WellFormed → i.canonical = true → encode i ≠ [] →
    decodeBytes ((encode i).flatMap bytesOfWord ++ rest) = some (i, rest)

/-- No bit of a word is lost: whatever decodes, well-formed or not, encodes to the words that it was decoded from, and none of it is a step or event of the table. -/
def Obligations.DecodedFormsEncode : Prop :=
  ∀ (bs rest : List Byte) (i : Instr), decodeBytes bs = some (i, rest) → encode i ≠ [] ∧ bs = (encode i).flatMap bytesOfWord ++ rest

/-- The words at a packet of a context whose code pages it has fetched from before, in memory of the fetching die that is not poisoned (R84, R128). -/
def Sys2Proof.Claim.packetAt (s : State) (d : Die) (c : Ctx) (pc : Nat) (w : Nat → Word) : Prop :=
  ∀ j, j < 3 → let a := 4 * (pc / 3 * 3 + j)
    ∃ p, c.codePages.find? (fun x => x.1 = a / 65536) = some p ∧ near s (.far d) (p.2 + a % 65536) 4 ∧ s.homeRead (p.2 + a % 65536) 4 = bytesOfWord (w j)

/-- The bytes of a packet from a slot on. -/
def Sys2Proof.Claim.fromSlot (w : Nat → Word) (slot : Nat) : List Byte := ((List.range 3).drop slot).flatMap fun j => bytesOfWord (w j)

/-- A lane thread whose turn it is, alone in its group, at a unit that stands alone in its chain and that decode lets through: the step is exec of the instruction that
the bytes at its address decode to, with that unit in hand; a unit that does not get through leaves the address, and the group ends with the
votes and the sample of its units, and a note of when it issued (R116 to R118, R240, R325, R328). -/
def Sys2Proof.Claim.LaneStepsDecoded : Prop :=
  ∀ (s : State) (r : ThreadRef) (b : Block) (th : Thread) (sh : Share) (c : Ctx) (w : Nat → Word) (i : Instr) (rest : List Byte) (u : UnitWord),
    s.clocksOn = true → s.issue.rest = [] → s.turn = some (.lane r) → s.block? r.block = some b → b.threads[r.t]? = some th →
    b.shares[b.home r.t]? = some sh → s.ctx? b.ctx = some c → th.pfatal = none → th.status ≠ .ended →
    ({ s.advance with turn := none } : State).group b r.t th = [r.t] →
    let slot := th.pc.toNat % 3
    packetAt s b.die c th.pc.toNat w → decodeBytes (fromSlot w slot) = some (i, rest) → th.pc.toNat + (encode i).length < 2 ^ 48 →
    chainAt slot true (packetUnits (w 0) (w 1) (w 2)) = some [u] → laneChainTrap b.regCount th.inTrap [u] = none →
    popsOf sh r.t th (shape i).queues = (none, false) →
    ∃ (a : State) (e : LaneEnv), LaneHand i a e ∧ e.r = r ∧ e.b = b ∧ e.th = th ∧ a.issue.guard = none ∧ a.issue.latch = none ∧
      (∀ n, a.block? n = s.block? n) ∧
      a = { s with tick := a.tick, cycA := a.cycA, cycB := a.cycB, turn := none, issue := a.issue, blocks := a.blocks } ∧
      step s = groupEnd (noteOutcome (match exec i a with | .next t => .next (t.rewind r th.pc) | o => o))

/-- A lead context whose turn it is, at a lead unit: the step is exec of the instruction that the bytes at its address decode to; a unit that does not get through
leaves the address (R205, R240). -/
def Sys2Proof.Claim.LeadStepsDecoded : Prop :=
  ∀ (s : State) (r : LeadRef) (b : Block) (sh : Share) (c : Ctx) (w : Nat → Word) (i : Instr) (rest : List Byte) (u : UnitWord),
    s.clocksOn = true → s.issue.rest = [] → s.turn = some (.lead r) → s.block? r.block = some b → b.shares[r.j]? = some sh → s.ctx? b.ctx = some c →
    sh.lead.pfatal = none → sh.lead.status ≠ .ended →
    let pc := sh.lead.pc
    let slot := pc.toNat % 3
    packetAt s b.die c pc.toNat w → decodeBytes (fromSlot w slot) = some (i, rest) → (shape i).pipe = .lead → pc.toNat + 2 < 2 ^ 48 →
    chainAt slot true (packetUnits (w 0) (w 1) (w 2)) = some [u] → leadChainTrap [u] = none →
    ∃ (a : State) (e : LeadEnv), LeadHand i a e ∧ e.r = r ∧ e.b = b ∧ e.sh = sh ∧ (∀ n, a.block? n = s.block? n) ∧
      a = { s with tick := a.tick, cycA := a.cycA, cycB := a.cycB, turn := none, issue := a.issue, blocks := a.blocks } ∧
      step s = noteOutcome (match exec i a with
        | .next t => .next (if t.issue.result = .blocked then t.modLead r fun l => { l with pc := pc } else t)
        | o => o)

/-- An event that the free choice of the next step names happens: the step is its exec; so is the oldest input, with what it names; a thread or lead context that is chosen
issues, after the agents that are ready have been noted so (R117). The order of all these is the model's choice (log entry 1). -/
def Sys2Proof.Claim.EventStepsRun : Prop :=
  ∀ (s : State), s.clocksOn = true → s.issue.rest = [] → s.turn = none →
    let u := s.noteReady
    (∀ i a, u.chosen = some (.own i a) → step s = exec i { u.advance with arg := a }) ∧
    (∀ i a l, u.chosen = some .input → s.inbox = (i, a) :: l →
      (encode i = [] → step s = exec i { u.advance with inbox := l, arg := a }) ∧ (encode i ≠ [] → step s = .next { u.advance with inbox := l })) ∧
    (∀ a, u.chosen = some (.issue a) → step s = u.advance.issueAgent a)

/-- A step runs the decoded instruction, or the event that happens. -/
def Obligations.StepRunsDecoded : Prop := LaneStepsDecoded ∧ LeadStepsDecoded ∧ EventStepsRun

/-- A few words of every family, written out from the encoding tables (R317 to R323, R339 to R342), and what they stand for. -/
def Obligations.WrittenWordsDecode : Prop :=
  decodeBytes [0x50, 0x00, 0x05, 0xF4, 0x11, 0x00, 0x00, 0x16] = some (.tmma ⟨1, 0, 20, 0, 0, 22, 0, 0, 0, 0, 0, 0, 0x11⟩, []) ∧
  decodeBytes [0x00, 0x05, 0x00, 0xF8, 0x00, 0x40, 0x00, 0x7C] = some (.leadAdd ⟨1, 10, 0, 0, 496, 2, 0, 0⟩, []) ∧
  decodeUnit 0x820EAAA6 0x00000000 = .add ⟨1, 3, 0x55, 0x2A, 1, 2⟩ ∧
  decodeUnit 0x050515F5 0x00000000 = .addi ⟨0, 0x41, 0x22, 2, 0x1F5⟩ ∧
  decodeUnit 0xA40EAAA6 0x00000000 = .adda ⟨1, 3, 0x55, 0x2A, 1, 2⟩ ∧
  decodeUnit 0x390515F5 0x00000000 = .stl ⟨0, 0x41, 0x22, 2, 0x1F5⟩ ∧
  decodeUnit 0x3A56FFFD 0x00000000 = .bz ⟨0, 0x15, 0x2FFFD⟩ ∧
  decodeUnit 0xDC260000 0x00000000 = .guard ⟨1, 9, 1, 0⟩ ∧
  decodeUnit 0xE0022755 0xAA99A345 = .mulLong ⟨1, 0x13, 0x55, 1, 1, 0x2A, 2, 0x33, 1, 0, 1, 2, 0x45⟩ ∧
  decodeUnit 0xE2132755 0xAA99A345 = .dfma ⟨1, 0x13, 0x55, 1, 1, 0x2A, 2, 0x33, 1, 0, 1, 2, 0x45⟩ ∧
  decodeUnit 0xE4022755 0xAA99A345 = .sqrt ⟨1, 0x13, 0x55, 1, 1, 0x2A, 2, 0x33, 1, 0, 1, 2, 0x45⟩ ∧
  decodeUnit 0xE6022755 0xAA99A345 = .mvmul ⟨1, 0x13, 0x55, 1, 1, 0x2A, 2, 0x33, 1, 0, 1, 2, 0x45⟩ ∧
  decodeUnit 0xE8012755 0xAA99A345 = .rndf ⟨1, 0x13, 0x55, 1, 1, 0x2A, 2, 0x33, 1, 0, 1, 2, 0x45⟩ ∧
  decodeUnit 0xEA002755 0xAA99A345 = .shfl ⟨1, 0x13, 0x55, 1, 1, 0x2A, 2, 0x33, 1, 0, 1, 2, 0x45⟩ ∧
  decodeUnit 0xEC002755 0x60001803 = .bzLong ⟨1, 0x13, 0x55, 1, 0, 1, 0x20001, 0x803⟩ ∧
  decodeUnit 0xEE012755 0xAA9A5801 = .stLong ⟨1, 0x13, 0x55, 1, 1, 0x2A, 2, 1, 2, 0x25, 0x801⟩ ∧
  decodeUnit 0xF0022755 0xAA9A5801 = .mbinit ⟨1, 0x13, 0x55, 1, 1, 0x2A, 2, 1, 2, 0x25, 0x801⟩ ∧
  decodeUnit 0xF2002755 0xAA99A345 = .copy ⟨1, 0x13, 0x55, 1, 1, 0x2A, 2, 0x33, 1, 0, 1, 2, 0x45⟩ ∧
  decodeUnit 0xF4022755 0xAA99A345 = .tshape ⟨1, 0x13, 0x55, 1, 1, 0x2A, 2, 0x33, 1, 0, 1, 2, 0x45⟩ ∧
  decodeUnit 0xF6022755 0x7FFFFFF0 = .swtrap ⟨1, 0x13, 0x55, 1, 0, 0x7FFFFFF0⟩ ∧
  decodeUnit 0xF810F9C5 0x55600001 = .leadAddi ⟨1, 0x1F3, 0x45, 0, 0x155, 0x200001⟩ ∧
  decodeUnit 0xFA00F9C5 0x5C000600 = .bp ⟨1, 0x1F3, 0x45, 0, 5, 1, 0x20003, 0⟩ ∧
  decodeUnit 0xFC15F9C5 0x55555330 = .leadTmma ⟨1, 0x1F3, 0x45, 0, 0x155, 0x0AA, 0x133, 0⟩ ∧
  decodeUnit 0xFE00F9C5 0x55555330 = .leadRdsr ⟨1, 0x1F3, 0x45, 0, 0x155, 0x0AA, 0x133, 0⟩

/-- What a package reset leaves (R11, R17, R20, R32, R61, R74, R77, R305): nothing is ready, every counter and every register with a reset value is zero, no context, no
command, no operation and no block exists; the clocks run. -/
def Sys2Proof.Claim.ResetLeaves : Prop :=
  let s := State.reset
  s.pkg.readyF = 0 ∧ s.pkg.readyC = 0 ∧ (s.govA.held, s.govA.pending, s.govA.longest) = ([], [], 0) ∧ s.govB = s.govA ∧
  (∀ p ∈ s.pkg.ports.toList, p.up = false ∧ p.fecCor = 0 ∧ p.fecUnc = 0 ∧ p.drops = 0) ∧ s.evt.lost = 0 ∧ s.dbg.cfg = 0 ∧ s.dbg.rrStat = 0 ∧
  s.cmdq = [] ∧ s.cmdBusy = none ∧ s.ctxs = [] ∧ s.blocks = [] ∧ s.ops = [] ∧ s.mem = [] ∧ s.clocksOn = true

/-- Nothing is refused, and every instruction and event answers a next state; a step stops only where both dies' clocks have stopped and the management service has
nothing to do (R19, R235: every cause has its trap). -/
def Obligations.EveryFormRuns : Prop :=
  (∀ i s, ∃ t, exec i s = .next t) ∧
  ∀ s, (∀ f, step s = .fault f → f = .clocksStopped ∧ s.clocksOn = false ∧ s.inbox = [] ∧ s.fw.nonces = []) ∧ ∀ f, step s ≠ .refused f

/-- The canonical form of memory stays (the model's own form, log entry 3): strictly rising addresses and no byte listed that an unlisted address reads as, whatever step is taken. -/
def Obligations.MemoryStaysCanonical : Prop := ∀ s t : State, s.mem.wf = true → step s = .next t → t.mem.wf = true

/-- A package whose clocks have stopped, with its firmware bit clear and no package reset among its inputs (R19). -/
def Sys2Proof.Claim.stopped (s : State) : Prop :=
  s.clocksOn = false ∧ s.pkg.readyF.getLsbD 1 = false ∧ ∀ x ∈ s.inbox, x.1 ≠ .packageReset

/-- After a thermal trip only a package reset brings anything about (R19, R22): every step keeps the clocks stopped, and neither time, memory, contexts, blocks, operations,
accesses nor commands change; only the management service answers; a package reset starts the clocks again. -/
def Obligations.StoppedUntilReset : Prop :=
  (∀ s t : State, stopped s → step s = .next t → stopped t ∧ t.pkg.readyF = s.pkg.readyF ∧ t.pkg.readyC = s.pkg.readyC ∧
    t = { s with
          tick := t.tick, inbox := t.inbox, arg := t.arg, out := t.out, pkg := t.pkg, fw := t.fw, govA := t.govA, govB := t.govB, evt := t.evt, dbg := t.dbg }) ∧
  (∀ s : State, stopped s → s.inbox = [] → s.fw.nonces = [] → step s = .fault .clocksStopped) ∧
  ∀ (s : State) (a : Arg) (l : List (Instr × Arg)), s.clocksOn = false → s.inbox = (.packageReset, a) :: l →
    ∃ t, step s = .next t ∧ t.clocksOn = true ∧ t.pkg.readyF = 0 ∧ t.blocks = [] ∧ t.ctxs = [] ∧ t.inbox = l

/-- The state after reset has its memory in canonical form. -/
def Sys2Proof.Claim.ResetIsCanonical : Prop := State.reset.mem.wf = true ∧ State.reset.clocksOn = true


/-! Where the forms and the events of the table complete: conditions on the state and the operands alone, and the effect of its own that the rules give. -/

/-- An instruction or event answers a next state of which something holds. -/
def Sys2Proof.Claim.Completes (i : Instr) (s : State) (p : State → Prop) : Prop := ∃ t, exec i s = .next t ∧ p t

/-- A thread whose cross-lane wait is over, with what every position of its gang brought, writes these words and goes on at the next unit. -/
def Sys2Proof.Claim.Concludes (i : Instr) (ms : List Member) (p mask absent : Nat) (ws : List Word) : Prop :=
  ∀ s e, LaneHand i s e → e.th.status = .wait (.xlane (some (xResult i ms p mask absent))) → Completes i s fun t => LaneWrote i s t e ws

/-- Every cross-lane form ends its wait with its result (R399 to R405). -/
def Obligations.CrossLaneCompletes : Prop :=
  ∀ (ms : List Member) (p mask absent : Nat) (own : List (List Word)), ms.length ≤ 64 → ms.getD p none = some own →
    let first (m : List (List Word)) : Word := (m.getD 0 []).getD 0 0
    let b : Nat := ((own.getD 1 []).getD 0 0).toNat
    let brought (n : Nat) : List Word := (ms.take n).filterMap fun m => m.map first
    (∀ f : X3,
      let w64 := f.mode.getLsbD 5
      let st := f.mode.getLsbD 6
      let op := f.mode.toNat % 16
      let src := sourceOf (f.mode.toNat % 4) p b
      Concludes (.shfl f) ms p mask absent (laid st w64
        (if 0 ≤ src ∧ src < ms.length ∧ mask.testBit src.toNat then readAt ms w64 src.toNat else valueA w64 own) absent) ∧
      (b < ms.length → mask.testBit b = true → Concludes (.bcast f) ms p mask absent (laid st w64 (readAt ms w64 b) absent)) ∧
      (∃ r, Concludes (.vote f) ms p mask absent (laid st true r absent) ∧
        (f.mode.toNat % 4 = 0 → r < 2 ∧ (r = 1 ↔ ∃ q m, ms.getD q none = some m ∧ first m ≠ 0)) ∧
        (f.mode.toNat % 4 = 1 → r < 2 ∧ (r = 1 ↔ ∀ q m, ms.getD q none = some m → first m ≠ 0)) ∧
        (f.mode.toNat % 4 = 2 → ∀ q, r.testBit q = true ↔ ∃ m, ms.getD q none = some m ∧ first m ≠ 0)) ∧
      (∃ r, Concludes (.matchOp f) ms p mask absent (laid st true r absent) ∧
        ∀ q, r.testBit q = true ↔ ∃ m, ms.getD q none = some m ∧ valueA w64 m = valueA w64 own) ∧
      (∃ l, (∃ m, ms.getD l none = some m) ∧ (∀ q, q < l → ms.getD q none = none) ∧
        Concludes (.elect f) ms p mask absent (laid st false ((if l = p then 1 else 0) + 2 ^ 8 * l) absent)) ∧
      (∃ r : Word, Concludes (.red f) ms p mask absent (laid st false r.toNat absent) ∧ Reduces op (brought ms.length) r) ∧
      ∃ r : Word, Concludes (.scan f) ms p mask absent (laid st false r.toNat absent) ∧
        Reduces op (brought (if f.mode.getLsbD 4 then p + 1 else p)) r) ∧
    ∀ f : ShortR, Concludes (.swz f) ms p mask absent [BitVec.ofNat 32 (readAt ms false (p / 4 * 4 + b / 2 ^ (2 * (p % 4)) % 4))]

/-- The management service and its requests (R20, R25 to R27): a package reset, a unit's self-test, the check of the firmware, a new image, a raised version, an
extended slot, a request and its report. -/
def Obligations.ServiceCompletes : Prop :=
  ∀ s : State,
    let mgmt := s.pkg.readyF.getLsbD 0 = true
    let fw := s.pkg.readyF.getLsbD 1 = true
    let me : Die × BitVec 8 := (.a, 0xFE)
    Completes .packageReset s (fun t => t.pkg.readyF = 0 ∧ t.pkg.readyC = 0 ∧ t.ctxs = [] ∧ t.blocks = [] ∧ t.ops = [] ∧ t.clocksOn = true) ∧
    (∀ d u, s.arg = .unit d u true → hasTest u = true → unitKey d u ∉ s.pkg.passed → unitKey d u ∉ s.pkg.failed →
      Completes .unitSelfTestDone s fun t => t.pkg.passed = s.pkg.passed ++ [unitKey d u] ∧ t = { s with pkg := t.pkg }) ∧
    (¬fw → me ∈ s.pkg.passed → me ∉ s.pkg.failed → Completes .firmwareVerify s fun t =>
      t.fw.slots[1] = BitVec.ofNat 512 (little (shake256 s.fw.image)) ∧ t.pkg.readyF.getLsbD 0 = true ∧ t = { s with fw := t.fw, pkg := t.pkg }) ∧
    (∀ image sig version, s.arg = .firmware image sig version → mgmt → Completes .firmwareUpdate s fun t => t.fw.staged = some (image, sig, version)) ∧
    (∀ v sig, s.arg = .raise v sig → mgmt → fw → s.fw.fused < v → Completes .securityVersionRaise s fun t =>
      t.fw.fused = if Config.raiseValid v sig then v else s.fw.fused) ∧
    (∀ j data, s.arg = .extend j data → mgmt → fw → 3 ≤ j → ∀ h : j < 8, Completes .measurementExtend s fun t =>
      t.fw.slots[j] = BitVec.ofNat 512 (little (shake256 (bytesOf 64 (s.fw.slots[j]).toNat ++ shake256 data)))) ∧
    (∀ n, s.arg = .nonce n → mgmt → s.fw.nonces.length < 5 → Completes .attestationRequest s fun t => t.fw.nonces = s.fw.nonces ++ [n]) ∧
    ∀ n rest, s.fw.nonces = n :: rest → mgmt → Completes .attestationReport s fun t => t.fw.nonces = rest ∧
      ∃ v sig, t.out = s.out ++ [.report n s.pkg.devnum 0x04B0 v s.fw.slots.toList sig]

/-- What happens to the package, its ports and its memory (R11, R13, R15, R18, R28, R32 to R34, R142). -/
def Obligations.HardwareEventsComplete : Prop :=
  ∀ s : State,
    (∀ d, s.arg = .die d → Completes .memEccCorrected s fun t =>
      t.pkg = match d with | .a => { s.pkg with eccA := s.pkg.eccA + 1 } | .b => { s.pkg with eccB := s.pkg.eccB + 1 }) ∧
    (∀ pa d, s.arg = .num pa → homeOf pa = .hbm d ∨ homeOf pa = .tier2 d → Completes .memEccUncorrectable s fun t => pa / 128 * 128 ∈ t.poison) ∧
    (∀ d, s.arg = .soft (.corrected d) → Completes .sramSoftError s fun t =>
      t.pkg = match d with | .a => { s.pkg with softA := s.pkg.softA + 1 } | .b => { s.pkg with softB := s.pkg.softB + 1 }) ∧
    (∀ n d, s.arg = .charge n d 0xFF → (s.ctx? n).isSome = true → Completes .internalTimeout s fun t => ∀ b ∈ t.blocks, b.ctx ≠ n) ∧
    (s.pkg.readyF.getLsbD 2 = true → Completes .d2dFlitRetry s fun t => 1 ≤ t.pkg.flitRetries ∧ t = { s with pkg := { s.pkg with flitRetries := t.pkg.flitRetries } }) ∧
    (s.pkg.readyF.getLsbD 2 = true → 16 ≤ s.pkg.flitRetries → Completes .d2dLost s fun t => t.pkg.readyF.getLsbD 2 = false) ∧
    (∀ c, s.arg = .coolant c → 150 ≤ c.inlet → ¬tripped c → ¬warned c → s.pkg.thermal ≠ 2 → Completes .coolingSample s fun t => t.pkg.thermal = 0) ∧
    (∀ d c at_, s.arg = .die d → (s.gov d).grants < 4 → nextRequest (s.gov d).pending = some (c, at_) → c ≠ .coll → Completes .leaveGrant s fun t =>
      (t.gov d).held = (s.gov d).held ++ [c] ∧ (t.gov d).pending = (s.gov d).pending.erase (c, at_)) ∧
    (∀ d k, s.arg = .core d k → (∃ e ∈ (s.gov d).idle, e.1 = k ∧ e.2 + 256 ≤ s.cycle d) → Requester.tile k ∈ (s.gov d).held → Completes .tileLeaveRelease s fun t =>
      (t.gov d).held = (s.gov d).held.erase (.tile k)) ∧
    (∀ p (h : p < 16), let x := s.pkg.ports[p]
      let dropped : Port := { x with drops := if x.drops = 0xFFFF then x.drops else x.drops + 1 }
      let up := s.pkg.readyF.getLsbD (48 + p) = true ∧ x.up = true
      (∀ an llr, s.arg = .portUp p an llr → Completes .portLinkUp s fun t => t.pkg.ports[p] = { x with up := true, an := an, llr := llr }) ∧
      (s.arg = .num p → (∀ o ∈ s.ops, o.towards = none) → Completes .portLinkDown s fun t => t.pkg.ports[p] = { x with up := false, an := false, llr := false }) ∧
      (s.arg = .num p → up → Completes .malformedFrame s fun t => t.pkg.ports[p] = dropped) ∧
      (∀ src, s.arg = .request p src → up → Completes .uetUnsupportedRequest s fun t => t.pkg.ports[p] = dropped ∧ t.out = s.out ++ [.nak src 2]) ∧
      (s.arg = .codeword p true → Completes .fecCodeword s fun t => t.pkg.ports[p] = { x with fecCor := if x.fecCor = 0xFFFFFF then x.fecCor else x.fecCor + 1 })) ∧
    ∀ (m : Nat) (h : HotCtl), s.arg = .num m → s.hot[m]? = some h → h.len ≠ 0 → h.start + h.len ≤ (if m < 4 ∨ m = 8 then s.cycA else s.cycB).toNat →
      s.ctx? 0 = none → Completes .hotPageInterval s fun t => ∃ x, t.hot[m]? = some x ∧ x.sketch = [] ∧ x.cand = [] ∧ x.start = h.start + h.len

/-- Accesses of the host's window (R61, R68, R74, R76, R77, R305, R308, R309, R313): a register, a counter, a threshold and a kick take what the host writes, a read gives the
value, a stop begins and ends. -/
def Obligations.WindowCompletes : Prop :=
  ∀ s : State,
    let up := s.readyBit bitMgmt = true ∧ s.readyBit bitFw = true
    let n := s.dbg.cfg.toNat % 2 ^ 10
    (∀ w, s.arg = .window w → up → w.off = 0x110 → w.len = 8 → Completes .registerWrite s fun t => t = { s with pkg := { s.pkg with colltmo := BitVec.ofNat 64 w.val } }) ∧
    (∀ d, s.arg = .die d → Completes .govstatRead s fun t => ∃ v, t.out = s.out ++ [.value v] ∧ v.toNat / 2 ^ 16 % 2 ^ 8 = s.pkg.thermal.toNat ∧ (t.gov d).longest = 0) ∧
    (∀ k (h : k < 16), s.arg = .num k → Completes .portstatRead s fun t => t.pkg.ports[k].drops = 0 ∧
      ∃ v, t.out = s.out ++ [.value v] ∧ v.toNat / 2 ^ 48 = s.pkg.ports[k].drops.toNat) ∧
    (Completes .wdiscardRead s fun t => t.pkg.wdiscard = 0 ∧ t.out = s.out ++ [.value s.pkg.wdiscard]) ∧
    (Completes .evtlostRead s fun t => t.evt.lost = 0 ∧ t.out = s.out ++ [.value s.evt.lost]) ∧
    (s.live n = true → Completes .samplostRead s fun t => t.dbg.sampLost = 0 ∧ t.out = s.out ++ [.value s.dbg.sampLost]) ∧
    (∀ v, s.arg = .dword v → up →
      (s.evt.held = [] → (Completes .evtheadWrite s fun t => t = { s with evt := { s.evt with head := v.setWidth 32 } }) ∧
        Completes .evtcfgWrite s fun t => t = { s with evt := { s.evt with cfg := v &&& 0x11F } }) ∧
      (s.live n = true → (Completes .accheadWrite s fun t => t.dbg.accHead = v) ∧
        (Completes .dbgstop s fun t => t.blocks.length = s.blocks.length ∧ ∀ (i : Nat) (b : Block), s.blocks[i]? = some b → b.ctx = n → b.resident = true → b.stop = none →
          v.getLsbD 63 = true → s.dbg.seq.toNat % 2 ^ 32 = 0xFFFFFFFF → ∃ x, t.blocks[i]? = some { b with stop := some x } ∧ x.reason = 1) ∧
        Completes .dbgresume s fun t => t.blocks.length = s.blocks.length ∧ ∀ (i : Nat) (b : Block), s.blocks[i]? = some b → b.ctx = n →
          ∃ b', t.blocks[i]? = some b' ∧ b'.stop = none ∧ b'.id = b.id)) ∧
    (∀ k x c, s.arg = .kick k x → k < 1024 → up → s.ctx? k = some c → c.stat = 1 → s.readyBit (bitGc c.home) = true → (BitVec.ofNat 32 (x.toNat / 2 ^ 32) - c.e).toNat < 16 →
      c.kicks = [] → Completes .kick s fun t => t.ctx? k = some { c with kicks := [x] }) ∧
    ∀ k j v c, s.arg = .fp k j v → k < 1024 → j < 36 → up → s.ctx? k = some c → (∀ i : Nat, c.fpThresh.toList[i]?.getD 0 = 0) →
      (Completes .fpcountWrite s fun t => t.ctx? k = some { c with fpCount := c.fpCount.set! j v }) ∧
      ((c.fpCount.toList[j]?.getD 0).toNat < v.toNat → Completes .fpthreshWrite s fun t => t.ctx? k = some { c with fpThresh := c.fpThresh.set! j v })

/-- What the network brings and takes (R33, R36, R37, R42, R48, R54 to R58): packets that may land do, the ends of sends, and the steps of collectives. -/
def Obligations.NetworkCompletes : Prop :=
  ∀ s : State,
    (∀ (p : RmaWrite) r pa c, s.arg = .rmaWrite p → p.port < 16 → s.portUp p.port = true → p.key.toNat / 64 ≠ 0x3FFFFFF → inOrder s (.write p) → keyNames s p.key r → s.msgs = [] →
      p.at_ + p.data.length ≤ p.total → p.off + p.total ≤ r.len → landsAt s p.port r (r.base + (p.off + p.at_)) p.data.length 1 .store pa → s.counter? r.die r.ctr = some c →
      noSends s r.die r.ctr → c.val.toNat + p.data.length < 2 ^ 32 → Completes .incomingRmaWrite s fun t => t.out = s.out ++ [.reply p.src []] ∧
        ∀ k (h : k < p.data.length), t.homeRead (pa + k) 1 = [p.data[k]]) ∧
    (∀ (p : RmaRead) r pa, s.arg = .rmaRead p → p.port < 16 → s.portUp p.port = true → p.key.toNat / 64 ≠ 0x3FFFFFF → inOrder s (.read p) → keyNames s p.key r →
      p.off + p.len ≤ r.len → landsAt s p.port r (r.base + p.off) p.len 2 .load pa → Completes .incomingRmaRead s fun t =>
        ∃ l, answers p.src (s.homeRead pa p.len) l ∧ t.out = s.out ++ l) ∧
    (∀ (p : RmaAtomic) r pa, s.arg = .rmaAtomic p → p.port < 16 → s.portUp p.port = true → p.key.toNat / 64 ≠ 0x3FFFFFF → inOrder s (.atomic p) → keyNames s p.key r →
      p.off + 8 ≤ r.len → (r.base + p.off) % 8 = 0 → landsAt s p.port r (r.base + p.off) 8 1 .both pa → p.cas = false → Completes .incomingFetchAtomic s fun t =>
        t.out = s.out ++ [.reply p.src (s.homeRead pa 8)] ∧ little (t.homeRead pa 8) = (little (s.homeRead pa 8) + p.val.toNat) % 2 ^ 64) ∧
    (∀ (p : HeldPkt) u a, s.arg = .num 0 → s.heldPkts[0]? = some p → p.from_.1 < 16 → ({ s with heldPkts := s.heldPkts.eraseIdx 0 } : State).landPkt p = .taken u a →
      Completes .heldLandingRelease s fun t => ∃ l, answers p.from_.2 a l ∧ t = { u with holds := t.holds, out := u.out ++ l }) ∧
    (∀ (id : Nat) (o : Op) (x : Tsend), s.arg = .num id → s.op? id = some o → o.work = .tsend x → o.phase = .registered → x.sent ≠ 0 → x.device ≠ s.pkg.devnum.toNat →
      s.issuerHeld o = false →
      Completes .uetAck s (fun t => t = s.finishOp o 0) ∧ Completes .uetNak s (fun t => t = s.finishOp o 0x25) ∧
      Completes .uetRetransmit s (fun t => t = { s with out := s.out ++ [.again id] }) ∧
      (x.sent - 1 + 400000000 ≤ s.cycle o.die → Completes .peerLostTimeout s fun t => t = s.finishOp o 0x20)) ∧
    (∀ (id : Nat) (o : Op) (c : Coll), s.op? id = some o → o.work = .coll c → o.phase = .registered → s.issuerHeld o = false → s.opPages o = .ready → (s.opMeets o).1 = .none →
      (∀ p d, s.arg = .coll p id c.head d → s.portUp p = true → c.begun = false → Completes .collectiveData s fun t =>
        ∃ z ∈ t.ops, z.id = id ∧ z.work = .coll { c with inq := c.inq ++ [d] }) ∧
      (s.arg = .num id → c.begun = true → c.phaseOver = false → s.pkg.colltmo ≠ 0 → c.waitFrom + s.pkg.colltmo.toNat < s.cycle o.die →
        Completes .collectivePhaseTimeout s fun t => ∀ z ∈ t.ops, z.id ≠ id) ∧
      (s.arg = .num id → c.leave = true → c.begun = true → c.phaseOver = true → c.sent = none → c.nextPhase = none → Completes .collectiveComplete s fun t => ∀ z ∈ t.ops, z.id ≠ id)) ∧
    ∀ (p : HeldPkt) (port src : Nat), s.arg = .bridge p → p.from_ = (port, src) → port < 16 → s.portUp port = true →
      let e := s.pkg.bridge.toList.getD (p.key.toNat % 64) 0
      let d := e.toNat % 2 ^ 21
      let side : Die := if port < 8 then .a else .b
      e.getLsbD 21 = true → d ≠ s.pkg.devnum.toNat → (∃ k, carries s side d k) → Completes .bridgeForward s fun t => ∃ v, leaves s side d 1 v ∧ t.out = s.out ++ [.bridge v d p]

/-- The commands (R78 to R82): each that is in hand, with its reserved bits zero and what its rule asks, takes effect and ends, or goes on to its end. -/
def Obligations.CommandsComplete : Prop :=
  (∀ (s : State) op c, s.arg = .badCmd op c → op = 0 ∨ 8 < op.toNat → s.readyBit bitMgmt = true → s.readyBit bitFw = true → s.cmdq.length < 16 →
    Completes .cmdUnassignedOp s fun t => t = { s with cmdq := s.cmdq ++ [⟨op, c⟩] }) ∧
  (∀ (s : State) (q : QCmd), isFor .ctxCreate q → inHand s q → s.ctx? q.c.ctx.toNat = none → q.c.rsv = 0 → q.c.ctx.toNat < 1024 → unassignedClear q →
    (let quota := q.c.w3.toNat / 8 % 2 ^ 13
     1 ≤ quota ∧ quota ≤ 4096) → q.c.w1.toNat % 64 = 0 → s.meets .a none q.c.w1.toNat 64 true = .none → rootLegal (natOf (s.homeRead q.c.w1.toNat 64)) →
    Completes .ctxCreate s fun t => t.cmdBusy = none ∧ ∃ c, t.ctx? q.c.ctx.toNat = some c ∧ c.stat = 1 ∧ c.root = q.c.w1.toNat ∧ c.e = 1 ∧ c.graphs = []) ∧
  ∀ (s : State) (q : QCmd) (c : Ctx), q.c.rsv = 0 → s.ctx? q.c.ctx.toNat = some c →
    let n := q.c.ctx.toNat
    (inHand s q → unassignedClear q →
      (isFor .ctxDestroy q → c.stat ≠ 3 → Completes .ctxDestroy s fun t => t.cmdBusy = some q ∧ (∃ x, t.ctx? n = some x ∧ x.stat = 3 ∧ x.kicks = []) ∧ ∀ b ∈ t.blocks, b.ctx ≠ n) ∧
      (isFor .ctxPartition q → c.stat = 1 → (∀ i, i < 256 → asks q i → sharers s n i = []) → Completes .ctxPartition s fun t =>
        ∃ x, t.ctx? n = some x ∧ x.cores = q.c.w4 ++ q.c.w3 ++ q.c.w2 ++ q.c.w1 ∧ x.pmode = q.c.w6.getLsbD 0) ∧
      (∀ g codes, isFor .graphRegister q → q.c.w1.toNat % 64 = 0 → (∀ x ∈ c.graphs, x.handle ≠ q.c.w2.toNat) →
        (running s q).graphCheck (.cmd n) c q.c.w1.toNat q.c.w2.toNat = .ok g codes → Completes .graphRegister s fun t => t.cmdBusy = none ∧
          ∃ x, t.ctx? n = some x ∧ x.graphs = c.graphs ++ [g]) ∧
      (isFor .graphRelease q → (∃ g ∈ c.graphs, g.handle = q.c.w1.toNat) → (∀ r ∈ s.replays, ¬(r.ctx = n ∧ r.handle = q.c.w1.toNat)) → Completes .graphRelease s fun t =>
        ∃ x, t.ctx? n = some x ∧ ∀ g, g ∈ x.graphs ↔ g ∈ c.graphs ∧ g.handle ≠ q.c.w1.toNat) ∧
      (isFor .ctxLimits q → 1 ≤ q.c.w1.toNat / 4 → q.c.w1.toNat / 4 ≤ 4096 → Completes .ctxLimits s fun t =>
        t.ctx? n = some { c with classMax := q.c.w1.toNat % 4, poolQ := q.c.w1.toNat / 4 }) ∧
      (let d := (regionOf q).1
       let k := (regionOf q).2
       (∀ r ∈ s.regions, ¬(r.die = d ∧ r.idx = k ∧ r.ctx ≠ n)) →
       (isFor .regionSet q → q.c.w2.toNat % 64 = 0 → 64 ≤ q.c.w3.toNat → q.c.w3.toNat ≤ 2 ^ 40 → q.c.w3.toNat % 64 = 0 → q.c.w4.toNat / 2 ^ 14 ≤ 2 →
         (∃ x ∈ s.counters, x.die = d ∧ x.idx = q.c.w4.toNat % 2 ^ 13 ∧ x.ctx = n) → Completes .regionSet s fun t =>
           ∃ r ∈ t.regions, r = ⟨d, k, n, q.c.w2.toNat, q.c.w3.toNat, q.c.w4.toNat % 2 ^ 13, q.c.w4.toNat / 2 ^ 14⟩) ∧
       (isFor .regionFree q → Completes .regionFree s fun t => ∀ r ∈ t.regions, (r.die, r.idx) ≠ (d, k))) ∧
      (let d := (counterOf q).1
       let k := (counterOf q).2
       (isFor .counterSetAssign q → s.counter? d k = none → Completes .counterSetAssign s fun t => t.counters = s.counters ++ [⟨d, k, n, 0, .none⟩]) ∧
       (∀ x, s.counter? d k = some x → x.ctx = n →
         (isFor .counterSetRelease q → (∀ r ∈ s.regions, ¬(r.die = d ∧ r.ctr = k)) → Completes .counterSetRelease s fun t => ∀ y ∈ t.counters, (y.die, y.idx) ≠ (d, k)) ∧
         (isFor .counterSetValue q → q.c.w1.toNat / 2 ^ 14 = 2 → noSends s d k → Completes .counterSetValue s fun t =>
           t.counter? d k = some { x with val := q.c.w2.setWidth 32, rel := .none })))) ∧
    (s.cmdBusy = some q →
      (q.op = 2 → c.stat = 3 → NothingLeft s n → s.replays = [] → Completes .ctxDestroyDone s fun t => t.cmdBusy = none ∧ t.ctx? n = none) ∧
      (q.op = 3 → c.stat = 2 → ¬strays s n c.cores → Completes .ctxPartitionDone s fun t => t.cmdBusy = none ∧ t.ctx? n = some { c with stat := 1 }))

/-- Kicks, replays, nodes and blocks (R68 to R73, R99 to R105): a kick is taken, its table read again, its replay begun; a node enters its pool, ages, is dispatched, is
passed over, has its block placed, tells the host, and completes. -/
def Obligations.ReplaysComplete : Prop :=
  (∀ (s : State) (n : Nat) (c : Ctx), s.arg = .num n → s.ctx? n = some c →
    (∀ k, c.taking = none → c.kicks.find? (fun k => BitVec.ofNat 32 (BitVec.toNat k / 2 ^ 32) = c.e) = some k → kickLegal c k → tableReached s c k → Completes .kickTake s fun t =>
      ∃ x, t.ctx? n = some x ∧ x.e = c.e + 1 ∧ x.kicks = c.kicks.erase k) ∧
    (∀ x bs, c.taking = some x → x.step = 4 → x.start + 8000 * (x.rereads + 1) ≤ s.cycle c.home → tableReached s c x.kick → tablePresent s c x.kick →
      patchTable s c x.kick = some bs → ¬agrees x.kick bs → x.rereads < 15 → Completes .kickReread s fun t => WaitsAt s t n c x.kick 4 (x.rereads + 1) []) ∧
    ∀ x g, c.taking = some x → x.step = 6 → c.graphs.find? (fun g => g.handle = x.kick.toNat % 2 ^ 32) = some g → x.kick.toNat / 2 ^ 160 % 2 ^ 13 = 0 → s.replays = [] →
      (∀ gn ∈ g.nodes, gn.npred = 0 → dieFound s c g gn) → Completes .replayStart s fun t => t.ctx? n = some { c with taking := none } ∧
        ∃ r, t.replays = [r] ∧ r.ctx = n ∧ r.handle = g.handle ∧ r.seq = BitVec.ofNat 32 (x.kick.toNat / 2 ^ 32)) ∧
  (∀ (s : State) (n : NodeRef) (r : Replay) (x : RNode) (c : Ctx) (g : Graph) (gn : GNode), s.arg = .node n → s.replay? n.ctx n.seq = some r → r.nodes[n.node]? = some x →
    r.nodes.map RNode.idx = List.range r.nodes.length → s.ctx? n.ctx = some c → c.graphs.find? (fun g => g.handle = r.handle) = some g → g.nodes[n.node]? = some gn → gn.kind ≤ 4 →
    r.nodes.length = g.nodes.length → (∀ j z, j ∈ gn.succs → g.nodes[j]? = some z → dieFound s c g z) → n.node ∉ gn.succs →
    completesOk s n x gn.kind ∨ completesFailed s n x → ¬restOver r n.node → Completes .nodeComplete s fun t => t.node? n = some { x with phase := .done }) ∧
  (∀ (s : State) (n : NodeRef) (x : RNode) (c : Ctx) (g : Graph) (gn : GNode), s.arg = .node n → s.node? n = some x → s.gnode? n = some (c, g, gn) → gn.kind = 3 → x.phase = .running →
    x.op = none → x.status = none → ¬notifiesBefore s x → s.evt.held = [] → takes s → Completes .hostNotify s fun t => t.evt.tail = s.evt.tail + 1 ∧
      t.node? n = some { x with op := some s.evt.eseq.toNat }) ∧
  (∀ (s : State) (d : Die) r x c g gn, s.arg = .die d → mayEnterPool s d r x → (∀ r' x', mayEnterPool s d r' x' → (r', x') = (r, x) ∨ x.order < x'.order) →
    s.node? ⟨r.ctx, r.seq, x.idx⟩ = some x → s.gnode? ⟨r.ctx, r.seq, x.idx⟩ = some (c, g, gn) → handsOver s c d → Completes .poolEntry s fun t =>
      t.node? ⟨r.ctx, r.seq, x.idx⟩ = some { x with phase := .pool, entered := s.cycle d, cls := min gn.cls c.classMax }) ∧
  (∀ (s : State) (n : NodeRef) (x : RNode) (c : Ctx), s.arg = .node n → s.node? n = some x → s.ctx? n.ctx = some c → x.phase = .pool → x.entered + 200000 ≤ s.cycle x.die →
    x.cls < c.classMax → Completes .nodeAging s fun t => t.node? n = some { x with cls := x.cls + 1, entered := x.entered + 200000 }) ∧
  (∀ (s : State) (n : NodeRef) (y : RNode) (c : Ctx) (g : Graph) (x : GNode) es, Stands s n y c g x → x.kind = 3 → s.pkg.readyF.getLsbD 0 = true → s.translate n y.die c g x = .ok es →
    Completes .nodeDispatch s fun t => t.node? n = some { y with phase := .running, exts := es, translated := true, order := s.nextId }) ∧
  (∀ (s : State) (n : NodeRef) (r : Replay) (y : RNode), s.arg = .node n → s.node? n = some y → s.replay? n.ctx n.seq = some r → s.fitsNow (r, y) = false → y.phase = .pool →
    y.translated = true → y.status = none → y.nextBlock < y.blocks → y.passed = none → Completes .kernelPassedOver s fun t => t.node? n = some { y with passed := some (s.cycle y.die) }) ∧
  ∀ (s : State) (n : NodeRef) (y : RNode) (c : Ctx) (g : Graph) (x : GNode) (o : Code) (m l i : Nat), Places s n y c g x o → x.die ≠ 3 → o.launch.cohold = false →
    Shaped o.launch c.pmode 1 m l → coreThreads o.launch.regs c.pmode ≠ 0 → l ≤ (if c.pmode then 131072 else 262144) → s.dbg.stops = [] →
    takesShare s c y.die m ((o.launch.regs + 1) * 16) l i → (∀ z, z < i → ¬takesShare s c y.die m ((o.launch.regs + 1) * 16) l z) → x.b1.toNat / 2 ^ 16 % 2 ^ 16 = 0 →
    Completes .blockPlace s fun t => ∃ b, t.blocks = s.blocks ++ [b] ∧ b.ctx = n.ctx ∧ b.seq = n.seq ∧ b.node = n.node ∧ b.b = y.nextBlock ∧ b.die = y.die ∧
      b.shares.map Share.core = [i] ∧ b.threads.length = 2 ^ o.launch.width 0

/-- The engines (R122, R145, R160, R182, R184, R257, R287, R292 to R301): a batch forms, a catalogue operation answers, an operation registers, a copy and its follow-on end, a corner
turns, the sampler answers, and the tile engine steps. -/
def Obligations.EnginesComplete : Prop :=
  (∀ (s : State) (d : Die) (ch : Nat) (c : Channel), s.arg = .channel d ch → s.readyBit (bitBfq d) = true → s.channel? d ch = some c →
    (∃ e ∈ c.entries, e.batch = none ∧ e.cycle < s.cycle d ∧ e.cycle + c.age ≤ s.cycle d) → c.formed ≠ some (s.cycle d) → Completes .batchForm s fun t =>
      ∃ x l, t.channel? d ch = some x ∧ x.batches = c.batches ++ [l] ∧ x.nextBatch = c.nextBatch + 1 ∧ x.formed = some (s.cycle d)) ∧
  ∀ (s : State) (k : Nat) (o : Op), s.arg = .num k → s.op? k = some o →
    (∀ (c : CatCmd) (x : Ctx) (a : Agent) l, o.work = .cat c → o.issuer = .agent a → s.ctx? o.ctx = some x → s.ops = [o] → o.phase = .registered → c.fn = 0 → c.take = false →
      (s.catMeets x ((s.catAddrs x c.key).getD [])).1 = .none → (s.catAddrs x c.key).bind s.catSlots = some l → (∀ e ∈ l, e.valid = false) → Completes .catalogueOp s fun t =>
        ∃ ws, catWordsOf 0 1 0 ws ∧ t.ops.map Op.phase = [.finished ws]) ∧
    (o.phase = .waiting → s.opUnit o = .ready → s.underLimit o = true → s.entryFree o = true → s.rangesFree o = true → o.engine = none → o.accepted = false → (∀ x, o.work ≠ .tsend x) →
      (∀ x, o.work = .tile x → x.fn ≠ 0) → Completes .rangeRegistration s fun t => t.ops = (s.ops.filter fun x => x.id != k) ++ [registered s o]) ∧
    (∀ x y n e l m bs, o.work = .copy x y n none → o.src = [rangeAt x n] → o.dst = [rangeAt y n] → o.phase = .registered → o.engine = some e → s.ops = [o] → s.issuerHeld o = false →
      n ≤ 1048576 → spansHit o.lockSrc o.lockDst = false → placeAt s o x n .load l → placeAt s o y n .store m → placeHas s x n l bs → bs.length = n → (∃ old, placeHas s y n m old) →
      (∀ va, y = .glob va → (m.map fun p => p.2).sum = n) → Completes .copyComplete s fun t => ∃ u, placeHas u y n m bs ∧ overIn t u o 0) ∧
    (∀ x n la f b id who, o.work = .copy x (.loc id la) n (some f) → o.phase = .running → s.block? id = some b → o.issuer = .agent who →
      (s.slotOf b.id (la / 2 ^ 18)).sh.toList.getD f.sh none = none → Completes .followOnEntry s fun t => t = s.finishOp o 0x41) ∧
    (∀ (m : Stash) (a : Agent), o.work = .stash m → o.phase = .registered → o.issuer = .agent a → o.src = [] → o.dst = [⟨.glob m.a, 64, 128, m.pa⟩, ⟨.glob m.b, 64, 128, m.pb⟩] →
      s.ops = [o] →
      (m.rows = none → Completes .sttStageLoaded s fun t => ∃ bs, t.ops = [{ o with work := .stash { m with rows := some bs } }] ∧ bs.length = 8192) ∧
      ∀ bs (p q : Nat → Nat), m.rows = some bs → s.issuerHeld o = false → bs.length = 8192 →
        (∀ i, i < 64 → liesAt (s.rowParts o (m.a + i * m.pa) 128 .store) [(p i, 128)] ∧ liesAt (s.rowParts o (m.b + i * m.pb) 128 .store) [(q i, 128)]) →
        reach s o.die ((List.range 64).map (fun i => (p i, 128)) ++ (List.range 64).map fun i => (q i, 128)) → Completes .stashComplete s fun t => ∃ u, overIn t u o 0 ∧
          ∀ i j, i < 64 → j < 64 → u.homeRead (p i + 2 * j) 2 = (bs.drop (128 * i + 2 * j)).take 2 ∧ u.homeRead (q j + 2 * i) 2 = (bs.drop (128 * i + 2 * j)).take 2) ∧
    (∀ (c : SampCmd) (a : Agent) (b : Block), o.work = .sample c → c.catdraw = false → o.issuer = .agent a → s.block? a.block = some b → s.ops = [o] → o.phase = .registered →
      let w (l : List Word) (i : Nat) : Nat := (l.getD i 0).toNat
      let v := w c.b 1
      1 ≤ v → flatIn b (w c.a 0) (4 * v) → flatIn b (w c.a 1) ((v + 7) / 8) → flatIn b (w c.b 0) (16 + 8 * v) → b.loc ≤ 2 ^ 18 → b.c ≤ b.shares.length →
      Completes .samplerOpComplete s fun t => ∃ l, t.ops = [{ o with phase := .finished [BitVec.ofNat 32 l], lockSrc := [], lockDst := [] }] ∧ l ≤ v) ∧
    ∀ t, o.work = .tile t → (s.share? t.block t.j).isSome = true →
      let r := shapeRec t.sh
      let slot := s.slotOf t.block t.j
      (t.fn = 5 → r.chain = 0 → mayStart s o t → Requester.tile o.core ∈ (s.gov o.die).held → (∀ e ∈ (s.gov o.die).idle, e.1 = o.core → s.cycle o.die < e.2 + 256) →
        recordOk t.sh.toNat → (∃ p, slot.active = some p ∧ p.tag = r.tag) → (∀ q ∈ t.names, (slot.tile? q).isSome = true) → Completes .tileStepStart s fun u =>
          ∃ y ∈ u.ops, y = { o with work := .tile { t with started := true } }) ∧
      (s.tileTurn o t = true → takesNext s o → t.fn = 3 → t.plane = none → s.ops = [o] → Completes .tileSourceUnlock s fun u =>
        ∃ p, u.ops = [{ o with work := .tile { t with plane := some p }, lockSrc := [] }] ∧ p.tag = r.tag) ∧
      (t.fn = 5 → t.started = true → t.bound = true → s.ops = [o] → Completes .tileOpComplete s fun u => ∀ z ∈ u.ops, z.id ≠ k) ∧
      (t.fn = 5 → t.started = true → t.bound = false → o.phase = .registered → s.ops = [o] → ∀ u, u = { s with arg := .core o.die o.core } → Completes .tileStepBoundary u fun v =>
        v.ops = [{ o with work := .tile { t with bound := true }, lockSrc := [] }])

/-- Accesses, streams, threads and blocks on their way (R134, R203, R211, R220 to R229, R242, R243, R306, R314): each event whose time has come takes effect. -/
def Obligations.MemoryEventsComplete : Prop :=
  (∀ (s : State) (i : Nat) (f : HeldFault) (c : Ctx), s.arg = .num i → s.faults[i]? = some f → s.ctx? f.ctx = some c → s.owed = [] → f.since + 4096 * (f.walks + 1) ≤ s.cycle f.unit.die →
    (∃ pa size rd wr x y, s.walk f.unit.die c f.va = .leaf pa size rd wr x y) → Completes .faultRewalk s fun t => ∀ g ∈ t.faults, ¬samePage f.unit f.ctx f.va g) ∧
  (∀ (s : State) (l : Load) (r : ThreadRef) (th : Thread) (b : Block), s.arg = .num l.seq → s.loads = [l] → s.stores = [] → l.who = .lane r → s.block? r.block = some b → s.thread? r = some th →
    l.atom = none → near s l.cache l.pa l.n → 1 ≤ l.n →
    (l.since = none → noRecord s b.ctx → Completes .loadReturn s fun t => t.loads = [] ∧
      ∃ y, t.thread? r = some y ∧ y.ld = th.ld - (if l.hold then 0 else 1) ∧ y.pc = th.pc) ∧
    ∀ c v, l.since = some c → s.rrPair l = some (b, v) → s.dbg.samples = [] →
      (s.pairReady b.ctx v = true → Completes .rrReadRelease s fun t => t.loads = [] ∧ t.dbg.accTail = s.dbg.accTail + 1) ∧
      (c + s.pkg.colltmo.toNat < s.cycle b.die → Completes .rrReadTimeout s fun t => t.loads = [] ∧ t.dbg.accTail = s.dbg.accTail + 1 ∧ t.dbg.rrStat = s.dbg.rrStat ||| 2)) ∧
  (∀ (s : State) (x : Store) (r : ThreadRef) (th : Thread), s.arg = .num x.seq → s.stores = [x] → s.loads = [] → x.who = .lane r → s.thread? r = some th → x.atom = none → x.discard = false →
    near s x.cache x.pa x.bytes.length → s.dbg.samples = [] → Completes .storeVisible s fun t => t.stores = [] ∧ t.homeRead x.pa x.bytes.length = x.bytes ∧
      t.thread? r = some { th with st := th.st - 1 }) ∧
  (∀ (s : State) (r : LeadRef) (n : Nat) (b : Block) (sh : Share) (q : Queue) (x : Stream) (c0 c1 c2 c3 : Nat) (s0 s1 s2 s3 : Int), s.arg = .stream r n → n < 8 → s.block? r.block = some b →
    b.shares[r.j]? = some sh → sh.lead.queues.toList[n]? = some (some q) → q.stream = some x → b.stop = none → b.stage = .running → x.counts = [c0, c1, c2, c3] →
    x.strides = [s0, s1, s2, s3] → x.running = true → q.d ≠ 0 → q.perThread = false → x.glob = false →
    (∀ t ∈ b.onCore r.j, ∀ th, b.threads[t]? = some th → (BitVec.ofNat 16 q.written - th.qr.toList.getD n 0).toNat < q.d) →
    (∃ j o, b.local? (elementAt x ([c0, c1, c2, c3].getD · 0) ([s0, s1, s2, s3].getD · 0) x.pos 0 false).toNat 4 = some (j, o)) → Completes .streamEntry s fun t =>
      ∃ l y, t.lead? r = some l ∧ l.queues.toList[n]? = some (some y) ∧ y.written = q.written + 1) ∧
  (∀ (s : State) (id k c : Nat) (b : Block) (x : RejoinRec), s.arg = .record id k → s.block? id = some b → b.recs.find? (fun r => r.id = k) = some x → b.stop = none → x.first = some c →
    c + b.code.launch.rejoinTmo + 1 ≤ s.cycle b.die → Completes .rejoinTimeout s fun t => ∃ y, t.block? id = some y ∧ ∀ r ∈ y.recs, r.id ≠ k) ∧
  (∀ (s : State) (r : ThreadRef) (b : Block) (th : Thread), s.arg = .thread r → s.block? r.block = some b → b.threads[r.t]? = some th → th.ld = 0 → th.st = 0 → th.preempt = false →
    b.stop = none →
    (∀ i, th.status = .wait (.toCarrel i) → Completes .ejectHandover s fun t => ∃ y, t.thread? r = some y ∧ y.carrel = some i ∧ y.status = .ready) ∧
    ∀ f, th.status = .wait (.fromCarrel f) → Completes .carrelReturn s fun t => ∃ y, t.thread? r = some y ∧ y.carrel = none ∧ y.dirty = th.dirty ||| th.wrote) ∧
  (∀ (s : State) (id k : Nat) (b : Block) (x : Bin) (q c : Nat) (rest : List (Nat × Nat)) (th : Thread), s.arg = .record id k → s.block? id = some b → b.bins.find? (fun x => x.id = k) = some x →
    b.stop = none → x.threads = (q, c) :: rest → b.threads[q]? = some th → c + b.code.launch.reformAge ≤ s.cycle b.die → Completes .reformDraw s fun t =>
      t.thread? ⟨id, q⟩ = some { th with status := .ready, pc := x.pc, late := false, lateRp := [], yld := false }) ∧
  (∀ (s : State) (r : ThreadRef) (b : Block) (th : Thread) (c : Ctx) (k : Nat), s.arg = .agent (.lane r) → s.block? r.block = some b → b.threads[r.t]? = some th → b.stop = none →
    b.stage = .saving → th.preempt = true → th.inTrap = false → th.pfatal = none → th.status = .ready → th.ld = 0 → th.st = 0 → th.cp = [] → th.tl = [] → s.loads = [] → th.trapVec ≠ 0 →
    s.ctx? b.ctx = some c → b.slot = some k → Completes .preemptEntry s fun t => ∃ y, t.thread? r = some y ∧ y.inTrap = true ∧ y.preempt = false ∧ y.trapPc = th.pc ∧
      y.pc = BitVec.ofNat 48 (b.code.word0 + th.trapVec.toNat)) ∧
  (∀ (s : State) (id k : Nat) (b : Block) (c : Ctx) ws x, s.arg = .num id → s.block? id = some b → s.ctx? b.ctx = some c → b.slot = some k → b.stop = none → Parked s b →
    s.saveAll b.die c id (b.saveWrites c k) [] = .ok ws → s.node? b.nodeRef = some x → Completes .saveComplete s fun t =>
      (∃ y, t.block? id = some y ∧ y.stage = .saved ∧ y.resident = false) ∧ ∃ y, t.node? b.nodeRef = some y ∧ y.again = x.again ++ [id]) ∧
  ∀ (s : State) (id : Nat) (b : Block) (st : Stop), s.arg = .num id → s.block? id = some b → b.stop = some st → st.done = false → (∀ th ∈ b.threads, th.ld = 0 ∧ th.st = 0) → s.loads = [] →
    s.stores = [] → s.sideLog = [] → s.dbg.slot.toNat % 2 ^ 8 = 0 → Completes .stopComplete s fun t =>
      t.block? id = some { b with stop := some { st with done := true } } ∧
      (let w := s.post b.die 0x0C 0 b.ctx (BitVec.ofNat 64 (b.node + b.b * 2 ^ 32)) (b.seq.setWidth 64) (BitVec.ofNat 64 (st.reason + 0xFFFFFF * 2 ^ 8))
       t.out = w.out ∧ t.evt = w.evt)


/-! Statements over several parts. -/

/-- The short integer forms, the moves and immediates, and the address forms. -/
def Obligations.IntegerFormsAndMoves : Prop := ShortIntegerForms ∧ MovesAndImmediates ∧ AddressArithmetic

/-- Bit-field forms (R353), comparisons and selects (R354). -/
def Obligations.BitFieldsAndComparisons : Prop := BitFields ∧ CompareAndSelect

/-- Floating-point comparisons (R360), minimum and maximum (R359), class and sign forms (R361, R363), rounding to whole numbers (R362). -/
def Obligations.FloatComparedAndRounded : Prop := FloatCompare ∧ FloatMinMax ∧ FloatClassAndSign ∧ FloatToWhole

/-- Arithmetic of F32, F64 and packed values, special functions, and that a code rounds to itself. -/
def Obligations.FloatArithmetic : Prop := SingleArithmetic ∧ DoubleArithmetic ∧ PackedArithmetic ∧ SpecialFunctions ∧ RoundingKeepsCodes

/-- Distribution means and parts, and the sample-wise forms. -/
def Obligations.DistributionForms : Prop := DistributionMeans ∧ DistributionParts ∧ SampleWiseForms

/-- Variances that add, and that conversions and generated samples run to their end. -/
def Obligations.VariancesAndConversions : Prop := VariancesAdd ∧ ConversionsRun

/-- Conversions between floating and integer types, and of means. -/
def Obligations.Conversions : Prop := WholesChosen ∧ ConversionsRound ∧ MeansConverted

/-- Draws of a thread's own stream, keyed draws, the draw counter and key digits. -/
def Obligations.RandomDraws : Prop := ThreadDraws ∧ KeyedDraws ∧ DrawCounterAndDigits

/-- Short branches, calls and returns, and long branches. -/
def Obligations.Branches : Prop := TransfersOfControl ∧ LongBranches

/-- Rejoin, eject, reform, priority and grant, and the ends of threads. -/
def Obligations.RejoinEjectAndEnd : Prop := RejoinArrives ∧ EjectedReturnAndReform ∧ PriorityAndGrant ∧ EndsOfThreads

/-- Taking a trap, and traps that no handler takes. -/
def Obligations.TrapsTaken : Prop := TakingATrap ∧ UnhandledTraps

/-- Breakpoints and software traps, and returns from handlers. -/
def Obligations.TrapsRaisedAndReturned : Prop := TrapsOnPurpose ∧ ReturnsFromHandlers

/-- Reads and writes of special registers in lane and lead code. -/
def Obligations.SystemRegisters : Prop := ReadingSystemRegisters ∧ WritingSystemRegisters ∧ LeadSystemRegisters

/-- What comes before the effect of any unit: decode, its guard, its queues. -/
def Obligations.DecodeTrapsFirst : Prop := LaneFormsDecodeFirst ∧ LeadFormsDecodeFirst ∧ FalseGuardsStopEffects ∧ QueuesBeforeEffects

/-- Cross-lane forms: arrival, returns, results, reductions. -/
def Obligations.CrossLaneForms : Prop := CrossLaneArrival ∧ CrossLaneReturns ∧ CrossLaneResults ∧ Reductions

/-- Loads, stores and atomics of local store. -/
def Obligations.LocalMemoryForms : Prop := LocalLoadsAndStores ∧ LocalAtomics

/-- Checks of global accesses, loads and stores. -/
def Obligations.GlobalLoadsStoresChecked : Prop := GlobalAccessChecks ∧ GlobalLoadsAndStores

/-- Atomics and reductions of global memory, and discards. -/
def Obligations.GlobalAtomicsAndDiscards : Prop := GlobalAtomics ∧ Discards

/-- Fences and waits for a thread's counts. -/
def Obligations.FencesAndCounterWaits : Prop := Fences ∧ WaitingOnCounters

/-- Waiting on an address, waking, and the block barrier. -/
def Obligations.AddressWaitsAndBarriers : Prop := WaitingOnAnAddress ∧ WakingThreads ∧ BlockBarrier

/-- Mailboxes: their set-up and their transfers. -/
def Obligations.Mailboxes : Prop := MailboxSetup ∧ MailboxTransfers

/-- COPY, COPYF and COLL of lane and lead code. -/
def Obligations.CopyAndCollectiveCommands : Prop := CopyCommands ∧ CollectiveCommands

/-- The corner-turn stage: its commands and its moves. -/
def Obligations.CornerTurns : Prop := CornerTurnCommands ∧ CornersTurn

/-- The tile engine's commands as they are issued. -/
def Obligations.TileForms : Prop := TileCommands ∧ TilesClaimedAndFreed

/-- The batch-forming queue: its forms and its batches. -/
def Obligations.BatchQueue : Prop := BatchForming ∧ BatchesForm

/-- Scalar forms and control of lead code. -/
def Obligations.LeadScalarsAndControl : Prop := ScalarForms ∧ LeadControl

/-- Loads, stores and queues of lead code. -/
def Obligations.LeadMemoryAndQueues : Prop := LeadLoadsAndStores ∧ LeadQueues

/-- The management service, device faults, cooling, event records and the host's window. -/
def Obligations.PackageAndWindow : Prop := PackageService ∧ FaultsAndCooling ∧ EventRecords ∧ HostWindow

/-- What the network brings and takes, and what completes operations. -/
def Obligations.NetworkAndLandings : Prop := Landings ∧ CompletionReports ∧ NetworkOperations

/-- The command queue and its commands: contexts, regions, counters and graphs. -/
def Obligations.HostCommands : Prop := CommandQueue ∧ ContextCommands ∧ RegionCommands ∧ GraphCommands

/-- Kicks, the start of replays and the nodes of replays. -/
def Obligations.KicksReplaysAndNodes : Prop := KicksAndReplays ∧ NodesOfReplays

/-- Dispatch of nodes and placement of blocks. -/
def Obligations.DispatchAndPlacement : Prop := NodesDispatched ∧ BlockPlacement

/-- Loads that return, stores that become visible, reads under record and replay, held faults and hot pages. -/
def Obligations.AccessesAndPages : Prop := AccessesComplete ∧ ReplayedReads ∧ HeldPages ∧ HotPages

/-- Divergence events and stream entries. -/
def Obligations.DivergenceAndStreams : Prop := DivergenceEvents ∧ StreamEntries

/-- Pre-emption, the thread state that a save and a resume carry over, and stops of blocks. -/
def Obligations.PreemptionAndStops : Prop := PreemptionEvents ∧ ThreadSaveAndRestore ∧ BlockStops

/-- Registration, copies and follow-ons, accumulation and steps, and the tile engine's commands. -/
def Obligations.CopiesAndTileSteps : Prop := CopiesComplete ∧ StepsAccumulate ∧ TileCommandsComplete

/-- The sampler's and the catalogue controller's operations. -/
def Obligations.SamplerAndCatalogueRun : Prop := SamplerRuns ∧ CatalogueRuns

/-- What reset leaves, and that its memory is in canonical form. -/
def Obligations.ResetState : Prop := ResetLeaves ∧ ResetIsCanonical
end

