-- ==== Sys2Proof/Laws/State.lean ====
section
/-! SUPPORT. One lemma for every field that a named update leaves as it is. -/

namespace Sys2Proof.Machine

@[simp] theorem State.modBlock_tick (s : State) (id : Nat) (f : Block → Block) : (s.modBlock id f).tick = s.tick := rfl
@[simp] theorem State.modBlock_inbox (s : State) (id : Nat) (f : Block → Block) : (s.modBlock id f).inbox = s.inbox := rfl
@[simp] theorem State.modBlock_arg (s : State) (id : Nat) (f : Block → Block) : (s.modBlock id f).arg = s.arg := rfl
@[simp] theorem State.modBlock_turn (s : State) (id : Nat) (f : Block → Block) : (s.modBlock id f).turn = s.turn := rfl
@[simp] theorem State.modBlock_issue (s : State) (id : Nat) (f : Block → Block) : (s.modBlock id f).issue = s.issue := rfl
@[simp] theorem State.modBlock_out (s : State) (id : Nat) (f : Block → Block) : (s.modBlock id f).out = s.out := rfl
@[simp] theorem State.modBlock_clocksOn (s : State) (id : Nat) (f : Block → Block) : (s.modBlock id f).clocksOn = s.clocksOn := rfl
@[simp] theorem State.modBlock_cycA (s : State) (id : Nat) (f : Block → Block) : (s.modBlock id f).cycA = s.cycA := rfl
@[simp] theorem State.modBlock_cycB (s : State) (id : Nat) (f : Block → Block) : (s.modBlock id f).cycB = s.cycB := rfl
@[simp] theorem State.modBlock_pkg (s : State) (id : Nat) (f : Block → Block) : (s.modBlock id f).pkg = s.pkg := rfl
@[simp] theorem State.modBlock_fw (s : State) (id : Nat) (f : Block → Block) : (s.modBlock id f).fw = s.fw := rfl
@[simp] theorem State.modBlock_govA (s : State) (id : Nat) (f : Block → Block) : (s.modBlock id f).govA = s.govA := rfl
@[simp] theorem State.modBlock_govB (s : State) (id : Nat) (f : Block → Block) : (s.modBlock id f).govB = s.govB := rfl
@[simp] theorem State.modBlock_evt (s : State) (id : Nat) (f : Block → Block) : (s.modBlock id f).evt = s.evt := rfl
@[simp] theorem State.modBlock_cmdq (s : State) (id : Nat) (f : Block → Block) : (s.modBlock id f).cmdq = s.cmdq := rfl
@[simp] theorem State.modBlock_cmdBusy (s : State) (id : Nat) (f : Block → Block) : (s.modBlock id f).cmdBusy = s.cmdBusy := rfl
@[simp] theorem State.modBlock_dbg (s : State) (id : Nat) (f : Block → Block) : (s.modBlock id f).dbg = s.dbg := rfl
@[simp] theorem State.modBlock_mem (s : State) (id : Nat) (f : Block → Block) : (s.modBlock id f).mem = s.mem := rfl
@[simp] theorem State.modBlock_poison (s : State) (id : Nat) (f : Block → Block) : (s.modBlock id f).poison = s.poison := rfl
@[simp] theorem State.modBlock_cached (s : State) (id : Nat) (f : Block → Block) : (s.modBlock id f).cached = s.cached := rfl
@[simp] theorem State.modBlock_tags (s : State) (id : Nat) (f : Block → Block) : (s.modBlock id f).tags = s.tags := rfl
@[simp] theorem State.modBlock_syncs (s : State) (id : Nat) (f : Block → Block) : (s.modBlock id f).syncs = s.syncs := rfl
@[simp] theorem State.modBlock_keySyncs (s : State) (id : Nat) (f : Block → Block) : (s.modBlock id f).keySyncs = s.keySyncs := rfl
@[simp] theorem State.modBlock_stamps (s : State) (id : Nat) (f : Block → Block) : (s.modBlock id f).stamps = s.stamps := rfl
@[simp] theorem State.modBlock_loads (s : State) (id : Nat) (f : Block → Block) : (s.modBlock id f).loads = s.loads := rfl
@[simp] theorem State.modBlock_stores (s : State) (id : Nat) (f : Block → Block) : (s.modBlock id f).stores = s.stores := rfl
@[simp] theorem State.modBlock_nextId (s : State) (id : Nat) (f : Block → Block) : (s.modBlock id f).nextId = s.nextId := rfl
@[simp] theorem State.modBlock_lastCtx (s : State) (id : Nat) (f : Block → Block) : (s.modBlock id f).lastCtx = s.lastCtx := rfl
@[simp] theorem State.modBlock_wakes (s : State) (id : Nat) (f : Block → Block) : (s.modBlock id f).wakes = s.wakes := rfl
@[simp] theorem State.modBlock_sideLog (s : State) (id : Nat) (f : Block → Block) : (s.modBlock id f).sideLog = s.sideLog := rfl
@[simp] theorem State.modBlock_faults (s : State) (id : Nat) (f : Block → Block) : (s.modBlock id f).faults = s.faults := rfl
@[simp] theorem State.modBlock_holds (s : State) (id : Nat) (f : Block → Block) : (s.modBlock id f).holds = s.holds := rfl
@[simp] theorem State.modBlock_hot (s : State) (id : Nat) (f : Block → Block) : (s.modBlock id f).hot = s.hot := rfl
@[simp] theorem State.modBlock_regions (s : State) (id : Nat) (f : Block → Block) : (s.modBlock id f).regions = s.regions := rfl
@[simp] theorem State.modBlock_counters (s : State) (id : Nat) (f : Block → Block) : (s.modBlock id f).counters = s.counters := rfl
@[simp] theorem State.modBlock_armA (s : State) (id : Nat) (f : Block → Block) : (s.modBlock id f).armA = s.armA := rfl
@[simp] theorem State.modBlock_armB (s : State) (id : Nat) (f : Block → Block) : (s.modBlock id f).armB = s.armB := rfl
@[simp] theorem State.modBlock_fired (s : State) (id : Nat) (f : Block → Block) : (s.modBlock id f).fired = s.fired := rfl
@[simp] theorem State.modBlock_heldPkts (s : State) (id : Nat) (f : Block → Block) : (s.modBlock id f).heldPkts = s.heldPkts := rfl
@[simp] theorem State.modBlock_msgs (s : State) (id : Nat) (f : Block → Block) : (s.modBlock id f).msgs = s.msgs := rfl
@[simp] theorem State.modBlock_ctxs (s : State) (id : Nat) (f : Block → Block) : (s.modBlock id f).ctxs = s.ctxs := rfl
@[simp] theorem State.modBlock_replays (s : State) (id : Nat) (f : Block → Block) : (s.modBlock id f).replays = s.replays := rfl
@[simp] theorem State.modBlock_ckpts (s : State) (id : Nat) (f : Block → Block) : (s.modBlock id f).ckpts = s.ckpts := rfl
@[simp] theorem State.modBlock_owed (s : State) (id : Nat) (f : Block → Block) : (s.modBlock id f).owed = s.owed := rfl
@[simp] theorem State.modBlock_channels (s : State) (id : Nat) (f : Block → Block) : (s.modBlock id f).channels = s.channels := rfl
@[simp] theorem State.modBlock_ops (s : State) (id : Nat) (f : Block → Block) : (s.modBlock id f).ops = s.ops := rfl

@[simp] theorem State.modThread_tick (s : State) (r : ThreadRef) (f : Thread → Thread) : (s.modThread r f).tick = s.tick := rfl
@[simp] theorem State.modThread_inbox (s : State) (r : ThreadRef) (f : Thread → Thread) : (s.modThread r f).inbox = s.inbox := rfl
@[simp] theorem State.modThread_arg (s : State) (r : ThreadRef) (f : Thread → Thread) : (s.modThread r f).arg = s.arg := rfl
@[simp] theorem State.modThread_turn (s : State) (r : ThreadRef) (f : Thread → Thread) : (s.modThread r f).turn = s.turn := rfl
@[simp] theorem State.modThread_issue (s : State) (r : ThreadRef) (f : Thread → Thread) : (s.modThread r f).issue = s.issue := rfl
@[simp] theorem State.modThread_out (s : State) (r : ThreadRef) (f : Thread → Thread) : (s.modThread r f).out = s.out := rfl
@[simp] theorem State.modThread_clocksOn (s : State) (r : ThreadRef) (f : Thread → Thread) : (s.modThread r f).clocksOn = s.clocksOn := rfl
@[simp] theorem State.modThread_cycA (s : State) (r : ThreadRef) (f : Thread → Thread) : (s.modThread r f).cycA = s.cycA := rfl
@[simp] theorem State.modThread_cycB (s : State) (r : ThreadRef) (f : Thread → Thread) : (s.modThread r f).cycB = s.cycB := rfl
@[simp] theorem State.modThread_pkg (s : State) (r : ThreadRef) (f : Thread → Thread) : (s.modThread r f).pkg = s.pkg := rfl
@[simp] theorem State.modThread_fw (s : State) (r : ThreadRef) (f : Thread → Thread) : (s.modThread r f).fw = s.fw := rfl
@[simp] theorem State.modThread_govA (s : State) (r : ThreadRef) (f : Thread → Thread) : (s.modThread r f).govA = s.govA := rfl
@[simp] theorem State.modThread_govB (s : State) (r : ThreadRef) (f : Thread → Thread) : (s.modThread r f).govB = s.govB := rfl
@[simp] theorem State.modThread_evt (s : State) (r : ThreadRef) (f : Thread → Thread) : (s.modThread r f).evt = s.evt := rfl
@[simp] theorem State.modThread_cmdq (s : State) (r : ThreadRef) (f : Thread → Thread) : (s.modThread r f).cmdq = s.cmdq := rfl
@[simp] theorem State.modThread_cmdBusy (s : State) (r : ThreadRef) (f : Thread → Thread) : (s.modThread r f).cmdBusy = s.cmdBusy := rfl
@[simp] theorem State.modThread_dbg (s : State) (r : ThreadRef) (f : Thread → Thread) : (s.modThread r f).dbg = s.dbg := rfl
@[simp] theorem State.modThread_mem (s : State) (r : ThreadRef) (f : Thread → Thread) : (s.modThread r f).mem = s.mem := rfl
@[simp] theorem State.modThread_poison (s : State) (r : ThreadRef) (f : Thread → Thread) : (s.modThread r f).poison = s.poison := rfl
@[simp] theorem State.modThread_cached (s : State) (r : ThreadRef) (f : Thread → Thread) : (s.modThread r f).cached = s.cached := rfl
@[simp] theorem State.modThread_tags (s : State) (r : ThreadRef) (f : Thread → Thread) : (s.modThread r f).tags = s.tags := rfl
@[simp] theorem State.modThread_syncs (s : State) (r : ThreadRef) (f : Thread → Thread) : (s.modThread r f).syncs = s.syncs := rfl
@[simp] theorem State.modThread_keySyncs (s : State) (r : ThreadRef) (f : Thread → Thread) : (s.modThread r f).keySyncs = s.keySyncs := rfl
@[simp] theorem State.modThread_stamps (s : State) (r : ThreadRef) (f : Thread → Thread) : (s.modThread r f).stamps = s.stamps := rfl
@[simp] theorem State.modThread_loads (s : State) (r : ThreadRef) (f : Thread → Thread) : (s.modThread r f).loads = s.loads := rfl
@[simp] theorem State.modThread_stores (s : State) (r : ThreadRef) (f : Thread → Thread) : (s.modThread r f).stores = s.stores := rfl
@[simp] theorem State.modThread_nextId (s : State) (r : ThreadRef) (f : Thread → Thread) : (s.modThread r f).nextId = s.nextId := rfl
@[simp] theorem State.modThread_lastCtx (s : State) (r : ThreadRef) (f : Thread → Thread) : (s.modThread r f).lastCtx = s.lastCtx := rfl
@[simp] theorem State.modThread_wakes (s : State) (r : ThreadRef) (f : Thread → Thread) : (s.modThread r f).wakes = s.wakes := rfl
@[simp] theorem State.modThread_sideLog (s : State) (r : ThreadRef) (f : Thread → Thread) : (s.modThread r f).sideLog = s.sideLog := rfl
@[simp] theorem State.modThread_faults (s : State) (r : ThreadRef) (f : Thread → Thread) : (s.modThread r f).faults = s.faults := rfl
@[simp] theorem State.modThread_holds (s : State) (r : ThreadRef) (f : Thread → Thread) : (s.modThread r f).holds = s.holds := rfl
@[simp] theorem State.modThread_hot (s : State) (r : ThreadRef) (f : Thread → Thread) : (s.modThread r f).hot = s.hot := rfl
@[simp] theorem State.modThread_regions (s : State) (r : ThreadRef) (f : Thread → Thread) : (s.modThread r f).regions = s.regions := rfl
@[simp] theorem State.modThread_counters (s : State) (r : ThreadRef) (f : Thread → Thread) : (s.modThread r f).counters = s.counters := rfl
@[simp] theorem State.modThread_armA (s : State) (r : ThreadRef) (f : Thread → Thread) : (s.modThread r f).armA = s.armA := rfl
@[simp] theorem State.modThread_armB (s : State) (r : ThreadRef) (f : Thread → Thread) : (s.modThread r f).armB = s.armB := rfl
@[simp] theorem State.modThread_fired (s : State) (r : ThreadRef) (f : Thread → Thread) : (s.modThread r f).fired = s.fired := rfl
@[simp] theorem State.modThread_heldPkts (s : State) (r : ThreadRef) (f : Thread → Thread) : (s.modThread r f).heldPkts = s.heldPkts := rfl
@[simp] theorem State.modThread_msgs (s : State) (r : ThreadRef) (f : Thread → Thread) : (s.modThread r f).msgs = s.msgs := rfl
@[simp] theorem State.modThread_ctxs (s : State) (r : ThreadRef) (f : Thread → Thread) : (s.modThread r f).ctxs = s.ctxs := rfl
@[simp] theorem State.modThread_replays (s : State) (r : ThreadRef) (f : Thread → Thread) : (s.modThread r f).replays = s.replays := rfl
@[simp] theorem State.modThread_ckpts (s : State) (r : ThreadRef) (f : Thread → Thread) : (s.modThread r f).ckpts = s.ckpts := rfl
@[simp] theorem State.modThread_owed (s : State) (r : ThreadRef) (f : Thread → Thread) : (s.modThread r f).owed = s.owed := rfl
@[simp] theorem State.modThread_channels (s : State) (r : ThreadRef) (f : Thread → Thread) : (s.modThread r f).channels = s.channels := rfl
@[simp] theorem State.modThread_ops (s : State) (r : ThreadRef) (f : Thread → Thread) : (s.modThread r f).ops = s.ops := rfl

@[simp] theorem State.modShare_tick (s : State) (id j : Nat) (f : Share → Share) : (s.modShare id j f).tick = s.tick := rfl
@[simp] theorem State.modShare_inbox (s : State) (id j : Nat) (f : Share → Share) : (s.modShare id j f).inbox = s.inbox := rfl
@[simp] theorem State.modShare_arg (s : State) (id j : Nat) (f : Share → Share) : (s.modShare id j f).arg = s.arg := rfl
@[simp] theorem State.modShare_turn (s : State) (id j : Nat) (f : Share → Share) : (s.modShare id j f).turn = s.turn := rfl
@[simp] theorem State.modShare_issue (s : State) (id j : Nat) (f : Share → Share) : (s.modShare id j f).issue = s.issue := rfl
@[simp] theorem State.modShare_out (s : State) (id j : Nat) (f : Share → Share) : (s.modShare id j f).out = s.out := rfl
@[simp] theorem State.modShare_clocksOn (s : State) (id j : Nat) (f : Share → Share) : (s.modShare id j f).clocksOn = s.clocksOn := rfl
@[simp] theorem State.modShare_cycA (s : State) (id j : Nat) (f : Share → Share) : (s.modShare id j f).cycA = s.cycA := rfl
@[simp] theorem State.modShare_cycB (s : State) (id j : Nat) (f : Share → Share) : (s.modShare id j f).cycB = s.cycB := rfl
@[simp] theorem State.modShare_pkg (s : State) (id j : Nat) (f : Share → Share) : (s.modShare id j f).pkg = s.pkg := rfl
@[simp] theorem State.modShare_fw (s : State) (id j : Nat) (f : Share → Share) : (s.modShare id j f).fw = s.fw := rfl
@[simp] theorem State.modShare_govA (s : State) (id j : Nat) (f : Share → Share) : (s.modShare id j f).govA = s.govA := rfl
@[simp] theorem State.modShare_govB (s : State) (id j : Nat) (f : Share → Share) : (s.modShare id j f).govB = s.govB := rfl
@[simp] theorem State.modShare_evt (s : State) (id j : Nat) (f : Share → Share) : (s.modShare id j f).evt = s.evt := rfl
@[simp] theorem State.modShare_cmdq (s : State) (id j : Nat) (f : Share → Share) : (s.modShare id j f).cmdq = s.cmdq := rfl
@[simp] theorem State.modShare_cmdBusy (s : State) (id j : Nat) (f : Share → Share) : (s.modShare id j f).cmdBusy = s.cmdBusy := rfl
@[simp] theorem State.modShare_dbg (s : State) (id j : Nat) (f : Share → Share) : (s.modShare id j f).dbg = s.dbg := rfl
@[simp] theorem State.modShare_mem (s : State) (id j : Nat) (f : Share → Share) : (s.modShare id j f).mem = s.mem := rfl
@[simp] theorem State.modShare_poison (s : State) (id j : Nat) (f : Share → Share) : (s.modShare id j f).poison = s.poison := rfl
@[simp] theorem State.modShare_cached (s : State) (id j : Nat) (f : Share → Share) : (s.modShare id j f).cached = s.cached := rfl
@[simp] theorem State.modShare_tags (s : State) (id j : Nat) (f : Share → Share) : (s.modShare id j f).tags = s.tags := rfl
@[simp] theorem State.modShare_syncs (s : State) (id j : Nat) (f : Share → Share) : (s.modShare id j f).syncs = s.syncs := rfl
@[simp] theorem State.modShare_keySyncs (s : State) (id j : Nat) (f : Share → Share) : (s.modShare id j f).keySyncs = s.keySyncs := rfl
@[simp] theorem State.modShare_stamps (s : State) (id j : Nat) (f : Share → Share) : (s.modShare id j f).stamps = s.stamps := rfl
@[simp] theorem State.modShare_loads (s : State) (id j : Nat) (f : Share → Share) : (s.modShare id j f).loads = s.loads := rfl
@[simp] theorem State.modShare_stores (s : State) (id j : Nat) (f : Share → Share) : (s.modShare id j f).stores = s.stores := rfl
@[simp] theorem State.modShare_nextId (s : State) (id j : Nat) (f : Share → Share) : (s.modShare id j f).nextId = s.nextId := rfl
@[simp] theorem State.modShare_lastCtx (s : State) (id j : Nat) (f : Share → Share) : (s.modShare id j f).lastCtx = s.lastCtx := rfl
@[simp] theorem State.modShare_wakes (s : State) (id j : Nat) (f : Share → Share) : (s.modShare id j f).wakes = s.wakes := rfl
@[simp] theorem State.modShare_sideLog (s : State) (id j : Nat) (f : Share → Share) : (s.modShare id j f).sideLog = s.sideLog := rfl
@[simp] theorem State.modShare_faults (s : State) (id j : Nat) (f : Share → Share) : (s.modShare id j f).faults = s.faults := rfl
@[simp] theorem State.modShare_holds (s : State) (id j : Nat) (f : Share → Share) : (s.modShare id j f).holds = s.holds := rfl
@[simp] theorem State.modShare_hot (s : State) (id j : Nat) (f : Share → Share) : (s.modShare id j f).hot = s.hot := rfl
@[simp] theorem State.modShare_regions (s : State) (id j : Nat) (f : Share → Share) : (s.modShare id j f).regions = s.regions := rfl
@[simp] theorem State.modShare_counters (s : State) (id j : Nat) (f : Share → Share) : (s.modShare id j f).counters = s.counters := rfl
@[simp] theorem State.modShare_armA (s : State) (id j : Nat) (f : Share → Share) : (s.modShare id j f).armA = s.armA := rfl
@[simp] theorem State.modShare_armB (s : State) (id j : Nat) (f : Share → Share) : (s.modShare id j f).armB = s.armB := rfl
@[simp] theorem State.modShare_fired (s : State) (id j : Nat) (f : Share → Share) : (s.modShare id j f).fired = s.fired := rfl
@[simp] theorem State.modShare_heldPkts (s : State) (id j : Nat) (f : Share → Share) : (s.modShare id j f).heldPkts = s.heldPkts := rfl
@[simp] theorem State.modShare_msgs (s : State) (id j : Nat) (f : Share → Share) : (s.modShare id j f).msgs = s.msgs := rfl
@[simp] theorem State.modShare_ctxs (s : State) (id j : Nat) (f : Share → Share) : (s.modShare id j f).ctxs = s.ctxs := rfl
@[simp] theorem State.modShare_replays (s : State) (id j : Nat) (f : Share → Share) : (s.modShare id j f).replays = s.replays := rfl
@[simp] theorem State.modShare_ckpts (s : State) (id j : Nat) (f : Share → Share) : (s.modShare id j f).ckpts = s.ckpts := rfl
@[simp] theorem State.modShare_owed (s : State) (id j : Nat) (f : Share → Share) : (s.modShare id j f).owed = s.owed := rfl
@[simp] theorem State.modShare_channels (s : State) (id j : Nat) (f : Share → Share) : (s.modShare id j f).channels = s.channels := rfl
@[simp] theorem State.modShare_ops (s : State) (id j : Nat) (f : Share → Share) : (s.modShare id j f).ops = s.ops := rfl

@[simp] theorem State.modLead_tick (s : State) (r : LeadRef) (f : Lead → Lead) : (s.modLead r f).tick = s.tick := rfl
@[simp] theorem State.modLead_inbox (s : State) (r : LeadRef) (f : Lead → Lead) : (s.modLead r f).inbox = s.inbox := rfl
@[simp] theorem State.modLead_arg (s : State) (r : LeadRef) (f : Lead → Lead) : (s.modLead r f).arg = s.arg := rfl
@[simp] theorem State.modLead_turn (s : State) (r : LeadRef) (f : Lead → Lead) : (s.modLead r f).turn = s.turn := rfl
@[simp] theorem State.modLead_issue (s : State) (r : LeadRef) (f : Lead → Lead) : (s.modLead r f).issue = s.issue := rfl
@[simp] theorem State.modLead_out (s : State) (r : LeadRef) (f : Lead → Lead) : (s.modLead r f).out = s.out := rfl
@[simp] theorem State.modLead_clocksOn (s : State) (r : LeadRef) (f : Lead → Lead) : (s.modLead r f).clocksOn = s.clocksOn := rfl
@[simp] theorem State.modLead_cycA (s : State) (r : LeadRef) (f : Lead → Lead) : (s.modLead r f).cycA = s.cycA := rfl
@[simp] theorem State.modLead_cycB (s : State) (r : LeadRef) (f : Lead → Lead) : (s.modLead r f).cycB = s.cycB := rfl
@[simp] theorem State.modLead_pkg (s : State) (r : LeadRef) (f : Lead → Lead) : (s.modLead r f).pkg = s.pkg := rfl
@[simp] theorem State.modLead_fw (s : State) (r : LeadRef) (f : Lead → Lead) : (s.modLead r f).fw = s.fw := rfl
@[simp] theorem State.modLead_govA (s : State) (r : LeadRef) (f : Lead → Lead) : (s.modLead r f).govA = s.govA := rfl
@[simp] theorem State.modLead_govB (s : State) (r : LeadRef) (f : Lead → Lead) : (s.modLead r f).govB = s.govB := rfl
@[simp] theorem State.modLead_evt (s : State) (r : LeadRef) (f : Lead → Lead) : (s.modLead r f).evt = s.evt := rfl
@[simp] theorem State.modLead_cmdq (s : State) (r : LeadRef) (f : Lead → Lead) : (s.modLead r f).cmdq = s.cmdq := rfl
@[simp] theorem State.modLead_cmdBusy (s : State) (r : LeadRef) (f : Lead → Lead) : (s.modLead r f).cmdBusy = s.cmdBusy := rfl
@[simp] theorem State.modLead_dbg (s : State) (r : LeadRef) (f : Lead → Lead) : (s.modLead r f).dbg = s.dbg := rfl
@[simp] theorem State.modLead_mem (s : State) (r : LeadRef) (f : Lead → Lead) : (s.modLead r f).mem = s.mem := rfl
@[simp] theorem State.modLead_poison (s : State) (r : LeadRef) (f : Lead → Lead) : (s.modLead r f).poison = s.poison := rfl
@[simp] theorem State.modLead_cached (s : State) (r : LeadRef) (f : Lead → Lead) : (s.modLead r f).cached = s.cached := rfl
@[simp] theorem State.modLead_tags (s : State) (r : LeadRef) (f : Lead → Lead) : (s.modLead r f).tags = s.tags := rfl
@[simp] theorem State.modLead_syncs (s : State) (r : LeadRef) (f : Lead → Lead) : (s.modLead r f).syncs = s.syncs := rfl
@[simp] theorem State.modLead_keySyncs (s : State) (r : LeadRef) (f : Lead → Lead) : (s.modLead r f).keySyncs = s.keySyncs := rfl
@[simp] theorem State.modLead_stamps (s : State) (r : LeadRef) (f : Lead → Lead) : (s.modLead r f).stamps = s.stamps := rfl
@[simp] theorem State.modLead_loads (s : State) (r : LeadRef) (f : Lead → Lead) : (s.modLead r f).loads = s.loads := rfl
@[simp] theorem State.modLead_stores (s : State) (r : LeadRef) (f : Lead → Lead) : (s.modLead r f).stores = s.stores := rfl
@[simp] theorem State.modLead_nextId (s : State) (r : LeadRef) (f : Lead → Lead) : (s.modLead r f).nextId = s.nextId := rfl
@[simp] theorem State.modLead_lastCtx (s : State) (r : LeadRef) (f : Lead → Lead) : (s.modLead r f).lastCtx = s.lastCtx := rfl
@[simp] theorem State.modLead_wakes (s : State) (r : LeadRef) (f : Lead → Lead) : (s.modLead r f).wakes = s.wakes := rfl
@[simp] theorem State.modLead_sideLog (s : State) (r : LeadRef) (f : Lead → Lead) : (s.modLead r f).sideLog = s.sideLog := rfl
@[simp] theorem State.modLead_faults (s : State) (r : LeadRef) (f : Lead → Lead) : (s.modLead r f).faults = s.faults := rfl
@[simp] theorem State.modLead_holds (s : State) (r : LeadRef) (f : Lead → Lead) : (s.modLead r f).holds = s.holds := rfl
@[simp] theorem State.modLead_hot (s : State) (r : LeadRef) (f : Lead → Lead) : (s.modLead r f).hot = s.hot := rfl
@[simp] theorem State.modLead_regions (s : State) (r : LeadRef) (f : Lead → Lead) : (s.modLead r f).regions = s.regions := rfl
@[simp] theorem State.modLead_counters (s : State) (r : LeadRef) (f : Lead → Lead) : (s.modLead r f).counters = s.counters := rfl
@[simp] theorem State.modLead_armA (s : State) (r : LeadRef) (f : Lead → Lead) : (s.modLead r f).armA = s.armA := rfl
@[simp] theorem State.modLead_armB (s : State) (r : LeadRef) (f : Lead → Lead) : (s.modLead r f).armB = s.armB := rfl
@[simp] theorem State.modLead_fired (s : State) (r : LeadRef) (f : Lead → Lead) : (s.modLead r f).fired = s.fired := rfl
@[simp] theorem State.modLead_heldPkts (s : State) (r : LeadRef) (f : Lead → Lead) : (s.modLead r f).heldPkts = s.heldPkts := rfl
@[simp] theorem State.modLead_msgs (s : State) (r : LeadRef) (f : Lead → Lead) : (s.modLead r f).msgs = s.msgs := rfl
@[simp] theorem State.modLead_ctxs (s : State) (r : LeadRef) (f : Lead → Lead) : (s.modLead r f).ctxs = s.ctxs := rfl
@[simp] theorem State.modLead_replays (s : State) (r : LeadRef) (f : Lead → Lead) : (s.modLead r f).replays = s.replays := rfl
@[simp] theorem State.modLead_ckpts (s : State) (r : LeadRef) (f : Lead → Lead) : (s.modLead r f).ckpts = s.ckpts := rfl
@[simp] theorem State.modLead_owed (s : State) (r : LeadRef) (f : Lead → Lead) : (s.modLead r f).owed = s.owed := rfl
@[simp] theorem State.modLead_channels (s : State) (r : LeadRef) (f : Lead → Lead) : (s.modLead r f).channels = s.channels := rfl
@[simp] theorem State.modLead_ops (s : State) (r : LeadRef) (f : Lead → Lead) : (s.modLead r f).ops = s.ops := rfl

@[simp] theorem State.ended_tick (s : State) (x : IResult) : (s.ended x).tick = s.tick := rfl
@[simp] theorem State.ended_inbox (s : State) (x : IResult) : (s.ended x).inbox = s.inbox := rfl
@[simp] theorem State.ended_arg (s : State) (x : IResult) : (s.ended x).arg = s.arg := rfl
@[simp] theorem State.ended_turn (s : State) (x : IResult) : (s.ended x).turn = s.turn := rfl
@[simp] theorem State.ended_out (s : State) (x : IResult) : (s.ended x).out = s.out := rfl
@[simp] theorem State.ended_clocksOn (s : State) (x : IResult) : (s.ended x).clocksOn = s.clocksOn := rfl
@[simp] theorem State.ended_cycA (s : State) (x : IResult) : (s.ended x).cycA = s.cycA := rfl
@[simp] theorem State.ended_cycB (s : State) (x : IResult) : (s.ended x).cycB = s.cycB := rfl
@[simp] theorem State.ended_pkg (s : State) (x : IResult) : (s.ended x).pkg = s.pkg := rfl
@[simp] theorem State.ended_fw (s : State) (x : IResult) : (s.ended x).fw = s.fw := rfl
@[simp] theorem State.ended_govA (s : State) (x : IResult) : (s.ended x).govA = s.govA := rfl
@[simp] theorem State.ended_govB (s : State) (x : IResult) : (s.ended x).govB = s.govB := rfl
@[simp] theorem State.ended_evt (s : State) (x : IResult) : (s.ended x).evt = s.evt := rfl
@[simp] theorem State.ended_cmdq (s : State) (x : IResult) : (s.ended x).cmdq = s.cmdq := rfl
@[simp] theorem State.ended_cmdBusy (s : State) (x : IResult) : (s.ended x).cmdBusy = s.cmdBusy := rfl
@[simp] theorem State.ended_dbg (s : State) (x : IResult) : (s.ended x).dbg = s.dbg := rfl
@[simp] theorem State.ended_mem (s : State) (x : IResult) : (s.ended x).mem = s.mem := rfl
@[simp] theorem State.ended_poison (s : State) (x : IResult) : (s.ended x).poison = s.poison := rfl
@[simp] theorem State.ended_cached (s : State) (x : IResult) : (s.ended x).cached = s.cached := rfl
@[simp] theorem State.ended_tags (s : State) (x : IResult) : (s.ended x).tags = s.tags := rfl
@[simp] theorem State.ended_syncs (s : State) (x : IResult) : (s.ended x).syncs = s.syncs := rfl
@[simp] theorem State.ended_keySyncs (s : State) (x : IResult) : (s.ended x).keySyncs = s.keySyncs := rfl
@[simp] theorem State.ended_stamps (s : State) (x : IResult) : (s.ended x).stamps = s.stamps := rfl
@[simp] theorem State.ended_loads (s : State) (x : IResult) : (s.ended x).loads = s.loads := rfl
@[simp] theorem State.ended_stores (s : State) (x : IResult) : (s.ended x).stores = s.stores := rfl
@[simp] theorem State.ended_nextId (s : State) (x : IResult) : (s.ended x).nextId = s.nextId := rfl
@[simp] theorem State.ended_lastCtx (s : State) (x : IResult) : (s.ended x).lastCtx = s.lastCtx := rfl
@[simp] theorem State.ended_wakes (s : State) (x : IResult) : (s.ended x).wakes = s.wakes := rfl
@[simp] theorem State.ended_sideLog (s : State) (x : IResult) : (s.ended x).sideLog = s.sideLog := rfl
@[simp] theorem State.ended_faults (s : State) (x : IResult) : (s.ended x).faults = s.faults := rfl
@[simp] theorem State.ended_holds (s : State) (x : IResult) : (s.ended x).holds = s.holds := rfl
@[simp] theorem State.ended_hot (s : State) (x : IResult) : (s.ended x).hot = s.hot := rfl
@[simp] theorem State.ended_regions (s : State) (x : IResult) : (s.ended x).regions = s.regions := rfl
@[simp] theorem State.ended_counters (s : State) (x : IResult) : (s.ended x).counters = s.counters := rfl
@[simp] theorem State.ended_armA (s : State) (x : IResult) : (s.ended x).armA = s.armA := rfl
@[simp] theorem State.ended_armB (s : State) (x : IResult) : (s.ended x).armB = s.armB := rfl
@[simp] theorem State.ended_fired (s : State) (x : IResult) : (s.ended x).fired = s.fired := rfl
@[simp] theorem State.ended_heldPkts (s : State) (x : IResult) : (s.ended x).heldPkts = s.heldPkts := rfl
@[simp] theorem State.ended_msgs (s : State) (x : IResult) : (s.ended x).msgs = s.msgs := rfl
@[simp] theorem State.ended_ctxs (s : State) (x : IResult) : (s.ended x).ctxs = s.ctxs := rfl
@[simp] theorem State.ended_replays (s : State) (x : IResult) : (s.ended x).replays = s.replays := rfl
@[simp] theorem State.ended_ckpts (s : State) (x : IResult) : (s.ended x).ckpts = s.ckpts := rfl
@[simp] theorem State.ended_owed (s : State) (x : IResult) : (s.ended x).owed = s.owed := rfl
@[simp] theorem State.ended_channels (s : State) (x : IResult) : (s.ended x).channels = s.channels := rfl
@[simp] theorem State.ended_blocks (s : State) (x : IResult) : (s.ended x).blocks = s.blocks := rfl
@[simp] theorem State.ended_ops (s : State) (x : IResult) : (s.ended x).ops = s.ops := rfl

@[simp] theorem State.noteTaken_tick (s : State) (x : Trap) : (s.noteTaken x).tick = s.tick := rfl
@[simp] theorem State.noteTaken_inbox (s : State) (x : Trap) : (s.noteTaken x).inbox = s.inbox := rfl
@[simp] theorem State.noteTaken_arg (s : State) (x : Trap) : (s.noteTaken x).arg = s.arg := rfl
@[simp] theorem State.noteTaken_turn (s : State) (x : Trap) : (s.noteTaken x).turn = s.turn := rfl
@[simp] theorem State.noteTaken_out (s : State) (x : Trap) : (s.noteTaken x).out = s.out := rfl
@[simp] theorem State.noteTaken_clocksOn (s : State) (x : Trap) : (s.noteTaken x).clocksOn = s.clocksOn := rfl
@[simp] theorem State.noteTaken_cycA (s : State) (x : Trap) : (s.noteTaken x).cycA = s.cycA := rfl
@[simp] theorem State.noteTaken_cycB (s : State) (x : Trap) : (s.noteTaken x).cycB = s.cycB := rfl
@[simp] theorem State.noteTaken_pkg (s : State) (x : Trap) : (s.noteTaken x).pkg = s.pkg := rfl
@[simp] theorem State.noteTaken_fw (s : State) (x : Trap) : (s.noteTaken x).fw = s.fw := rfl
@[simp] theorem State.noteTaken_govA (s : State) (x : Trap) : (s.noteTaken x).govA = s.govA := rfl
@[simp] theorem State.noteTaken_govB (s : State) (x : Trap) : (s.noteTaken x).govB = s.govB := rfl
@[simp] theorem State.noteTaken_evt (s : State) (x : Trap) : (s.noteTaken x).evt = s.evt := rfl
@[simp] theorem State.noteTaken_cmdq (s : State) (x : Trap) : (s.noteTaken x).cmdq = s.cmdq := rfl
@[simp] theorem State.noteTaken_cmdBusy (s : State) (x : Trap) : (s.noteTaken x).cmdBusy = s.cmdBusy := rfl
@[simp] theorem State.noteTaken_dbg (s : State) (x : Trap) : (s.noteTaken x).dbg = s.dbg := rfl
@[simp] theorem State.noteTaken_mem (s : State) (x : Trap) : (s.noteTaken x).mem = s.mem := rfl
@[simp] theorem State.noteTaken_poison (s : State) (x : Trap) : (s.noteTaken x).poison = s.poison := rfl
@[simp] theorem State.noteTaken_cached (s : State) (x : Trap) : (s.noteTaken x).cached = s.cached := rfl
@[simp] theorem State.noteTaken_tags (s : State) (x : Trap) : (s.noteTaken x).tags = s.tags := rfl
@[simp] theorem State.noteTaken_syncs (s : State) (x : Trap) : (s.noteTaken x).syncs = s.syncs := rfl
@[simp] theorem State.noteTaken_keySyncs (s : State) (x : Trap) : (s.noteTaken x).keySyncs = s.keySyncs := rfl
@[simp] theorem State.noteTaken_stamps (s : State) (x : Trap) : (s.noteTaken x).stamps = s.stamps := rfl
@[simp] theorem State.noteTaken_loads (s : State) (x : Trap) : (s.noteTaken x).loads = s.loads := rfl
@[simp] theorem State.noteTaken_stores (s : State) (x : Trap) : (s.noteTaken x).stores = s.stores := rfl
@[simp] theorem State.noteTaken_nextId (s : State) (x : Trap) : (s.noteTaken x).nextId = s.nextId := rfl
@[simp] theorem State.noteTaken_lastCtx (s : State) (x : Trap) : (s.noteTaken x).lastCtx = s.lastCtx := rfl
@[simp] theorem State.noteTaken_wakes (s : State) (x : Trap) : (s.noteTaken x).wakes = s.wakes := rfl
@[simp] theorem State.noteTaken_sideLog (s : State) (x : Trap) : (s.noteTaken x).sideLog = s.sideLog := rfl
@[simp] theorem State.noteTaken_faults (s : State) (x : Trap) : (s.noteTaken x).faults = s.faults := rfl
@[simp] theorem State.noteTaken_holds (s : State) (x : Trap) : (s.noteTaken x).holds = s.holds := rfl
@[simp] theorem State.noteTaken_hot (s : State) (x : Trap) : (s.noteTaken x).hot = s.hot := rfl
@[simp] theorem State.noteTaken_regions (s : State) (x : Trap) : (s.noteTaken x).regions = s.regions := rfl
@[simp] theorem State.noteTaken_counters (s : State) (x : Trap) : (s.noteTaken x).counters = s.counters := rfl
@[simp] theorem State.noteTaken_armA (s : State) (x : Trap) : (s.noteTaken x).armA = s.armA := rfl
@[simp] theorem State.noteTaken_armB (s : State) (x : Trap) : (s.noteTaken x).armB = s.armB := rfl
@[simp] theorem State.noteTaken_fired (s : State) (x : Trap) : (s.noteTaken x).fired = s.fired := rfl
@[simp] theorem State.noteTaken_heldPkts (s : State) (x : Trap) : (s.noteTaken x).heldPkts = s.heldPkts := rfl
@[simp] theorem State.noteTaken_msgs (s : State) (x : Trap) : (s.noteTaken x).msgs = s.msgs := rfl
@[simp] theorem State.noteTaken_ctxs (s : State) (x : Trap) : (s.noteTaken x).ctxs = s.ctxs := rfl
@[simp] theorem State.noteTaken_replays (s : State) (x : Trap) : (s.noteTaken x).replays = s.replays := rfl
@[simp] theorem State.noteTaken_ckpts (s : State) (x : Trap) : (s.noteTaken x).ckpts = s.ckpts := rfl
@[simp] theorem State.noteTaken_owed (s : State) (x : Trap) : (s.noteTaken x).owed = s.owed := rfl
@[simp] theorem State.noteTaken_channels (s : State) (x : Trap) : (s.noteTaken x).channels = s.channels := rfl
@[simp] theorem State.noteTaken_blocks (s : State) (x : Trap) : (s.noteTaken x).blocks = s.blocks := rfl
@[simp] theorem State.noteTaken_ops (s : State) (x : Trap) : (s.noteTaken x).ops = s.ops := rfl

@[simp] theorem State.putReg_tick (s : State) (r : ThreadRef) (l : LReg) (x : Word) (d : Bool) : (s.putReg r l x d).tick = s.tick := rfl
@[simp] theorem State.putReg_inbox (s : State) (r : ThreadRef) (l : LReg) (x : Word) (d : Bool) : (s.putReg r l x d).inbox = s.inbox := rfl
@[simp] theorem State.putReg_arg (s : State) (r : ThreadRef) (l : LReg) (x : Word) (d : Bool) : (s.putReg r l x d).arg = s.arg := rfl
@[simp] theorem State.putReg_turn (s : State) (r : ThreadRef) (l : LReg) (x : Word) (d : Bool) : (s.putReg r l x d).turn = s.turn := rfl
@[simp] theorem State.putReg_issue (s : State) (r : ThreadRef) (l : LReg) (x : Word) (d : Bool) : (s.putReg r l x d).issue = s.issue := rfl
@[simp] theorem State.putReg_out (s : State) (r : ThreadRef) (l : LReg) (x : Word) (d : Bool) : (s.putReg r l x d).out = s.out := rfl
@[simp] theorem State.putReg_clocksOn (s : State) (r : ThreadRef) (l : LReg) (x : Word) (d : Bool) : (s.putReg r l x d).clocksOn = s.clocksOn := rfl
@[simp] theorem State.putReg_cycA (s : State) (r : ThreadRef) (l : LReg) (x : Word) (d : Bool) : (s.putReg r l x d).cycA = s.cycA := rfl
@[simp] theorem State.putReg_cycB (s : State) (r : ThreadRef) (l : LReg) (x : Word) (d : Bool) : (s.putReg r l x d).cycB = s.cycB := rfl
@[simp] theorem State.putReg_pkg (s : State) (r : ThreadRef) (l : LReg) (x : Word) (d : Bool) : (s.putReg r l x d).pkg = s.pkg := rfl
@[simp] theorem State.putReg_fw (s : State) (r : ThreadRef) (l : LReg) (x : Word) (d : Bool) : (s.putReg r l x d).fw = s.fw := rfl
@[simp] theorem State.putReg_govA (s : State) (r : ThreadRef) (l : LReg) (x : Word) (d : Bool) : (s.putReg r l x d).govA = s.govA := rfl
@[simp] theorem State.putReg_govB (s : State) (r : ThreadRef) (l : LReg) (x : Word) (d : Bool) : (s.putReg r l x d).govB = s.govB := rfl
@[simp] theorem State.putReg_evt (s : State) (r : ThreadRef) (l : LReg) (x : Word) (d : Bool) : (s.putReg r l x d).evt = s.evt := rfl
@[simp] theorem State.putReg_cmdq (s : State) (r : ThreadRef) (l : LReg) (x : Word) (d : Bool) : (s.putReg r l x d).cmdq = s.cmdq := rfl
@[simp] theorem State.putReg_cmdBusy (s : State) (r : ThreadRef) (l : LReg) (x : Word) (d : Bool) : (s.putReg r l x d).cmdBusy = s.cmdBusy := rfl
@[simp] theorem State.putReg_dbg (s : State) (r : ThreadRef) (l : LReg) (x : Word) (d : Bool) : (s.putReg r l x d).dbg = s.dbg := rfl
@[simp] theorem State.putReg_mem (s : State) (r : ThreadRef) (l : LReg) (x : Word) (d : Bool) : (s.putReg r l x d).mem = s.mem := rfl
@[simp] theorem State.putReg_poison (s : State) (r : ThreadRef) (l : LReg) (x : Word) (d : Bool) : (s.putReg r l x d).poison = s.poison := rfl
@[simp] theorem State.putReg_cached (s : State) (r : ThreadRef) (l : LReg) (x : Word) (d : Bool) : (s.putReg r l x d).cached = s.cached := rfl
@[simp] theorem State.putReg_tags (s : State) (r : ThreadRef) (l : LReg) (x : Word) (d : Bool) : (s.putReg r l x d).tags = s.tags := rfl
@[simp] theorem State.putReg_syncs (s : State) (r : ThreadRef) (l : LReg) (x : Word) (d : Bool) : (s.putReg r l x d).syncs = s.syncs := rfl
@[simp] theorem State.putReg_keySyncs (s : State) (r : ThreadRef) (l : LReg) (x : Word) (d : Bool) : (s.putReg r l x d).keySyncs = s.keySyncs := rfl
@[simp] theorem State.putReg_stamps (s : State) (r : ThreadRef) (l : LReg) (x : Word) (d : Bool) : (s.putReg r l x d).stamps = s.stamps := rfl
@[simp] theorem State.putReg_stores (s : State) (r : ThreadRef) (l : LReg) (x : Word) (d : Bool) : (s.putReg r l x d).stores = s.stores := rfl
@[simp] theorem State.putReg_nextId (s : State) (r : ThreadRef) (l : LReg) (x : Word) (d : Bool) : (s.putReg r l x d).nextId = s.nextId := rfl
@[simp] theorem State.putReg_lastCtx (s : State) (r : ThreadRef) (l : LReg) (x : Word) (d : Bool) : (s.putReg r l x d).lastCtx = s.lastCtx := rfl
@[simp] theorem State.putReg_wakes (s : State) (r : ThreadRef) (l : LReg) (x : Word) (d : Bool) : (s.putReg r l x d).wakes = s.wakes := rfl
@[simp] theorem State.putReg_sideLog (s : State) (r : ThreadRef) (l : LReg) (x : Word) (d : Bool) : (s.putReg r l x d).sideLog = s.sideLog := rfl
@[simp] theorem State.putReg_faults (s : State) (r : ThreadRef) (l : LReg) (x : Word) (d : Bool) : (s.putReg r l x d).faults = s.faults := rfl
@[simp] theorem State.putReg_holds (s : State) (r : ThreadRef) (l : LReg) (x : Word) (d : Bool) : (s.putReg r l x d).holds = s.holds := rfl
@[simp] theorem State.putReg_hot (s : State) (r : ThreadRef) (l : LReg) (x : Word) (d : Bool) : (s.putReg r l x d).hot = s.hot := rfl
@[simp] theorem State.putReg_regions (s : State) (r : ThreadRef) (l : LReg) (x : Word) (d : Bool) : (s.putReg r l x d).regions = s.regions := rfl
@[simp] theorem State.putReg_counters (s : State) (r : ThreadRef) (l : LReg) (x : Word) (d : Bool) : (s.putReg r l x d).counters = s.counters := rfl
@[simp] theorem State.putReg_armA (s : State) (r : ThreadRef) (l : LReg) (x : Word) (d : Bool) : (s.putReg r l x d).armA = s.armA := rfl
@[simp] theorem State.putReg_armB (s : State) (r : ThreadRef) (l : LReg) (x : Word) (d : Bool) : (s.putReg r l x d).armB = s.armB := rfl
@[simp] theorem State.putReg_fired (s : State) (r : ThreadRef) (l : LReg) (x : Word) (d : Bool) : (s.putReg r l x d).fired = s.fired := rfl
@[simp] theorem State.putReg_heldPkts (s : State) (r : ThreadRef) (l : LReg) (x : Word) (d : Bool) : (s.putReg r l x d).heldPkts = s.heldPkts := rfl
@[simp] theorem State.putReg_msgs (s : State) (r : ThreadRef) (l : LReg) (x : Word) (d : Bool) : (s.putReg r l x d).msgs = s.msgs := rfl
@[simp] theorem State.putReg_ctxs (s : State) (r : ThreadRef) (l : LReg) (x : Word) (d : Bool) : (s.putReg r l x d).ctxs = s.ctxs := rfl
@[simp] theorem State.putReg_replays (s : State) (r : ThreadRef) (l : LReg) (x : Word) (d : Bool) : (s.putReg r l x d).replays = s.replays := rfl
@[simp] theorem State.putReg_ckpts (s : State) (r : ThreadRef) (l : LReg) (x : Word) (d : Bool) : (s.putReg r l x d).ckpts = s.ckpts := rfl
@[simp] theorem State.putReg_owed (s : State) (r : ThreadRef) (l : LReg) (x : Word) (d : Bool) : (s.putReg r l x d).owed = s.owed := rfl
@[simp] theorem State.putReg_channels (s : State) (r : ThreadRef) (l : LReg) (x : Word) (d : Bool) : (s.putReg r l x d).channels = s.channels := rfl
@[simp] theorem State.putReg_ops (s : State) (r : ThreadRef) (l : LReg) (x : Word) (d : Bool) : (s.putReg r l x d).ops = s.ops := rfl

@[simp] theorem State.modOp_tick (s : State) (id : Nat) (f : Op → Op) : (s.modOp id f).tick = s.tick := rfl
@[simp] theorem State.modOp_inbox (s : State) (id : Nat) (f : Op → Op) : (s.modOp id f).inbox = s.inbox := rfl
@[simp] theorem State.modOp_arg (s : State) (id : Nat) (f : Op → Op) : (s.modOp id f).arg = s.arg := rfl
@[simp] theorem State.modOp_turn (s : State) (id : Nat) (f : Op → Op) : (s.modOp id f).turn = s.turn := rfl
@[simp] theorem State.modOp_issue (s : State) (id : Nat) (f : Op → Op) : (s.modOp id f).issue = s.issue := rfl
@[simp] theorem State.modOp_out (s : State) (id : Nat) (f : Op → Op) : (s.modOp id f).out = s.out := rfl
@[simp] theorem State.modOp_clocksOn (s : State) (id : Nat) (f : Op → Op) : (s.modOp id f).clocksOn = s.clocksOn := rfl
@[simp] theorem State.modOp_cycA (s : State) (id : Nat) (f : Op → Op) : (s.modOp id f).cycA = s.cycA := rfl
@[simp] theorem State.modOp_cycB (s : State) (id : Nat) (f : Op → Op) : (s.modOp id f).cycB = s.cycB := rfl
@[simp] theorem State.modOp_pkg (s : State) (id : Nat) (f : Op → Op) : (s.modOp id f).pkg = s.pkg := rfl
@[simp] theorem State.modOp_fw (s : State) (id : Nat) (f : Op → Op) : (s.modOp id f).fw = s.fw := rfl
@[simp] theorem State.modOp_govA (s : State) (id : Nat) (f : Op → Op) : (s.modOp id f).govA = s.govA := rfl
@[simp] theorem State.modOp_govB (s : State) (id : Nat) (f : Op → Op) : (s.modOp id f).govB = s.govB := rfl
@[simp] theorem State.modOp_evt (s : State) (id : Nat) (f : Op → Op) : (s.modOp id f).evt = s.evt := rfl
@[simp] theorem State.modOp_cmdq (s : State) (id : Nat) (f : Op → Op) : (s.modOp id f).cmdq = s.cmdq := rfl
@[simp] theorem State.modOp_cmdBusy (s : State) (id : Nat) (f : Op → Op) : (s.modOp id f).cmdBusy = s.cmdBusy := rfl
@[simp] theorem State.modOp_dbg (s : State) (id : Nat) (f : Op → Op) : (s.modOp id f).dbg = s.dbg := rfl
@[simp] theorem State.modOp_mem (s : State) (id : Nat) (f : Op → Op) : (s.modOp id f).mem = s.mem := rfl
@[simp] theorem State.modOp_poison (s : State) (id : Nat) (f : Op → Op) : (s.modOp id f).poison = s.poison := rfl
@[simp] theorem State.modOp_cached (s : State) (id : Nat) (f : Op → Op) : (s.modOp id f).cached = s.cached := rfl
@[simp] theorem State.modOp_tags (s : State) (id : Nat) (f : Op → Op) : (s.modOp id f).tags = s.tags := rfl
@[simp] theorem State.modOp_syncs (s : State) (id : Nat) (f : Op → Op) : (s.modOp id f).syncs = s.syncs := rfl
@[simp] theorem State.modOp_keySyncs (s : State) (id : Nat) (f : Op → Op) : (s.modOp id f).keySyncs = s.keySyncs := rfl
@[simp] theorem State.modOp_stamps (s : State) (id : Nat) (f : Op → Op) : (s.modOp id f).stamps = s.stamps := rfl
@[simp] theorem State.modOp_loads (s : State) (id : Nat) (f : Op → Op) : (s.modOp id f).loads = s.loads := rfl
@[simp] theorem State.modOp_stores (s : State) (id : Nat) (f : Op → Op) : (s.modOp id f).stores = s.stores := rfl
@[simp] theorem State.modOp_nextId (s : State) (id : Nat) (f : Op → Op) : (s.modOp id f).nextId = s.nextId := rfl
@[simp] theorem State.modOp_lastCtx (s : State) (id : Nat) (f : Op → Op) : (s.modOp id f).lastCtx = s.lastCtx := rfl
@[simp] theorem State.modOp_wakes (s : State) (id : Nat) (f : Op → Op) : (s.modOp id f).wakes = s.wakes := rfl
@[simp] theorem State.modOp_sideLog (s : State) (id : Nat) (f : Op → Op) : (s.modOp id f).sideLog = s.sideLog := rfl
@[simp] theorem State.modOp_faults (s : State) (id : Nat) (f : Op → Op) : (s.modOp id f).faults = s.faults := rfl
@[simp] theorem State.modOp_holds (s : State) (id : Nat) (f : Op → Op) : (s.modOp id f).holds = s.holds := rfl
@[simp] theorem State.modOp_hot (s : State) (id : Nat) (f : Op → Op) : (s.modOp id f).hot = s.hot := rfl
@[simp] theorem State.modOp_regions (s : State) (id : Nat) (f : Op → Op) : (s.modOp id f).regions = s.regions := rfl
@[simp] theorem State.modOp_counters (s : State) (id : Nat) (f : Op → Op) : (s.modOp id f).counters = s.counters := rfl
@[simp] theorem State.modOp_armA (s : State) (id : Nat) (f : Op → Op) : (s.modOp id f).armA = s.armA := rfl
@[simp] theorem State.modOp_armB (s : State) (id : Nat) (f : Op → Op) : (s.modOp id f).armB = s.armB := rfl
@[simp] theorem State.modOp_fired (s : State) (id : Nat) (f : Op → Op) : (s.modOp id f).fired = s.fired := rfl
@[simp] theorem State.modOp_heldPkts (s : State) (id : Nat) (f : Op → Op) : (s.modOp id f).heldPkts = s.heldPkts := rfl
@[simp] theorem State.modOp_msgs (s : State) (id : Nat) (f : Op → Op) : (s.modOp id f).msgs = s.msgs := rfl
@[simp] theorem State.modOp_ctxs (s : State) (id : Nat) (f : Op → Op) : (s.modOp id f).ctxs = s.ctxs := rfl
@[simp] theorem State.modOp_replays (s : State) (id : Nat) (f : Op → Op) : (s.modOp id f).replays = s.replays := rfl
@[simp] theorem State.modOp_ckpts (s : State) (id : Nat) (f : Op → Op) : (s.modOp id f).ckpts = s.ckpts := rfl
@[simp] theorem State.modOp_owed (s : State) (id : Nat) (f : Op → Op) : (s.modOp id f).owed = s.owed := rfl
@[simp] theorem State.modOp_channels (s : State) (id : Nat) (f : Op → Op) : (s.modOp id f).channels = s.channels := rfl
@[simp] theorem State.modOp_blocks (s : State) (id : Nat) (f : Op → Op) : (s.modOp id f).blocks = s.blocks := rfl

@[simp] theorem State.dropOp_tick (s : State) (id : Nat) : (s.dropOp id).tick = s.tick := rfl
@[simp] theorem State.dropOp_inbox (s : State) (id : Nat) : (s.dropOp id).inbox = s.inbox := rfl
@[simp] theorem State.dropOp_arg (s : State) (id : Nat) : (s.dropOp id).arg = s.arg := rfl
@[simp] theorem State.dropOp_turn (s : State) (id : Nat) : (s.dropOp id).turn = s.turn := rfl
@[simp] theorem State.dropOp_issue (s : State) (id : Nat) : (s.dropOp id).issue = s.issue := rfl
@[simp] theorem State.dropOp_out (s : State) (id : Nat) : (s.dropOp id).out = s.out := rfl
@[simp] theorem State.dropOp_clocksOn (s : State) (id : Nat) : (s.dropOp id).clocksOn = s.clocksOn := rfl
@[simp] theorem State.dropOp_cycA (s : State) (id : Nat) : (s.dropOp id).cycA = s.cycA := rfl
@[simp] theorem State.dropOp_cycB (s : State) (id : Nat) : (s.dropOp id).cycB = s.cycB := rfl
@[simp] theorem State.dropOp_pkg (s : State) (id : Nat) : (s.dropOp id).pkg = s.pkg := rfl
@[simp] theorem State.dropOp_fw (s : State) (id : Nat) : (s.dropOp id).fw = s.fw := rfl
@[simp] theorem State.dropOp_govA (s : State) (id : Nat) : (s.dropOp id).govA = s.govA := rfl
@[simp] theorem State.dropOp_govB (s : State) (id : Nat) : (s.dropOp id).govB = s.govB := rfl
@[simp] theorem State.dropOp_evt (s : State) (id : Nat) : (s.dropOp id).evt = s.evt := rfl
@[simp] theorem State.dropOp_cmdq (s : State) (id : Nat) : (s.dropOp id).cmdq = s.cmdq := rfl
@[simp] theorem State.dropOp_cmdBusy (s : State) (id : Nat) : (s.dropOp id).cmdBusy = s.cmdBusy := rfl
@[simp] theorem State.dropOp_dbg (s : State) (id : Nat) : (s.dropOp id).dbg = s.dbg := rfl
@[simp] theorem State.dropOp_mem (s : State) (id : Nat) : (s.dropOp id).mem = s.mem := rfl
@[simp] theorem State.dropOp_poison (s : State) (id : Nat) : (s.dropOp id).poison = s.poison := rfl
@[simp] theorem State.dropOp_cached (s : State) (id : Nat) : (s.dropOp id).cached = s.cached := rfl
@[simp] theorem State.dropOp_tags (s : State) (id : Nat) : (s.dropOp id).tags = s.tags := rfl
@[simp] theorem State.dropOp_syncs (s : State) (id : Nat) : (s.dropOp id).syncs = s.syncs := rfl
@[simp] theorem State.dropOp_keySyncs (s : State) (id : Nat) : (s.dropOp id).keySyncs = s.keySyncs := rfl
@[simp] theorem State.dropOp_stamps (s : State) (id : Nat) : (s.dropOp id).stamps = s.stamps := rfl
@[simp] theorem State.dropOp_loads (s : State) (id : Nat) : (s.dropOp id).loads = s.loads := rfl
@[simp] theorem State.dropOp_stores (s : State) (id : Nat) : (s.dropOp id).stores = s.stores := rfl
@[simp] theorem State.dropOp_nextId (s : State) (id : Nat) : (s.dropOp id).nextId = s.nextId := rfl
@[simp] theorem State.dropOp_lastCtx (s : State) (id : Nat) : (s.dropOp id).lastCtx = s.lastCtx := rfl
@[simp] theorem State.dropOp_wakes (s : State) (id : Nat) : (s.dropOp id).wakes = s.wakes := rfl
@[simp] theorem State.dropOp_sideLog (s : State) (id : Nat) : (s.dropOp id).sideLog = s.sideLog := rfl
@[simp] theorem State.dropOp_faults (s : State) (id : Nat) : (s.dropOp id).faults = s.faults := rfl
@[simp] theorem State.dropOp_holds (s : State) (id : Nat) : (s.dropOp id).holds = s.holds := rfl
@[simp] theorem State.dropOp_hot (s : State) (id : Nat) : (s.dropOp id).hot = s.hot := rfl
@[simp] theorem State.dropOp_regions (s : State) (id : Nat) : (s.dropOp id).regions = s.regions := rfl
@[simp] theorem State.dropOp_counters (s : State) (id : Nat) : (s.dropOp id).counters = s.counters := rfl
@[simp] theorem State.dropOp_armA (s : State) (id : Nat) : (s.dropOp id).armA = s.armA := rfl
@[simp] theorem State.dropOp_armB (s : State) (id : Nat) : (s.dropOp id).armB = s.armB := rfl
@[simp] theorem State.dropOp_fired (s : State) (id : Nat) : (s.dropOp id).fired = s.fired := rfl
@[simp] theorem State.dropOp_heldPkts (s : State) (id : Nat) : (s.dropOp id).heldPkts = s.heldPkts := rfl
@[simp] theorem State.dropOp_msgs (s : State) (id : Nat) : (s.dropOp id).msgs = s.msgs := rfl
@[simp] theorem State.dropOp_ctxs (s : State) (id : Nat) : (s.dropOp id).ctxs = s.ctxs := rfl
@[simp] theorem State.dropOp_replays (s : State) (id : Nat) : (s.dropOp id).replays = s.replays := rfl
@[simp] theorem State.dropOp_ckpts (s : State) (id : Nat) : (s.dropOp id).ckpts = s.ckpts := rfl
@[simp] theorem State.dropOp_owed (s : State) (id : Nat) : (s.dropOp id).owed = s.owed := rfl
@[simp] theorem State.dropOp_channels (s : State) (id : Nat) : (s.dropOp id).channels = s.channels := rfl
@[simp] theorem State.dropOp_blocks (s : State) (id : Nat) : (s.dropOp id).blocks = s.blocks := rfl

@[simp] theorem State.modCtx_tick (s : State) (n : Nat) (f : Ctx → Ctx) : (s.modCtx n f).tick = s.tick := rfl
@[simp] theorem State.modCtx_inbox (s : State) (n : Nat) (f : Ctx → Ctx) : (s.modCtx n f).inbox = s.inbox := rfl
@[simp] theorem State.modCtx_arg (s : State) (n : Nat) (f : Ctx → Ctx) : (s.modCtx n f).arg = s.arg := rfl
@[simp] theorem State.modCtx_turn (s : State) (n : Nat) (f : Ctx → Ctx) : (s.modCtx n f).turn = s.turn := rfl
@[simp] theorem State.modCtx_issue (s : State) (n : Nat) (f : Ctx → Ctx) : (s.modCtx n f).issue = s.issue := rfl
@[simp] theorem State.modCtx_out (s : State) (n : Nat) (f : Ctx → Ctx) : (s.modCtx n f).out = s.out := rfl
@[simp] theorem State.modCtx_clocksOn (s : State) (n : Nat) (f : Ctx → Ctx) : (s.modCtx n f).clocksOn = s.clocksOn := rfl
@[simp] theorem State.modCtx_cycA (s : State) (n : Nat) (f : Ctx → Ctx) : (s.modCtx n f).cycA = s.cycA := rfl
@[simp] theorem State.modCtx_cycB (s : State) (n : Nat) (f : Ctx → Ctx) : (s.modCtx n f).cycB = s.cycB := rfl
@[simp] theorem State.modCtx_pkg (s : State) (n : Nat) (f : Ctx → Ctx) : (s.modCtx n f).pkg = s.pkg := rfl
@[simp] theorem State.modCtx_fw (s : State) (n : Nat) (f : Ctx → Ctx) : (s.modCtx n f).fw = s.fw := rfl
@[simp] theorem State.modCtx_govA (s : State) (n : Nat) (f : Ctx → Ctx) : (s.modCtx n f).govA = s.govA := rfl
@[simp] theorem State.modCtx_govB (s : State) (n : Nat) (f : Ctx → Ctx) : (s.modCtx n f).govB = s.govB := rfl
@[simp] theorem State.modCtx_evt (s : State) (n : Nat) (f : Ctx → Ctx) : (s.modCtx n f).evt = s.evt := rfl
@[simp] theorem State.modCtx_cmdq (s : State) (n : Nat) (f : Ctx → Ctx) : (s.modCtx n f).cmdq = s.cmdq := rfl
@[simp] theorem State.modCtx_cmdBusy (s : State) (n : Nat) (f : Ctx → Ctx) : (s.modCtx n f).cmdBusy = s.cmdBusy := rfl
@[simp] theorem State.modCtx_dbg (s : State) (n : Nat) (f : Ctx → Ctx) : (s.modCtx n f).dbg = s.dbg := rfl
@[simp] theorem State.modCtx_mem (s : State) (n : Nat) (f : Ctx → Ctx) : (s.modCtx n f).mem = s.mem := rfl
@[simp] theorem State.modCtx_poison (s : State) (n : Nat) (f : Ctx → Ctx) : (s.modCtx n f).poison = s.poison := rfl
@[simp] theorem State.modCtx_cached (s : State) (n : Nat) (f : Ctx → Ctx) : (s.modCtx n f).cached = s.cached := rfl
@[simp] theorem State.modCtx_tags (s : State) (n : Nat) (f : Ctx → Ctx) : (s.modCtx n f).tags = s.tags := rfl
@[simp] theorem State.modCtx_syncs (s : State) (n : Nat) (f : Ctx → Ctx) : (s.modCtx n f).syncs = s.syncs := rfl
@[simp] theorem State.modCtx_keySyncs (s : State) (n : Nat) (f : Ctx → Ctx) : (s.modCtx n f).keySyncs = s.keySyncs := rfl
@[simp] theorem State.modCtx_stamps (s : State) (n : Nat) (f : Ctx → Ctx) : (s.modCtx n f).stamps = s.stamps := rfl
@[simp] theorem State.modCtx_loads (s : State) (n : Nat) (f : Ctx → Ctx) : (s.modCtx n f).loads = s.loads := rfl
@[simp] theorem State.modCtx_stores (s : State) (n : Nat) (f : Ctx → Ctx) : (s.modCtx n f).stores = s.stores := rfl
@[simp] theorem State.modCtx_nextId (s : State) (n : Nat) (f : Ctx → Ctx) : (s.modCtx n f).nextId = s.nextId := rfl
@[simp] theorem State.modCtx_lastCtx (s : State) (n : Nat) (f : Ctx → Ctx) : (s.modCtx n f).lastCtx = s.lastCtx := rfl
@[simp] theorem State.modCtx_wakes (s : State) (n : Nat) (f : Ctx → Ctx) : (s.modCtx n f).wakes = s.wakes := rfl
@[simp] theorem State.modCtx_sideLog (s : State) (n : Nat) (f : Ctx → Ctx) : (s.modCtx n f).sideLog = s.sideLog := rfl
@[simp] theorem State.modCtx_faults (s : State) (n : Nat) (f : Ctx → Ctx) : (s.modCtx n f).faults = s.faults := rfl
@[simp] theorem State.modCtx_holds (s : State) (n : Nat) (f : Ctx → Ctx) : (s.modCtx n f).holds = s.holds := rfl
@[simp] theorem State.modCtx_hot (s : State) (n : Nat) (f : Ctx → Ctx) : (s.modCtx n f).hot = s.hot := rfl
@[simp] theorem State.modCtx_regions (s : State) (n : Nat) (f : Ctx → Ctx) : (s.modCtx n f).regions = s.regions := rfl
@[simp] theorem State.modCtx_counters (s : State) (n : Nat) (f : Ctx → Ctx) : (s.modCtx n f).counters = s.counters := rfl
@[simp] theorem State.modCtx_armA (s : State) (n : Nat) (f : Ctx → Ctx) : (s.modCtx n f).armA = s.armA := rfl
@[simp] theorem State.modCtx_armB (s : State) (n : Nat) (f : Ctx → Ctx) : (s.modCtx n f).armB = s.armB := rfl
@[simp] theorem State.modCtx_fired (s : State) (n : Nat) (f : Ctx → Ctx) : (s.modCtx n f).fired = s.fired := rfl
@[simp] theorem State.modCtx_heldPkts (s : State) (n : Nat) (f : Ctx → Ctx) : (s.modCtx n f).heldPkts = s.heldPkts := rfl
@[simp] theorem State.modCtx_msgs (s : State) (n : Nat) (f : Ctx → Ctx) : (s.modCtx n f).msgs = s.msgs := rfl
@[simp] theorem State.modCtx_replays (s : State) (n : Nat) (f : Ctx → Ctx) : (s.modCtx n f).replays = s.replays := rfl
@[simp] theorem State.modCtx_ckpts (s : State) (n : Nat) (f : Ctx → Ctx) : (s.modCtx n f).ckpts = s.ckpts := rfl
@[simp] theorem State.modCtx_owed (s : State) (n : Nat) (f : Ctx → Ctx) : (s.modCtx n f).owed = s.owed := rfl
@[simp] theorem State.modCtx_channels (s : State) (n : Nat) (f : Ctx → Ctx) : (s.modCtx n f).channels = s.channels := rfl
@[simp] theorem State.modCtx_blocks (s : State) (n : Nat) (f : Ctx → Ctx) : (s.modCtx n f).blocks = s.blocks := rfl
@[simp] theorem State.modCtx_ops (s : State) (n : Nat) (f : Ctx → Ctx) : (s.modCtx n f).ops = s.ops := rfl

@[simp] theorem State.advance_inbox (s : State) : s.advance.inbox = s.inbox := rfl
@[simp] theorem State.advance_arg (s : State) : s.advance.arg = s.arg := rfl
@[simp] theorem State.advance_turn (s : State) : s.advance.turn = s.turn := rfl
@[simp] theorem State.advance_issue (s : State) : s.advance.issue = s.issue := rfl
@[simp] theorem State.advance_out (s : State) : s.advance.out = s.out := rfl
@[simp] theorem State.advance_clocksOn (s : State) : s.advance.clocksOn = s.clocksOn := rfl
@[simp] theorem State.advance_pkg (s : State) : s.advance.pkg = s.pkg := rfl
@[simp] theorem State.advance_fw (s : State) : s.advance.fw = s.fw := rfl
@[simp] theorem State.advance_govA (s : State) : s.advance.govA = s.govA := rfl
@[simp] theorem State.advance_govB (s : State) : s.advance.govB = s.govB := rfl
@[simp] theorem State.advance_evt (s : State) : s.advance.evt = s.evt := rfl
@[simp] theorem State.advance_cmdq (s : State) : s.advance.cmdq = s.cmdq := rfl
@[simp] theorem State.advance_cmdBusy (s : State) : s.advance.cmdBusy = s.cmdBusy := rfl
@[simp] theorem State.advance_dbg (s : State) : s.advance.dbg = s.dbg := rfl
@[simp] theorem State.advance_mem (s : State) : s.advance.mem = s.mem := rfl
@[simp] theorem State.advance_poison (s : State) : s.advance.poison = s.poison := rfl
@[simp] theorem State.advance_cached (s : State) : s.advance.cached = s.cached := rfl
@[simp] theorem State.advance_tags (s : State) : s.advance.tags = s.tags := rfl
@[simp] theorem State.advance_syncs (s : State) : s.advance.syncs = s.syncs := rfl
@[simp] theorem State.advance_keySyncs (s : State) : s.advance.keySyncs = s.keySyncs := rfl
@[simp] theorem State.advance_stamps (s : State) : s.advance.stamps = s.stamps := rfl
@[simp] theorem State.advance_loads (s : State) : s.advance.loads = s.loads := rfl
@[simp] theorem State.advance_stores (s : State) : s.advance.stores = s.stores := rfl
@[simp] theorem State.advance_nextId (s : State) : s.advance.nextId = s.nextId := rfl
@[simp] theorem State.advance_lastCtx (s : State) : s.advance.lastCtx = s.lastCtx := rfl
@[simp] theorem State.advance_wakes (s : State) : s.advance.wakes = s.wakes := rfl
@[simp] theorem State.advance_sideLog (s : State) : s.advance.sideLog = s.sideLog := rfl
@[simp] theorem State.advance_faults (s : State) : s.advance.faults = s.faults := rfl
@[simp] theorem State.advance_holds (s : State) : s.advance.holds = s.holds := rfl
@[simp] theorem State.advance_hot (s : State) : s.advance.hot = s.hot := rfl
@[simp] theorem State.advance_regions (s : State) : s.advance.regions = s.regions := rfl
@[simp] theorem State.advance_counters (s : State) : s.advance.counters = s.counters := rfl
@[simp] theorem State.advance_armA (s : State) : s.advance.armA = s.armA := rfl
@[simp] theorem State.advance_armB (s : State) : s.advance.armB = s.armB := rfl
@[simp] theorem State.advance_fired (s : State) : s.advance.fired = s.fired := rfl
@[simp] theorem State.advance_heldPkts (s : State) : s.advance.heldPkts = s.heldPkts := rfl
@[simp] theorem State.advance_msgs (s : State) : s.advance.msgs = s.msgs := rfl
@[simp] theorem State.advance_ctxs (s : State) : s.advance.ctxs = s.ctxs := rfl
@[simp] theorem State.advance_replays (s : State) : s.advance.replays = s.replays := rfl
@[simp] theorem State.advance_ckpts (s : State) : s.advance.ckpts = s.ckpts := rfl
@[simp] theorem State.advance_owed (s : State) : s.advance.owed = s.owed := rfl
@[simp] theorem State.advance_channels (s : State) : s.advance.channels = s.channels := rfl
@[simp] theorem State.advance_blocks (s : State) : s.advance.blocks = s.blocks := rfl
@[simp] theorem State.advance_ops (s : State) : s.advance.ops = s.ops := rfl
@[simp] theorem State.noteReady_tick (s : State) : s.noteReady.tick = s.tick := rfl
@[simp] theorem State.noteReady_cycA (s : State) : s.noteReady.cycA = s.cycA := rfl
@[simp] theorem State.noteReady_cycB (s : State) : s.noteReady.cycB = s.cycB := rfl
@[simp] theorem State.noteReady_inbox (s : State) : s.noteReady.inbox = s.inbox := rfl
@[simp] theorem State.noteReady_arg (s : State) : s.noteReady.arg = s.arg := rfl
@[simp] theorem State.noteReady_turn (s : State) : s.noteReady.turn = s.turn := rfl
@[simp] theorem State.noteReady_issue (s : State) : s.noteReady.issue = s.issue := rfl
@[simp] theorem State.noteReady_out (s : State) : s.noteReady.out = s.out := rfl
@[simp] theorem State.noteReady_clocksOn (s : State) : s.noteReady.clocksOn = s.clocksOn := rfl
@[simp] theorem State.noteReady_pkg (s : State) : s.noteReady.pkg = s.pkg := rfl
@[simp] theorem State.noteReady_fw (s : State) : s.noteReady.fw = s.fw := rfl
@[simp] theorem State.noteReady_govA (s : State) : s.noteReady.govA = s.govA := rfl
@[simp] theorem State.noteReady_govB (s : State) : s.noteReady.govB = s.govB := rfl
@[simp] theorem State.noteReady_evt (s : State) : s.noteReady.evt = s.evt := rfl
@[simp] theorem State.noteReady_cmdq (s : State) : s.noteReady.cmdq = s.cmdq := rfl
@[simp] theorem State.noteReady_cmdBusy (s : State) : s.noteReady.cmdBusy = s.cmdBusy := rfl
@[simp] theorem State.noteReady_dbg (s : State) : s.noteReady.dbg = s.dbg := rfl
@[simp] theorem State.noteReady_mem (s : State) : s.noteReady.mem = s.mem := rfl
@[simp] theorem State.noteReady_poison (s : State) : s.noteReady.poison = s.poison := rfl
@[simp] theorem State.noteReady_cached (s : State) : s.noteReady.cached = s.cached := rfl
@[simp] theorem State.noteReady_tags (s : State) : s.noteReady.tags = s.tags := rfl
@[simp] theorem State.noteReady_syncs (s : State) : s.noteReady.syncs = s.syncs := rfl
@[simp] theorem State.noteReady_keySyncs (s : State) : s.noteReady.keySyncs = s.keySyncs := rfl
@[simp] theorem State.noteReady_stamps (s : State) : s.noteReady.stamps = s.stamps := rfl
@[simp] theorem State.noteReady_loads (s : State) : s.noteReady.loads = s.loads := rfl
@[simp] theorem State.noteReady_stores (s : State) : s.noteReady.stores = s.stores := rfl
@[simp] theorem State.noteReady_nextId (s : State) : s.noteReady.nextId = s.nextId := rfl
@[simp] theorem State.noteReady_lastCtx (s : State) : s.noteReady.lastCtx = s.lastCtx := rfl
@[simp] theorem State.noteReady_wakes (s : State) : s.noteReady.wakes = s.wakes := rfl
@[simp] theorem State.noteReady_sideLog (s : State) : s.noteReady.sideLog = s.sideLog := rfl
@[simp] theorem State.noteReady_faults (s : State) : s.noteReady.faults = s.faults := rfl
@[simp] theorem State.noteReady_holds (s : State) : s.noteReady.holds = s.holds := rfl
@[simp] theorem State.noteReady_hot (s : State) : s.noteReady.hot = s.hot := rfl
@[simp] theorem State.noteReady_regions (s : State) : s.noteReady.regions = s.regions := rfl
@[simp] theorem State.noteReady_counters (s : State) : s.noteReady.counters = s.counters := rfl
@[simp] theorem State.noteReady_armA (s : State) : s.noteReady.armA = s.armA := rfl
@[simp] theorem State.noteReady_armB (s : State) : s.noteReady.armB = s.armB := rfl
@[simp] theorem State.noteReady_fired (s : State) : s.noteReady.fired = s.fired := rfl
@[simp] theorem State.noteReady_heldPkts (s : State) : s.noteReady.heldPkts = s.heldPkts := rfl
@[simp] theorem State.noteReady_msgs (s : State) : s.noteReady.msgs = s.msgs := rfl
@[simp] theorem State.noteReady_ctxs (s : State) : s.noteReady.ctxs = s.ctxs := rfl
@[simp] theorem State.noteReady_replays (s : State) : s.noteReady.replays = s.replays := rfl
@[simp] theorem State.noteReady_ckpts (s : State) : s.noteReady.ckpts = s.ckpts := rfl
@[simp] theorem State.noteReady_owed (s : State) : s.noteReady.owed = s.owed := rfl
@[simp] theorem State.noteReady_channels (s : State) : s.noteReady.channels = s.channels := rfl
@[simp] theorem State.noteReady_ops (s : State) : s.noteReady.ops = s.ops := rfl

end Sys2Proof.Machine
end

