-- ==== Sys2Proof/Laws/Blocks.lean ====
section
/-! SUPPORT. Blocks, threads and lead contexts after an update of one of them; registers after a write of one. -/

namespace Sys2Proof.Machine

/-! Blocks. -/

theorem find_map_id {l : List Block} {k id : Nat} {f : Block → Block} (hf : ∀ b, (f b).id = b.id) :
    (l.map fun b => if b.id = k then f b else b).find? (fun b => b.id = id) =
      (l.find? fun b => b.id = id).map fun b => if b.id = k then f b else b := by
  have hp : ((fun b => decide (b.id = id)) ∘ fun b => if b.id = k then f b else b) = fun b : Block => decide (b.id = id) := by
    funext b
    simp only [Function.comp]
    split <;> simp_all
  rw [List.find?_map, hp]

theorem State.block?_modBlock (s : State) (k id : Nat) (f : Block → Block) (hf : ∀ b, (f b).id = b.id) :
    (s.modBlock k f).block? id = (s.block? id).map fun b => if b.id = k then f b else b := by
  simp only [State.block?, State.modBlock]
  exact find_map_id hf

theorem State.block?_id {s : State} {id : Nat} {b : Block} (h : s.block? id = some b) : b.id = id := by
  have := List.find?_some h
  simpa using this

theorem State.block?_modBlock_self (s : State) (id : Nat) (f : Block → Block) (hf : ∀ b, (f b).id = b.id) :
    (s.modBlock id f).block? id = (s.block? id).map f := by
  rw [s.block?_modBlock _ _ f hf]
  cases h : s.block? id with
  | none => rfl
  | some b => simp [State.block?_id h]

theorem State.block?_modBlock_ne (s : State) {k id : Nat} (f : Block → Block) (hf : ∀ b, (f b).id = b.id) (hk : id ≠ k) :
    (s.modBlock k f).block? id = s.block? id := by
  rw [s.block?_modBlock _ _ f hf]
  cases h : s.block? id with
  | none => rfl
  | some b => simp [State.block?_id h, hk]

@[simp] theorem Block.modThread_id (b : Block) (t : Nat) (f : Thread → Thread) : (b.modThread t f).id = b.id := rfl
@[simp] theorem Block.modShare_id (b : Block) (j : Nat) (f : Share → Share) : (b.modShare j f).id = b.id := rfl

/-! Threads. -/

theorem State.block?_modThread (s : State) (r : ThreadRef) (f : Thread → Thread) :
    (s.modThread r f).block? r.block = (s.block? r.block).map fun b => b.modThread r.t f :=
  s.block?_modBlock_self _ _ fun _ => rfl

theorem State.block?_modThread_ne (s : State) (r : ThreadRef) (f : Thread → Thread) {id : Nat} (h : id ≠ r.block) :
    (s.modThread r f).block? id = s.block? id := s.block?_modBlock_ne _ (fun _ => rfl) h

@[simp] theorem State.thread?_modThread (s : State) (r : ThreadRef) (f : Thread → Thread) :
    (s.modThread r f).thread? r = (s.thread? r).map f := by
  simp only [State.thread?, s.block?_modThread]
  cases s.block? r.block with
  | none => rfl
  | some b => simp [Block.modThread]

theorem State.thread?_modThread_ne (s : State) {r q : ThreadRef} (f : Thread → Thread) (h : q ≠ r) :
    (s.modThread r f).thread? q = s.thread? q := by
  by_cases hb : q.block = r.block
  · have ht : q.t ≠ r.t := fun ht => h (by cases q; cases r; simp_all)
    simp only [State.thread?, hb, s.block?_modThread]
    cases s.block? r.block with
    | none => rfl
    | some b => simp [Block.modThread, ht.symm]
  · simp only [State.thread?, s.block?_modThread_ne _ _ hb]

@[simp] theorem State.bare_modThread (s : State) (r : ThreadRef) (f : Thread → Thread) (id : Nat) :
    ((s.modThread r f).block? id).map Block.bare = (s.block? id).map Block.bare := by
  by_cases hb : id = r.block
  · subst hb
    rw [s.block?_modThread]
    cases s.block? r.block <;> rfl
  · rw [s.block?_modThread_ne _ _ hb]

theorem State.onlyThread_modThread (s : State) (r : ThreadRef) (f : Thread → Thread) : s.onlyThread (s.modThread r f) r :=
  ⟨fun _ h => s.thread?_modThread_ne f h, fun id => s.bare_modThread r f id⟩

theorem State.onlyThread.refl (s : State) (r : ThreadRef) : s.onlyThread s r := ⟨fun _ _ => rfl, fun _ => rfl⟩

theorem State.onlyThread.trans {s t u : State} {r : ThreadRef} (h : s.onlyThread t r) (k : t.onlyThread u r) : s.onlyThread u r :=
  ⟨fun q hq => (k.1 q hq).trans (h.1 q hq), fun id => (k.2 id).trans (h.2 id)⟩

theorem State.thread?_congr {s t : State} (h : t.blocks = s.blocks) (r : ThreadRef) : t.thread? r = s.thread? r := by
  simp only [State.thread?, State.block?, h]

theorem State.onlyThread_congr {s t u : State} {r : ThreadRef} (h : s.onlyThread t r) (hb : u.blocks = t.blocks) : s.onlyThread u r := by
  refine ⟨fun q hq => ?_, fun id => ?_⟩
  · rw [State.thread?_congr hb]; exact h.1 q hq
  · simp only [State.block?, hb]; exact h.2 id

@[simp] theorem State.block?_ended (s : State) (x : IResult) (id : Nat) : (s.ended x).block? id = s.block? id := rfl
@[simp] theorem State.thread?_ended (s : State) (x : IResult) (r : ThreadRef) : (s.ended x).thread? r = s.thread? r := rfl
@[simp] theorem State.share?_ended (s : State) (x : IResult) (id j : Nat) : (s.ended x).share? id j = s.share? id j := rfl
@[simp] theorem State.lead?_ended (s : State) (x : IResult) (l : LeadRef) : (s.ended x).lead? l = s.lead? l := rfl

/-! Shares and lead contexts. -/

theorem State.block?_modShare (s : State) (id j : Nat) (f : Share → Share) :
    (s.modShare id j f).block? id = (s.block? id).map fun b => b.modShare j f := s.block?_modBlock_self _ _ fun _ => rfl

theorem State.block?_modShare_ne (s : State) {id k : Nat} (j : Nat) (f : Share → Share) (h : k ≠ id) :
    (s.modShare id j f).block? k = s.block? k := s.block?_modBlock_ne _ (fun _ => rfl) h

@[simp] theorem State.share?_modShare (s : State) (id j : Nat) (f : Share → Share) :
    (s.modShare id j f).share? id j = (s.share? id j).map f := by
  simp only [State.share?, s.block?_modShare]
  cases s.block? id with
  | none => rfl
  | some b => simp [Block.modShare]

theorem State.share?_modShare_ne (s : State) {id j k i : Nat} (f : Share → Share) (h : ¬(k = id ∧ i = j)) :
    (s.modShare id j f).share? k i = s.share? k i := by
  by_cases hb : k = id
  · subst hb
    have hj : j ≠ i := fun e => h ⟨rfl, e.symm⟩
    simp only [State.share?, s.block?_modShare]
    cases s.block? k with
    | none => rfl
    | some b => simp [Block.modShare, hj]
  · simp only [State.share?, s.block?_modShare_ne _ _ hb]

@[simp] theorem State.thread?_modShare (s : State) (id j : Nat) (f : Share → Share) (q : ThreadRef) :
    (s.modShare id j f).thread? q = s.thread? q := by
  by_cases hb : q.block = id
  · simp only [State.thread?, hb, s.block?_modShare]
    cases s.block? id <;> rfl
  · simp only [State.thread?, s.block?_modShare_ne _ _ hb]

@[simp] theorem State.lead?_modLead (s : State) (r : LeadRef) (f : Lead → Lead) : (s.modLead r f).lead? r = (s.lead? r).map f := by
  simp only [State.lead?, State.modLead, State.share?_modShare, Option.map_map]
  rfl

theorem State.lead?_modLead_ne (s : State) {r q : LeadRef} (f : Lead → Lead) (h : q ≠ r) : (s.modLead r f).lead? q = s.lead? q := by
  simp only [State.lead?, State.modLead]
  rw [State.share?_modShare_ne]
  rintro ⟨h1, h2⟩
  exact h (by cases q; cases r; simp_all)

@[simp] theorem State.thread?_modLead (s : State) (r : LeadRef) (f : Lead → Lead) (q : ThreadRef) :
    (s.modLead r f).thread? q = s.thread? q := s.thread?_modShare _ _ _ _

theorem State.onlyLead.refl (s : State) (r : LeadRef) : s.onlyLead s r := ⟨fun _ _ => rfl, fun _ => rfl, fun _ _ => rfl⟩

theorem State.onlyLead.trans {s t u : State} {r : LeadRef} (h : s.onlyLead t r) (k : t.onlyLead u r) : s.onlyLead u r :=
  ⟨fun q hq => (k.1 q hq).trans (h.1 q hq), fun q => (k.2.1 q).trans (h.2.1 q), fun id j => (k.2.2 id j).trans (h.2.2 id j)⟩

theorem State.onlyLead_modLead (s : State) (r : LeadRef) (f : Lead → Lead) : s.onlyLead (s.modLead r f) r := by
  refine ⟨fun q hq => s.lead?_modLead_ne f hq, fun q => s.thread?_modLead r f q, fun id j => ?_⟩
  simp only [State.modLead]
  by_cases h : id = r.block ∧ j = r.j
  · obtain ⟨rfl, rfl⟩ := h
    rw [State.share?_modShare, Option.map_map]
    rfl
  · rw [State.share?_modShare_ne _ _ h]

/-! Bytes. -/

theorem State.sameBytes.refl (s : State) : s.sameBytes s := ⟨fun _ => rfl, fun _ _ => rfl, fun _ _ => rfl, fun _ _ _ _ => rfl⟩

theorem State.sameBytes.trans {s t u : State} (h : s.sameBytes t) (k : t.sameBytes u) : s.sameBytes u :=
  ⟨fun a => (k.1 a).trans (h.1 a), fun c a => (k.2.1 c a).trans (h.2.1 c a), fun a n => (k.2.2.1 a n).trans (h.2.2.1 a n),
    fun i j o n => (k.2.2.2 i j o n).trans (h.2.2.2 i j o n)⟩

theorem State.latest_congr {s t : State} (hm : t.mem = s.mem) (hc : t.cached = s.cached) (a : Nat) : t.latest a = s.latest a := by
  simp only [State.latest, hm, hc]

theorem State.homeRead_congr {s t : State} (hm : t.mem = s.mem) (hc : t.cached = s.cached) (a n : Nat) : t.homeRead a n = s.homeRead a n := by
  induction n generalizing a with
  | zero => rfl
  | succ n ih => simp only [State.homeRead, State.latest_congr hm hc, ih]

theorem State.cacheRead_congr {s t : State} (hm : t.mem = s.mem) (hc : t.cached = s.cached) (c : Cache) (a : Nat) :
    t.cacheRead c a = s.cacheRead c a := by
  simp only [State.cacheRead, State.miss, hc, hm]

/-- A state with the same memory, caches and local stores reads the same bytes. -/
theorem State.sameBytes_of_loc {s t : State} (hm : t.mem = s.mem) (hc : t.cached = s.cached)
    (hl : ∀ id j, (t.share? id j).map Share.loc = (s.share? id j).map Share.loc) : s.sameBytes t := by
  refine ⟨fun a => by rw [hm], State.cacheRead_congr hm hc, State.homeRead_congr hm hc, fun id j o n => ?_⟩
  have := hl id j
  simp only [State.locRead]
  cases ht : t.share? id j <;> cases hs : s.share? id j <;> simp_all

theorem State.sameBytes_of {s t : State} (hm : t.mem = s.mem) (hc : t.cached = s.cached)
    (hl : ∀ id, (t.block? id).map Block.bare = (s.block? id).map Block.bare) : s.sameBytes t := by
  refine State.sameBytes_of_loc hm hc fun id j => ?_
  have h : ∀ u : State, u.share? id j = ((u.block? id).map Block.bare).bind fun b => b.shares[j]? := fun u => by
    simp only [State.share?]
    cases u.block? id <;> rfl
  rw [h t, h s, hl id]

theorem State.sameBytes_modLead (s : State) (r : LeadRef) (f : Lead → Lead) : s.sameBytes (s.modLead r f) := by
  refine State.sameBytes_of_loc rfl rfl fun id j => ?_
  have := congrArg (Option.map fun x : Nat × Nat × Memory × TileSlot => x.2.2.1) ((s.onlyLead_modLead r f).2.2 id j)
  simpa [Option.map_map, Function.comp_def] using this

theorem State.sameBytes_modThread (s : State) (r : ThreadRef) (f : Thread → Thread) : s.sameBytes (s.modThread r f) :=
  State.sameBytes_of rfl rfl fun id => s.bare_modThread r f id

/-! Noting how a unit ended. -/

theorem State.onlyThread.ended {s t : State} {r : ThreadRef} (h : s.onlyThread t r) (x : IResult) : s.onlyThread (t.ended x) r := h
theorem State.onlyLead.ended {s t : State} {r : LeadRef} (h : s.onlyLead t r) (x : IResult) : s.onlyLead (t.ended x) r := h
theorem State.sameBytes.ended {s t : State} (h : s.sameBytes t) (x : IResult) : s.sameBytes (t.ended x) :=
  h.trans (State.sameBytes_of_loc rfl rfl fun _ _ => rfl)

end Sys2Proof.Machine
end

