-- ==== Sys2Proof/Laws/Regs.lean ====
section
/-! SUPPORT. Lane registers after writes: one lemma for a write, for the poison of a unit's sources, and for a list of results. -/

namespace Sys2Proof.Machine

/-! One register of a thread. -/

@[simp] theorem Thread.putL_inTrap (th : Thread) (l : LReg) (x : Word) (d : Bool) : (th.putL l x d).inTrap = th.inTrap := by
  simp only [Thread.putL]; split <;> rfl

theorem Thread.get_putL (th : Thread) (n m : BitVec 7) (x : Word) (d : Bool) :
    (th.putL (th.lreg n) x d).get m = if m = n then x else th.get m := by
  have hm : m = n ↔ n.toNat = m.toNat := ⟨fun h => by rw [h], fun h => (BitVec.eq_of_toNat_eq h).symm⟩
  have h1 := m.isLt
  have h2 := n.isLt
  simp only [Thread.get, Thread.lreg, Thread.putL, Thread.k!, Thread.v!, hm]
  by_cases ht : th.inTrap <;> by_cases hn : 112 ≤ n.toNat <;> by_cases hk : 112 ≤ m.toNat <;>
    simp [ht, hn, hk, Vector.getElem_set] <;> (try intro he; omega) <;> split <;> (try rfl) <;> split <;> (try rfl) <;> omega

/-- The special registers and counts of a thread stay when a register is written. -/
theorem Thread.putL_rest (th : Thread) (l : LReg) (x : Word) (d : Bool) :
    th.putL l x d = { th with v := (th.putL l x d).v, k := (th.putL l x d).k, dirty := (th.putL l x d).dirty, wrote := (th.putL l x d).wrote } := by
  simp only [Thread.putL]; split <;> rfl

theorem Thread.dirty_putL (th : Thread) (n m : BitVec 7) (x : Word) (d : Bool) :
    (th.putL (th.lreg n) x d).dirty.getLsbD m.toNat =
      (th.dirty.getLsbD m.toNat || (d && decide (m = n) && !(th.inTrap && decide (112 ≤ m.toNat)))) := by
  have hm : m = n ↔ n.toNat = m.toNat := ⟨fun h => by rw [h], fun h => (BitVec.eq_of_toNat_eq h).symm⟩
  have h1 := m.isLt
  have h2 := n.isLt
  have hp : (BitVec.ofNat 128 (2 ^ n.toNat)).getLsbD m.toNat = decide (m = n) := by
    rw [BitVec.getLsbD_ofNat, Nat.testBit_two_pow]
    have : m.toNat < 128 := h1
    simp [hm, this]
  simp only [Thread.putL, Thread.lreg]
  by_cases ht : th.inTrap && decide (112 ≤ n.toNat)
  · simp only [ht, if_true]
    by_cases he : m = n
    · subst he; simp [ht]
    · simp [he]
  · simp only [ht]
    cases d
    · simp
    · simp only [Bool.false_eq_true, if_false, if_true, BitVec.getLsbD_or, hp]
      by_cases he : m = n
      · subst he; simp [ht]
      · simp [he]

theorem Thread.v_putL (th : Thread) (n m : BitVec 7) (x : Word) (d : Bool) (ht : th.inTrap = true) (hm : 112 ≤ m.toNat) :
    (th.putL (th.lreg n) x d).v! m = th.v! m := by
  simp only [Thread.putL, Thread.lreg, Thread.v!, ht, Bool.true_and]
  by_cases hn : 112 ≤ n.toNat
  · simp [hn]
  · have : n.toNat ≠ m.toNat := by omega
    simp [hn, this]

theorem Thread.k_putL (th : Thread) (n : BitVec 7) (x : Word) (d : Bool) (ht : th.inTrap = false) :
    (th.putL (th.lreg n) x d).k = th.k := by simp [Thread.putL, Thread.lreg, ht]

/-! Several registers. -/

/-- Writes of registers by number: value, and whether the dirty bit is set. -/
def Thread.putMany (th : Thread) : List (BitVec 7 × Word × Bool) → Thread
  | [] => th
  | p :: r => (th.putL (th.lreg p.1) p.2.1 p.2.2).putMany r

theorem Thread.putMany_append (th : Thread) (a b : List (BitVec 7 × Word × Bool)) :
    th.putMany (a ++ b) = (th.putMany a).putMany b := by
  induction a generalizing th with
  | nil => rfl
  | cons p r ih => exact ih _

@[simp] theorem Thread.putMany_inTrap (th : Thread) (ps : List (BitVec 7 × Word × Bool)) : (th.putMany ps).inTrap = th.inTrap := by
  induction ps generalizing th with
  | nil => rfl
  | cons p r ih => rw [Thread.putMany, ih]; simp

theorem Thread.putMany_rest (th : Thread) (ps : List (BitVec 7 × Word × Bool)) :
    th.putMany ps = { th with v := (th.putMany ps).v, k := (th.putMany ps).k, dirty := (th.putMany ps).dirty, wrote := (th.putMany ps).wrote } := by
  induction ps generalizing th with
  | nil => rfl
  | cons p r ih => rw [Thread.putMany, ih, Thread.putL_rest]

theorem Thread.get_putMany_ne (th : Thread) (ps : List (BitVec 7 × Word × Bool)) (m : BitVec 7) (h : m ∉ ps.map fun p => p.1) :
    (th.putMany ps).get m = th.get m := by
  induction ps generalizing th with
  | nil => rfl
  | cons p r ih =>
    simp only [List.map_cons, List.mem_cons, not_or] at h
    rw [Thread.putMany, ih _ h.2, Thread.get_putL, if_neg h.1]

theorem Thread.v_putMany (th : Thread) (ps : List (BitVec 7 × Word × Bool)) (m : BitVec 7) (ht : th.inTrap = true) (hm : 112 ≤ m.toNat) :
    (th.putMany ps).v! m = th.v! m := by
  induction ps generalizing th with
  | nil => rfl
  | cons p r ih => rw [Thread.putMany, ih _ (by simpa using ht), Thread.v_putL _ _ _ _ _ ht hm]

theorem Thread.k_putMany (th : Thread) (ps : List (BitVec 7 × Word × Bool)) (ht : th.inTrap = false) : (th.putMany ps).k = th.k := by
  induction ps generalizing th with
  | nil => rfl
  | cons p r ih => rw [Thread.putMany, ih _ (by simpa using ht), Thread.k_putL _ _ _ _ ht]

/-- Registers but those written hold what they held. -/
theorem Thread.putMany_keeps (th : Thread) (ps : List (BitVec 7 × Word × Bool)) : th.keeps (th.putMany ps) (ps.map fun p => p.1) := by
  refine ⟨fun n h => th.get_putMany_ne ps n h, ?_⟩
  cases ht : th.inTrap with
  | false => simpa [ht] using th.k_putMany ps ht
  | true =>
    simp only [if_true]
    intro n
    by_cases hn : 112 ≤ n.toNat
    · exact .inl (th.v_putMany ps n ht hn)
    · exact .inr (by omega)

theorem Thread.dirty_putMany (th : Thread) (ps : List (BitVec 7 × Word × Bool)) (m : BitVec 7) :
    (th.putMany ps).dirty.getLsbD m.toNat =
      (th.dirty.getLsbD m.toNat || ((ps.any fun p => p.2.2 && decide (m = p.1)) && !(th.inTrap && decide (112 ≤ m.toNat)))) := by
  induction ps generalizing th with
  | nil => simp [Thread.putMany]
  | cons p r ih =>
    rw [Thread.putMany, ih, Thread.dirty_putL]
    simp only [Thread.putL_inTrap, List.any_cons]
    generalize (r.any fun p => p.2.2 && decide (m = p.1)) = x
    generalize (th.inTrap && decide (112 ≤ m.toNat)) = y
    cases x <;> cases y <;> simp

/-! The same in a state. -/

def State.putMany (s : State) (r : ThreadRef) (trap : Bool) : List (BitVec 7 × Word × Bool) → State
  | [] => s
  | p :: ps => (s.putReg r ⟨trap && 112 ≤ p.1.toNat, p.1⟩ p.2.1 p.2.2).putMany r trap ps

theorem State.putMany_append (s : State) (r : ThreadRef) (trap : Bool) (a b : List (BitVec 7 × Word × Bool)) :
    s.putMany r trap (a ++ b) = (s.putMany r trap a).putMany r trap b := by
  induction a generalizing s with
  | nil => rfl
  | cons p ps ih => exact ih _

/-- What writes of registers leave: the thread, its outstanding loads, and nothing else. -/
theorem State.putMany_rest (s : State) (r : ThreadRef) (trap : Bool) (ps : List (BitVec 7 × Word × Bool)) :
    s.putMany r trap ps = { s with blocks := (s.putMany r trap ps).blocks, loads := (s.putMany r trap ps).loads } := by
  induction ps generalizing s with
  | nil => rfl
  | cons p ps ih => rw [State.putMany, ih]; rfl

theorem State.thread?_putReg (s : State) (r : ThreadRef) (l : LReg) (x : Word) (d : Bool) :
    (s.putReg r l x d).thread? r = (s.thread? r).map fun th => th.putL l x d := s.thread?_modThread r _

theorem State.onlyThread_putReg (s : State) (r : ThreadRef) (l : LReg) (x : Word) (d : Bool) : s.onlyThread (s.putReg r l x d) r :=
  s.onlyThread_modThread r _

theorem State.thread?_putMany (s : State) (r : ThreadRef) {trap : Bool} {th : Thread} (h : s.thread? r = some th)
    (ht : th.inTrap = trap) (ps : List (BitVec 7 × Word × Bool)) : (s.putMany r trap ps).thread? r = some (th.putMany ps) := by
  induction ps generalizing s th with
  | nil => exact h
  | cons p ps ih =>
    refine ih _ (th := th.putL (th.lreg p.1) p.2.1 p.2.2) ?_ (by simpa using ht)
    rw [State.thread?_putReg, h, ← ht]
    rfl

theorem State.onlyThread_putMany (s : State) (r : ThreadRef) (trap : Bool) (ps : List (BitVec 7 × Word × Bool)) :
    s.onlyThread (s.putMany r trap ps) r := by
  induction ps generalizing s with
  | nil => exact .refl s r
  | cons p ps ih => exact (s.onlyThread_putReg _ _ _ _).trans (ih _)

theorem State.loads_putMany (s : State) (r : ThreadRef) (th : Thread) (ps : List (BitVec 7 × Word × Bool)) :
    (s.putMany r th.inTrap ps).loads = loadsWithout th r (ps.map fun p => p.1) s.loads := by
  induction ps generalizing s with
  | nil => simp [loadsWithout, State.putMany]
  | cons p ps ih =>
    rw [State.putMany, ih]
    simp only [loadsWithout, State.putReg, List.map_map, List.map_cons, List.foldl_cons]
    rfl

/-! The poison of sources and the results of a unit. -/

/-- The writes that last-use sources make. -/
def poisonList (srcs : List Src) : List (BitVec 7 × Word × Bool) :=
  (srcs.filter fun x => x.kind = 0 && x.hint = 2).flatMap fun x => (List.range x.w).map fun k => (BitVec.ofNat 7 (x.n + k), poisonWord, false)

theorem poison_one (s : State) (r : ThreadRef) (trap : Bool) (n : Nat) (l : List Nat) :
    l.foldl (fun (a : State) i =>
        let m := BitVec.ofNat 7 (n + i)
        a.putReg r ⟨trap && 112 ≤ m.toNat, m⟩ poisonWord false) s =
      s.putMany r trap (l.map fun k => (BitVec.ofNat 7 (n + k), poisonWord, false)) := by
  induction l generalizing s with
  | nil => rfl
  | cons k l ih => simp only [List.foldl_cons, List.map_cons, State.putMany]; exact ih _

theorem poisonRegs_eq (s : State) (r : ThreadRef) (trap : Bool) (srcs : List Src) :
    poisonRegs s r trap srcs = s.putMany r trap (poisonList srcs) := by
  induction srcs generalizing s with
  | nil => rfl
  | cons x rest ih =>
    rw [poisonRegs, ih]
    by_cases h : (x.kind = 0 && x.hint = 2) = true
    · simp only [h, if_true, poisonList, List.filter_cons_of_pos, List.flatMap_cons, State.putMany_append]
      rw [poison_one]
    · simp only [h, poisonList, List.filter_cons]
      simp

/-- The writes of results from register d on. -/
def resultList (d : BitVec 7) : List Word → List (BitVec 7 × Word × Bool)
  | [] => []
  | x :: r => (d, x, true) :: resultList (d + 1) r

theorem putRegs_eq (s : State) (r : ThreadRef) (trap : Bool) (d : BitVec 7) (ws : List Word) :
    s.putRegs r trap d ws = s.putMany r trap (resultList d ws) := by
  induction ws generalizing s d with
  | nil => rfl
  | cons x ws ih => rw [State.putRegs, ih]; rfl

theorem resultList_regs (d : Nat) (ws : List Word) :
    (resultList (BitVec.ofNat 7 d) ws).map (fun p => p.1) = (List.range ws.length).map fun k => BitVec.ofNat 7 (d + k) := by
  induction ws generalizing d with
  | nil => rfl
  | cons x ws ih =>
    have h1 : BitVec.ofNat 7 d + 1 = BitVec.ofNat 7 (d + 1) := by
      apply BitVec.eq_of_toNat_eq; simp [BitVec.toNat_add]
    rw [resultList, List.map_cons, h1, ih, List.length_cons, List.range_succ_eq_map, List.map_cons, List.map_map]
    congr 1
    apply List.map_congr_left
    intro k _
    simp only [Function.comp]
    congr 1
    omega

theorem resultList_dirty (d : BitVec 7) (ws : List Word) : ∀ p ∈ resultList d ws, p.2.2 = true := by
  induction ws generalizing d with
  | nil => simp [resultList]
  | cons x ws ih => 
    simp only [resultList, List.mem_cons]
    intro p h
    cases h with
    | inl h => rw [h]
    | inr h => exact ih _ p h

/-- Results of a unit as the registers show them, where they do not wrap. -/
theorem Thread.get_resultList (th : Thread) (d : Nat) (ws : List Word) (hd : d + ws.length ≤ 128) (k : Nat) (hk : k < ws.length) :
    (th.putMany (resultList (BitVec.ofNat 7 d) ws)).get (BitVec.ofNat 7 (d + k)) = ws.getD k 0 := by
  induction ws generalizing th d k with
  | nil => simp at hk
  | cons x ws ih =>
    have h1 : BitVec.ofNat 7 d + 1 = BitVec.ofNat 7 (d + 1) := by
      apply BitVec.eq_of_toNat_eq; simp [BitVec.toNat_add]
    simp only [List.length_cons] at hd hk
    rw [resultList, h1, Thread.putMany]
    cases k with
    | zero =>
      rw [Thread.get_putMany_ne, Thread.get_putL]
      · simp
      · rw [resultList_regs]
        simp only [List.mem_map, List.mem_range, not_exists, not_and]
        intro j hj he
        have := congrArg BitVec.toNat he
        simp only [BitVec.toNat_ofNat] at this
        omega
    | succ k =>
      have := ih (th.putL (th.lreg (BitVec.ofNat 7 d)) x true) (d + 1) (by omega) k (by omega)
      rw [show d + (k + 1) = d + 1 + k by omega, this]
      simp

end Sys2Proof.Machine
end

