-- ==== Sys2Proof/Laws/Lane.lean ====
section
/-! SUPPORT. What one lane unit in hand does: how its body's outcome settles, and the whole effect of a form that computes registers. -/

namespace Sys2Proof.Machine

/-! The start of a unit. -/

theorem State.popAll_rest (s : State) (r : ThreadRef) (qs : List Nat) :
    s.popAll r qs = { s with blocks := (s.popAll r qs).blocks } := by
  suffices h : ∀ (qs : List Nat) (a : State), a = { s with blocks := a.blocks } →
      qs.foldl (fun a q => a.modThread r fun th => th.pop q) a =
        { s with blocks := (qs.foldl (fun a q => a.modThread r fun th => th.pop q) a).blocks } from h qs s rfl
  intro qs
  induction qs with
  | nil => exact fun a h => h
  | cons q qs ih =>
    intro a h
    exact ih _ (by rw [h]; rfl)

theorem State.thread?_popAll (s : State) (r : ThreadRef) (qs : List Nat) :
    (s.popAll r qs).thread? r = (s.thread? r).map fun th => qs.foldl Thread.pop th := by
  simp only [State.popAll]
  induction qs generalizing s with
  | nil => simp
  | cons q qs ih => simp only [List.foldl_cons]; rw [ih, State.thread?_modThread, Option.map_map]; rfl

theorem State.onlyThread_popAll (s : State) (r : ThreadRef) (qs : List Nat) : s.onlyThread (s.popAll r qs) r := by
  simp only [State.popAll]
  induction qs generalizing s with
  | nil => exact .refl s r
  | cons q qs ih => exact (s.onlyThread_modThread r _).trans (ih _)

theorem Thread.pop_inTrap (th : Thread) (n : Nat) : (th.pop n).inTrap = th.inTrap := by
  simp only [Thread.pop]; split <;> rfl

theorem Thread.popAll_rest (th : Thread) (qs : List Nat) :
    qs.foldl Thread.pop th = { th with dqr := (qs.foldl Thread.pop th).dqr, qr := (qs.foldl Thread.pop th).qr } := by
  suffices h : ∀ (qs : List Nat) (a : Thread), a = { th with dqr := a.dqr, qr := a.qr } →
      qs.foldl Thread.pop a = { th with dqr := (qs.foldl Thread.pop a).dqr, qr := (qs.foldl Thread.pop a).qr } from h qs th rfl
  intro qs
  induction qs with
  | nil => exact fun a h => h
  | cons q qs ih =>
    intro a h
    refine ih _ ?_
    rw [h]; simp only [Thread.pop]; split <;> rfl

/-- What the start of a unit leaves: the thread, its outstanding loads, and nothing else. -/
theorem LaneEnv.start_rest (e : LaneEnv) (i : Instr) (s : State) :
    e.start i s = { s with blocks := (e.start i s).blocks, loads := (e.start i s).loads } := by
  rw [LaneEnv.start, poisonRegs_eq, State.putMany_rest, State.popAll_rest]

@[simp] theorem LaneEnv.start_issue (e : LaneEnv) (i : Instr) (s : State) : (e.start i s).issue = s.issue := by rw [e.start_rest i s]
@[simp] theorem LaneEnv.start_ctxs (e : LaneEnv) (i : Instr) (s : State) : (e.start i s).ctxs = s.ctxs := by rw [e.start_rest i s]

theorem LaneEnv.start_only (e : LaneEnv) (i : Instr) (s : State) : s.onlyThread (e.start i s) e.r := by
  rw [LaneEnv.start, poisonRegs_eq]
  exact (s.onlyThread_popAll _ _).trans (State.onlyThread_putMany _ _ _ _)

theorem LaneHand.thread? {i : Instr} {s : State} {e : LaneEnv} (h : LaneHand i s e) : s.thread? e.r = some e.th := by
  simp [State.thread?, h.block, h.thread]

theorem LaneEnv.popped_inTrap (e : LaneEnv) (i : Instr) (s : State) : (e.popped i s).inTrap = e.th.inTrap := by
  rw [LaneEnv.popped, Thread.popAll_rest]

theorem LaneHand.start_thread {i : Instr} {s : State} {e : LaneEnv} (h : LaneHand i s e) :
    (e.start i s).thread? e.r = some ((e.popped i s).putMany (poisonList (s.reads i))) := by
  rw [LaneEnv.start, poisonRegs_eq]
  exact State.thread?_putMany _ _ (by rw [State.thread?_popAll, h.thread?]; rfl) (e.popped_inTrap i s) _

/-! How an outcome settles. -/

/-- A unit in hand has the effect of its body in the state its start leaves. -/
theorem lane_hand {i : Instr} {s : State} {e : LaneEnv} (h : LaneHand i s e) (body : LaneEnv → State → UnitRes) :
    lane i body s = .next ((s.settleUnit e.r e.next (body e (e.start i s))).noteLs (shape i).pipe e.r.t e.pc) := by
  have hs : (e.start i s).issue.guard ≠ some false := by rw [LaneEnv.start_issue]; exact h.guard
  obtain ⟨r, b, j, sh, th, vals, d, pc, next⟩ := e
  obtain ⟨ha, hb, ht, hj, hsh, hv, hd, hpc, hn, hr, hl, hg, -⟩ := h
  dsimp only at ha hb ht hj hsh hd hpc hn hr hl
  subst hj hd hpc hn
  simp only [LaneEnv.has] at hv
  cases hla : s.issue.latch with
  | some l =>
    simp only [hla] at hv
    obtain ⟨hv, -⟩ := hv
    subst hv
    simp only [LaneEnv.start, State.pops, State.reads, hla, poisonRegs, State.popAll, List.foldl_nil, reduceCtorEq, if_false] at hs ⊢
    simp only [lane, ha, hb, ht, laneUnit, hsh, hl, hla, if_neg (Nat.not_le.mpr hr), guarded, if_neg hs]
  | none =>
    simp only [hla] at hv
    obtain ⟨hv, hq⟩ := hv
    subst hv
    simp only [LaneEnv.start, State.pops, State.reads, hla, if_true] at hs ⊢
    simp only [lane, ha, hb, ht, laneUnit, hsh, hl, hla, hq, if_neg (Nat.not_le.mpr hr), guarded, if_neg hs]

/-- A form outside the LS pipe notes nothing of sampling. -/
theorem State.noteLs_ne (s : State) {p : Pipe} (t : Nat) (pc : CodeAddr) (hp : p ≠ .ls) : s.noteLs p t pc = s := by
  simp [State.noteLs, hp]

/-! Forms that compute registers. -/

theorem List.map_fst_poisonList (i : Instr) (s : State) : (poisonList (s.reads i)).map (fun p => p.1) = spentRegs i s := by
  simp only [poisonList, spentRegs, List.map_flatMap, List.map_map]
  rfl

theorem poisonList_clean (srcs : List Src) (m : BitVec 7) : (poisonList srcs).any (fun p => p.2.2 && decide (m = p.1)) = false := by
  rw [List.any_eq_false]
  intro p hp
  simp only [poisonList, List.mem_flatMap, List.mem_map] at hp
  obtain ⟨x, _, k, _, rfl⟩ := hp
  simp

/-- Destinations that decode admits do not wrap. -/
theorem dest_fits {i : Instr} {count : Nat} {trap : Bool} (h : (shape i).illegal count trap = none) (hd : (shape i).d < 128)
    (hw : (shape i).dw ∣ 128) : (shape i).d + (shape i).dw ≤ 128 := by
  have h3 : regsOk count trap (shape i).d (shape i).dw = true := by
    cases hr : regsOk count trap (shape i).d (shape i).dw with
    | true => rfl
    | false =>
      simp only [Shape.illegal, hr, Bool.false_and, Bool.not_false, if_true] at h
      split at h
      · simp at h
      · split at h <;> simp at h
  simp only [regsOk] at h3
  simp only [Bool.or_eq_true, decide_eq_true_eq, Bool.and_eq_true] at h3
  rcases h3 with h3 | ⟨h3, -⟩
  · omega
  · obtain ⟨a, ha⟩ := Nat.dvd_of_mod_eq_zero h3
    obtain ⟨c, hc⟩ := hw
    rw [ha] at hd ⊢
    rw [hc] at hd ⊢
    have hpos : 0 < (shape i).dw := by
      rcases Nat.eq_zero_or_pos (shape i).dw with h0 | h0
      · rw [h0] at hc; simp at hc
      · exact h0
    have : a < c := Nat.lt_of_mul_lt_mul_left hd
    calc (shape i).dw * a + (shape i).dw = (shape i).dw * (a + 1) := by rw [Nat.mul_add, Nat.mul_one]
      _ ≤ (shape i).dw * c := Nat.mul_le_mul_left _ this

/-- The frame of a thread whose register writes a unit made. -/
theorem ThreadWrote.of_putMany {i : Instr} {s : State} {e : LaneEnv} (h : LaneHand i s e) (hd : (shape i).d < 128)
    (hw : (shape i).dw ∣ 128) {ws : List Word} (hlen : ws.length = (shape i).dw) {y : Thread}
    (hv : y.v = ((e.popped i s).putMany (poisonList (s.reads i) ++ resultList (BitVec.ofNat 7 e.d) ws)).v)
    (hk : y.k = ((e.popped i s).putMany (poisonList (s.reads i) ++ resultList (BitVec.ofNat 7 e.d) ws)).k)
    (hdi : y.dirty = ((e.popped i s).putMany (poisonList (s.reads i) ++ resultList (BitVec.ofNat 7 e.d) ws)).dirty)
    (ht : y.inTrap = e.th.inTrap) : ThreadWrote i s e y ws := by
  have hpop : (e.popped i s).v = e.th.v ∧ (e.popped i s).k = e.th.k ∧ (e.popped i s).dirty = e.th.dirty := by
    rw [LaneEnv.popped, Thread.popAll_rest]; exact ⟨rfl, rfl, rfl⟩
  have hget : ∀ n, y.get n = ((e.popped i s).putMany (poisonList (s.reads i) ++ resultList (BitVec.ofNat 7 e.d) ws)).get n := fun n => by
    simp only [Thread.get, Thread.v!, Thread.k!, hv, hk, ht, Thread.putMany_inTrap, LaneEnv.popped_inTrap]
  have hget0 : ∀ n, (e.popped i s).get n = e.th.get n := fun n => by
    simp only [Thread.get, Thread.v!, Thread.k!, hpop.1, hpop.2.1, LaneEnv.popped_inTrap]
  have hregs : (poisonList (s.reads i) ++ resultList (BitVec.ofNat 7 e.d) ws).map (fun p => p.1) = spentRegs i s ++ destRegs i := by
    rw [List.map_append, List.map_fst_poisonList, resultList_regs, hlen, destRegs, h.dest]
  have hkeep := (e.popped i s).putMany_keeps (poisonList (s.reads i) ++ resultList (BitVec.ofNat 7 e.d) ws)
  rw [hregs] at hkeep
  refine ⟨fun k hkl => ?_, hlen, ⟨fun n hn => ?_, ?_⟩, fun n => ?_⟩
  · rw [hget, Thread.putMany_append, Thread.get_resultList _ _ _ _ _ hkl]
    rw [hlen, h.dest]; exact dest_fits h.legal hd hw
  · rw [hget, hkeep.1 n hn, hget0]
  · have h2 := hkeep.2
    rw [LaneEnv.popped_inTrap] at h2
    cases htr : e.th.inTrap with
    | false => simp only [htr, Bool.false_eq_true, if_false] at h2 ⊢; rw [hk, h2, hpop.2.1]
    | true =>
      simp only [htr, if_true, Thread.v!, hpop.1] at h2 ⊢
      intro n; rw [hv]; exact h2 n
  · rw [hdi, Thread.dirty_putMany, List.any_append, poisonList_clean, hpop.2.2, LaneEnv.popped_inTrap]
    congr 1
    congr 1
    simp only [Bool.false_or]
    rw [Bool.eq_iff_iff]
    have hm : (∃ p ∈ resultList (BitVec.ofNat 7 e.d) ws, n = p.1) ↔ n ∈ destRegs i := by
      have : n ∈ (resultList (BitVec.ofNat 7 e.d) ws).map (fun p => p.1) ↔ n ∈ destRegs i := by
        rw [resultList_regs, hlen, destRegs, h.dest]
      rw [← this]
      simp only [List.mem_map, eq_comm]
    simp only [List.any_eq_true, Bool.and_eq_true, decide_eq_true_eq]
    rw [← hm]
    exact ⟨fun ⟨p, hp, _, hn⟩ => ⟨p, hp, hn⟩, fun ⟨p, hp, hn⟩ => ⟨p, hp, resultList_dirty _ _ p hp, hn⟩⟩

/-- What settles when a body has written its destination. -/
theorem LaneWroteTo.of_write {i : Instr} {s : State} {e : LaneEnv} (h : LaneHand i s e) (hd : (shape i).d < 128) (hw : (shape i).dw ∣ 128)
    {ws : List Word} (hlen : ws.length = (shape i).dw) (pc : CodeAddr) :
    LaneWroteTo i s (((e.write (e.start i s) ws).modThread e.r fun th => th.done pc).ended .done) e pc ws := by
  have hw1 : e.write (e.start i s) ws = (e.start i s).putMany e.r e.th.inTrap (resultList (BitVec.ofNat 7 e.d) ws) := putRegs_eq _ _ _ _ _
  have hst : e.start i s = (s.popAll e.r (s.pops i)).putMany e.r e.th.inTrap (poisonList (s.reads i)) := poisonRegs_eq _ _ _ _
  have hall : e.write (e.start i s) ws =
      (s.popAll e.r (s.pops i)).putMany e.r e.th.inTrap (poisonList (s.reads i) ++ resultList (BitVec.ofNat 7 e.d) ws) := by
    rw [hw1, hst, State.putMany_append]
  have hth : (e.write (e.start i s) ws).thread? e.r =
      some ((e.popped i s).putMany (poisonList (s.reads i) ++ resultList (BitVec.ofNat 7 e.d) ws)) := by
    rw [hall]
    exact State.thread?_putMany _ _ (by rw [State.thread?_popAll, h.thread?]; rfl) (e.popped_inTrap i s) _
  have honly : s.onlyThread (e.write (e.start i s) ws) e.r := by
    rw [hall]; exact (s.onlyThread_popAll _ _).trans (State.onlyThread_putMany _ _ _ _)
  have hloads : (e.write (e.start i s) ws).loads = loadsWithout e.th e.r (spentRegs i s ++ destRegs i) s.loads := by
    rw [hall, ← e.popped_inTrap i s, State.loads_putMany _ _ (e.popped i s), List.map_append, List.map_fst_poisonList, resultList_regs, hlen,
      destRegs, h.dest, State.popAll_rest]
    simp only [loadsWithout, Thread.lreg, LaneEnv.popped_inTrap]
  have hrest : e.write (e.start i s) ws =
      { s with blocks := (e.write (e.start i s) ws).blocks, loads := (e.write (e.start i s) ws).loads } := by
    rw [hall, State.putMany_rest, State.popAll_rest]
  have hbare : ∀ id, ((e.write (e.start i s) ws).block? id).map Block.bare = (s.block? id).map Block.bare := honly.2
  generalize hu : e.write (e.start i s) ws = u at *
  have hmem : s.sameBytes u := State.sameBytes_of (by rw [hrest]) (by rw [hrest]) hbare
  refine ⟨⟨_, by
      rw [State.thread?_ended, State.thread?_modThread, hth]; rfl, ?_, ?_⟩, ?_, ?_, ?_, ?_, ?_⟩
  · exact ThreadWrote.of_putMany h hd hw hlen rfl rfl rfl (by simp [Thread.done, LaneEnv.popped_inTrap])
  · rw [Thread.putMany_rest, LaneEnv.popped, Thread.popAll_rest]
    rfl
  · exact State.onlyThread_congr (honly.trans (State.onlyThread_modThread _ _ _)) rfl
  · exact hmem.trans (State.sameBytes_of rfl rfl fun id => State.bare_modThread _ _ _ _)
  · exact hloads
  · show ({ u.issue with result := _ } : Issue) = _
    rw [hrest]
  · rw [hrest]; rfl

/-- A form whose body only writes its destination: the whole of what it does. -/
theorem lane_writes {i : Instr} {s : State} {e : LaneEnv} (h : LaneHand i s e) (hp : (shape i).pipe ≠ .ls) (hd : (shape i).d < 128)
    (hw : (shape i).dw ∣ 128) {ws : List Word} (hlen : ws.length = (shape i).dw) {body : LaneEnv → State → UnitRes}
    (hbody : body e (e.start i s) = .done (e.write (e.start i s) ws)) : ∃ t, lane i body s = .next t ∧ LaneWrote i s t e ws := by
  refine ⟨_, lane_hand h body, ?_⟩
  rw [hbody, State.noteLs_ne _ _ _ hp]
  exact .of_write h hd hw hlen e.next

/-- A form whose body writes its destination and goes to another word. -/
theorem lane_links {i : Instr} {s : State} {e : LaneEnv} (h : LaneHand i s e) (hp : (shape i).pipe ≠ .ls) (hd : (shape i).d < 128)
    (hw : (shape i).dw ∣ 128) {ws : List Word} (hlen : ws.length = (shape i).dw) {body : LaneEnv → State → UnitRes} {pc : CodeAddr}
    (hbody : body e (e.start i s) = .jump (e.write (e.start i s) ws) pc) : ∃ t, lane i body s = .next t ∧ LaneWroteTo i s t e pc ws := by
  refine ⟨_, lane_hand h body, ?_⟩
  rw [hbody, State.noteLs_ne _ _ _ hp]
  exact .of_write h hd hw hlen pc

/-! Forms that change their thread. -/

/-- What settles when a body changes only its own thread. -/
theorem LaneChanged.of_mod {i : Instr} {s : State} {e : LaneEnv} (pc : CodeAddr) (f : Thread → Thread) {u : State}
    (hth : u.thread? e.r = ((e.start i s).thread? e.r).map f) (ho : (e.start i s).onlyThread u e.r)
    (hu : u = { e.start i s with blocks := u.blocks }) :
    LaneChanged i s ((u.modThread e.r fun th => th.done pc).ended .done) e pc f := by
  have honly := (e.start_only i s).trans ho
  have hl : u.loads = (e.start i s).loads := by rw [hu]
  have hrest : u = { s with blocks := u.blocks, loads := u.loads } := by
    rw [hl, hu, e.start_rest i s]
  have hmem : s.sameBytes u := State.sameBytes_of (by rw [hrest]) (by rw [hrest]) honly.2
  refine ⟨?_, State.onlyThread_congr (honly.trans (State.onlyThread_modThread _ _ _)) rfl,
    hmem.trans (State.sameBytes_of rfl rfl fun id => State.bare_modThread _ _ _ _), hl, ?_, ?_⟩
  · rw [State.thread?_ended, State.thread?_modThread, hth, Option.map_map]; rfl
  · show ({ u.issue with result := _ } : Issue) = _
    rw [hrest]
  · rw [hrest]; rfl

/-- A form that changes its thread by a function and goes on at the next word. -/
theorem lane_changes {i : Instr} {s : State} {e : LaneEnv} (h : LaneHand i s e) (hp : (shape i).pipe ≠ .ls)
    {body : LaneEnv → State → UnitRes} {f : Thread → Thread} (hbody : body e (e.start i s) = .done ((e.start i s).modThread e.r f)) :
    ∃ t, lane i body s = .next t ∧ LaneChanged i s t e e.next f := by
  refine ⟨_, lane_hand h body, ?_⟩
  rw [hbody, State.noteLs_ne _ _ _ hp]
  exact .of_mod _ f (State.thread?_modThread _ _ _) (State.onlyThread_modThread _ _ _) rfl

/-- A form that has no effect but to go on. -/
theorem lane_passes {i : Instr} {s : State} {e : LaneEnv} (h : LaneHand i s e) (hp : (shape i).pipe ≠ .ls)
    {body : LaneEnv → State → UnitRes} (hbody : body e (e.start i s) = .done (e.start i s)) :
    ∃ t, lane i body s = .next t ∧ LaneChanged i s t e e.next id := by
  refine ⟨_, lane_hand h body, ?_⟩
  rw [hbody, State.noteLs_ne _ _ _ hp]
  exact .of_mod _ id (by simp) (.refl _ _) rfl

/-- A form that goes to another word. -/
theorem lane_jumps {i : Instr} {s : State} {e : LaneEnv} (h : LaneHand i s e) (hp : (shape i).pipe ≠ .ls)
    {body : LaneEnv → State → UnitRes} {pc : CodeAddr} (hbody : body e (e.start i s) = .jump (e.start i s) pc) :
    ∃ t, lane i body s = .next t ∧ LaneChanged i s t e pc id := by
  refine ⟨_, lane_hand h body, ?_⟩
  rw [hbody, State.noteLs_ne _ _ _ hp]
  exact .of_mod _ id (by simp) (.refl _ _) rfl

/-- A form that traps: nothing of its start has happened (R235). -/
theorem lane_traps {i : Instr} {s : State} {e : LaneEnv} (h : LaneHand i s e) (hp : (shape i).pipe ≠ .ls)
    {body : LaneEnv → State → UnitRes} {x : Trap} (hbody : body e (e.start i s) = .trap x) : lane i body s = .next (s.unitTrap e.r x) := by
  rw [lane_hand h body, hbody, State.noteLs_ne _ _ _ hp]
  rfl

end Sys2Proof.Machine
end

