-- ==== Sys2Proof/Laws/Float.lean ====
section
/-! SUPPORT. What draws and floating-point events change, and the whole effect of a form that computes registers with them. -/

namespace Sys2Proof.Machine

theorem State.writeEvent_rest (s : State) (r : EvRec) :
    s.writeEvent r = { s with evt := (s.writeEvent r).evt, out := (s.writeEvent r).out } := rfl

/-- Posting an event changes the event stream and nothing else. -/
theorem State.post_rest (s : State) (d : Die) (type status : BitVec 8) (ctx : Nat) (a0 a1 a2 : Dword) :
    s.post d type status ctx a0 a1 a2 =
      { s with evt := (s.post d type status ctx a0 a1 a2).evt, out := (s.post d type status ctx a0 a1 a2).out } := by
  simp only [State.post]
  split
  · rfl
  · split <;> rfl

theorem State.post_blocks (s : State) (d : Die) (type status : BitVec 8) (ctx : Nat) (a0 a1 a2 : Dword) :
    (s.post d type status ctx a0 a1 a2).blocks = s.blocks := by
  rw [State.post_rest]

/-! Steps of counting and drawing. -/

/-- A state that differs from another only by draws of a thread and floating-point events of its context. -/
structure FpStep (e : LaneEnv) (s t : State) : Prop where
  thread : ∀ y, s.thread? e.r = some y → ∃ z, t.thread? e.r = some z ∧ y.fpctr &&& z.fpctr = y.fpctr ∧ z = { y with fpctr := z.fpctr, draw := z.draw }
  others : s.onlyThread t e.r
  ctxs : t.ctxs.map Ctx.bareFp = s.ctxs.map Ctx.bareFp
  otherCtxs : ∀ n, n ≠ e.b.ctx → t.ctx? n = s.ctx? n
  rest : t = { s with blocks := t.blocks, ctxs := t.ctxs, evt := t.evt, out := t.out }

theorem FpStep.refl (e : LaneEnv) (s : State) : FpStep e s s :=
  ⟨fun y h => ⟨y, h, by simp, rfl⟩, .refl s e.r, rfl, fun _ _ => rfl, rfl⟩

theorem FpStep.trans {e : LaneEnv} {s t u : State} (h : FpStep e s t) (k : FpStep e t u) : FpStep e s u := by
  refine ⟨fun y hy => ?_, h.others.trans k.others, k.ctxs.trans h.ctxs, fun n hn => (k.otherCtxs n hn).trans (h.otherCtxs n hn), ?_⟩
  · obtain ⟨z, hz, hf, he⟩ := h.thread y hy
    obtain ⟨w, hw, hg, hk⟩ := k.thread z hz
    refine ⟨w, hw, ?_, by rw [hk, he]⟩
    rw [← hf, BitVec.and_assoc, hg]
  · rw [k.rest, h.rest]

/-- A change of a thread's sticky bits or draw counter. -/
theorem FpStep.of_modThread (e : LaneEnv) (s : State) (f : Thread → Thread)
    (hf : ∀ y, y.fpctr &&& (f y).fpctr = y.fpctr ∧ f y = { y with fpctr := (f y).fpctr, draw := (f y).draw }) : FpStep e s (s.modThread e.r f) :=
  ⟨fun y hy => ⟨f y, by rw [State.thread?_modThread, hy]; rfl, hf y⟩, s.onlyThread_modThread _ _, rfl, fun _ _ => rfl, rfl⟩

/-- A change of the context's counters. -/
theorem FpStep.of_ctx (e : LaneEnv) (s : State) (f : Ctx → Ctx) (hf : ∀ c, (f c).bareFp = c.bareFp) :
    FpStep e s (s.modCtx e.b.ctx f) := by
  have hnum : ∀ c, (f c).num = c.num := fun c => by
    show (f c).bareFp.num = c.bareFp.num
    rw [hf]
  refine ⟨fun y hy => ⟨y, hy, by simp, rfl⟩, ⟨fun _ _ => rfl, fun _ => rfl⟩, ?_, fun n hn => ?_, rfl⟩
  · simp only [State.modCtx, List.map_map]
    apply List.map_congr_left
    intro c _
    simp only [Function.comp]
    split
    · exact hf c
    · rfl
  · simp only [State.ctx?, State.modCtx]
    induction s.ctxs with
    | nil => rfl
    | cons c l ih =>
      rw [List.map_cons, List.find?_cons, List.find?_cons, ih]
      by_cases hc : c.num = e.b.ctx
      · have h1 : ¬ c.num = n := fun h => hn (h ▸ hc)
        rw [if_pos hc, hnum, decide_eq_false h1]
      · rw [if_neg hc]

theorem FpStep.of_post (e : LaneEnv) (s : State) (d : Die) (type status : BitVec 8) (ctx : Nat) (a0 a1 a2 : Dword) :
    FpStep e s (s.post d type status ctx a0 a1 a2) := by
  have h := s.post_rest d type status ctx a0 a1 a2
  have hb : (s.post d type status ctx a0 a1 a2).blocks = s.blocks := by rw [h]
  have hc : (s.post d type status ctx a0 a1 a2).ctxs = s.ctxs := by rw [h]
  refine ⟨fun y hy => ⟨y, by rw [State.thread?_congr hb, hy], by simp, rfl⟩, State.onlyThread_congr (.refl s e.r) hb, by rw [hc],
    fun n _ => by simp only [State.ctx?, hc], ?_⟩
  rw [h]

theorem FpStep.of_fpCheck (e : LaneEnv) (s : State) (k : Nat) (d : Die) : FpStep e s (s.fpCheck e.b.ctx k d) := by
  simp only [State.fpCheck]
  split
  · exact .refl e s
  · split
    · exact (FpStep.of_ctx e s (fun c => { c with fpThresh := c.fpThresh.set! k 0 }) fun c => rfl).trans (.of_post e _ _ _ _ _ _ _ _)
    · exact .refl e s

theorem FpStep.of_fpBump (e : LaneEnv) (s : State) (k : Nat) (d : Die) : FpStep e s (s.fpBump e.b.ctx k d) := by
  rw [State.fpBump]
  refine FpStep.trans ?_ (.of_fpCheck e _ k d)
  exact .of_ctx e s _ fun c => rfl

theorem FpStep.of_fpCount (e : LaneEnv) (s : State) (d : Die) (t : FTy) (v : FpEvents) : FpStep e s (s.fpCount e.b.ctx d t v) := by
  have one : ∀ (a : State) k, FpStep e a (if v.at_ k then a.fpBump e.b.ctx (4 * t.index + k) d else a) := fun a k => by
    split
    · exact .of_fpBump e a _ _
    · exact .refl e a
  simp only [State.fpCount, List.foldl_cons, List.foldl_nil]
  exact (((one _ 0).trans (one _ 1)).trans (one _ 2)).trans (one _ 3)

theorem FpStep.of_fp (e : LaneEnv) (s : State) (t : FTy) (v : FpEvents) : FpStep e s (e.fp s t v) := by
  simp only [LaneEnv.fp]
  split
  · exact .refl e s
  · have h1 : FpStep e s (s.modThread e.r fun th => { th with fpctr := stickyOf th.fpctr v }) :=
      .of_modThread e s _ fun y => ⟨by
        simp only [stickyOf]
        apply BitVec.eq_of_getLsbD_eq
        intro i _
        simp only [BitVec.getLsbD_and, BitVec.getLsbD_or]
        cases y.fpctr.getLsbD i <;> simp, rfl⟩
    split
    · exact h1
    · exact h1.trans (.of_fpCount e _ _ _ _)

theorem FpStep.of_draw (e : LaneEnv) (s : State) : FpStep e s (s.draw32 e.r).2 := by
  simp only [State.draw32]
  split
  · exact .refl e s
  · exact .of_modThread e s _ fun y => ⟨by simp, rfl⟩

theorem FpStep.of_draws (e : LaneEnv) (s : State) (n : Nat) : FpStep e s (s.draws e.r n).2 := by
  induction n generalizing s with
  | zero => exact .refl e s
  | succ n ih => exact (FpStep.of_draw e s).trans (ih _)

theorem FpStep.of_round (e : LaneEnv) (s : State) (t : FTy) (q : RndSat) (ops : List Val) (v : Val) : FpStep e s (e.round s t q ops v).2 := by
  simp only [LaneEnv.round]
  split
  · exact (FpStep.of_draw e s).trans (.of_fp e _ _ _)
  · exact .of_fp e _ _ _

theorem FpStep.of_roundAll (e : LaneEnv) (s : State) (t : FTy) (q : RndSat) (l : List (List Val × Val)) :
    FpStep e s (e.roundAll s t q l).2 := by
  induction l generalizing s with
  | nil => exact .refl e s
  | cons x l ih =>
    simp only [LaneEnv.roundAll]
    exact (FpStep.of_round e s t q x.1 x.2).trans (ih _)

theorem Thread.putL_congr (a b : Thread) (l : LReg) (x : Word) (d : Bool) (hv : a.v = b.v) (hk : a.k = b.k) (hd : a.dirty = b.dirty) :
    (a.putL l x d).v = (b.putL l x d).v ∧ (a.putL l x d).k = (b.putL l x d).k ∧ (a.putL l x d).dirty = (b.putL l x d).dirty := by
  simp only [Thread.putL]
  by_cases h : l.bank = true <;> simp [h, hv, hk, hd]

/-- Register writes depend on the registers alone. -/
theorem Thread.putMany_congr (ps : List (BitVec 7 × Word × Bool)) : ∀ (a b : Thread), a.v = b.v → a.k = b.k → a.dirty = b.dirty →
    a.inTrap = b.inTrap →
      (a.putMany ps).v = (b.putMany ps).v ∧ (a.putMany ps).k = (b.putMany ps).k ∧ (a.putMany ps).dirty = (b.putMany ps).dirty := by
  induction ps with
  | nil => exact fun a b h1 h2 h3 _ => ⟨h1, h2, h3⟩
  | cons p ps ih =>
    intro a b h1 h2 h3 h4
    have hl : a.lreg p.1 = b.lreg p.1 := by simp only [Thread.lreg, h4]
    obtain ⟨hv, hk, hd⟩ := Thread.putL_congr a b (b.lreg p.1) p.2.1 p.2.2 h1 h2 h3
    simp only [Thread.putMany, hl]
    exact ih _ _ hv hk hd (by simpa using h4)

/-- A thread without what a register form changes. -/
def Thread.unwritten (x : Thread) : Thread :=
  { x with v := Vector.replicate 128 0, k := Vector.replicate 16 0, dirty := 0, wrote := 0, dqr := 0, qr := Vector.replicate 8 0, draw := 0, fpctr := 0 }

theorem Thread.unwritten_putMany (x : Thread) (ps : List (BitVec 7 × Word × Bool)) : (x.putMany ps).unwritten = x.unwritten := by
  rw [Thread.putMany_rest]
  rfl

theorem Thread.queues_putMany (x : Thread) (ps : List (BitVec 7 × Word × Bool)) : (x.putMany ps).dqr = x.dqr ∧ (x.putMany ps).qr = x.qr := by
  rw [Thread.putMany_rest]
  exact ⟨rfl, rfl⟩

theorem Thread.unwritten_popAll (x : Thread) (qs : List Nat) : (qs.foldl Thread.pop x).unwritten = x.unwritten := by
  rw [Thread.popAll_rest]
  rfl

/-- Threads alike but for what a register form changes. -/
theorem Thread.eq_of_unwritten {x y : Thread} (h : x.unwritten = y.unwritten) :
    x = { y with v := x.v, k := x.k, dirty := x.dirty, wrote := x.wrote, dqr := x.dqr, qr := x.qr, draw := x.draw, fpctr := x.fpctr } := by
  obtain ⟨⟩ := x
  obtain ⟨⟩ := y
  simpa [Thread.unwritten] using h

/-- A form whose body draws and counts and then writes its destination: the whole of what it does. -/
theorem lane_counted {i : Instr} {s : State} {e : LaneEnv} (h : LaneHand i s e) (hp : (shape i).pipe ≠ .ls) (hd : (shape i).d < 128)
    (hw : (shape i).dw ∣ 128) {body : LaneEnv → State → UnitRes} {u : State} {ws : List Word} (hu : FpStep e (e.start i s) u)
    (hlen : ws.length = (shape i).dw) (hb : body e (e.start i s) = .done (e.write u ws)) :
    ∃ t, lane i body s = .next t ∧ LaneCounted i s t e ws ∧
      ∀ z, u.thread? e.r = some z → ∃ y, t.thread? e.r = some y ∧ y.draw = z.draw ∧ y.fpctr = z.fpctr := by
  refine ⟨_, lane_hand h body, ?_⟩
  rw [hb, State.noteLs_ne _ _ _ hp]
  simp only [State.settleUnit]
  have hst : e.start i s = (s.popAll e.r (s.pops i)).putMany e.r e.th.inTrap (poisonList (s.reads i)) := poisonRegs_eq _ _ _ _
  have hw1 : e.write u ws = u.putMany e.r e.th.inTrap (resultList (BitVec.ofNat 7 e.d) ws) := putRegs_eq _ _ _ _ _
  have hth0 := h.start_thread
  obtain ⟨z, hz, hsticky, hzeq⟩ := hu.thread _ hth0
  have hztrap : z.inTrap = e.th.inTrap := by rw [hzeq]; simp [LaneEnv.popped_inTrap]
  have hth : (e.write u ws).thread? e.r = some (z.putMany (resultList (BitVec.ofNat 7 e.d) ws)) := by
    rw [hw1]; exact State.thread?_putMany _ _ hz hztrap _
  have honly : s.onlyThread (e.write u ws) e.r := by
    rw [hw1]; exact ((e.start_only i s).trans hu.others).trans (State.onlyThread_putMany _ _ _ _)
  have hloads0 : (e.start i s).loads = loadsWithout e.th e.r (spentRegs i s) s.loads := by
    rw [hst, ← e.popped_inTrap i s, State.loads_putMany _ _ (e.popped i s), List.map_fst_poisonList, State.popAll_rest]
    simp only [loadsWithout, Thread.lreg, LaneEnv.popped_inTrap]
  have hloads : (e.write u ws).loads = loadsWithout e.th e.r (spentRegs i s ++ destRegs i) s.loads := by
    rw [hw1, ← hztrap, State.loads_putMany _ _ z, resultList_regs, hlen, hu.rest, hloads0, destRegs, h.dest]
    simp only [loadsWithout, Thread.lreg, hztrap, List.map_map, List.foldl_append]
    rfl
  have hrest : e.write u ws = { s with
      blocks := (e.write u ws).blocks, loads := (e.write u ws).loads, ctxs := u.ctxs, evt := u.evt, out := u.out } := by
    rw [hw1, State.putMany_rest, hu.rest, e.start_rest i s]
  have hctx : u.ctxs.map Ctx.bareFp = s.ctxs.map Ctx.bareFp := by rw [hu.ctxs, LaneEnv.start_ctxs]
  have hoc : ∀ n, n ≠ e.b.ctx → u.ctx? n = s.ctx? n := fun n hn => by
    rw [hu.otherCtxs n hn]; simp only [State.ctx?, LaneEnv.start_ctxs]
  have hbare : ∀ id, ((e.write u ws).block? id).map Block.bare = (s.block? id).map Block.bare := honly.2
  have hpopv : (e.popped i s).fpctr = e.th.fpctr := by rw [LaneEnv.popped, Thread.popAll_rest]
  have hsame := Thread.putMany_congr (resultList (BitVec.ofNat 7 e.d) ws)
  generalize hx : e.write u ws = x at *
  have hmem : s.sameBytes x := State.sameBytes_of (by rw [hrest]) (by rw [hrest]) hbare
  have hm := hsame z ((e.popped i s).putMany (poisonList (s.reads i))) (by rw [hzeq]) (by rw [hzeq]) (by rw [hzeq]) (by rw [hzeq])
  rw [← Thread.putMany_append] at hm
  refine ⟨⟨⟨_, by rw [State.thread?_ended, State.thread?_modThread, hth]; rfl, ?_, ?_, ?_⟩, ?_, ?_, ?_, ?_, ?_, ?_, ?_⟩, ?_⟩
  · exact ThreadWrote.of_putMany h hd hw hlen hm.1 hm.2.1 hm.2.2 (by simp [Thread.done, hztrap])
  · have h2 : ((z.putMany (resultList (BitVec.ofNat 7 e.d) ws)).done e.next).fpctr = z.fpctr := by rw [Thread.putMany_rest]; rfl
    have h3 : ((e.popped i s).putMany (poisonList (s.reads i))).fpctr = e.th.fpctr := by rw [Thread.putMany_rest, hpopv]
    rw [h2, ← h3]; exact hsticky
  · have h1 : (z.putMany (resultList (BitVec.ofNat 7 e.d) ws)).unwritten = e.th.unwritten := by
      rw [Thread.unwritten_putMany, hzeq]
      exact (Thread.unwritten_putMany (e.popped i s) _).trans (Thread.unwritten_popAll e.th (s.pops i))
    have hq : z.dqr = (e.popped i s).dqr ∧ z.qr = (e.popped i s).qr := by
      rw [hzeq]
      exact (e.popped i s).queues_putMany _
    have hy := Thread.eq_of_unwritten h1
    rw [(z.queues_putMany _).1, (z.queues_putMany _).2, hq.1, hq.2] at hy
    rw [hy]
    rfl
  · exact State.onlyThread_congr (honly.trans (State.onlyThread_modThread _ _ _)) rfl
  · exact hmem.trans (State.sameBytes_of rfl rfl fun id => State.bare_modThread _ _ _ _)
  · exact hloads
  · show x.ctxs.map _ = _
    rw [hrest]; exact hctx
  · intro n hn
    show x.ctx? n = _
    rw [← hoc n hn]; simp only [State.ctx?]; rw [hrest]
  · show ({ x.issue with result := _ } : Issue) = _
    rw [hrest]
  · rw [hrest]; rfl
  · intro z' hz'
    rw [hz] at hz'
    obtain rfl := Option.some.inj hz'
    exact ⟨_, by rw [State.thread?_ended, State.thread?_modThread, hth]; rfl, by rw [Thread.putMany_rest]; rfl,
      by rw [Thread.putMany_rest]; rfl⟩

/-- The same where only the existence of its results is wanted. -/
theorem lane_counts {i : Instr} {s : State} {e : LaneEnv} (h : LaneHand i s e) (hp : (shape i).pipe ≠ .ls) (hd : (shape i).d < 128)
    (hw : (shape i).dw ∣ 128) {body : LaneEnv → State → UnitRes}
    (hbody : ∀ s, ∃ u ws, FpStep e s u ∧ ws.length = (shape i).dw ∧ body e s = .done (e.write u ws)) :
    ∃ t ws, lane i body s = .next t ∧ LaneCounted i s t e ws := by
  obtain ⟨u, ws, hu, hlen, hb⟩ := hbody (e.start i s)
  obtain ⟨t, ht, hc, -⟩ := lane_counted h hp hd hw hu hlen hb
  exact ⟨t, ws, ht, hc⟩

end Sys2Proof.Machine
end

