-- ==== Sys2Proof/Laws/Forms.lean ====
section
/-! SUPPORT. Forms by their shape: a form whose body only writes one list of words computes it, whichever word format it has. -/

namespace Sys2Proof.Machine

/-- A body that writes its destination and does nothing else. -/
def Writes (body : LaneEnv → State → UnitRes) (g : LaneEnv → List Word) : Prop := ∀ e s, body e s = .done (e.write s (g e))

theorem Computes.congr {i : Instr} {g h : LaneEnv → List Word} (k : Computes i h) (e : ∀ x, g x = h x) : Computes i g := by
  intro s x hx
  rw [e]
  exact k s x hx

/-- The shape is read off by unfolding: d is a 7-bit field of the word, dw 1, 2 or 4. -/
theorem computes_of {i : Instr} {d : BitVec 7} {p : Pipe} {dw : Nat} {g : LaneEnv → List Word} (hp : (shape i).pipe = p)
    (hd : (shape i).d = d.toNat) (hw : (shape i).dw = dw) {body : LaneEnv → State → UnitRes} (hx : exec i = lane i body) (hb : Writes body g)
    (hl : ∀ e, (g e).length = dw) (hls : p ≠ .ls) (hdiv : dw ∣ 128) : Computes i g := by
  intro s e h
  rw [hx]
  exact lane_writes h (by rw [hp]; exact hls) (by rw [hd]; exact d.isLt) (by rw [hw]; exact hdiv) (by rw [hw]; exact hl e) (hb e _)

/-- Likewise a form that draws and counts before it writes. -/
theorem counts_of {i : Instr} {d : BitVec 7} {p : Pipe} {dw : Nat} (hp : (shape i).pipe = p) (hd : (shape i).d = d.toNat)
    (hw : (shape i).dw = dw) {body : LaneEnv → State → UnitRes} (hx : exec i = lane i body)
    (hb : ∀ e s, ∃ u ws, FpStep e s u ∧ ws.length = dw ∧ body e s = .done (e.write u ws)) (hls : p ≠ .ls) (hdiv : dw ∣ 128) :
    Counts i := by
  intro s e h
  rw [hx]
  exact lane_counts h (by rw [hp]; exact hls) (by rw [hd]; exact d.isLt) (by rw [hw]; exact hdiv) (by rw [hw]; exact hb e)

/-! Rounding (R251, R252, R260 to R262, R347). -/

theorem State.blocks_fpCheck (s : State) (ctx k : Nat) (d : Die) : (s.fpCheck ctx k d).blocks = s.blocks := by
  simp only [State.fpCheck]
  split
  · rfl
  · split
    · exact State.post_blocks _ _ _ _ _ _ _ _
    · rfl

theorem State.blocks_fpBump (s : State) (ctx k : Nat) (d : Die) : (s.fpBump ctx k d).blocks = s.blocks := by
  rw [State.fpBump, State.blocks_fpCheck]; rfl

theorem State.blocks_fpCount (s : State) (ctx : Nat) (d : Die) (t : FTy) (v : FpEvents) : (s.fpCount ctx d t v).blocks = s.blocks := by
  have one : ∀ (a : State) k, (if v.at_ k then a.fpBump ctx (4 * t.index + k) d else a).blocks = a.blocks := fun a k => by
    split
    · exact a.blocks_fpBump _ _ _
    · rfl
  simp only [State.fpCount, List.foldl_cons, List.foldl_nil, one]

/-- What the events of one result do to their thread. -/
theorem LaneEnv.fp_thread (e : LaneEnv) (s : State) (t : FTy) (v : FpEvents) (y : Thread) (h : s.thread? e.r = some y) :
    (e.fp s t v).thread? e.r = some { y with fpctr := stickyOf y.fpctr v } := by
  have none : v = .none → stickyOf y.fpctr v = y.fpctr := fun hv => by subst hv; simp [stickyOf, FpEvents.none, b2n]
  rw [LaneEnv.fp]
  split
  · rw [h, none ‹_›]
  · have h1 : (s.modThread e.r fun th => { th with fpctr := stickyOf th.fpctr v }).thread? e.r =
        some { y with fpctr := stickyOf y.fpctr v } := by rw [State.thread?_modThread, h]; rfl
    dsimp only
    split
    · exact h1
    · rw [State.thread?_congr (State.blocks_fpCount _ _ _ _ _), h1]

/-- One result: its code and what it does to its thread. -/
theorem LaneEnv.round_thread (e : LaneEnv) (s : State) (t : FTy) (q : RndSat) (ops : List Val) (v : Val) (y : Thread) (h : s.thread? e.r = some y) :
    let d := if q.mode = .sr then (draw64 y.key y.draw >>> 32).toNat else 0
    let x := roundTo t q.mode q.sat d (ops.any Val.isNan) (ops.any Val.isInf) v
    (e.round s t q ops v).1 = x.code ∧ (e.round s t q ops v).2.thread? e.r =
      some { y with draw := y.draw + (if q.mode = .sr then 1 else 0), fpctr := stickyOf y.fpctr x.ev } := by
  intro d x
  by_cases hq : q.mode = .sr
  · have h1 : ((draw64 y.key y.draw >>> 32).setWidth 32).toNat = (draw64 y.key y.draw >>> 32).toNat := by
      simp [BitVec.toNat_setWidth, Nat.shiftRight_eq_div_pow]; have := (draw64 y.key y.draw).isLt; omega
    simp only [LaneEnv.round, hq, if_true, State.draw32, h, h1]
    refine ⟨by simp [x, d, hq], ?_⟩
    rw [e.fp_thread _ t _ { y with draw := y.draw + 1 } (by rw [State.thread?_modThread, h]; rfl)]
    simp [x, d, hq]
  · simp only [LaneEnv.round, hq, if_false]
    refine ⟨by simp [x, d, hq], ?_⟩
    rw [e.fp_thread _ t _ y h]
    simp [x, d, hq]

/-- The sticky bits one by one. -/
theorem stickyOf_bit (w : Word) (v : FpEvents) (k : Nat) (h : k < 4) : (stickyOf w v).getLsbD k = (w.getLsbD k || [v.nan, v.inf, v.ovf, v.unf].getD k false) := by
  obtain ⟨a,b,c,d⟩ := v
  simp only [stickyOf, BitVec.getLsbD_or]
  congr 1
  interval_cases k <;> cases a <;> cases b <;> cases c <;> cases d <;> rfl


end Sys2Proof.Machine
end

