-- ==== Sys2Proof/Laws/Lead.lean ====
section
/-! SUPPORT. What one lead unit in hand does. -/

namespace Sys2Proof.Machine

/-- A lead unit in hand has the effect of its body. -/
theorem lead_hand {i : Instr} {s : State} {e : LeadEnv} (h : LeadHand i s e) (body : LeadEnv → State → LeadRes) :
    lead i body s = .next (s.settleLead e.r e.next (body e s)) := by
  obtain ⟨r, b, sh, l, pc, next⟩ := e
  obtain ⟨ha, hb, hsh, hl, hpc, hn, hr, hf, hok, hlim⟩ := h
  dsimp only at ha hb hsh hl hpc hn hr
  subst hl hpc hn
  simp only [lead, ha, hb, hsh, leadUnit, hf, hok, hlim, if_neg (Nat.not_le.mpr hr)]
  rfl

theorem LeadHand.lead? {i : Instr} {s : State} {e : LeadEnv} (h : LeadHand i s e) : s.lead? e.r = some e.l := by
  simp [State.lead?, State.share?, h.block, h.share, h.lead]

theorem LeadChanged.of_mod {i : Instr} {s : State} {e : LeadEnv} (h : LeadHand i s e) (pc : CodeAddr) (f : Lead → Lead) :
    LeadChanged s (((s.modLead e.r f).modLead e.r fun l => { l with pc := pc, status := .ready, pass := false }).ended .done) e pc f := by
  refine ⟨?_, ?_, ?_, rfl, rfl⟩
  · rw [State.lead?_ended, State.lead?_modLead, State.lead?_modLead, h.lead?]; rfl
  · exact ((s.onlyLead_modLead e.r f).trans (State.onlyLead_modLead _ e.r _)).ended _
  · exact ((s.sameBytes_modLead e.r f).trans (State.sameBytes_modLead _ e.r _)).ended _

/-- A lead form that changes its lead context by a function. -/
theorem lead_changes {i : Instr} {s : State} {e : LeadEnv} (h : LeadHand i s e) {body : LeadEnv → State → LeadRes} {f : Lead → Lead}
    (hbody : body e s = .done (s.modLead e.r f)) : ∃ t, lead i body s = .next t ∧ LeadChanged s t e e.next f := by
  refine ⟨_, lead_hand h body, ?_⟩
  rw [hbody]
  exact .of_mod h _ f

/-- A lead form that has no effect but to go to an address. -/
theorem lead_jumps {i : Instr} {s : State} {e : LeadEnv} (h : LeadHand i s e) {body : LeadEnv → State → LeadRes} {pc : CodeAddr}
    (hbody : body e s = .jump s pc) : ∃ t, lead i body s = .next t ∧ LeadChanged s t e pc id := by
  refine ⟨_, lead_hand h body, ?_⟩
  rw [hbody]
  refine ⟨?_, (s.onlyLead_modLead e.r _).ended _, (s.sameBytes_modLead e.r _).ended _, rfl, rfl⟩
  simp only [State.settleLead, State.lead?_ended, State.lead?_modLead, h.lead?]; rfl

end Sys2Proof.Machine
end

