-- ==== Sys2Proof/Laws/Memory.lean ====
section
/-! SUPPORT. Reading after writing, and the canonical form of memory under every memory operation (spec 01 R12, 07 R148 to R150, 08 R175
to R180). -/

namespace Sys2Proof.Machine

/-! One byte. -/

theorem Memory.wfFrom_mono {m : Memory} {lo hi : Nat} (h : lo ≤ hi) (hw : m.wfFrom hi = true) : m.wfFrom lo = true := by
  cases m with
  | nil => rfl
  | cons e r =>
    simp only [Memory.wfFrom, Bool.and_eq_true, decide_eq_true_eq] at hw ⊢
    exact ⟨⟨by omega, hw.1.2⟩, hw.2⟩

theorem Memory.wfFrom_cons (lo : Nat) (e : Host.Cell) (r : Memory) :
    Memory.wfFrom lo (e :: r) = true ↔ lo ≤ e.1 ∧ e.2 ≠ 0 ∧ Memory.wfFrom (e.1 + 1) r = true := by
  simp only [Memory.wfFrom, Bool.and_eq_true, decide_eq_true_eq, bne_iff_ne, and_assoc]

/-- A list whose addresses lie above one loses nothing with it. -/
theorem Memory.omit_above {m : Memory} {lo x : Nat} (hx : x < lo) (hw : m.wfFrom lo = true) : m.omit x = m := by
  induction m generalizing lo with
  | nil => rfl
  | cons e r ih =>
    obtain ⟨h1, h2, h3⟩ := (Memory.wfFrom_cons _ _ _).1 hw
    rw [Memory.omit, if_neg (by omega), ih (by omega) h3]

theorem Memory.get_omit (m : Memory) (x y : Nat) : (m.omit x).get y = if y = x then 0 else m.get y := by
  induction m with
  | nil => simp [Memory.omit, Memory.get]
  | cons e r ih =>
    rw [Memory.omit]
    by_cases h : e.1 = x
    · rw [if_pos h, ih]
      by_cases hy : y = x
      · rw [if_pos hy, if_pos hy]
      · rw [if_neg hy, if_neg hy, Memory.get, if_neg (by omega)]
    · rw [if_neg h, Memory.get]
      by_cases hy : e.1 = y
      · rw [if_pos hy, if_neg (by omega), Memory.get, if_pos hy]
      · rw [if_neg hy, ih, Memory.get, if_neg hy]

/-- A byte below the listed addresses reads 0. -/
theorem Memory.get_below {m : Memory} {lo x : Nat} (hx : x < lo) (hw : m.wfFrom lo = true) : m.get x = 0 := by
  rw [← Memory.omit_above hx hw, Memory.get_omit, if_pos rfl]

theorem Memory.wfFrom_set {m : Memory} {lo : Nat} (x : Nat) (v : Byte) (hx : lo ≤ x) (hw : m.wfFrom lo = true) :
    (m.set x v).wfFrom lo = true := by
  induction m generalizing lo with
  | nil =>
    simp only [Memory.set]
    split
    · rfl
    · exact (Memory.wfFrom_cons _ _ _).2 ⟨hx, ‹_›, rfl⟩
  | cons e r ih =>
    obtain ⟨h1, h2, h3⟩ := (Memory.wfFrom_cons _ _ _).1 hw
    rw [Memory.set]
    by_cases hlt : x < e.1
    · rw [if_pos hlt]
      split
      · rw [Memory.omit_above (by omega) h3]; exact hw
      · exact (Memory.wfFrom_cons _ _ _).2 ⟨hx, ‹_›, (Memory.wfFrom_cons _ _ _).2 ⟨hlt, h2, h3⟩⟩
    · rw [if_neg hlt]
      by_cases heq : x = e.1
      · rw [if_pos heq]
        split
        · rw [Memory.omit_above (by omega) h3]; exact Memory.wfFrom_mono (by omega) h3
        · subst heq
          exact (Memory.wfFrom_cons _ _ _).2 ⟨hx, ‹_›, h3⟩
      · rw [if_neg heq]
        exact (Memory.wfFrom_cons _ _ _).2 ⟨h1, h2, ih (by omega) h3⟩

/-- A read after a write of one byte. -/
theorem Memory.get_set (m : Memory) (x : Nat) (v : Byte) (y : Nat) : (m.set x v).get y = if y = x then v else m.get y := by
  induction m with
  | nil =>
    simp only [Memory.set]
    split
    · split <;> simp_all [Memory.get]
    · simp only [Memory.get, eq_comm]
  | cons e r ih =>
    rw [Memory.set]
    by_cases hlt : x < e.1
    · rw [if_pos hlt]
      by_cases hv : v = 0
      · rw [if_pos hv, Memory.get, Memory.get, Memory.get_omit, hv]
        by_cases hy : e.1 = y
        · rw [if_pos hy, if_pos hy, if_neg (by omega)]
        · rw [if_neg hy, if_neg hy]
      · rw [if_neg hv, Memory.get]
        by_cases hy : y = x
        · rw [if_pos hy, if_pos hy.symm]
        · rw [if_neg hy, if_neg (Ne.symm hy)]
    · rw [if_neg hlt]
      by_cases heq : x = e.1
      · rw [if_pos heq]
        by_cases hv : v = 0
        · rw [if_pos hv, Memory.get_omit, hv]
          by_cases hy : y = x
          · rw [if_pos hy, if_pos hy]
          · rw [if_neg hy, if_neg hy, Memory.get, if_neg (by omega)]
        · rw [if_neg hv, Memory.get]
          by_cases hy : y = x
          · rw [if_pos hy, if_pos hy.symm]
          · rw [if_neg hy, if_neg (Ne.symm hy), Memory.get, if_neg (by omega)]
      · rw [if_neg heq]
        simp only [Memory.get]
        by_cases hy : e.1 = y
        · rw [if_pos hy, if_neg (by omega), if_pos hy]
        · rw [if_neg hy, if_neg hy, ih]

theorem Memory.wf_set {m : Memory} (h : m.wf = true) (x : Nat) (v : Byte) : (m.set x v).wf = true := Memory.wfFrom_set x v (Nat.zero_le x) h

/-- Equal bytes make equal memories. -/
theorem Memory.ext {m n : Memory} (hm : m.wf = true) (hn : n.wf = true) (h : ∀ a, m.get a = n.get a) : m = n := by
  suffices H : ∀ lo, m.wfFrom lo = true → n.wfFrom lo = true → m = n from H 0 hm hn
  clear hm hn
  induction m generalizing n with
  | nil =>
    intro lo _ hn
    cases n with
    | nil => rfl
    | cons e r =>
      simp only [Memory.wfFrom, Bool.and_eq_true, bne_iff_ne] at hn
      have := h e.1
      simp [Memory.get] at this
      exact absurd this.symm hn.1.2
  | cons e r ih =>
    intro lo hm hn
    simp only [Memory.wfFrom, Bool.and_eq_true, bne_iff_ne, decide_eq_true_eq] at hm
    cases n with
    | nil =>
      have := h e.1
      simp [Memory.get] at this
      exact absurd this hm.1.2
    | cons f q =>
      simp only [Memory.wfFrom, Bool.and_eq_true, bne_iff_ne, decide_eq_true_eq] at hn
      have hkey : e.1 = f.1 := by
        rcases Nat.lt_trichotomy e.1 f.1 with hlt | heq | hgt
        · have h0 := h e.1
          rw [Memory.get, if_pos rfl, Memory.get, if_neg (by omega), Memory.get_below (lo := f.1 + 1) (by omega) hn.2] at h0
          exact absurd h0 hm.1.2
        · exact heq
        · have h0 := h f.1
          rw [Memory.get, if_neg (by omega), Memory.get_below (lo := e.1 + 1) (by omega) hm.2, Memory.get, if_pos rfl] at h0
          exact absurd h0.symm hn.1.2
      have hval : e.2 = f.2 := by
        have h0 := h e.1
        rwa [Memory.get, if_pos rfl, Memory.get, if_pos hkey.symm] at h0
      have hrest : r = q := by
        refine ih (fun a => ?_) (e.1 + 1) hm.2 (by rw [hkey]; exact hn.2)
        by_cases ha : a ≤ e.1
        · rw [Memory.get_below (lo := e.1 + 1) (by omega) hm.2, Memory.get_below (lo := f.1 + 1) (by omega) hn.2]
        · have h0 := h a
          rwa [Memory.get, if_neg (by omega), Memory.get, if_neg (by omega)] at h0
      rw [hrest, Prod.ext_iff.mpr ⟨hkey, hval⟩]

/-! Several bytes. -/

theorem Memory.wf_write {m : Memory} (h : m.wf = true) (a : Nat) (bs : List Byte) : (m.write a bs).wf = true := by
  induction bs generalizing m a with
  | nil => exact h
  | cons b r ih => exact ih (Memory.wf_set h a b) (a + 1)

/-- A read after a write of several bytes. -/
theorem Memory.get_write (m : Memory) (a : Nat) (bs : List Byte) (x : Nat) :
    (m.write a bs).get x = if a ≤ x ∧ x < a + bs.length then bs.getD (x - a) 0 else m.get x := by
  induction bs generalizing m a with
  | nil => rw [if_neg (by simp only [List.length_nil]; omega)]; rfl
  | cons b r ih =>
    rw [Memory.write, ih, Memory.get_set, List.length_cons]
    by_cases h1 : x = a
    · subst h1
      rw [if_neg (by omega), if_pos rfl, if_pos (by omega), Nat.sub_self]
      rfl
    · by_cases h2 : a + 1 ≤ x ∧ x < a + 1 + r.length
      · rw [if_pos h2, if_pos (by omega), show x - a = (x - (a + 1)) + 1 by omega]
        rfl
      · rw [if_neg h2, if_neg h1, if_neg (by omega)]

theorem Memory.read_getElem (m : Memory) (a n k : Nat) (h : k < (m.read a n).length) : (m.read a n)[k] = m.get (a + k) := by
  induction n generalizing a k with
  | zero => simp [Memory.read] at h
  | succ n ih =>
    cases k with
    | zero => rfl
    | succ k => simp only [Memory.read, List.getElem_cons_succ]; rw [ih]; congr 1; omega

theorem Memory.read_length (m : Memory) (a n : Nat) : (m.read a n).length = n := by
  induction n generalizing a with
  | zero => rfl
  | succ n ih => rw [Memory.read, List.length_cons, ih]

/-- What was written is read. -/
theorem Memory.read_write (m : Memory) (a : Nat) (bs : List Byte) : (m.write a bs).read a bs.length = bs := by
  apply List.ext_getElem (Memory.read_length _ _ _)
  intro k h1 h2
  rw [Memory.read_getElem, Memory.get_write, if_pos ⟨by omega, by omega⟩, Nat.add_sub_cancel_left, List.getD_eq_getElem?_getD,
    List.getElem?_eq_getElem h2]
  rfl

/-! Home memory keeps its canonical form. -/

theorem wf_flushGo (ok : CByte → Bool) (l : List CByte) {m : Memory} (h : m.wf = true) : (flushGo ok l m).wf = true := by
  induction l generalizing m with
  | nil => exact h
  | cons e r ih =>
    rw [flushGo]
    split
    · exact ih (Memory.wf_set h _ _)
    · exact ih h

theorem State.wf_homeWrite {s : State} (h : s.mem.wf = true) (pa : Nat) (bs : List Byte) : (s.homeWrite pa bs).mem.wf = true :=
  Memory.wf_write h pa bs

theorem State.mem_transfer (s : State) (pa : Nat) : (s.transfer pa).mem = s.mem := by
  rw [State.transfer]
  split <;> rfl

theorem State.mem_evictL2 (s : State) (t : CTag) : (s.evictL2 t).mem = s.mem := by
  rw [State.evictL2]
  split
  · exact State.mem_transfer _ _
  · rfl

/-- The L2s and the second tier's agent change no byte of memory (R148). -/
theorem State.mem_useHome (s : State) (line cls : Nat) (wr lu : Bool) : (s.useHome line cls wr lu).mem = s.mem := by
  rw [State.useHome]
  split
  · split
    · rfl
    · refine (State.mem_transfer _ _).trans ?_
      split
      · rfl
      · split
        · exact State.mem_evictL2 _ _
        · rfl
  · exact State.mem_transfer _ _
  · rfl

theorem State.mem_fold {α : Type} (f : State → α → State) (hf : ∀ s x, (f s x).mem = s.mem) (l : List α) (s : State) :
    (l.foldl f s).mem = s.mem := by
  induction l generalizing s with
  | nil => rfl
  | cons x r ih => rw [List.foldl_cons, ih, hf]

theorem State.mem_useHomes (s : State) (pa n cls : Nat) (wr : Bool) : (s.useHomes pa n cls wr).mem = s.mem :=
  State.mem_fold _ (fun _ _ => State.mem_useHome _ _ _ _ _) _ _

theorem State.mem_writeBack (s : State) (ok : CByte → Bool) : (s.writeBack ok).mem = flushGo ok s.cached s.mem :=
  State.mem_fold _ (fun _ _ => State.mem_useHome _ _ _ _ _) _ _

theorem State.wf_writeBack {s : State} (h : s.mem.wf = true) (ok : CByte → Bool) : (s.writeBack ok).mem.wf = true := by
  rw [State.mem_writeBack]
  exact wf_flushGo ok s.cached h

theorem State.wf_crossAcquire {s : State} (h : s.mem.wf = true) (d : Die) (k : Clock) : (s.crossAcquire d k).mem.wf = true :=
  s.wf_writeBack h fun e => e.cache.die = d.other && e.covered k

theorem State.wf_settle {s : State} (h : s.mem.wf = true) (k : Clock) : (s.settle k).mem.wf = true := s.wf_writeBack h _

theorem State.wf_useFar {s : State} (h : s.mem.wf = true) (d : Die) (line cls : Nat) (lu : Bool) : (s.useFar d line cls lu).mem.wf = true := by
  rw [State.useFar]
  split
  · exact h
  · show (State.mem (if _ then _ else _)).wf = true
    split
    · exact h
    · split
      · exact s.wf_writeBack h _
      · exact h

theorem State.wf_evictL1 {s : State} (h : s.mem.wf = true) (t : CTag) : (s.evictL1 t).mem.wf = true := by
  simp only [State.evictL1]
  show (State.mem (if _ then _ else _)).wf = true
  split
  · exact s.wf_writeBack h _
  · split
    · exact s.wf_useFar h _ _ _ _
    · exact h

theorem State.wf_useL1 {s : State} (h : s.mem.wf = true) (c : Cache) (line cls : Nat) (lu : Bool) : (s.useL1 c line cls lu).mem.wf = true := by
  rw [State.useL1]
  split
  · exact h
  · show (State.mem (if _ then _ else _)).wf = true
    split
    · exact h
    · split
      · exact s.wf_evictL1 h _
      · exact h

theorem State.wf_fill {s : State} (h : s.mem.wf = true) (c : Cache) (pa n cls : Nat) (lu : Bool) : (s.fill c pa n cls lu).mem.wf = true := by
  have h1 := s.wf_useL1 h c (pa / 128 * 128) cls lu
  simp only [State.fill]
  split
  · exact h1
  · split
    · have h2 := State.wf_useFar h1 c.die (pa / 128 * 128) cls lu
      show (State.mem (if _ then _ else _)).wf = true
      split
      · exact h2
      · show (State.mem (State.useHome _ _ _ _ _)).wf = true
        rw [State.mem_useHome]
        exact h2
    · show (State.mem (State.useHome _ _ _ _ _)).wf = true
      rw [State.mem_useHome]
      exact h1

theorem State.wf_revoke {s : State} (h : s.mem.wf = true) (c : Cache) (pa n : Nat) : (s.revoke c pa n).mem.wf = true := by
  simp only [State.revoke]
  split
  · exact h
  · split
    · exact h
    · exact s.wf_writeBack h _

theorem State.wf_cacheStore {s : State} (h : s.mem.wf = true) (c : Cache) (pa : Nat) (bs : List Byte) (who : Agent × Nat) (cls : Nat) :
    (s.cacheStore c pa bs who cls).mem.wf = true :=
  State.wf_revoke (s.wf_useL1 h c _ cls false) c pa bs.length

theorem State.wf_acquire {s : State} (h : s.mem.wf = true) (c : Cache) (x : Rel) : (s.acquire c x).mem.wf = true := by
  rw [State.acquire]
  split
  · exact s.wf_crossAcquire h _ _
  · exact h

theorem State.mem_setSyncs (ws : List Nat) (x : Rel) (s : State) : (ws.foldl (fun a w => a.setSync w x) s).mem = s.mem :=
  State.mem_fold (fun (a : State) w => a.setSync w x) (fun _ _ => rfl) ws s

theorem State.wf_atomAt {s : State} (h : s.mem.wf = true) (c : Cache) (pa : Nat) (o : AtomOp) (rel : Option Clock) (cls : Nat) :
    (s.atomAt c pa o rel cls).s.mem.wf = true := by
  simp only [State.atomAt]
  split
  · simp only [State.mem_useHomes]
    exact h
  · simp only [State.mem_useHomes, State.mem_setSyncs]
    exact s.wf_homeWrite h pa _

/-! What leaves home memory alone. -/

@[simp] theorem State.mem_fillLine (s : State) (c : Cache) (line : Nat) : (s.fillLine c line).mem = s.mem := rfl
@[simp] theorem State.mem_forget (s : State) (c : Cache) (pa n : Nat) : (s.forget c pa n).mem = s.mem := rfl
@[simp] theorem State.mem_refresh (s : State) (c : Cache) (pa n floor : Nat) : (s.refresh c pa n floor).mem = s.mem := rfl
@[simp] theorem State.mem_toFar (s : State) (d : Die) (ok : CByte → Bool) : (s.toFar d ok).mem = s.mem := rfl
@[simp] theorem State.mem_useTag (s : State) (t : CTag) (lu dirty : Bool) : (s.useTag t lu dirty).mem = s.mem := rfl
@[simp] theorem State.mem_dropTag (s : State) (c : Cache) (line : Nat) : (s.dropTag c line).mem = s.mem := rfl
@[simp] theorem State.mem_dropCopies (s : State) (c : Cache) : (s.dropCopies c).mem = s.mem := rfl
@[simp] theorem State.mem_dropLine (s : State) (pa : Nat) : (s.dropLine pa).mem = s.mem := rfl
@[simp] theorem State.mem_setSync (s : State) (pa : Nat) (x : Rel) : (s.setSync pa x).mem = s.mem := rfl

/-! The state after reset. -/

theorem State.reset_mem_wf : State.reset.mem.wf = true := rfl

end Sys2Proof.Machine
end

