-- ==== Sys2Proof/Laws/PerInstr.lean ====
section
/-! SUPPORT. Per constructor: the words of a well-formed instruction decode to it (spec 17 R315 to R323, 18 R339 to R344). -/

namespace Sys2Proof.Laws

/-! Fields of words. -/

theorem up {m n k lo : Nat} {a : BitVec m} {b : BitVec n} (h : n ≤ lo) : (a ++ b).extractLsb' lo k = a.extractLsb' (lo - n) k :=
  BitVec.extractLsb'_append_eq_of_le h

theorem side {m n k lo : Nat} {a : BitVec m} {b : BitVec n} (h : lo + k ≤ n) : (a ++ b).extractLsb' lo k = b.extractLsb' lo k :=
  BitVec.extractLsb'_append_eq_of_add_le h

theorem toNat_ofNat_lt {w n : Nat} (h : n < 2 ^ w) : (BitVec.ofNat w n).toNat = n := by
  rw [BitVec.toNat_ofNat, Nat.mod_eq_of_lt h]

theorem shortR_c (f : ShortR) (p : Nat) :
    BitVec.extractLsb' 31 1 (f.c ++ BitVec.ofNat 6 p ++ f.d ++ f.a ++ f.b ++ f.ha ++ f.hb) = f.c := by
  rw [up (by decide), up (by decide), up (by decide), up (by decide), up (by decide), up (by decide), BitVec.extractLsb'_eq_self]

theorem shortR_p (f : ShortR) (p : Nat) :
    BitVec.extractLsb' 25 6 (f.c ++ BitVec.ofNat 6 p ++ f.d ++ f.a ++ f.b ++ f.ha ++ f.hb) = BitVec.ofNat 6 p := by
  rw [up (by decide), up (by decide), up (by decide), up (by decide), up (by decide), side (by decide), BitVec.extractLsb'_eq_self]

theorem shortR_d (f : ShortR) (p : Nat) :
    BitVec.extractLsb' 18 7 (f.c ++ BitVec.ofNat 6 p ++ f.d ++ f.a ++ f.b ++ f.ha ++ f.hb) = f.d := by
  rw [up (by decide), up (by decide), up (by decide), up (by decide), side (by decide), BitVec.extractLsb'_eq_self]

theorem shortR_a (f : ShortR) (p : Nat) :
    BitVec.extractLsb' 11 7 (f.c ++ BitVec.ofNat 6 p ++ f.d ++ f.a ++ f.b ++ f.ha ++ f.hb) = f.a := by
  rw [up (by decide), up (by decide), up (by decide), side (by decide), BitVec.extractLsb'_eq_self]

theorem shortR_b (f : ShortR) (p : Nat) :
    BitVec.extractLsb' 4 7 (f.c ++ BitVec.ofNat 6 p ++ f.d ++ f.a ++ f.b ++ f.ha ++ f.hb) = f.b := by
  rw [up (by decide), up (by decide), side (by decide), BitVec.extractLsb'_eq_self]

theorem shortR_ha (f : ShortR) (p : Nat) :
    BitVec.extractLsb' 2 2 (f.c ++ BitVec.ofNat 6 p ++ f.d ++ f.a ++ f.b ++ f.ha ++ f.hb) = f.ha := by
  rw [up (by decide), side (by decide), BitVec.extractLsb'_eq_self]

theorem shortR_hb (f : ShortR) (p : Nat) :
    BitVec.extractLsb' 0 2 (f.c ++ BitVec.ofNat 6 p ++ f.d ++ f.a ++ f.b ++ f.ha ++ f.hb) = f.hb := by
  rw [side (by decide), BitVec.extractLsb'_eq_self]

theorem shortR_words (f : ShortR) (p : Nat) (hp : p < 64) : ∃ w, f.words p = [w] ∧ primaryOf w = p ∧ ShortR.of w = f := by
  refine ⟨_, rfl, (congrArg BitVec.toNat (shortR_p f p)).trans (toNat_ofNat_lt hp), ?_⟩
  rw [ShortR.of, ShortR.mk.injEq]
  exact ⟨shortR_c f p, shortR_d f p, shortR_a f p, shortR_b f p, shortR_ha f p, shortR_hb f p⟩

theorem shortI_c (f : ShortI) (p : Nat) :
    BitVec.extractLsb' 31 1 (f.c ++ BitVec.ofNat 6 p ++ f.d ++ f.a ++ f.ha ++ f.imm) = f.c := by
  rw [up (by decide), up (by decide), up (by decide), up (by decide), up (by decide), BitVec.extractLsb'_eq_self]

theorem shortI_p (f : ShortI) (p : Nat) :
    BitVec.extractLsb' 25 6 (f.c ++ BitVec.ofNat 6 p ++ f.d ++ f.a ++ f.ha ++ f.imm) = BitVec.ofNat 6 p := by
  rw [up (by decide), up (by decide), up (by decide), up (by decide), side (by decide), BitVec.extractLsb'_eq_self]

theorem shortI_d (f : ShortI) (p : Nat) :
    BitVec.extractLsb' 18 7 (f.c ++ BitVec.ofNat 6 p ++ f.d ++ f.a ++ f.ha ++ f.imm) = f.d := by
  rw [up (by decide), up (by decide), up (by decide), side (by decide), BitVec.extractLsb'_eq_self]

theorem shortI_a (f : ShortI) (p : Nat) :
    BitVec.extractLsb' 11 7 (f.c ++ BitVec.ofNat 6 p ++ f.d ++ f.a ++ f.ha ++ f.imm) = f.a := by
  rw [up (by decide), up (by decide), side (by decide), BitVec.extractLsb'_eq_self]

theorem shortI_ha (f : ShortI) (p : Nat) :
    BitVec.extractLsb' 9 2 (f.c ++ BitVec.ofNat 6 p ++ f.d ++ f.a ++ f.ha ++ f.imm) = f.ha := by
  rw [up (by decide), side (by decide), BitVec.extractLsb'_eq_self]

theorem shortI_imm (f : ShortI) (p : Nat) :
    BitVec.extractLsb' 0 9 (f.c ++ BitVec.ofNat 6 p ++ f.d ++ f.a ++ f.ha ++ f.imm) = f.imm := by
  rw [side (by decide), BitVec.extractLsb'_eq_self]

theorem shortI_words (f : ShortI) (p : Nat) (hp : p < 64) : ∃ w, f.words p = [w] ∧ primaryOf w = p ∧ ShortI.of w = f := by
  refine ⟨_, rfl, (congrArg BitVec.toNat (shortI_p f p)).trans (toNat_ofNat_lt hp), ?_⟩
  rw [ShortI.of, ShortI.mk.injEq]
  exact ⟨shortI_c f p, shortI_d f p, shortI_a f p, shortI_ha f p, shortI_imm f p⟩

theorem shortB_c (f : ShortB) (p : Nat) :
    BitVec.extractLsb' 31 1 (f.c ++ BitVec.ofNat 6 p ++ f.v ++ f.off) = f.c := by
  rw [up (by decide), up (by decide), up (by decide), BitVec.extractLsb'_eq_self]

theorem shortB_p (f : ShortB) (p : Nat) :
    BitVec.extractLsb' 25 6 (f.c ++ BitVec.ofNat 6 p ++ f.v ++ f.off) = BitVec.ofNat 6 p := by
  rw [up (by decide), up (by decide), side (by decide), BitVec.extractLsb'_eq_self]

theorem shortB_v (f : ShortB) (p : Nat) :
    BitVec.extractLsb' 18 7 (f.c ++ BitVec.ofNat 6 p ++ f.v ++ f.off) = f.v := by
  rw [up (by decide), side (by decide), BitVec.extractLsb'_eq_self]

theorem shortB_off (f : ShortB) (p : Nat) :
    BitVec.extractLsb' 0 18 (f.c ++ BitVec.ofNat 6 p ++ f.v ++ f.off) = f.off := by
  rw [side (by decide), BitVec.extractLsb'_eq_self]

theorem shortB_words (f : ShortB) (p : Nat) (hp : p < 64) : ∃ w, f.words p = [w] ∧ primaryOf w = p ∧ ShortB.of w = f := by
  refine ⟨_, rfl, (congrArg BitVec.toNat (shortB_p f p)).trans (toNat_ofNat_lt hp), ?_⟩
  rw [ShortB.of, ShortB.mk.injEq]
  exact ⟨shortB_c f p, shortB_v f p, shortB_off f p⟩

theorem shortN_c (f : ShortN) (p : Nat) :
    BitVec.extractLsb' 31 1 (f.c ++ BitVec.ofNat 6 p ++ f.x) = f.c := by
  rw [up (by decide), up (by decide), BitVec.extractLsb'_eq_self]

theorem shortN_p (f : ShortN) (p : Nat) :
    BitVec.extractLsb' 25 6 (f.c ++ BitVec.ofNat 6 p ++ f.x) = BitVec.ofNat 6 p := by
  rw [up (by decide), side (by decide), BitVec.extractLsb'_eq_self]

theorem shortN_x (f : ShortN) (p : Nat) :
    BitVec.extractLsb' 0 25 (f.c ++ BitVec.ofNat 6 p ++ f.x) = f.x := by
  rw [side (by decide), BitVec.extractLsb'_eq_self]

theorem shortN_words (f : ShortN) (p : Nat) (hp : p < 64) : ∃ w, f.words p = [w] ∧ primaryOf w = p ∧ ShortN.of w = f := by
  refine ⟨_, rfl, (congrArg BitVec.toNat (shortN_p f p)).trans (toNat_ofNat_lt hp), ?_⟩
  rw [ShortN.of, ShortN.mk.injEq]
  exact ⟨shortN_c f p, shortN_x f p⟩

theorem guardW_c (f : GuardW) (p : Nat) :
    BitVec.extractLsb' 31 1 (f.c ++ BitVec.ofNat 6 p ++ f.g ++ f.n ++ f.x) = f.c := by
  rw [up (by decide), up (by decide), up (by decide), up (by decide), BitVec.extractLsb'_eq_self]

theorem guardW_p (f : GuardW) (p : Nat) :
    BitVec.extractLsb' 25 6 (f.c ++ BitVec.ofNat 6 p ++ f.g ++ f.n ++ f.x) = BitVec.ofNat 6 p := by
  rw [up (by decide), up (by decide), up (by decide), side (by decide), BitVec.extractLsb'_eq_self]

theorem guardW_g (f : GuardW) (p : Nat) :
    BitVec.extractLsb' 18 7 (f.c ++ BitVec.ofNat 6 p ++ f.g ++ f.n ++ f.x) = f.g := by
  rw [up (by decide), up (by decide), side (by decide), BitVec.extractLsb'_eq_self]

theorem guardW_n (f : GuardW) (p : Nat) :
    BitVec.extractLsb' 17 1 (f.c ++ BitVec.ofNat 6 p ++ f.g ++ f.n ++ f.x) = f.n := by
  rw [up (by decide), side (by decide), BitVec.extractLsb'_eq_self]

theorem guardW_x (f : GuardW) (p : Nat) :
    BitVec.extractLsb' 0 17 (f.c ++ BitVec.ofNat 6 p ++ f.g ++ f.n ++ f.x) = f.x := by
  rw [side (by decide), BitVec.extractLsb'_eq_self]

theorem guardW_words (f : GuardW) (p : Nat) (hp : p < 64) : ∃ w, f.words p = [w] ∧ primaryOf w = p ∧ GuardW.of w = f := by
  refine ⟨_, rfl, (congrArg BitVec.toNat (guardW_p f p)).trans (toNat_ofNat_lt hp), ?_⟩
  rw [GuardW.of, GuardW.mk.injEq]
  exact ⟨guardW_c f p, guardW_g f p, guardW_n f p, guardW_x f p⟩

theorem x3_c0 (f : X3) (p fn : Nat) :
    BitVec.extractLsb' 31 1 (f.c0 ++ BitVec.ofNat 6 p ++ BitVec.ofNat 9 fn ++ f.d ++ f.a ++ f.ha) = f.c0 := by
  rw [up (by decide), up (by decide), up (by decide), up (by decide), up (by decide), BitVec.extractLsb'_eq_self]

theorem x3_p (f : X3) (p fn : Nat) :
    BitVec.extractLsb' 25 6 (f.c0 ++ BitVec.ofNat 6 p ++ BitVec.ofNat 9 fn ++ f.d ++ f.a ++ f.ha) = BitVec.ofNat 6 p := by
  rw [up (by decide), up (by decide), up (by decide), up (by decide), side (by decide), BitVec.extractLsb'_eq_self]

theorem x3_fn (f : X3) (p fn : Nat) :
    BitVec.extractLsb' 16 9 (f.c0 ++ BitVec.ofNat 6 p ++ BitVec.ofNat 9 fn ++ f.d ++ f.a ++ f.ha) = BitVec.ofNat 9 fn := by
  rw [up (by decide), up (by decide), up (by decide), side (by decide), BitVec.extractLsb'_eq_self]

theorem x3_d (f : X3) (p fn : Nat) :
    BitVec.extractLsb' 9 7 (f.c0 ++ BitVec.ofNat 6 p ++ BitVec.ofNat 9 fn ++ f.d ++ f.a ++ f.ha) = f.d := by
  rw [up (by decide), up (by decide), side (by decide), BitVec.extractLsb'_eq_self]

theorem x3_a (f : X3) (p fn : Nat) :
    BitVec.extractLsb' 2 7 (f.c0 ++ BitVec.ofNat 6 p ++ BitVec.ofNat 9 fn ++ f.d ++ f.a ++ f.ha) = f.a := by
  rw [up (by decide), side (by decide), BitVec.extractLsb'_eq_self]

theorem x3_ha (f : X3) (p fn : Nat) :
    BitVec.extractLsb' 0 2 (f.c0 ++ BitVec.ofNat 6 p ++ BitVec.ofNat 9 fn ++ f.d ++ f.a ++ f.ha) = f.ha := by
  rw [side (by decide), BitVec.extractLsb'_eq_self]

theorem x3_c (f : X3) :
    BitVec.extractLsb' 31 1 (f.c ++ f.b ++ f.hb ++ f.e ++ f.he ++ f.ka ++ f.kb ++ f.ke ++ f.mode) = f.c := by
  rw [up (by decide), up (by decide), up (by decide), up (by decide), up (by decide), up (by decide), up (by decide), up (by decide), BitVec.extractLsb'_eq_self]

theorem x3_b (f : X3) :
    BitVec.extractLsb' 24 7 (f.c ++ f.b ++ f.hb ++ f.e ++ f.he ++ f.ka ++ f.kb ++ f.ke ++ f.mode) = f.b := by
  rw [up (by decide), up (by decide), up (by decide), up (by decide), up (by decide), up (by decide), up (by decide), side (by decide), BitVec.extractLsb'_eq_self]

theorem x3_hb (f : X3) :
    BitVec.extractLsb' 22 2 (f.c ++ f.b ++ f.hb ++ f.e ++ f.he ++ f.ka ++ f.kb ++ f.ke ++ f.mode) = f.hb := by
  rw [up (by decide), up (by decide), up (by decide), up (by decide), up (by decide), up (by decide), side (by decide), BitVec.extractLsb'_eq_self]

theorem x3_e (f : X3) :
    BitVec.extractLsb' 15 7 (f.c ++ f.b ++ f.hb ++ f.e ++ f.he ++ f.ka ++ f.kb ++ f.ke ++ f.mode) = f.e := by
  rw [up (by decide), up (by decide), up (by decide), up (by decide), up (by decide), side (by decide), BitVec.extractLsb'_eq_self]

theorem x3_he (f : X3) :
    BitVec.extractLsb' 13 2 (f.c ++ f.b ++ f.hb ++ f.e ++ f.he ++ f.ka ++ f.kb ++ f.ke ++ f.mode) = f.he := by
  rw [up (by decide), up (by decide), up (by decide), up (by decide), side (by decide), BitVec.extractLsb'_eq_self]

theorem x3_ka (f : X3) :
    BitVec.extractLsb' 11 2 (f.c ++ f.b ++ f.hb ++ f.e ++ f.he ++ f.ka ++ f.kb ++ f.ke ++ f.mode) = f.ka := by
  rw [up (by decide), up (by decide), up (by decide), side (by decide), BitVec.extractLsb'_eq_self]

theorem x3_kb (f : X3) :
    BitVec.extractLsb' 9 2 (f.c ++ f.b ++ f.hb ++ f.e ++ f.he ++ f.ka ++ f.kb ++ f.ke ++ f.mode) = f.kb := by
  rw [up (by decide), up (by decide), side (by decide), BitVec.extractLsb'_eq_self]

theorem x3_ke (f : X3) :
    BitVec.extractLsb' 7 2 (f.c ++ f.b ++ f.hb ++ f.e ++ f.he ++ f.ka ++ f.kb ++ f.ke ++ f.mode) = f.ke := by
  rw [up (by decide), side (by decide), BitVec.extractLsb'_eq_self]

theorem x3_mode (f : X3) :
    BitVec.extractLsb' 0 7 (f.c ++ f.b ++ f.hb ++ f.e ++ f.he ++ f.ka ++ f.kb ++ f.ke ++ f.mode) = f.mode := by
  rw [side (by decide), BitVec.extractLsb'_eq_self]

theorem x3_words (f : X3) (p fn : Nat) (hp : p < 64) (hf : fn < 512) :
    ∃ w x, f.words p fn = [w, x] ∧ primaryOf w = p ∧ funcOf w = fn ∧ X3.of w x = f := by
  refine ⟨_, _, rfl, (congrArg BitVec.toNat (x3_p f p fn)).trans (toNat_ofNat_lt hp),
    (congrArg BitVec.toNat (x3_fn f p fn)).trans (toNat_ofNat_lt hf), ?_⟩
  rw [X3.of, X3.mk.injEq]
  exact ⟨x3_c0 f p fn, x3_d f p fn, x3_a f p fn, x3_ha f p fn, x3_c f, x3_b f, x3_hb f, x3_e f, x3_he f, x3_ka f, x3_kb f, x3_ke f, x3_mode f⟩

theorem xI_c0 (f : XI) (p fn : Nat) :
    BitVec.extractLsb' 31 1 (f.c0 ++ BitVec.ofNat 6 p ++ BitVec.ofNat 9 fn ++ f.d ++ f.a ++ f.ha) = f.c0 := by
  rw [up (by decide), up (by decide), up (by decide), up (by decide), up (by decide), BitVec.extractLsb'_eq_self]

theorem xI_p (f : XI) (p fn : Nat) :
    BitVec.extractLsb' 25 6 (f.c0 ++ BitVec.ofNat 6 p ++ BitVec.ofNat 9 fn ++ f.d ++ f.a ++ f.ha) = BitVec.ofNat 6 p := by
  rw [up (by decide), up (by decide), up (by decide), up (by decide), side (by decide), BitVec.extractLsb'_eq_self]

theorem xI_fn (f : XI) (p fn : Nat) :
    BitVec.extractLsb' 16 9 (f.c0 ++ BitVec.ofNat 6 p ++ BitVec.ofNat 9 fn ++ f.d ++ f.a ++ f.ha) = BitVec.ofNat 9 fn := by
  rw [up (by decide), up (by decide), up (by decide), side (by decide), BitVec.extractLsb'_eq_self]

theorem xI_d (f : XI) (p fn : Nat) :
    BitVec.extractLsb' 9 7 (f.c0 ++ BitVec.ofNat 6 p ++ BitVec.ofNat 9 fn ++ f.d ++ f.a ++ f.ha) = f.d := by
  rw [up (by decide), up (by decide), side (by decide), BitVec.extractLsb'_eq_self]

theorem xI_a (f : XI) (p fn : Nat) :
    BitVec.extractLsb' 2 7 (f.c0 ++ BitVec.ofNat 6 p ++ BitVec.ofNat 9 fn ++ f.d ++ f.a ++ f.ha) = f.a := by
  rw [up (by decide), side (by decide), BitVec.extractLsb'_eq_self]

theorem xI_ha (f : XI) (p fn : Nat) :
    BitVec.extractLsb' 0 2 (f.c0 ++ BitVec.ofNat 6 p ++ BitVec.ofNat 9 fn ++ f.d ++ f.a ++ f.ha) = f.ha := by
  rw [side (by decide), BitVec.extractLsb'_eq_self]

theorem xI_c (f : XI) :
    BitVec.extractLsb' 31 1 (f.c ++ f.imm) = f.c := by
  rw [up (by decide), BitVec.extractLsb'_eq_self]

theorem xI_imm (f : XI) :
    BitVec.extractLsb' 0 31 (f.c ++ f.imm) = f.imm := by
  rw [side (by decide), BitVec.extractLsb'_eq_self]

theorem xI_words (f : XI) (p fn : Nat) (hp : p < 64) (hf : fn < 512) :
    ∃ w x, f.words p fn = [w, x] ∧ primaryOf w = p ∧ funcOf w = fn ∧ XI.of w x = f := by
  refine ⟨_, _, rfl, (congrArg BitVec.toNat (xI_p f p fn)).trans (toNat_ofNat_lt hp),
    (congrArg BitVec.toNat (xI_fn f p fn)).trans (toNat_ofNat_lt hf), ?_⟩
  rw [XI.of, XI.mk.injEq]
  exact ⟨xI_c0 f p fn, xI_d f p fn, xI_a f p fn, xI_ha f p fn, xI_c f, xI_imm f⟩

theorem xM_c0 (f : XM) (p fn : Nat) :
    BitVec.extractLsb' 31 1 (f.c0 ++ BitVec.ofNat 6 p ++ BitVec.ofNat 9 fn ++ f.d ++ f.a ++ f.ha) = f.c0 := by
  rw [up (by decide), up (by decide), up (by decide), up (by decide), up (by decide), BitVec.extractLsb'_eq_self]

theorem xM_p (f : XM) (p fn : Nat) :
    BitVec.extractLsb' 25 6 (f.c0 ++ BitVec.ofNat 6 p ++ BitVec.ofNat 9 fn ++ f.d ++ f.a ++ f.ha) = BitVec.ofNat 6 p := by
  rw [up (by decide), up (by decide), up (by decide), up (by decide), side (by decide), BitVec.extractLsb'_eq_self]

theorem xM_fn (f : XM) (p fn : Nat) :
    BitVec.extractLsb' 16 9 (f.c0 ++ BitVec.ofNat 6 p ++ BitVec.ofNat 9 fn ++ f.d ++ f.a ++ f.ha) = BitVec.ofNat 9 fn := by
  rw [up (by decide), up (by decide), up (by decide), side (by decide), BitVec.extractLsb'_eq_self]

theorem xM_d (f : XM) (p fn : Nat) :
    BitVec.extractLsb' 9 7 (f.c0 ++ BitVec.ofNat 6 p ++ BitVec.ofNat 9 fn ++ f.d ++ f.a ++ f.ha) = f.d := by
  rw [up (by decide), up (by decide), side (by decide), BitVec.extractLsb'_eq_self]

theorem xM_a (f : XM) (p fn : Nat) :
    BitVec.extractLsb' 2 7 (f.c0 ++ BitVec.ofNat 6 p ++ BitVec.ofNat 9 fn ++ f.d ++ f.a ++ f.ha) = f.a := by
  rw [up (by decide), side (by decide), BitVec.extractLsb'_eq_self]

theorem xM_ha (f : XM) (p fn : Nat) :
    BitVec.extractLsb' 0 2 (f.c0 ++ BitVec.ofNat 6 p ++ BitVec.ofNat 9 fn ++ f.d ++ f.a ++ f.ha) = f.ha := by
  rw [side (by decide), BitVec.extractLsb'_eq_self]

theorem xM_c (f : XM) :
    BitVec.extractLsb' 31 1 (f.c ++ f.b ++ f.hb ++ f.ka ++ f.kb ++ f.mode ++ f.off) = f.c := by
  rw [up (by decide), up (by decide), up (by decide), up (by decide), up (by decide), up (by decide), BitVec.extractLsb'_eq_self]

theorem xM_b (f : XM) :
    BitVec.extractLsb' 24 7 (f.c ++ f.b ++ f.hb ++ f.ka ++ f.kb ++ f.mode ++ f.off) = f.b := by
  rw [up (by decide), up (by decide), up (by decide), up (by decide), up (by decide), side (by decide), BitVec.extractLsb'_eq_self]

theorem xM_hb (f : XM) :
    BitVec.extractLsb' 22 2 (f.c ++ f.b ++ f.hb ++ f.ka ++ f.kb ++ f.mode ++ f.off) = f.hb := by
  rw [up (by decide), up (by decide), up (by decide), up (by decide), side (by decide), BitVec.extractLsb'_eq_self]

theorem xM_ka (f : XM) :
    BitVec.extractLsb' 20 2 (f.c ++ f.b ++ f.hb ++ f.ka ++ f.kb ++ f.mode ++ f.off) = f.ka := by
  rw [up (by decide), up (by decide), up (by decide), side (by decide), BitVec.extractLsb'_eq_self]

theorem xM_kb (f : XM) :
    BitVec.extractLsb' 18 2 (f.c ++ f.b ++ f.hb ++ f.ka ++ f.kb ++ f.mode ++ f.off) = f.kb := by
  rw [up (by decide), up (by decide), side (by decide), BitVec.extractLsb'_eq_self]

theorem xM_mode (f : XM) :
    BitVec.extractLsb' 12 6 (f.c ++ f.b ++ f.hb ++ f.ka ++ f.kb ++ f.mode ++ f.off) = f.mode := by
  rw [up (by decide), side (by decide), BitVec.extractLsb'_eq_self]

theorem xM_off (f : XM) :
    BitVec.extractLsb' 0 12 (f.c ++ f.b ++ f.hb ++ f.ka ++ f.kb ++ f.mode ++ f.off) = f.off := by
  rw [side (by decide), BitVec.extractLsb'_eq_self]

theorem xM_words (f : XM) (p fn : Nat) (hp : p < 64) (hf : fn < 512) :
    ∃ w x, f.words p fn = [w, x] ∧ primaryOf w = p ∧ funcOf w = fn ∧ XM.of w x = f := by
  refine ⟨_, _, rfl, (congrArg BitVec.toNat (xM_p f p fn)).trans (toNat_ofNat_lt hp),
    (congrArg BitVec.toNat (xM_fn f p fn)).trans (toNat_ofNat_lt hf), ?_⟩
  rw [XM.of, XM.mk.injEq]
  exact ⟨xM_c0 f p fn, xM_d f p fn, xM_a f p fn, xM_ha f p fn, xM_c f, xM_b f, xM_hb f, xM_ka f, xM_kb f, xM_mode f, xM_off f⟩

theorem xB_c0 (f : XB) (p fn : Nat) :
    BitVec.extractLsb' 31 1 (f.c0 ++ BitVec.ofNat 6 p ++ BitVec.ofNat 9 fn ++ f.d ++ f.a ++ f.ha) = f.c0 := by
  rw [up (by decide), up (by decide), up (by decide), up (by decide), up (by decide), BitVec.extractLsb'_eq_self]

theorem xB_p (f : XB) (p fn : Nat) :
    BitVec.extractLsb' 25 6 (f.c0 ++ BitVec.ofNat 6 p ++ BitVec.ofNat 9 fn ++ f.d ++ f.a ++ f.ha) = BitVec.ofNat 6 p := by
  rw [up (by decide), up (by decide), up (by decide), up (by decide), side (by decide), BitVec.extractLsb'_eq_self]

theorem xB_fn (f : XB) (p fn : Nat) :
    BitVec.extractLsb' 16 9 (f.c0 ++ BitVec.ofNat 6 p ++ BitVec.ofNat 9 fn ++ f.d ++ f.a ++ f.ha) = BitVec.ofNat 9 fn := by
  rw [up (by decide), up (by decide), up (by decide), side (by decide), BitVec.extractLsb'_eq_self]

theorem xB_d (f : XB) (p fn : Nat) :
    BitVec.extractLsb' 9 7 (f.c0 ++ BitVec.ofNat 6 p ++ BitVec.ofNat 9 fn ++ f.d ++ f.a ++ f.ha) = f.d := by
  rw [up (by decide), up (by decide), side (by decide), BitVec.extractLsb'_eq_self]

theorem xB_a (f : XB) (p fn : Nat) :
    BitVec.extractLsb' 2 7 (f.c0 ++ BitVec.ofNat 6 p ++ BitVec.ofNat 9 fn ++ f.d ++ f.a ++ f.ha) = f.a := by
  rw [up (by decide), side (by decide), BitVec.extractLsb'_eq_self]

theorem xB_ha (f : XB) (p fn : Nat) :
    BitVec.extractLsb' 0 2 (f.c0 ++ BitVec.ofNat 6 p ++ BitVec.ofNat 9 fn ++ f.d ++ f.a ++ f.ha) = f.ha := by
  rw [side (by decide), BitVec.extractLsb'_eq_self]

theorem xB_c (f : XB) :
    BitVec.extractLsb' 31 1 (f.c ++ f.ej ++ f.target ++ f.rejoin) = f.c := by
  rw [up (by decide), up (by decide), up (by decide), BitVec.extractLsb'_eq_self]

theorem xB_ej (f : XB) :
    BitVec.extractLsb' 30 1 (f.c ++ f.ej ++ f.target ++ f.rejoin) = f.ej := by
  rw [up (by decide), up (by decide), side (by decide), BitVec.extractLsb'_eq_self]

theorem xB_target (f : XB) :
    BitVec.extractLsb' 12 18 (f.c ++ f.ej ++ f.target ++ f.rejoin) = f.target := by
  rw [up (by decide), side (by decide), BitVec.extractLsb'_eq_self]

theorem xB_rejoin (f : XB) :
    BitVec.extractLsb' 0 12 (f.c ++ f.ej ++ f.target ++ f.rejoin) = f.rejoin := by
  rw [side (by decide), BitVec.extractLsb'_eq_self]

theorem xB_words (f : XB) (p fn : Nat) (hp : p < 64) (hf : fn < 512) :
    ∃ w x, f.words p fn = [w, x] ∧ primaryOf w = p ∧ funcOf w = fn ∧ XB.of w x = f := by
  refine ⟨_, _, rfl, (congrArg BitVec.toNat (xB_p f p fn)).trans (toNat_ofNat_lt hp),
    (congrArg BitVec.toNat (xB_fn f p fn)).trans (toNat_ofNat_lt hf), ?_⟩
  rw [XB.of, XB.mk.injEq]
  exact ⟨xB_c0 f p fn, xB_d f p fn, xB_a f p fn, xB_ha f p fn, xB_c f, xB_ej f, xB_target f, xB_rejoin f⟩

theorem y3_c0 (f : Y3) (p fn : Nat) :
    BitVec.extractLsb' 31 1 (f.c0 ++ BitVec.ofNat 6 p ++ BitVec.ofNat 9 fn ++ f.d ++ f.mode) = f.c0 := by
  rw [up (by decide), up (by decide), up (by decide), up (by decide), BitVec.extractLsb'_eq_self]

theorem y3_p (f : Y3) (p fn : Nat) :
    BitVec.extractLsb' 25 6 (f.c0 ++ BitVec.ofNat 6 p ++ BitVec.ofNat 9 fn ++ f.d ++ f.mode) = BitVec.ofNat 6 p := by
  rw [up (by decide), up (by decide), up (by decide), side (by decide), BitVec.extractLsb'_eq_self]

theorem y3_fn (f : Y3) (p fn : Nat) :
    BitVec.extractLsb' 16 9 (f.c0 ++ BitVec.ofNat 6 p ++ BitVec.ofNat 9 fn ++ f.d ++ f.mode) = BitVec.ofNat 9 fn := by
  rw [up (by decide), up (by decide), side (by decide), BitVec.extractLsb'_eq_self]

theorem y3_d (f : Y3) (p fn : Nat) :
    BitVec.extractLsb' 7 9 (f.c0 ++ BitVec.ofNat 6 p ++ BitVec.ofNat 9 fn ++ f.d ++ f.mode) = f.d := by
  rw [up (by decide), side (by decide), BitVec.extractLsb'_eq_self]

theorem y3_mode (f : Y3) (p fn : Nat) :
    BitVec.extractLsb' 0 7 (f.c0 ++ BitVec.ofNat 6 p ++ BitVec.ofNat 9 fn ++ f.d ++ f.mode) = f.mode := by
  rw [side (by decide), BitVec.extractLsb'_eq_self]

theorem y3_c (f : Y3) :
    BitVec.extractLsb' 31 1 (f.c ++ f.a ++ f.b ++ f.e ++ f.x) = f.c := by
  rw [up (by decide), up (by decide), up (by decide), up (by decide), BitVec.extractLsb'_eq_self]

theorem y3_a (f : Y3) :
    BitVec.extractLsb' 22 9 (f.c ++ f.a ++ f.b ++ f.e ++ f.x) = f.a := by
  rw [up (by decide), up (by decide), up (by decide), side (by decide), BitVec.extractLsb'_eq_self]

theorem y3_b (f : Y3) :
    BitVec.extractLsb' 13 9 (f.c ++ f.a ++ f.b ++ f.e ++ f.x) = f.b := by
  rw [up (by decide), up (by decide), side (by decide), BitVec.extractLsb'_eq_self]

theorem y3_e (f : Y3) :
    BitVec.extractLsb' 4 9 (f.c ++ f.a ++ f.b ++ f.e ++ f.x) = f.e := by
  rw [up (by decide), side (by decide), BitVec.extractLsb'_eq_self]

theorem y3_x (f : Y3) :
    BitVec.extractLsb' 0 4 (f.c ++ f.a ++ f.b ++ f.e ++ f.x) = f.x := by
  rw [side (by decide), BitVec.extractLsb'_eq_self]

theorem y3_words (f : Y3) (p fn : Nat) (hp : p < 64) (hf : fn < 512) :
    ∃ w x, f.words p fn = [w, x] ∧ primaryOf w = p ∧ funcOf w = fn ∧ Y3.of w x = f := by
  refine ⟨_, _, rfl, (congrArg BitVec.toNat (y3_p f p fn)).trans (toNat_ofNat_lt hp),
    (congrArg BitVec.toNat (y3_fn f p fn)).trans (toNat_ofNat_lt hf), ?_⟩
  rw [Y3.of, Y3.mk.injEq]
  exact ⟨y3_c0 f p fn, y3_d f p fn, y3_mode f p fn, y3_c f, y3_a f, y3_b f, y3_e f, y3_x f⟩

theorem yS_c0 (f : YS) (p fn : Nat) :
    BitVec.extractLsb' 31 1 (f.c0 ++ BitVec.ofNat 6 p ++ BitVec.ofNat 9 fn ++ f.d ++ f.mode) = f.c0 := by
  rw [up (by decide), up (by decide), up (by decide), up (by decide), BitVec.extractLsb'_eq_self]

theorem yS_p (f : YS) (p fn : Nat) :
    BitVec.extractLsb' 25 6 (f.c0 ++ BitVec.ofNat 6 p ++ BitVec.ofNat 9 fn ++ f.d ++ f.mode) = BitVec.ofNat 6 p := by
  rw [up (by decide), up (by decide), up (by decide), side (by decide), BitVec.extractLsb'_eq_self]

theorem yS_fn (f : YS) (p fn : Nat) :
    BitVec.extractLsb' 16 9 (f.c0 ++ BitVec.ofNat 6 p ++ BitVec.ofNat 9 fn ++ f.d ++ f.mode) = BitVec.ofNat 9 fn := by
  rw [up (by decide), up (by decide), side (by decide), BitVec.extractLsb'_eq_self]

theorem yS_d (f : YS) (p fn : Nat) :
    BitVec.extractLsb' 7 9 (f.c0 ++ BitVec.ofNat 6 p ++ BitVec.ofNat 9 fn ++ f.d ++ f.mode) = f.d := by
  rw [up (by decide), side (by decide), BitVec.extractLsb'_eq_self]

theorem yS_mode (f : YS) (p fn : Nat) :
    BitVec.extractLsb' 0 7 (f.c0 ++ BitVec.ofNat 6 p ++ BitVec.ofNat 9 fn ++ f.d ++ f.mode) = f.mode := by
  rw [side (by decide), BitVec.extractLsb'_eq_self]

theorem yS_c (f : YS) :
    BitVec.extractLsb' 31 1 (f.c ++ f.a ++ f.imm) = f.c := by
  rw [up (by decide), up (by decide), BitVec.extractLsb'_eq_self]

theorem yS_a (f : YS) :
    BitVec.extractLsb' 22 9 (f.c ++ f.a ++ f.imm) = f.a := by
  rw [up (by decide), side (by decide), BitVec.extractLsb'_eq_self]

theorem yS_imm (f : YS) :
    BitVec.extractLsb' 0 22 (f.c ++ f.a ++ f.imm) = f.imm := by
  rw [side (by decide), BitVec.extractLsb'_eq_self]

theorem yS_words (f : YS) (p fn : Nat) (hp : p < 64) (hf : fn < 512) :
    ∃ w x, f.words p fn = [w, x] ∧ primaryOf w = p ∧ funcOf w = fn ∧ YS.of w x = f := by
  refine ⟨_, _, rfl, (congrArg BitVec.toNat (yS_p f p fn)).trans (toNat_ofNat_lt hp),
    (congrArg BitVec.toNat (yS_fn f p fn)).trans (toNat_ofNat_lt hf), ?_⟩
  rw [YS.of, YS.mk.injEq]
  exact ⟨yS_c0 f p fn, yS_d f p fn, yS_mode f p fn, yS_c f, yS_a f, yS_imm f⟩

theorem yI_c0 (f : YI) (p fn : Nat) :
    BitVec.extractLsb' 31 1 (f.c0 ++ BitVec.ofNat 6 p ++ BitVec.ofNat 9 fn ++ f.d ++ f.mode) = f.c0 := by
  rw [up (by decide), up (by decide), up (by decide), up (by decide), BitVec.extractLsb'_eq_self]

theorem yI_p (f : YI) (p fn : Nat) :
    BitVec.extractLsb' 25 6 (f.c0 ++ BitVec.ofNat 6 p ++ BitVec.ofNat 9 fn ++ f.d ++ f.mode) = BitVec.ofNat 6 p := by
  rw [up (by decide), up (by decide), up (by decide), side (by decide), BitVec.extractLsb'_eq_self]

theorem yI_fn (f : YI) (p fn : Nat) :
    BitVec.extractLsb' 16 9 (f.c0 ++ BitVec.ofNat 6 p ++ BitVec.ofNat 9 fn ++ f.d ++ f.mode) = BitVec.ofNat 9 fn := by
  rw [up (by decide), up (by decide), side (by decide), BitVec.extractLsb'_eq_self]

theorem yI_d (f : YI) (p fn : Nat) :
    BitVec.extractLsb' 7 9 (f.c0 ++ BitVec.ofNat 6 p ++ BitVec.ofNat 9 fn ++ f.d ++ f.mode) = f.d := by
  rw [up (by decide), side (by decide), BitVec.extractLsb'_eq_self]

theorem yI_mode (f : YI) (p fn : Nat) :
    BitVec.extractLsb' 0 7 (f.c0 ++ BitVec.ofNat 6 p ++ BitVec.ofNat 9 fn ++ f.d ++ f.mode) = f.mode := by
  rw [side (by decide), BitVec.extractLsb'_eq_self]

theorem yI_c (f : YI) :
    BitVec.extractLsb' 31 1 (f.c ++ f.imm) = f.c := by
  rw [up (by decide), BitVec.extractLsb'_eq_self]

theorem yI_imm (f : YI) :
    BitVec.extractLsb' 0 31 (f.c ++ f.imm) = f.imm := by
  rw [side (by decide), BitVec.extractLsb'_eq_self]

theorem yI_words (f : YI) (p fn : Nat) (hp : p < 64) (hf : fn < 512) :
    ∃ w x, f.words p fn = [w, x] ∧ primaryOf w = p ∧ funcOf w = fn ∧ YI.of w x = f := by
  refine ⟨_, _, rfl, (congrArg BitVec.toNat (yI_p f p fn)).trans (toNat_ofNat_lt hp),
    (congrArg BitVec.toNat (yI_fn f p fn)).trans (toNat_ofNat_lt hf), ?_⟩
  rw [YI.of, YI.mk.injEq]
  exact ⟨yI_c0 f p fn, yI_d f p fn, yI_mode f p fn, yI_c f, yI_imm f⟩

theorem yB_c0 (f : YB) (p fn : Nat) :
    BitVec.extractLsb' 31 1 (f.c0 ++ BitVec.ofNat 6 p ++ BitVec.ofNat 9 fn ++ f.d ++ f.mode) = f.c0 := by
  rw [up (by decide), up (by decide), up (by decide), up (by decide), BitVec.extractLsb'_eq_self]

theorem yB_p (f : YB) (p fn : Nat) :
    BitVec.extractLsb' 25 6 (f.c0 ++ BitVec.ofNat 6 p ++ BitVec.ofNat 9 fn ++ f.d ++ f.mode) = BitVec.ofNat 6 p := by
  rw [up (by decide), up (by decide), up (by decide), side (by decide), BitVec.extractLsb'_eq_self]

theorem yB_fn (f : YB) (p fn : Nat) :
    BitVec.extractLsb' 16 9 (f.c0 ++ BitVec.ofNat 6 p ++ BitVec.ofNat 9 fn ++ f.d ++ f.mode) = BitVec.ofNat 9 fn := by
  rw [up (by decide), up (by decide), side (by decide), BitVec.extractLsb'_eq_self]

theorem yB_d (f : YB) (p fn : Nat) :
    BitVec.extractLsb' 7 9 (f.c0 ++ BitVec.ofNat 6 p ++ BitVec.ofNat 9 fn ++ f.d ++ f.mode) = f.d := by
  rw [up (by decide), side (by decide), BitVec.extractLsb'_eq_self]

theorem yB_mode (f : YB) (p fn : Nat) :
    BitVec.extractLsb' 0 7 (f.c0 ++ BitVec.ofNat 6 p ++ BitVec.ofNat 9 fn ++ f.d ++ f.mode) = f.mode := by
  rw [side (by decide), BitVec.extractLsb'_eq_self]

theorem yB_c (f : YB) :
    BitVec.extractLsb' 31 1 (f.c ++ f.cp ++ f.n ++ f.off ++ f.x) = f.c := by
  rw [up (by decide), up (by decide), up (by decide), up (by decide), BitVec.extractLsb'_eq_self]

theorem yB_cp (f : YB) :
    BitVec.extractLsb' 28 3 (f.c ++ f.cp ++ f.n ++ f.off ++ f.x) = f.cp := by
  rw [up (by decide), up (by decide), up (by decide), side (by decide), BitVec.extractLsb'_eq_self]

theorem yB_n (f : YB) :
    BitVec.extractLsb' 27 1 (f.c ++ f.cp ++ f.n ++ f.off ++ f.x) = f.n := by
  rw [up (by decide), up (by decide), side (by decide), BitVec.extractLsb'_eq_self]

theorem yB_off (f : YB) :
    BitVec.extractLsb' 9 18 (f.c ++ f.cp ++ f.n ++ f.off ++ f.x) = f.off := by
  rw [up (by decide), side (by decide), BitVec.extractLsb'_eq_self]

theorem yB_x (f : YB) :
    BitVec.extractLsb' 0 9 (f.c ++ f.cp ++ f.n ++ f.off ++ f.x) = f.x := by
  rw [side (by decide), BitVec.extractLsb'_eq_self]

theorem yB_words (f : YB) (p fn : Nat) (hp : p < 64) (hf : fn < 512) :
    ∃ w x, f.words p fn = [w, x] ∧ primaryOf w = p ∧ funcOf w = fn ∧ YB.of w x = f := by
  refine ⟨_, _, rfl, (congrArg BitVec.toNat (yB_p f p fn)).trans (toNat_ofNat_lt hp),
    (congrArg BitVec.toNat (yB_fn f p fn)).trans (toNat_ofNat_lt hf), ?_⟩
  rw [YB.of, YB.mk.injEq]
  exact ⟨yB_c0 f p fn, yB_d f p fn, yB_mode f p fn, yB_c f, yB_cp f, yB_n f, yB_off f, yB_x f⟩

/-! Unassigned words. -/

theorem unassigned30 {f : Nat} (w x : Word) (h : (assignedFuncs 0x30).contains f = false) : decode30 f w x = .unassignedEncoding w x := by
  unfold decode30
  split <;> first | rfl | exact absurd h (by decide)

theorem unassigned31 {f : Nat} (w x : Word) (h : (assignedFuncs 0x31).contains f = false) : decode31 f w x = .unassignedEncoding w x := by
  unfold decode31
  split <;> first | rfl | exact absurd h (by decide)

theorem unassigned32 {f : Nat} (w x : Word) (h : (assignedFuncs 0x32).contains f = false) : decode32 f w x = .unassignedEncoding w x := by
  unfold decode32
  split <;> first | rfl | exact absurd h (by decide)

theorem unassigned33 {f : Nat} (w x : Word) (h : (assignedFuncs 0x33).contains f = false) : decode33 f w x = .unassignedEncoding w x := by
  unfold decode33
  split <;> first | rfl | exact absurd h (by decide)

theorem unassigned34 {f : Nat} (w x : Word) (h : (assignedFuncs 0x34).contains f = false) : decode34 f w x = .unassignedEncoding w x := by
  unfold decode34
  split <;> first | rfl | exact absurd h (by decide)

theorem unassigned35 {f : Nat} (w x : Word) (h : (assignedFuncs 0x35).contains f = false) : decode35 f w x = .unassignedEncoding w x := by
  unfold decode35
  split <;> first | rfl | exact absurd h (by decide)

theorem unassigned36 {f : Nat} (w x : Word) (h : (assignedFuncs 0x36).contains f = false) : decode36 f w x = .unassignedEncoding w x := by
  unfold decode36
  split <;> first | rfl | exact absurd h (by decide)

theorem unassigned37 {f : Nat} (w x : Word) (h : (assignedFuncs 0x37).contains f = false) : decode37 f w x = .unassignedEncoding w x := by
  unfold decode37
  split <;> first | rfl | exact absurd h (by decide)

theorem unassigned38 {f : Nat} (w x : Word) (h : (assignedFuncs 0x38).contains f = false) : decode38 f w x = .unassignedEncoding w x := by
  unfold decode38
  split <;> first | rfl | exact absurd h (by decide)

theorem unassigned39 {f : Nat} (w x : Word) (h : (assignedFuncs 0x39).contains f = false) : decode39 f w x = .unassignedEncoding w x := by
  unfold decode39
  split <;> first | rfl | exact absurd h (by decide)

theorem unassigned3A {f : Nat} (w x : Word) (h : (assignedFuncs 0x3A).contains f = false) : decode3A f w x = .unassignedEncoding w x := by
  unfold decode3A
  split <;> first | rfl | exact absurd h (by decide)

theorem unassigned3B {f : Nat} (w x : Word) (h : (assignedFuncs 0x3B).contains f = false) : decode3B f w x = .unassignedEncoding w x := by
  unfold decode3B
  split <;> first | rfl | exact absurd h (by decide)

theorem unassigned3C {f : Nat} (w x : Word) (h : (assignedFuncs 0x3C).contains f = false) : decode3C f w x = .unassignedEncoding w x := by
  unfold decode3C
  split <;> first | rfl | exact absurd h (by decide)

theorem unassigned3D {f : Nat} (w x : Word) (h : (assignedFuncs 0x3D).contains f = false) : decode3D f w x = .unassignedEncoding w x := by
  unfold decode3D
  split <;> first | rfl | exact absurd h (by decide)

theorem unassigned3E {f : Nat} (w x : Word) (h : (assignedFuncs 0x3E).contains f = false) : decode3E f w x = .unassignedEncoding w x := by
  unfold decode3E
  split <;> first | rfl | exact absurd h (by decide)

theorem unassigned3F {f : Nat} (w x : Word) (h : (assignedFuncs 0x3F).contains f = false) : decode3F f w x = .unassignedEncoding w x := by
  unfold decode3F
  split <;> first | rfl | exact absurd h (by decide)

theorem unassigned_long {w x : Word} (hl : isLongPrimary (primaryOf w) = true) (h : isUnassigned w x = true) :
    decodeUnit w x = .unassignedEncoding w x := by
  have hp : primaryOf w < 64 := (fld w 25 6).isLt
  simp only [isUnassigned, hl, if_pos, Bool.not_eq_true'] at h
  rw [decodeUnit, if_pos hl]
  simp only [isLongPrimary, decide_eq_true_eq] at hl
  revert h
  generalize primaryOf w = p at *
  intro h
  interval_cases p
  · exact unassigned30 w x h
  · exact unassigned31 w x h
  · exact unassigned32 w x h
  · exact unassigned33 w x h
  · exact unassigned34 w x h
  · exact unassigned35 w x h
  · exact unassigned36 w x h
  · exact unassigned37 w x h
  · exact unassigned38 w x h
  · exact unassigned39 w x h
  · exact unassigned3A w x h
  · exact unassigned3B w x h
  · exact unassigned3C w x h
  · exact unassigned3D w x h
  · exact unassigned3E w x h
  · exact unassigned3F w x h

theorem unassigned_short {w w1 : Word} (hl : isLongPrimary (primaryOf w) = false) (h : isUnassigned w w1 = true) (x : Word) :
    decodeUnit w x = .unassignedEncoding w w1 := by
  simp only [isUnassigned, hl, Bool.false_eq_true, if_false, Bool.and_eq_true, Bool.not_eq_true', beq_iff_eq, List.contains_iff_mem,
    List.mem_cons, List.not_mem_nil, or_false] at h
  obtain ⟨⟨rfl, hp⟩, hz⟩ := h
  rw [decodeUnit, hl, if_neg (by decide)]
  rcases hp with hp | hp | hp | hp | hp <;> rw [hp] <;> simp only [decodeShort, hz, Bool.false_eq_true, if_false]

/-! The family. -/

/-- The words of a well-formed instruction: one short word or two words of a long unit by its primary, which decode to it whatever follows
them; a step or event has none. -/
def Encoding.Statement (i : Instr) : Prop :=
  i.WellFormed → i.canonical = true →
    match encode i with
    | [] => True
    | [w] => isLongPrimary (primaryOf w) = false ∧ ∀ x, decodeUnit w x = i
    | [w, x] => isLongPrimary (primaryOf w) = true ∧ decodeUnit w x = i
    | _ => False

theorem Encoding.short_statement {F : Type} {i : Instr} {p : Nat} {ws : List Word} {of : Word → F} {f : F} {mk : F → Instr}
    (hl : isLongPrimary p = false) (h : ∃ w, ws = [w] ∧ primaryOf w = p ∧ of w = f) (he : encode i = ws) (hi : mk f = i)
    (hd : ∀ w, decodeShort p w = mk (of w)) : Statement i := by
  obtain ⟨w, rfl, hp, hf⟩ := h
  intro _ _
  rw [he]
  refine ⟨by rw [hp, hl], fun x => ?_⟩
  rw [decodeUnit, hp, if_neg (by simp [hl]), hd, hf, hi]

theorem Encoding.long_statement {F : Type} {i : Instr} {p fn : Nat} {ws : List Word} {of : Word → Word → F} {f : F} {mk : F → Instr}
    (hl : isLongPrimary p = true) (h : ∃ w x, ws = [w, x] ∧ primaryOf w = p ∧ funcOf w = fn ∧ of w x = f) (he : encode i = ws)
    (hi : mk f = i) (dec : Nat → Word → Word → Instr) (hd : ∀ w x, decodeLong p w x = dec (funcOf w) w x)
    (hm : ∀ w x, dec fn w x = mk (of w x)) : Statement i := by
  obtain ⟨w, x, rfl, hp, hn, hf⟩ := h
  intro _ _
  rw [he]
  refine ⟨by rw [hp, hl], ?_⟩
  rw [decodeUnit, hp, if_pos hl, hd, hn, hm, hf, hi]

theorem Encoding.nop (f : ShortN) : Statement (.nop f) :=
  short_statement (by decide) (shortN_words f 0x00 (by decide)) rfl rfl fun _ => rfl
theorem Encoding.add (f : ShortR) : Statement (.add f) :=
  short_statement (by decide) (shortR_words f 0x01 (by decide)) rfl rfl fun _ => rfl
theorem Encoding.addi (f : ShortI) : Statement (.addi f) :=
  short_statement (by decide) (shortI_words f 0x02 (by decide)) rfl rfl fun _ => rfl
theorem Encoding.sub (f : ShortR) : Statement (.sub f) :=
  short_statement (by decide) (shortR_words f 0x03 (by decide)) rfl rfl fun _ => rfl
theorem Encoding.mul (f : ShortR) : Statement (.mul f) :=
  short_statement (by decide) (shortR_words f 0x04 (by decide)) rfl rfl fun _ => rfl
theorem Encoding.and (f : ShortR) : Statement (.and f) :=
  short_statement (by decide) (shortR_words f 0x05 (by decide)) rfl rfl fun _ => rfl
theorem Encoding.or (f : ShortR) : Statement (.or f) :=
  short_statement (by decide) (shortR_words f 0x06 (by decide)) rfl rfl fun _ => rfl
theorem Encoding.xor (f : ShortR) : Statement (.xor f) :=
  short_statement (by decide) (shortR_words f 0x07 (by decide)) rfl rfl fun _ => rfl
theorem Encoding.andi (f : ShortI) : Statement (.andi f) :=
  short_statement (by decide) (shortI_words f 0x08 (by decide)) rfl rfl fun _ => rfl
theorem Encoding.ori (f : ShortI) : Statement (.ori f) :=
  short_statement (by decide) (shortI_words f 0x09 (by decide)) rfl rfl fun _ => rfl
theorem Encoding.xori (f : ShortI) : Statement (.xori f) :=
  short_statement (by decide) (shortI_words f 0x0A (by decide)) rfl rfl fun _ => rfl
theorem Encoding.shli (f : ShortI) : Statement (.shli f) :=
  short_statement (by decide) (shortI_words f 0x0B (by decide)) rfl rfl fun _ => rfl
theorem Encoding.shri (f : ShortI) : Statement (.shri f) :=
  short_statement (by decide) (shortI_words f 0x0C (by decide)) rfl rfl fun _ => rfl
theorem Encoding.sari (f : ShortI) : Statement (.sari f) :=
  short_statement (by decide) (shortI_words f 0x0D (by decide)) rfl rfl fun _ => rfl
theorem Encoding.mov (f : ShortR) : Statement (.mov f) :=
  short_statement (by decide) (shortR_words f 0x0E (by decide)) rfl rfl fun _ => rfl
theorem Encoding.movi (f : ShortI) : Statement (.movi f) :=
  short_statement (by decide) (shortI_words f 0x0F (by decide)) rfl rfl fun _ => rfl
theorem Encoding.cmpeq (f : ShortR) : Statement (.cmpeq f) :=
  short_statement (by decide) (shortR_words f 0x10 (by decide)) rfl rfl fun _ => rfl
theorem Encoding.cmplt (f : ShortR) : Statement (.cmplt f) :=
  short_statement (by decide) (shortR_words f 0x11 (by decide)) rfl rfl fun _ => rfl
theorem Encoding.adda (f : ShortR) : Statement (.adda f) :=
  short_statement (by decide) (shortR_words f 0x12 (by decide)) rfl rfl fun _ => rfl
theorem Encoding.addai (f : ShortI) : Statement (.addai f) :=
  short_statement (by decide) (shortI_words f 0x13 (by decide)) rfl rfl fun _ => rfl
theorem Encoding.fadd (f : ShortR) : Statement (.fadd f) :=
  short_statement (by decide) (shortR_words f 0x14 (by decide)) rfl rfl fun _ => rfl
theorem Encoding.fsub (f : ShortR) : Statement (.fsub f) :=
  short_statement (by decide) (shortR_words f 0x15 (by decide)) rfl rfl fun _ => rfl
theorem Encoding.fmul (f : ShortR) : Statement (.fmul f) :=
  short_statement (by decide) (shortR_words f 0x16 (by decide)) rfl rfl fun _ => rfl
theorem Encoding.fmin (f : ShortR) : Statement (.fmin f) :=
  short_statement (by decide) (shortR_words f 0x17 (by decide)) rfl rfl fun _ => rfl
theorem Encoding.fmax (f : ShortR) : Statement (.fmax f) :=
  short_statement (by decide) (shortR_words f 0x18 (by decide)) rfl rfl fun _ => rfl
theorem Encoding.ld (f : ShortI) : Statement (.ld f) :=
  short_statement (by decide) (shortI_words f 0x19 (by decide)) rfl rfl fun _ => rfl
theorem Encoding.st (f : ShortI) : Statement (.st f) :=
  short_statement (by decide) (shortI_words f 0x1A (by decide)) rfl rfl fun _ => rfl
theorem Encoding.ldl (f : ShortI) : Statement (.ldl f) :=
  short_statement (by decide) (shortI_words f 0x1B (by decide)) rfl rfl fun _ => rfl
theorem Encoding.stl (f : ShortI) : Statement (.stl f) :=
  short_statement (by decide) (shortI_words f 0x1C (by decide)) rfl rfl fun _ => rfl
theorem Encoding.bz (f : ShortB) : Statement (.bz f) :=
  short_statement (by decide) (shortB_words f 0x1D (by decide)) rfl rfl fun _ => rfl
theorem Encoding.bnz (f : ShortB) : Statement (.bnz f) :=
  short_statement (by decide) (shortB_words f 0x1E (by decide)) rfl rfl fun _ => rfl
theorem Encoding.guardWord (f : ShortN) : Statement (.guardWord f) :=
  short_statement (by decide) (shortN_words f 0x1F (by decide)) rfl rfl fun _ => rfl
theorem Encoding.bra (f : ShortB) : Statement (.bra f) :=
  short_statement (by decide) (shortB_words f 0x20 (by decide)) rfl rfl fun _ => rfl
theorem Encoding.call (f : ShortB) : Statement (.call f) :=
  short_statement (by decide) (shortB_words f 0x21 (by decide)) rfl rfl fun _ => rfl
theorem Encoding.ret (f : ShortR) : Statement (.ret f) :=
  short_statement (by decide) (shortR_words f 0x22 (by decide)) rfl rfl fun _ => rfl
theorem Encoding.setpri (f : ShortI) : Statement (.setpri f) :=
  short_statement (by decide) (shortI_words f 0x26 (by decide)) rfl rfl fun _ => rfl
theorem Encoding.grant (f : ShortI) : Statement (.grant f) :=
  short_statement (by decide) (shortI_words f 0x29 (by decide)) rfl rfl fun _ => rfl
theorem Encoding.rdsr (f : ShortI) : Statement (.rdsr f) :=
  short_statement (by decide) (shortI_words f 0x2A (by decide)) rfl rfl fun _ => rfl
theorem Encoding.wrsr (f : ShortI) : Statement (.wrsr f) :=
  short_statement (by decide) (shortI_words f 0x2B (by decide)) rfl rfl fun _ => rfl
theorem Encoding.discard (f : ShortI) : Statement (.discard f) :=
  short_statement (by decide) (shortI_words f 0x2C (by decide)) rfl rfl fun _ => rfl
theorem Encoding.swz (f : ShortR) : Statement (.swz f) :=
  short_statement (by decide) (shortR_words f 0x2D (by decide)) rfl rfl fun _ => rfl
theorem Encoding.guard (f : GuardW) : Statement (.guard f) :=
  short_statement (by decide) (guardW_words f 0x2E (by decide)) rfl rfl fun _ => rfl
theorem Encoding.fcmplt (f : ShortR) : Statement (.fcmplt f) :=
  short_statement (by decide) (shortR_words f 0x2F (by decide)) rfl rfl fun _ => rfl
theorem Encoding.addLong (f : X3) : Statement (.addLong f) :=
  long_statement (by decide) (x3_words f 0x30 0x000 (by decide) (by decide)) rfl rfl decode30 (fun _ _ => rfl) fun _ _ => rfl
theorem Encoding.subLong (f : X3) : Statement (.subLong f) :=
  long_statement (by decide) (x3_words f 0x30 0x001 (by decide) (by decide)) rfl rfl decode30 (fun _ _ => rfl) fun _ _ => rfl
theorem Encoding.mulLong (f : X3) : Statement (.mulLong f) :=
  long_statement (by decide) (x3_words f 0x30 0x002 (by decide) (by decide)) rfl rfl decode30 (fun _ _ => rfl) fun _ _ => rfl
theorem Encoding.mulhi (f : X3) : Statement (.mulhi f) :=
  long_statement (by decide) (x3_words f 0x30 0x003 (by decide) (by decide)) rfl rfl decode30 (fun _ _ => rfl) fun _ _ => rfl
theorem Encoding.mad (f : X3) : Statement (.mad f) :=
  long_statement (by decide) (x3_words f 0x30 0x004 (by decide) (by decide)) rfl rfl decode30 (fun _ _ => rfl) fun _ _ => rfl
theorem Encoding.andLong (f : X3) : Statement (.andLong f) :=
  long_statement (by decide) (x3_words f 0x30 0x005 (by decide) (by decide)) rfl rfl decode30 (fun _ _ => rfl) fun _ _ => rfl
theorem Encoding.orLong (f : X3) : Statement (.orLong f) :=
  long_statement (by decide) (x3_words f 0x30 0x006 (by decide) (by decide)) rfl rfl decode30 (fun _ _ => rfl) fun _ _ => rfl
theorem Encoding.xorLong (f : X3) : Statement (.xorLong f) :=
  long_statement (by decide) (x3_words f 0x30 0x007 (by decide) (by decide)) rfl rfl decode30 (fun _ _ => rfl) fun _ _ => rfl
theorem Encoding.shl (f : X3) : Statement (.shl f) :=
  long_statement (by decide) (x3_words f 0x30 0x008 (by decide) (by decide)) rfl rfl decode30 (fun _ _ => rfl) fun _ _ => rfl
theorem Encoding.shr (f : X3) : Statement (.shr f) :=
  long_statement (by decide) (x3_words f 0x30 0x009 (by decide) (by decide)) rfl rfl decode30 (fun _ _ => rfl) fun _ _ => rfl
theorem Encoding.sar (f : X3) : Statement (.sar f) :=
  long_statement (by decide) (x3_words f 0x30 0x00A (by decide) (by decide)) rfl rfl decode30 (fun _ _ => rfl) fun _ _ => rfl
theorem Encoding.min (f : X3) : Statement (.min f) :=
  long_statement (by decide) (x3_words f 0x30 0x00B (by decide) (by decide)) rfl rfl decode30 (fun _ _ => rfl) fun _ _ => rfl
theorem Encoding.max (f : X3) : Statement (.max f) :=
  long_statement (by decide) (x3_words f 0x30 0x00C (by decide) (by decide)) rfl rfl decode30 (fun _ _ => rfl) fun _ _ => rfl
theorem Encoding.popc (f : X3) : Statement (.popc f) :=
  long_statement (by decide) (x3_words f 0x30 0x00D (by decide) (by decide)) rfl rfl decode30 (fun _ _ => rfl) fun _ _ => rfl
theorem Encoding.clz (f : X3) : Statement (.clz f) :=
  long_statement (by decide) (x3_words f 0x30 0x00E (by decide) (by decide)) rfl rfl decode30 (fun _ _ => rfl) fun _ _ => rfl
theorem Encoding.bfe (f : X3) : Statement (.bfe f) :=
  long_statement (by decide) (x3_words f 0x30 0x00F (by decide) (by decide)) rfl rfl decode30 (fun _ _ => rfl) fun _ _ => rfl
theorem Encoding.bfi (f : X3) : Statement (.bfi f) :=
  long_statement (by decide) (x3_words f 0x30 0x010 (by decide) (by decide)) rfl rfl decode30 (fun _ _ => rfl) fun _ _ => rfl
theorem Encoding.sel (f : X3) : Statement (.sel f) :=
  long_statement (by decide) (x3_words f 0x30 0x011 (by decide) (by decide)) rfl rfl decode30 (fun _ _ => rfl) fun _ _ => rfl
theorem Encoding.cmp (f : X3) : Statement (.cmp f) :=
  long_statement (by decide) (x3_words f 0x30 0x012 (by decide) (by decide)) rfl rfl decode30 (fun _ _ => rfl) fun _ _ => rfl
theorem Encoding.addaLong (f : X3) : Statement (.addaLong f) :=
  long_statement (by decide) (x3_words f 0x30 0x013 (by decide) (by decide)) rfl rfl decode30 (fun _ _ => rfl) fun _ _ => rfl
theorem Encoding.movLong (f : X3) : Statement (.movLong f) :=
  long_statement (by decide) (x3_words f 0x30 0x014 (by decide) (by decide)) rfl rfl decode30 (fun _ _ => rfl) fun _ _ => rfl
theorem Encoding.movp (f : X3) : Statement (.movp f) :=
  long_statement (by decide) (x3_words f 0x30 0x015 (by decide) (by decide)) rfl rfl decode30 (fun _ _ => rfl) fun _ _ => rfl
theorem Encoding.moviLong (f : XI) : Statement (.moviLong f) :=
  long_statement (by decide) (xI_words f 0x30 0x020 (by decide) (by decide)) rfl rfl decode30 (fun _ _ => rfl) fun _ _ => rfl
theorem Encoding.addiLong (f : XI) : Statement (.addiLong f) :=
  long_statement (by decide) (xI_words f 0x30 0x021 (by decide) (by decide)) rfl rfl decode30 (fun _ _ => rfl) fun _ _ => rfl
theorem Encoding.andiLong (f : XI) : Statement (.andiLong f) :=
  long_statement (by decide) (xI_words f 0x30 0x022 (by decide) (by decide)) rfl rfl decode30 (fun _ _ => rfl) fun _ _ => rfl
theorem Encoding.oriLong (f : XI) : Statement (.oriLong f) :=
  long_statement (by decide) (xI_words f 0x30 0x023 (by decide) (by decide)) rfl rfl decode30 (fun _ _ => rfl) fun _ _ => rfl
theorem Encoding.xoriLong (f : XI) : Statement (.xoriLong f) :=
  long_statement (by decide) (xI_words f 0x30 0x024 (by decide) (by decide)) rfl rfl decode30 (fun _ _ => rfl) fun _ _ => rfl
theorem Encoding.addaiLong (f : XI) : Statement (.addaiLong f) :=
  long_statement (by decide) (xI_words f 0x30 0x025 (by decide) (by decide)) rfl rfl decode30 (fun _ _ => rfl) fun _ _ => rfl
theorem Encoding.faddLong (f : X3) : Statement (.faddLong f) :=
  long_statement (by decide) (x3_words f 0x31 0x000 (by decide) (by decide)) rfl rfl decode31 (fun _ _ => rfl) fun _ _ => rfl
theorem Encoding.fsubLong (f : X3) : Statement (.fsubLong f) :=
  long_statement (by decide) (x3_words f 0x31 0x001 (by decide) (by decide)) rfl rfl decode31 (fun _ _ => rfl) fun _ _ => rfl
theorem Encoding.fmulLong (f : X3) : Statement (.fmulLong f) :=
  long_statement (by decide) (x3_words f 0x31 0x002 (by decide) (by decide)) rfl rfl decode31 (fun _ _ => rfl) fun _ _ => rfl
theorem Encoding.fma (f : X3) : Statement (.fma f) :=
  long_statement (by decide) (x3_words f 0x31 0x003 (by decide) (by decide)) rfl rfl decode31 (fun _ _ => rfl) fun _ _ => rfl
theorem Encoding.fminLong (f : X3) : Statement (.fminLong f) :=
  long_statement (by decide) (x3_words f 0x31 0x004 (by decide) (by decide)) rfl rfl decode31 (fun _ _ => rfl) fun _ _ => rfl
theorem Encoding.fmaxLong (f : X3) : Statement (.fmaxLong f) :=
  long_statement (by decide) (x3_words f 0x31 0x005 (by decide) (by decide)) rfl rfl decode31 (fun _ _ => rfl) fun _ _ => rfl
theorem Encoding.fcmp (f : X3) : Statement (.fcmp f) :=
  long_statement (by decide) (x3_words f 0x31 0x006 (by decide) (by decide)) rfl rfl decode31 (fun _ _ => rfl) fun _ _ => rfl
theorem Encoding.fclass (f : X3) : Statement (.fclass f) :=
  long_statement (by decide) (x3_words f 0x31 0x007 (by decide) (by decide)) rfl rfl decode31 (fun _ _ => rfl) fun _ _ => rfl
theorem Encoding.fround (f : X3) : Statement (.fround f) :=
  long_statement (by decide) (x3_words f 0x31 0x008 (by decide) (by decide)) rfl rfl decode31 (fun _ _ => rfl) fun _ _ => rfl
theorem Encoding.fabs (f : X3) : Statement (.fabs f) :=
  long_statement (by decide) (x3_words f 0x31 0x009 (by decide) (by decide)) rfl rfl decode31 (fun _ _ => rfl) fun _ _ => rfl
theorem Encoding.fneg (f : X3) : Statement (.fneg f) :=
  long_statement (by decide) (x3_words f 0x31 0x00A (by decide) (by decide)) rfl rfl decode31 (fun _ _ => rfl) fun _ _ => rfl
theorem Encoding.dadd (f : X3) : Statement (.dadd f) :=
  long_statement (by decide) (x3_words f 0x31 0x010 (by decide) (by decide)) rfl rfl decode31 (fun _ _ => rfl) fun _ _ => rfl
theorem Encoding.dsub (f : X3) : Statement (.dsub f) :=
  long_statement (by decide) (x3_words f 0x31 0x011 (by decide) (by decide)) rfl rfl decode31 (fun _ _ => rfl) fun _ _ => rfl
theorem Encoding.dmul (f : X3) : Statement (.dmul f) :=
  long_statement (by decide) (x3_words f 0x31 0x012 (by decide) (by decide)) rfl rfl decode31 (fun _ _ => rfl) fun _ _ => rfl
theorem Encoding.dfma (f : X3) : Statement (.dfma f) :=
  long_statement (by decide) (x3_words f 0x31 0x013 (by decide) (by decide)) rfl rfl decode31 (fun _ _ => rfl) fun _ _ => rfl
theorem Encoding.dmin (f : X3) : Statement (.dmin f) :=
  long_statement (by decide) (x3_words f 0x31 0x014 (by decide) (by decide)) rfl rfl decode31 (fun _ _ => rfl) fun _ _ => rfl
theorem Encoding.dmax (f : X3) : Statement (.dmax f) :=
  long_statement (by decide) (x3_words f 0x31 0x015 (by decide) (by decide)) rfl rfl decode31 (fun _ _ => rfl) fun _ _ => rfl
theorem Encoding.dcmp (f : X3) : Statement (.dcmp f) :=
  long_statement (by decide) (x3_words f 0x31 0x016 (by decide) (by decide)) rfl rfl decode31 (fun _ _ => rfl) fun _ _ => rfl
theorem Encoding.hadd2 (f : X3) : Statement (.hadd2 f) :=
  long_statement (by decide) (x3_words f 0x31 0x020 (by decide) (by decide)) rfl rfl decode31 (fun _ _ => rfl) fun _ _ => rfl
theorem Encoding.hmul2 (f : X3) : Statement (.hmul2 f) :=
  long_statement (by decide) (x3_words f 0x31 0x021 (by decide) (by decide)) rfl rfl decode31 (fun _ _ => rfl) fun _ _ => rfl
theorem Encoding.hfma2 (f : X3) : Statement (.hfma2 f) :=
  long_statement (by decide) (x3_words f 0x31 0x022 (by decide) (by decide)) rfl rfl decode31 (fun _ _ => rfl) fun _ _ => rfl
theorem Encoding.hmin2 (f : X3) : Statement (.hmin2 f) :=
  long_statement (by decide) (x3_words f 0x31 0x023 (by decide) (by decide)) rfl rfl decode31 (fun _ _ => rfl) fun _ _ => rfl
theorem Encoding.hmax2 (f : X3) : Statement (.hmax2 f) :=
  long_statement (by decide) (x3_words f 0x31 0x024 (by decide) (by decide)) rfl rfl decode31 (fun _ _ => rfl) fun _ _ => rfl
theorem Encoding.cvt (f : X3) : Statement (.cvt f) :=
  long_statement (by decide) (x3_words f 0x31 0x030 (by decide) (by decide)) rfl rfl decode31 (fun _ _ => rfl) fun _ _ => rfl
theorem Encoding.rcp (f : X3) : Statement (.rcp f) :=
  long_statement (by decide) (x3_words f 0x32 0x000 (by decide) (by decide)) rfl rfl decode32 (fun _ _ => rfl) fun _ _ => rfl
theorem Encoding.rsq (f : X3) : Statement (.rsq f) :=
  long_statement (by decide) (x3_words f 0x32 0x001 (by decide) (by decide)) rfl rfl decode32 (fun _ _ => rfl) fun _ _ => rfl
theorem Encoding.sqrt (f : X3) : Statement (.sqrt f) :=
  long_statement (by decide) (x3_words f 0x32 0x002 (by decide) (by decide)) rfl rfl decode32 (fun _ _ => rfl) fun _ _ => rfl
theorem Encoding.log2 (f : X3) : Statement (.log2 f) :=
  long_statement (by decide) (x3_words f 0x32 0x003 (by decide) (by decide)) rfl rfl decode32 (fun _ _ => rfl) fun _ _ => rfl
theorem Encoding.exp2 (f : X3) : Statement (.exp2 f) :=
  long_statement (by decide) (x3_words f 0x32 0x004 (by decide) (by decide)) rfl rfl decode32 (fun _ _ => rfl) fun _ _ => rfl
theorem Encoding.sin (f : X3) : Statement (.sin f) :=
  long_statement (by decide) (x3_words f 0x32 0x005 (by decide) (by decide)) rfl rfl decode32 (fun _ _ => rfl) fun _ _ => rfl
theorem Encoding.cos (f : X3) : Statement (.cos f) :=
  long_statement (by decide) (x3_words f 0x32 0x006 (by decide) (by decide)) rfl rfl decode32 (fun _ _ => rfl) fun _ _ => rfl
theorem Encoding.tanh (f : X3) : Statement (.tanh f) :=
  long_statement (by decide) (x3_words f 0x32 0x007 (by decide) (by decide)) rfl rfl decode32 (fun _ _ => rfl) fun _ _ => rfl
theorem Encoding.mvadd (f : X3) : Statement (.mvadd f) :=
  long_statement (by decide) (x3_words f 0x33 0x000 (by decide) (by decide)) rfl rfl decode33 (fun _ _ => rfl) fun _ _ => rfl
theorem Encoding.mvsub (f : X3) : Statement (.mvsub f) :=
  long_statement (by decide) (x3_words f 0x33 0x001 (by decide) (by decide)) rfl rfl decode33 (fun _ _ => rfl) fun _ _ => rfl
theorem Encoding.mvmul (f : X3) : Statement (.mvmul f) :=
  long_statement (by decide) (x3_words f 0x33 0x002 (by decide) (by decide)) rfl rfl decode33 (fun _ _ => rfl) fun _ _ => rfl
theorem Encoding.mvfma (f : X3) : Statement (.mvfma f) :=
  long_statement (by decide) (x3_words f 0x33 0x003 (by decide) (by decide)) rfl rfl decode33 (fun _ _ => rfl) fun _ _ => rfl
theorem Encoding.mvdiv (f : X3) : Statement (.mvdiv f) :=
  long_statement (by decide) (x3_words f 0x33 0x004 (by decide) (by decide)) rfl rfl decode33 (fun _ _ => rfl) fun _ _ => rfl
theorem Encoding.mvneg (f : X3) : Statement (.mvneg f) :=
  long_statement (by decide) (x3_words f 0x33 0x005 (by decide) (by decide)) rfl rfl decode33 (fun _ _ => rfl) fun _ _ => rfl
theorem Encoding.mvabs (f : X3) : Statement (.mvabs f) :=
  long_statement (by decide) (x3_words f 0x33 0x006 (by decide) (by decide)) rfl rfl decode33 (fun _ _ => rfl) fun _ _ => rfl
theorem Encoding.mvsf (f : X3) : Statement (.mvsf f) :=
  long_statement (by decide) (x3_words f 0x33 0x008 (by decide) (by decide)) rfl rfl decode33 (fun _ _ => rfl) fun _ _ => rfl
theorem Encoding.mvcvt (f : X3) : Statement (.mvcvt f) :=
  long_statement (by decide) (x3_words f 0x33 0x009 (by decide) (by decide)) rfl rfl decode33 (fun _ _ => rfl) fun _ _ => rfl
theorem Encoding.mvset (f : X3) : Statement (.mvset f) :=
  long_statement (by decide) (x3_words f 0x33 0x00A (by decide) (by decide)) rfl rfl decode33 (fun _ _ => rfl) fun _ _ => rfl
theorem Encoding.mvvar (f : X3) : Statement (.mvvar f) :=
  long_statement (by decide) (x3_words f 0x33 0x00B (by decide) (by decide)) rfl rfl decode33 (fun _ _ => rfl) fun _ _ => rfl
theorem Encoding.svadd (f : X3) : Statement (.svadd f) :=
  long_statement (by decide) (x3_words f 0x33 0x010 (by decide) (by decide)) rfl rfl decode33 (fun _ _ => rfl) fun _ _ => rfl
theorem Encoding.svsub (f : X3) : Statement (.svsub f) :=
  long_statement (by decide) (x3_words f 0x33 0x011 (by decide) (by decide)) rfl rfl decode33 (fun _ _ => rfl) fun _ _ => rfl
theorem Encoding.svmul (f : X3) : Statement (.svmul f) :=
  long_statement (by decide) (x3_words f 0x33 0x012 (by decide) (by decide)) rfl rfl decode33 (fun _ _ => rfl) fun _ _ => rfl
theorem Encoding.svfma (f : X3) : Statement (.svfma f) :=
  long_statement (by decide) (x3_words f 0x33 0x013 (by decide) (by decide)) rfl rfl decode33 (fun _ _ => rfl) fun _ _ => rfl
theorem Encoding.svsf (f : X3) : Statement (.svsf f) :=
  long_statement (by decide) (x3_words f 0x33 0x014 (by decide) (by decide)) rfl rfl decode33 (fun _ _ => rfl) fun _ _ => rfl
theorem Encoding.svstat (f : X3) : Statement (.svstat f) :=
  long_statement (by decide) (x3_words f 0x33 0x015 (by decide) (by decide)) rfl rfl decode33 (fun _ _ => rfl) fun _ _ => rfl
theorem Encoding.svset (f : X3) : Statement (.svset f) :=
  long_statement (by decide) (x3_words f 0x33 0x016 (by decide) (by decide)) rfl rfl decode33 (fun _ _ => rfl) fun _ _ => rfl
theorem Encoding.svsort (f : X3) : Statement (.svsort f) :=
  long_statement (by decide) (x3_words f 0x33 0x017 (by decide) (by decide)) rfl rfl decode33 (fun _ _ => rfl) fun _ _ => rfl
theorem Encoding.rnd (f : X3) : Statement (.rnd f) :=
  long_statement (by decide) (x3_words f 0x34 0x000 (by decide) (by decide)) rfl rfl decode34 (fun _ _ => rfl) fun _ _ => rfl
theorem Encoding.rndf (f : X3) : Statement (.rndf f) :=
  long_statement (by decide) (x3_words f 0x34 0x001 (by decide) (by decide)) rfl rfl decode34 (fun _ _ => rfl) fun _ _ => rfl
theorem Encoding.rndmask (f : X3) : Statement (.rndmask f) :=
  long_statement (by decide) (x3_words f 0x34 0x002 (by decide) (by decide)) rfl rfl decode34 (fun _ _ => rfl) fun _ _ => rfl
theorem Encoding.rndgauss (f : X3) : Statement (.rndgauss f) :=
  long_statement (by decide) (x3_words f 0x34 0x003 (by decide) (by decide)) rfl rfl decode34 (fun _ _ => rfl) fun _ _ => rfl
theorem Encoding.rndskip (f : X3) : Statement (.rndskip f) :=
  long_statement (by decide) (x3_words f 0x34 0x004 (by decide) (by decide)) rfl rfl decode34 (fun _ _ => rfl) fun _ _ => rfl
theorem Encoding.rndget (f : X3) : Statement (.rndget f) :=
  long_statement (by decide) (x3_words f 0x34 0x005 (by decide) (by decide)) rfl rfl decode34 (fun _ _ => rfl) fun _ _ => rfl
theorem Encoding.rndset (f : X3) : Statement (.rndset f) :=
  long_statement (by decide) (x3_words f 0x34 0x006 (by decide) (by decide)) rfl rfl decode34 (fun _ _ => rfl) fun _ _ => rfl
theorem Encoding.minp (f : X3) : Statement (.minp f) :=
  long_statement (by decide) (x3_words f 0x34 0x008 (by decide) (by decide)) rfl rfl decode34 (fun _ _ => rfl) fun _ _ => rfl
theorem Encoding.hdig (f : X3) : Statement (.hdig f) :=
  long_statement (by decide) (x3_words f 0x34 0x009 (by decide) (by decide)) rfl rfl decode34 (fun _ _ => rfl) fun _ _ => rfl
theorem Encoding.catdraw (f : X3) : Statement (.catdraw f) :=
  long_statement (by decide) (x3_words f 0x34 0x00A (by decide) (by decide)) rfl rfl decode34 (fun _ _ => rfl) fun _ _ => rfl
theorem Encoding.shfl (f : X3) : Statement (.shfl f) :=
  long_statement (by decide) (x3_words f 0x35 0x000 (by decide) (by decide)) rfl rfl decode35 (fun _ _ => rfl) fun _ _ => rfl
theorem Encoding.bcast (f : X3) : Statement (.bcast f) :=
  long_statement (by decide) (x3_words f 0x35 0x001 (by decide) (by decide)) rfl rfl decode35 (fun _ _ => rfl) fun _ _ => rfl
theorem Encoding.vote (f : X3) : Statement (.vote f) :=
  long_statement (by decide) (x3_words f 0x35 0x002 (by decide) (by decide)) rfl rfl decode35 (fun _ _ => rfl) fun _ _ => rfl
theorem Encoding.matchOp (f : X3) : Statement (.matchOp f) :=
  long_statement (by decide) (x3_words f 0x35 0x003 (by decide) (by decide)) rfl rfl decode35 (fun _ _ => rfl) fun _ _ => rfl
theorem Encoding.red (f : X3) : Statement (.red f) :=
  long_statement (by decide) (x3_words f 0x35 0x004 (by decide) (by decide)) rfl rfl decode35 (fun _ _ => rfl) fun _ _ => rfl
theorem Encoding.scan (f : X3) : Statement (.scan f) :=
  long_statement (by decide) (x3_words f 0x35 0x005 (by decide) (by decide)) rfl rfl decode35 (fun _ _ => rfl) fun _ _ => rfl
theorem Encoding.elect (f : X3) : Statement (.elect f) :=
  long_statement (by decide) (x3_words f 0x35 0x006 (by decide) (by decide)) rfl rfl decode35 (fun _ _ => rfl) fun _ _ => rfl
theorem Encoding.bzLong (f : XB) : Statement (.bzLong f) :=
  long_statement (by decide) (xB_words f 0x36 0x000 (by decide) (by decide)) rfl rfl decode36 (fun _ _ => rfl) fun _ _ => rfl
theorem Encoding.bnzLong (f : XB) : Statement (.bnzLong f) :=
  long_statement (by decide) (xB_words f 0x36 0x001 (by decide) (by decide)) rfl rfl decode36 (fun _ _ => rfl) fun _ _ => rfl
theorem Encoding.brx (f : X3) : Statement (.brx f) :=
  long_statement (by decide) (x3_words f 0x36 0x002 (by decide) (by decide)) rfl rfl decode36 (fun _ _ => rfl) fun _ _ => rfl
theorem Encoding.callr (f : X3) : Statement (.callr f) :=
  long_statement (by decide) (x3_words f 0x36 0x003 (by decide) (by decide)) rfl rfl decode36 (fun _ _ => rfl) fun _ _ => rfl
theorem Encoding.ldLong (f : XM) : Statement (.ldLong f) :=
  long_statement (by decide) (xM_words f 0x37 0x000 (by decide) (by decide)) rfl rfl decode37 (fun _ _ => rfl) fun _ _ => rfl
theorem Encoding.stLong (f : XM) : Statement (.stLong f) :=
  long_statement (by decide) (xM_words f 0x37 0x001 (by decide) (by decide)) rfl rfl decode37 (fun _ _ => rfl) fun _ _ => rfl
theorem Encoding.ldlLong (f : XM) : Statement (.ldlLong f) :=
  long_statement (by decide) (xM_words f 0x37 0x002 (by decide) (by decide)) rfl rfl decode37 (fun _ _ => rfl) fun _ _ => rfl
theorem Encoding.stlLong (f : XM) : Statement (.stlLong f) :=
  long_statement (by decide) (xM_words f 0x37 0x003 (by decide) (by decide)) rfl rfl decode37 (fun _ _ => rfl) fun _ _ => rfl
theorem Encoding.atom (f : XM) : Statement (.atom f) :=
  long_statement (by decide) (xM_words f 0x37 0x004 (by decide) (by decide)) rfl rfl decode37 (fun _ _ => rfl) fun _ _ => rfl
theorem Encoding.atoml (f : XM) : Statement (.atoml f) :=
  long_statement (by decide) (xM_words f 0x37 0x005 (by decide) (by decide)) rfl rfl decode37 (fun _ _ => rfl) fun _ _ => rfl
theorem Encoding.gred (f : XM) : Statement (.gred f) :=
  long_statement (by decide) (xM_words f 0x37 0x006 (by decide) (by decide)) rfl rfl decode37 (fun _ _ => rfl) fun _ _ => rfl
theorem Encoding.fence (f : XM) : Statement (.fence f) :=
  long_statement (by decide) (xM_words f 0x37 0x007 (by decide) (by decide)) rfl rfl decode37 (fun _ _ => rfl) fun _ _ => rfl
theorem Encoding.waita (f : XM) : Statement (.waita f) :=
  long_statement (by decide) (xM_words f 0x37 0x008 (by decide) (by decide)) rfl rfl decode37 (fun _ _ => rfl) fun _ _ => rfl
theorem Encoding.wake (f : XM) : Statement (.wake f) :=
  long_statement (by decide) (xM_words f 0x37 0x009 (by decide) (by decide)) rfl rfl decode37 (fun _ _ => rfl) fun _ _ => rfl
theorem Encoding.discardLong (f : XM) : Statement (.discardLong f) :=
  long_statement (by decide) (xM_words f 0x37 0x00A (by decide) (by decide)) rfl rfl decode37 (fun _ _ => rfl) fun _ _ => rfl
theorem Encoding.stt (f : X3) : Statement (.stt f) :=
  long_statement (by decide) (x3_words f 0x37 0x00B (by decide) (by decide)) rfl rfl decode37 (fun _ _ => rfl) fun _ _ => rfl
theorem Encoding.barrierarrive (f : XM) : Statement (.barrierarrive f) :=
  long_statement (by decide) (xM_words f 0x38 0x000 (by decide) (by decide)) rfl rfl decode38 (fun _ _ => rfl) fun _ _ => rfl
theorem Encoding.barrierwait (f : XM) : Statement (.barrierwait f) :=
  long_statement (by decide) (xM_words f 0x38 0x001 (by decide) (by decide)) rfl rfl decode38 (fun _ _ => rfl) fun _ _ => rfl
theorem Encoding.mbinit (f : XM) : Statement (.mbinit f) :=
  long_statement (by decide) (xM_words f 0x38 0x002 (by decide) (by decide)) rfl rfl decode38 (fun _ _ => rfl) fun _ _ => rfl
theorem Encoding.mbput (f : XM) : Statement (.mbput f) :=
  long_statement (by decide) (xM_words f 0x38 0x003 (by decide) (by decide)) rfl rfl decode38 (fun _ _ => rfl) fun _ _ => rfl
theorem Encoding.mbget (f : XM) : Statement (.mbget f) :=
  long_statement (by decide) (xM_words f 0x38 0x004 (by decide) (by decide)) rfl rfl decode38 (fun _ _ => rfl) fun _ _ => rfl
theorem Encoding.waitc (f : XI) : Statement (.waitc f) :=
  long_statement (by decide) (xI_words f 0x38 0x005 (by decide) (by decide)) rfl rfl decode38 (fun _ _ => rfl) fun _ _ => rfl
theorem Encoding.cwait (f : X3) : Statement (.cwait f) :=
  long_statement (by decide) (x3_words f 0x38 0x006 (by decide) (by decide)) rfl rfl decode38 (fun _ _ => rfl) fun _ _ => rfl
theorem Encoding.copy (f : X3) : Statement (.copy f) :=
  long_statement (by decide) (x3_words f 0x39 0x000 (by decide) (by decide)) rfl rfl decode39 (fun _ _ => rfl) fun _ _ => rfl
theorem Encoding.copyf (f : X3) : Statement (.copyf f) :=
  long_statement (by decide) (x3_words f 0x39 0x001 (by decide) (by decide)) rfl rfl decode39 (fun _ _ => rfl) fun _ _ => rfl
theorem Encoding.coll (f : X3) : Statement (.coll f) :=
  long_statement (by decide) (x3_words f 0x39 0x002 (by decide) (by decide)) rfl rfl decode39 (fun _ _ => rfl) fun _ _ => rfl
theorem Encoding.tsend (f : X3) : Statement (.tsend f) :=
  long_statement (by decide) (x3_words f 0x39 0x003 (by decide) (by decide)) rfl rfl decode39 (fun _ _ => rfl) fun _ _ => rfl
theorem Encoding.tdisarm (f : X3) : Statement (.tdisarm f) :=
  long_statement (by decide) (x3_words f 0x39 0x004 (by decide) (by decide)) rfl rfl decode39 (fun _ _ => rfl) fun _ _ => rfl
theorem Encoding.ctrrd (f : X3) : Statement (.ctrrd f) :=
  long_statement (by decide) (x3_words f 0x39 0x005 (by decide) (by decide)) rfl rfl decode39 (fun _ _ => rfl) fun _ _ => rfl
theorem Encoding.ctrrst (f : X3) : Statement (.ctrrst f) :=
  long_statement (by decide) (x3_words f 0x39 0x006 (by decide) (by decide)) rfl rfl decode39 (fun _ _ => rfl) fun _ _ => rfl
theorem Encoding.bfjoin (f : X3) : Statement (.bfjoin f) :=
  long_statement (by decide) (x3_words f 0x39 0x007 (by decide) (by decide)) rfl rfl decode39 (fun _ _ => rfl) fun _ _ => rfl
theorem Encoding.bftake (f : X3) : Statement (.bftake f) :=
  long_statement (by decide) (x3_words f 0x39 0x008 (by decide) (by decide)) rfl rfl decode39 (fun _ _ => rfl) fun _ _ => rfl
theorem Encoding.bfdone (f : X3) : Statement (.bfdone f) :=
  long_statement (by decide) (x3_words f 0x39 0x009 (by decide) (by decide)) rfl rfl decode39 (fun _ _ => rfl) fun _ _ => rfl
theorem Encoding.kvlook (f : X3) : Statement (.kvlook f) :=
  long_statement (by decide) (x3_words f 0x39 0x00A (by decide) (by decide)) rfl rfl decode39 (fun _ _ => rfl) fun _ _ => rfl
theorem Encoding.kvins (f : X3) : Statement (.kvins f) :=
  long_statement (by decide) (x3_words f 0x39 0x00B (by decide) (by decide)) rfl rfl decode39 (fun _ _ => rfl) fun _ _ => rfl
theorem Encoding.kvunref (f : X3) : Statement (.kvunref f) :=
  long_statement (by decide) (x3_words f 0x39 0x00C (by decide) (by decide)) rfl rfl decode39 (fun _ _ => rfl) fun _ _ => rfl
theorem Encoding.tclaim (f : X3) : Statement (.tclaim f) :=
  long_statement (by decide) (x3_words f 0x3A 0x000 (by decide) (by decide)) rfl rfl decode3A (fun _ _ => rfl) fun _ _ => rfl
theorem Encoding.tfree (f : X3) : Statement (.tfree f) :=
  long_statement (by decide) (x3_words f 0x3A 0x001 (by decide) (by decide)) rfl rfl decode3A (fun _ _ => rfl) fun _ _ => rfl
theorem Encoding.tshape (f : X3) : Statement (.tshape f) :=
  long_statement (by decide) (x3_words f 0x3A 0x002 (by decide) (by decide)) rfl rfl decode3A (fun _ _ => rfl) fun _ _ => rfl
theorem Encoding.tldw (f : X3) : Statement (.tldw f) :=
  long_statement (by decide) (x3_words f 0x3A 0x003 (by decide) (by decide)) rfl rfl decode3A (fun _ _ => rfl) fun _ _ => rfl
theorem Encoding.tswap (f : X3) : Statement (.tswap f) :=
  long_statement (by decide) (x3_words f 0x3A 0x004 (by decide) (by decide)) rfl rfl decode3A (fun _ _ => rfl) fun _ _ => rfl
theorem Encoding.tmma (f : X3) : Statement (.tmma f) :=
  long_statement (by decide) (x3_words f 0x3A 0x005 (by decide) (by decide)) rfl rfl decode3A (fun _ _ => rfl) fun _ _ => rfl
theorem Encoding.tst (f : X3) : Statement (.tst f) :=
  long_statement (by decide) (x3_words f 0x3A 0x006 (by decide) (by decide)) rfl rfl decode3A (fun _ _ => rfl) fun _ _ => rfl
theorem Encoding.tsave (f : X3) : Statement (.tsave f) :=
  long_statement (by decide) (x3_words f 0x3A 0x007 (by decide) (by decide)) rfl rfl decode3A (fun _ _ => rfl) fun _ _ => rfl
theorem Encoding.tload (f : X3) : Statement (.tload f) :=
  long_statement (by decide) (x3_words f 0x3A 0x008 (by decide) (by decide)) rfl rfl decode3A (fun _ _ => rfl) fun _ _ => rfl
theorem Encoding.rte (f : X3) : Statement (.rte f) :=
  long_statement (by decide) (x3_words f 0x3B 0x000 (by decide) (by decide)) rfl rfl decode3B (fun _ _ => rfl) fun _ _ => rfl
theorem Encoding.breakOp (f : X3) : Statement (.breakOp f) :=
  long_statement (by decide) (x3_words f 0x3B 0x001 (by decide) (by decide)) rfl rfl decode3B (fun _ _ => rfl) fun _ _ => rfl
theorem Encoding.swtrap (f : XI) : Statement (.swtrap f) :=
  long_statement (by decide) (xI_words f 0x3B 0x002 (by decide) (by decide)) rfl rfl decode3B (fun _ _ => rfl) fun _ _ => rfl
theorem Encoding.rdcyc (f : X3) : Statement (.rdcyc f) :=
  long_statement (by decide) (x3_words f 0x3B 0x003 (by decide) (by decide)) rfl rfl decode3B (fun _ _ => rfl) fun _ _ => rfl
theorem Encoding.rdsrLong (f : X3) : Statement (.rdsrLong f) :=
  long_statement (by decide) (x3_words f 0x3B 0x004 (by decide) (by decide)) rfl rfl decode3B (fun _ _ => rfl) fun _ _ => rfl
theorem Encoding.wrsrLong (f : X3) : Statement (.wrsrLong f) :=
  long_statement (by decide) (x3_words f 0x3B 0x005 (by decide) (by decide)) rfl rfl decode3B (fun _ _ => rfl) fun _ _ => rfl
theorem Encoding.leadAdd (f : Y3) : Statement (.leadAdd f) :=
  long_statement (by decide) (y3_words f 0x3C 0x000 (by decide) (by decide)) rfl rfl decode3C (fun _ _ => rfl) fun _ _ => rfl
theorem Encoding.leadSub (f : Y3) : Statement (.leadSub f) :=
  long_statement (by decide) (y3_words f 0x3C 0x001 (by decide) (by decide)) rfl rfl decode3C (fun _ _ => rfl) fun _ _ => rfl
theorem Encoding.leadMul (f : Y3) : Statement (.leadMul f) :=
  long_statement (by decide) (y3_words f 0x3C 0x002 (by decide) (by decide)) rfl rfl decode3C (fun _ _ => rfl) fun _ _ => rfl
theorem Encoding.leadMulhi (f : Y3) : Statement (.leadMulhi f) :=
  long_statement (by decide) (y3_words f 0x3C 0x003 (by decide) (by decide)) rfl rfl decode3C (fun _ _ => rfl) fun _ _ => rfl
theorem Encoding.leadAnd (f : Y3) : Statement (.leadAnd f) :=
  long_statement (by decide) (y3_words f 0x3C 0x004 (by decide) (by decide)) rfl rfl decode3C (fun _ _ => rfl) fun _ _ => rfl
theorem Encoding.leadOr (f : Y3) : Statement (.leadOr f) :=
  long_statement (by decide) (y3_words f 0x3C 0x005 (by decide) (by decide)) rfl rfl decode3C (fun _ _ => rfl) fun _ _ => rfl
theorem Encoding.leadXor (f : Y3) : Statement (.leadXor f) :=
  long_statement (by decide) (y3_words f 0x3C 0x006 (by decide) (by decide)) rfl rfl decode3C (fun _ _ => rfl) fun _ _ => rfl
theorem Encoding.leadShl (f : Y3) : Statement (.leadShl f) :=
  long_statement (by decide) (y3_words f 0x3C 0x007 (by decide) (by decide)) rfl rfl decode3C (fun _ _ => rfl) fun _ _ => rfl
theorem Encoding.leadShr (f : Y3) : Statement (.leadShr f) :=
  long_statement (by decide) (y3_words f 0x3C 0x008 (by decide) (by decide)) rfl rfl decode3C (fun _ _ => rfl) fun _ _ => rfl
theorem Encoding.leadSar (f : Y3) : Statement (.leadSar f) :=
  long_statement (by decide) (y3_words f 0x3C 0x009 (by decide) (by decide)) rfl rfl decode3C (fun _ _ => rfl) fun _ _ => rfl
theorem Encoding.leadMin (f : Y3) : Statement (.leadMin f) :=
  long_statement (by decide) (y3_words f 0x3C 0x00A (by decide) (by decide)) rfl rfl decode3C (fun _ _ => rfl) fun _ _ => rfl
theorem Encoding.leadMax (f : Y3) : Statement (.leadMax f) :=
  long_statement (by decide) (y3_words f 0x3C 0x00B (by decide) (by decide)) rfl rfl decode3C (fun _ _ => rfl) fun _ _ => rfl
theorem Encoding.leadSel (f : Y3) : Statement (.leadSel f) :=
  long_statement (by decide) (y3_words f 0x3C 0x00C (by decide) (by decide)) rfl rfl decode3C (fun _ _ => rfl) fun _ _ => rfl
theorem Encoding.leadCmp (f : Y3) : Statement (.leadCmp f) :=
  long_statement (by decide) (y3_words f 0x3C 0x00D (by decide) (by decide)) rfl rfl decode3C (fun _ _ => rfl) fun _ _ => rfl
theorem Encoding.leadAddi (f : YS) : Statement (.leadAddi f) :=
  long_statement (by decide) (yS_words f 0x3C 0x010 (by decide) (by decide)) rfl rfl decode3C (fun _ _ => rfl) fun _ _ => rfl
theorem Encoding.leadLd (f : YS) : Statement (.leadLd f) :=
  long_statement (by decide) (yS_words f 0x3C 0x011 (by decide) (by decide)) rfl rfl decode3C (fun _ _ => rfl) fun _ _ => rfl
theorem Encoding.leadSt (f : YS) : Statement (.leadSt f) :=
  long_statement (by decide) (yS_words f 0x3C 0x012 (by decide) (by decide)) rfl rfl decode3C (fun _ _ => rfl) fun _ _ => rfl
theorem Encoding.leadMovi (f : YI) : Statement (.leadMovi f) :=
  long_statement (by decide) (yI_words f 0x3C 0x013 (by decide) (by decide)) rfl rfl decode3C (fun _ _ => rfl) fun _ _ => rfl
theorem Encoding.movhi (f : YI) : Statement (.movhi f) :=
  long_statement (by decide) (yI_words f 0x3C 0x014 (by decide) (by decide)) rfl rfl decode3C (fun _ _ => rfl) fun _ _ => rfl
theorem Encoding.bp (f : YB) : Statement (.bp f) :=
  long_statement (by decide) (yB_words f 0x3D 0x000 (by decide) (by decide)) rfl rfl decode3D (fun _ _ => rfl) fun _ _ => rfl
theorem Encoding.leadBra (f : YB) : Statement (.leadBra f) :=
  long_statement (by decide) (yB_words f 0x3D 0x001 (by decide) (by decide)) rfl rfl decode3D (fun _ _ => rfl) fun _ _ => rfl
theorem Encoding.leadEnd (f : Y3) : Statement (.leadEnd f) :=
  long_statement (by decide) (y3_words f 0x3D 0x002 (by decide) (by decide)) rfl rfl decode3D (fun _ _ => rfl) fun _ _ => rfl
theorem Encoding.dpush (f : Y3) : Statement (.dpush f) :=
  long_statement (by decide) (y3_words f 0x3D 0x003 (by decide) (by decide)) rfl rfl decode3D (fun _ _ => rfl) fun _ _ => rfl
theorem Encoding.ewait (f : Y3) : Statement (.ewait f) :=
  long_statement (by decide) (y3_words f 0x3D 0x004 (by decide) (by decide)) rfl rfl decode3D (fun _ _ => rfl) fun _ _ => rfl
theorem Encoding.lrte (f : Y3) : Statement (.lrte f) :=
  long_statement (by decide) (y3_words f 0x3D 0x005 (by decide) (by decide)) rfl rfl decode3D (fun _ _ => rfl) fun _ _ => rfl
theorem Encoding.qset (f : Y3) : Statement (.qset f) :=
  long_statement (by decide) (y3_words f 0x3D 0x006 (by decide) (by decide)) rfl rfl decode3D (fun _ _ => rfl) fun _ _ => rfl
theorem Encoding.qstart (f : Y3) : Statement (.qstart f) :=
  long_statement (by decide) (y3_words f 0x3D 0x007 (by decide) (by decide)) rfl rfl decode3D (fun _ _ => rfl) fun _ _ => rfl
theorem Encoding.bfcfg (f : Y3) : Statement (.bfcfg f) :=
  long_statement (by decide) (y3_words f 0x3D 0x008 (by decide) (by decide)) rfl rfl decode3D (fun _ _ => rfl) fun _ _ => rfl
theorem Encoding.ckpt (f : Y3) : Statement (.ckpt f) :=
  long_statement (by decide) (y3_words f 0x3D 0x009 (by decide) (by decide)) rfl rfl decode3D (fun _ _ => rfl) fun _ _ => rfl
theorem Encoding.leadCopy (f : Y3) : Statement (.leadCopy f) :=
  long_statement (by decide) (y3_words f 0x3E 0x000 (by decide) (by decide)) rfl rfl decode3E (fun _ _ => rfl) fun _ _ => rfl
theorem Encoding.leadCopyf (f : Y3) : Statement (.leadCopyf f) :=
  long_statement (by decide) (y3_words f 0x3E 0x001 (by decide) (by decide)) rfl rfl decode3E (fun _ _ => rfl) fun _ _ => rfl
theorem Encoding.leadColl (f : Y3) : Statement (.leadColl f) :=
  long_statement (by decide) (y3_words f 0x3E 0x002 (by decide) (by decide)) rfl rfl decode3E (fun _ _ => rfl) fun _ _ => rfl
theorem Encoding.leadTsend (f : Y3) : Statement (.leadTsend f) :=
  long_statement (by decide) (y3_words f 0x3E 0x003 (by decide) (by decide)) rfl rfl decode3E (fun _ _ => rfl) fun _ _ => rfl
theorem Encoding.leadTdisarm (f : Y3) : Statement (.leadTdisarm f) :=
  long_statement (by decide) (y3_words f 0x3E 0x004 (by decide) (by decide)) rfl rfl decode3E (fun _ _ => rfl) fun _ _ => rfl
theorem Encoding.leadCtrrd (f : Y3) : Statement (.leadCtrrd f) :=
  long_statement (by decide) (y3_words f 0x3E 0x005 (by decide) (by decide)) rfl rfl decode3E (fun _ _ => rfl) fun _ _ => rfl
theorem Encoding.leadCtrrst (f : Y3) : Statement (.leadCtrrst f) :=
  long_statement (by decide) (y3_words f 0x3E 0x006 (by decide) (by decide)) rfl rfl decode3E (fun _ _ => rfl) fun _ _ => rfl
theorem Encoding.leadTclaim (f : Y3) : Statement (.leadTclaim f) :=
  long_statement (by decide) (y3_words f 0x3E 0x010 (by decide) (by decide)) rfl rfl decode3E (fun _ _ => rfl) fun _ _ => rfl
theorem Encoding.leadTfree (f : Y3) : Statement (.leadTfree f) :=
  long_statement (by decide) (y3_words f 0x3E 0x011 (by decide) (by decide)) rfl rfl decode3E (fun _ _ => rfl) fun _ _ => rfl
theorem Encoding.leadTshape (f : Y3) : Statement (.leadTshape f) :=
  long_statement (by decide) (y3_words f 0x3E 0x012 (by decide) (by decide)) rfl rfl decode3E (fun _ _ => rfl) fun _ _ => rfl
theorem Encoding.leadTldw (f : Y3) : Statement (.leadTldw f) :=
  long_statement (by decide) (y3_words f 0x3E 0x013 (by decide) (by decide)) rfl rfl decode3E (fun _ _ => rfl) fun _ _ => rfl
theorem Encoding.leadTswap (f : Y3) : Statement (.leadTswap f) :=
  long_statement (by decide) (y3_words f 0x3E 0x014 (by decide) (by decide)) rfl rfl decode3E (fun _ _ => rfl) fun _ _ => rfl
theorem Encoding.leadTmma (f : Y3) : Statement (.leadTmma f) :=
  long_statement (by decide) (y3_words f 0x3E 0x015 (by decide) (by decide)) rfl rfl decode3E (fun _ _ => rfl) fun _ _ => rfl
theorem Encoding.leadTst (f : Y3) : Statement (.leadTst f) :=
  long_statement (by decide) (y3_words f 0x3E 0x016 (by decide) (by decide)) rfl rfl decode3E (fun _ _ => rfl) fun _ _ => rfl
theorem Encoding.leadTsave (f : Y3) : Statement (.leadTsave f) :=
  long_statement (by decide) (y3_words f 0x3E 0x017 (by decide) (by decide)) rfl rfl decode3E (fun _ _ => rfl) fun _ _ => rfl
theorem Encoding.leadTload (f : Y3) : Statement (.leadTload f) :=
  long_statement (by decide) (y3_words f 0x3E 0x018 (by decide) (by decide)) rfl rfl decode3E (fun _ _ => rfl) fun _ _ => rfl
theorem Encoding.stash (f : Y3) : Statement (.stash f) :=
  long_statement (by decide) (y3_words f 0x3E 0x020 (by decide) (by decide)) rfl rfl decode3E (fun _ _ => rfl) fun _ _ => rfl
theorem Encoding.leadRdsr (f : Y3) : Statement (.leadRdsr f) :=
  long_statement (by decide) (y3_words f 0x3F 0x000 (by decide) (by decide)) rfl rfl decode3F (fun _ _ => rfl) fun _ _ => rfl
theorem Encoding.leadWrsr (f : Y3) : Statement (.leadWrsr f) :=
  long_statement (by decide) (y3_words f 0x3F 0x001 (by decide) (by decide)) rfl rfl decode3F (fun _ _ => rfl) fun _ _ => rfl
theorem Encoding.leadRdcyc (f : Y3) : Statement (.leadRdcyc f) :=
  long_statement (by decide) (y3_words f 0x3F 0x002 (by decide) (by decide)) rfl rfl decode3F (fun _ _ => rfl) fun _ _ => rfl
theorem Encoding.leadBreak (f : Y3) : Statement (.leadBreak f) :=
  long_statement (by decide) (y3_words f 0x3F 0x003 (by decide) (by decide)) rfl rfl decode3F (fun _ _ => rfl) fun _ _ => rfl
theorem Encoding.leadSwtrap (f : YI) : Statement (.leadSwtrap f) :=
  long_statement (by decide) (yI_words f 0x3F 0x004 (by decide) (by decide)) rfl rfl decode3F (fun _ _ => rfl) fun _ _ => rfl
theorem Encoding.unassignedEncoding (w0 w1 : Word) : Statement (.unassignedEncoding w0 w1) := by
  intro _ hc
  have hc : isUnassigned w0 w1 = true := hc
  cases hl : isLongPrimary (primaryOf w0) with
  | true => 
    have he : encode (.unassignedEncoding w0 w1) = [w0, w1] := by simp [encode, hl]
    rw [he]
    exact ⟨hl, unassigned_long hl hc⟩
  | false =>
    have he : encode (.unassignedEncoding w0 w1) = [w0] := by simp [encode, hl]
    rw [he]
    exact ⟨hl, fun x => unassigned_short hl hc x⟩
theorem Encoding.rejoin : Statement .rejoin := fun _ _ => ⟨by decide, fun _ => rfl⟩
theorem Encoding.reform : Statement .reform := fun _ _ => ⟨by decide, fun _ => rfl⟩
theorem Encoding.yield : Statement .yield := fun _ _ => ⟨by decide, fun _ => rfl⟩
theorem Encoding.exitOp : Statement .exitOp := fun _ _ => ⟨by decide, fun _ => rfl⟩
theorem Encoding.endOp : Statement .endOp := fun _ _ => ⟨by decide, fun _ => rfl⟩
theorem Encoding.packageReset : Statement .packageReset := fun _ _ => trivial
theorem Encoding.unitSelfTestDone : Statement .unitSelfTestDone := fun _ _ => trivial
theorem Encoding.firmwareVerify : Statement .firmwareVerify := fun _ _ => trivial
theorem Encoding.firmwareUpdate : Statement .firmwareUpdate := fun _ _ => trivial
theorem Encoding.securityVersionRaise : Statement .securityVersionRaise := fun _ _ => trivial
theorem Encoding.measurementExtend : Statement .measurementExtend := fun _ _ => trivial
theorem Encoding.attestationRequest : Statement .attestationRequest := fun _ _ => trivial
theorem Encoding.attestationReport : Statement .attestationReport := fun _ _ => trivial
theorem Encoding.d2dLost : Statement .d2dLost := fun _ _ => trivial
theorem Encoding.memEccCorrected : Statement .memEccCorrected := fun _ _ => trivial
theorem Encoding.memEccUncorrectable : Statement .memEccUncorrectable := fun _ _ => trivial
theorem Encoding.sramSoftError : Statement .sramSoftError := fun _ _ => trivial
theorem Encoding.internalTimeout : Statement .internalTimeout := fun _ _ => trivial
theorem Encoding.leaveGrant : Statement .leaveGrant := fun _ _ => trivial
theorem Encoding.tileLeaveRelease : Statement .tileLeaveRelease := fun _ _ => trivial
theorem Encoding.govstatRead : Statement .govstatRead := fun _ _ => trivial
theorem Encoding.coolingSample : Statement .coolingSample := fun _ _ => trivial
theorem Encoding.portLinkUp : Statement .portLinkUp := fun _ _ => trivial
theorem Encoding.portLinkDown : Statement .portLinkDown := fun _ _ => trivial
theorem Encoding.portstatRead : Statement .portstatRead := fun _ _ => trivial
theorem Encoding.malformedFrame : Statement .malformedFrame := fun _ _ => trivial
theorem Encoding.uetUnsupportedRequest : Statement .uetUnsupportedRequest := fun _ _ => trivial
theorem Encoding.incomingRmaWrite : Statement .incomingRmaWrite := fun _ _ => trivial
theorem Encoding.incomingRmaRead : Statement .incomingRmaRead := fun _ _ => trivial
theorem Encoding.incomingFetchAtomic : Statement .incomingFetchAtomic := fun _ _ => trivial
theorem Encoding.heldLandingRelease : Statement .heldLandingRelease := fun _ _ => trivial
theorem Encoding.uetAck : Statement .uetAck := fun _ _ => trivial
theorem Encoding.uetNak : Statement .uetNak := fun _ _ => trivial
theorem Encoding.uetRetransmit : Statement .uetRetransmit := fun _ _ => trivial
theorem Encoding.peerLostTimeout : Statement .peerLostTimeout := fun _ _ => trivial
theorem Encoding.collectiveData : Statement .collectiveData := fun _ _ => trivial
theorem Encoding.collectivePhaseTimeout : Statement .collectivePhaseTimeout := fun _ _ => trivial
theorem Encoding.collectiveComplete : Statement .collectiveComplete := fun _ _ => trivial
theorem Encoding.bridgeForward : Statement .bridgeForward := fun _ _ => trivial
theorem Encoding.registerWrite : Statement .registerWrite := fun _ _ => trivial
theorem Encoding.wdiscardRead : Statement .wdiscardRead := fun _ _ => trivial
theorem Encoding.kick : Statement .kick := fun _ _ => trivial
theorem Encoding.kickTake : Statement .kickTake := fun _ _ => trivial
theorem Encoding.kickReread : Statement .kickReread := fun _ _ => trivial
theorem Encoding.replayStart : Statement .replayStart := fun _ _ => trivial
theorem Encoding.nodeComplete : Statement .nodeComplete := fun _ _ => trivial
theorem Encoding.hostNotify : Statement .hostNotify := fun _ _ => trivial
theorem Encoding.evtheadWrite : Statement .evtheadWrite := fun _ _ => trivial
theorem Encoding.evtcfgWrite : Statement .evtcfgWrite := fun _ _ => trivial
theorem Encoding.evtlostRead : Statement .evtlostRead := fun _ _ => trivial
theorem Encoding.fpcountWrite : Statement .fpcountWrite := fun _ _ => trivial
theorem Encoding.fpthreshWrite : Statement .fpthreshWrite := fun _ _ => trivial
theorem Encoding.ctxCreate : Statement .ctxCreate := fun _ _ => trivial
theorem Encoding.ctxDestroy : Statement .ctxDestroy := fun _ _ => trivial
theorem Encoding.ctxDestroyDone : Statement .ctxDestroyDone := fun _ _ => trivial
theorem Encoding.ctxPartition : Statement .ctxPartition := fun _ _ => trivial
theorem Encoding.ctxPartitionDone : Statement .ctxPartitionDone := fun _ _ => trivial
theorem Encoding.graphRegister : Statement .graphRegister := fun _ _ => trivial
theorem Encoding.graphRelease : Statement .graphRelease := fun _ _ => trivial
theorem Encoding.ctxLimits : Statement .ctxLimits := fun _ _ => trivial
theorem Encoding.regionSet : Statement .regionSet := fun _ _ => trivial
theorem Encoding.regionFree : Statement .regionFree := fun _ _ => trivial
theorem Encoding.counterSetAssign : Statement .counterSetAssign := fun _ _ => trivial
theorem Encoding.counterSetRelease : Statement .counterSetRelease := fun _ _ => trivial
theorem Encoding.counterSetValue : Statement .counterSetValue := fun _ _ => trivial
theorem Encoding.poolEntry : Statement .poolEntry := fun _ _ => trivial
theorem Encoding.nodeAging : Statement .nodeAging := fun _ _ => trivial
theorem Encoding.nodeDispatch : Statement .nodeDispatch := fun _ _ => trivial
theorem Encoding.kernelPassedOver : Statement .kernelPassedOver := fun _ _ => trivial
theorem Encoding.blockPlace : Statement .blockPlace := fun _ _ => trivial
theorem Encoding.batchForm : Statement .batchForm := fun _ _ => trivial
theorem Encoding.faultRewalk : Statement .faultRewalk := fun _ _ => trivial
theorem Encoding.hotPageInterval : Statement .hotPageInterval := fun _ _ => trivial
theorem Encoding.catalogueOp : Statement .catalogueOp := fun _ _ => trivial
theorem Encoding.loadReturn : Statement .loadReturn := fun _ _ => trivial
theorem Encoding.storeVisible : Statement .storeVisible := fun _ _ => trivial
theorem Encoding.rangeRegistration : Statement .rangeRegistration := fun _ _ => trivial
theorem Encoding.copyComplete : Statement .copyComplete := fun _ _ => trivial
theorem Encoding.followOnEntry : Statement .followOnEntry := fun _ _ => trivial
theorem Encoding.stashComplete : Statement .stashComplete := fun _ _ => trivial
theorem Encoding.samplerOpComplete : Statement .samplerOpComplete := fun _ _ => trivial
theorem Encoding.tileStepStart : Statement .tileStepStart := fun _ _ => trivial
theorem Encoding.tileStepBoundary : Statement .tileStepBoundary := fun _ _ => trivial
theorem Encoding.tileOpComplete : Statement .tileOpComplete := fun _ _ => trivial
theorem Encoding.streamEntry : Statement .streamEntry := fun _ _ => trivial
theorem Encoding.rejoinTimeout : Statement .rejoinTimeout := fun _ _ => trivial
theorem Encoding.ejectHandover : Statement .ejectHandover := fun _ _ => trivial
theorem Encoding.carrelReturn : Statement .carrelReturn := fun _ _ => trivial
theorem Encoding.reformDraw : Statement .reformDraw := fun _ _ => trivial
theorem Encoding.preemptEntry : Statement .preemptEntry := fun _ _ => trivial
theorem Encoding.saveComplete : Statement .saveComplete := fun _ _ => trivial
theorem Encoding.dbgstop : Statement .dbgstop := fun _ _ => trivial
theorem Encoding.dbgresume : Statement .dbgresume := fun _ _ => trivial
theorem Encoding.stopComplete : Statement .stopComplete := fun _ _ => trivial
theorem Encoding.samplostRead : Statement .samplostRead := fun _ _ => trivial
theorem Encoding.accheadWrite : Statement .accheadWrite := fun _ _ => trivial
theorem Encoding.rrReadRelease : Statement .rrReadRelease := fun _ _ => trivial
theorem Encoding.rrReadTimeout : Statement .rrReadTimeout := fun _ _ => trivial
theorem Encoding.d2dFlitRetry : Statement .d2dFlitRetry := fun _ _ => trivial
theorem Encoding.fecCodeword : Statement .fecCodeword := fun _ _ => trivial
theorem Encoding.cmdUnassignedOp : Statement .cmdUnassignedOp := fun _ _ => trivial
theorem Encoding.sttStageLoaded : Statement .sttStageLoaded := fun _ _ => trivial
theorem Encoding.tileSourceUnlock : Statement .tileSourceUnlock := fun _ _ => trivial

end Sys2Proof.Laws
end

