-- ==== Sys2Proof/Laws/Whole.lean ====
section
/-! SUPPORT. Every lane form issues through lane, every lead form through lead. -/

namespace Sys2Proof.Machine

/-- A form of lane code: a word that is no lead form, no word of both slices and none that only traps. -/
theorem exec_lane (i : Instr) (words : encode i ≠ []) (slice : (shape i).pipe ≠ .lead) (nop : ∀ f, i ≠ .nop f) (guard : ∀ f, i ≠ .guardWord f)
    (assigned : ∀ w x, i ≠ .unassignedEncoding w x) : ∃ body, ∀ s, exec i s = lane i body s := by
  cases i
  all_goals first
    | exact absurd rfl (nop _)
    | exact absurd rfl (guard _)
    | exact absurd rfl (assigned _ _)
    | exact absurd rfl words
    | exact absurd rfl slice
    | exact ⟨_, fun _ => rfl⟩

/-- A form of lead code. -/
theorem exec_lead (i : Instr) (slice : (shape i).pipe = .lead) : ∃ body, ∀ s, exec i s = lead i body s := by
  cases i
  all_goals first
    | exact ⟨_, fun _ => rfl⟩
    | exact Pipe.noConfusion (slice : Pipe.none = Pipe.lead)
    | exact Pipe.noConfusion (slice : Pipe.v = Pipe.lead)
    | exact Pipe.noConfusion (slice : Pipe.ls = Pipe.lead)
    | exact Pipe.noConfusion (slice : Pipe.va = Pipe.lead)
    | exact Pipe.noConfusion (slice : Pipe.sf = Pipe.lead)
    | exact Pipe.noConfusion (slice : Pipe.xl = Pipe.lead)
    | exact Pipe.noConfusion (slice : Pipe.bc = Pipe.lead)
    | exact Pipe.noConfusion (slice : Pipe.ec = Pipe.lead)
    | exact absurd slice (by simp only [shape, unassignedShape, Shape.none]; split <;> simp)

end Sys2Proof.Machine
end

