-- ==== Sys2Proof/Tests/Slice0.lean ====
section
/-! SUPPORT. Tests: ill-formed terms that WellFormed refuses, words of every form, results by hand from the spec, and a witness for the
hypotheses of each statement. -/

namespace Sys2Proof.Test

set_option Elab.async false

open Sys2Proof Sys2Proof.Machine Sys2Proof.Claim

/-! Decoding (R315 to R323, R339 to R344): one word of every form, its fields laid out by the formats of R317, R318, R320 and R323, its
primary and function by the tables of R339, R340 and R342. -/

theorem test_decode_short_0_0 :
    [decodeUnit 0x81000003 0x00000000,
     decodeUnit 0x820EAAA6 0x00000000,
     decodeUnit 0x050515F5 0x00000000,
     decodeUnit 0x860EAAA6 0x00000000,
     decodeUnit 0x880EAAA6 0x00000000,
     decodeUnit 0x8A0EAAA6 0x00000000,
     decodeUnit 0x8C0EAAA6 0x00000000,
     decodeUnit 0x8E0EAAA6 0x00000000,
     decodeUnit 0x110515F5 0x00000000,
     decodeUnit 0x130515F5 0x00000000,
     decodeUnit 0x150515F5 0x00000000,
     decodeUnit 0x170515F5 0x00000000] =
    ([.nop ⟨1, 0x1000003⟩,
     .add ⟨1, 3, 0x55, 0x2A, 1, 2⟩,
     .addi ⟨0, 0x41, 0x22, 2, 0x1F5⟩,
     .sub ⟨1, 3, 0x55, 0x2A, 1, 2⟩,
     .mul ⟨1, 3, 0x55, 0x2A, 1, 2⟩,
     .and ⟨1, 3, 0x55, 0x2A, 1, 2⟩,
     .or ⟨1, 3, 0x55, 0x2A, 1, 2⟩,
     .xor ⟨1, 3, 0x55, 0x2A, 1, 2⟩,
     .andi ⟨0, 0x41, 0x22, 2, 0x1F5⟩,
     .ori ⟨0, 0x41, 0x22, 2, 0x1F5⟩,
     .xori ⟨0, 0x41, 0x22, 2, 0x1F5⟩,
     .shli ⟨0, 0x41, 0x22, 2, 0x1F5⟩] : List Instr) := by
  decide

theorem test_decode_short_0_1 :
    [decodeUnit 0x190515F5 0x00000000,
     decodeUnit 0x1B0515F5 0x00000000,
     decodeUnit 0x9C0EAAA6 0x00000000,
     decodeUnit 0x1F0515F5 0x00000000] =
    ([.shri ⟨0, 0x41, 0x22, 2, 0x1F5⟩,
     .sari ⟨0, 0x41, 0x22, 2, 0x1F5⟩,
     .mov ⟨1, 3, 0x55, 0x2A, 1, 2⟩,
     .movi ⟨0, 0x41, 0x22, 2, 0x1F5⟩] : List Instr) := by
  decide

theorem test_decode_short_1_0 :
    [decodeUnit 0xA00EAAA6 0x00000000,
     decodeUnit 0xA20EAAA6 0x00000000,
     decodeUnit 0xA40EAAA6 0x00000000,
     decodeUnit 0x270515F5 0x00000000,
     decodeUnit 0xA80EAAA6 0x00000000,
     decodeUnit 0xAA0EAAA6 0x00000000,
     decodeUnit 0xAC0EAAA6 0x00000000,
     decodeUnit 0xAE0EAAA6 0x00000000,
     decodeUnit 0xB00EAAA6 0x00000000,
     decodeUnit 0x330515F5 0x00000000,
     decodeUnit 0x350515F5 0x00000000,
     decodeUnit 0x370515F5 0x00000000] =
    ([.cmpeq ⟨1, 3, 0x55, 0x2A, 1, 2⟩,
     .cmplt ⟨1, 3, 0x55, 0x2A, 1, 2⟩,
     .adda ⟨1, 3, 0x55, 0x2A, 1, 2⟩,
     .addai ⟨0, 0x41, 0x22, 2, 0x1F5⟩,
     .fadd ⟨1, 3, 0x55, 0x2A, 1, 2⟩,
     .fsub ⟨1, 3, 0x55, 0x2A, 1, 2⟩,
     .fmul ⟨1, 3, 0x55, 0x2A, 1, 2⟩,
     .fmin ⟨1, 3, 0x55, 0x2A, 1, 2⟩,
     .fmax ⟨1, 3, 0x55, 0x2A, 1, 2⟩,
     .ld ⟨0, 0x41, 0x22, 2, 0x1F5⟩,
     .st ⟨0, 0x41, 0x22, 2, 0x1F5⟩,
     .ldl ⟨0, 0x41, 0x22, 2, 0x1F5⟩] : List Instr) := by
  decide

theorem test_decode_short_1_1 :
    [decodeUnit 0x390515F5 0x00000000,
     decodeUnit 0x3A56FFFD 0x00000000,
     decodeUnit 0x3C56FFFD 0x00000000,
     decodeUnit 0xBF000003 0x00000000] =
    ([.stl ⟨0, 0x41, 0x22, 2, 0x1F5⟩,
     .bz ⟨0, 0x15, 0x2FFFD⟩,
     .bnz ⟨0, 0x15, 0x2FFFD⟩,
     .guardWord ⟨1, 0x1000003⟩] : List Instr) := by
  decide

theorem test_decode_short_2_0 :
    [decodeUnit 0x4056FFFD 0x00000000,
     decodeUnit 0x4256FFFD 0x00000000,
     decodeUnit 0xC40EAAA6 0x00000000,
     decodeUnit 0x46000000 0x00000000,
     decodeUnit 0x48000000 0x00000000,
     decodeUnit 0x4A000000 0x00000000,
     decodeUnit 0x4D0515F5 0x00000000,
     decodeUnit 0x4E000000 0x00000000,
     decodeUnit 0x50000000 0x00000000,
     decodeUnit 0x530515F5 0x00000000,
     decodeUnit 0x550515F5 0x00000000,
     decodeUnit 0x570515F5 0x00000000] =
    ([.bra ⟨0, 0x15, 0x2FFFD⟩,
     .call ⟨0, 0x15, 0x2FFFD⟩,
     .ret ⟨1, 3, 0x55, 0x2A, 1, 2⟩,
     .rejoin,
     .reform,
     .yield,
     .setpri ⟨0, 0x41, 0x22, 2, 0x1F5⟩,
     .exitOp,
     .endOp,
     .grant ⟨0, 0x41, 0x22, 2, 0x1F5⟩,
     .rdsr ⟨0, 0x41, 0x22, 2, 0x1F5⟩,
     .wrsr ⟨0, 0x41, 0x22, 2, 0x1F5⟩] : List Instr) := by
  decide

theorem test_decode_short_2_1 :
    [decodeUnit 0x590515F5 0x00000000,
     decodeUnit 0xDA0EAAA6 0x00000000,
     decodeUnit 0xDC260000 0x00000000,
     decodeUnit 0xDE0EAAA6 0x00000000] =
    ([.discard ⟨0, 0x41, 0x22, 2, 0x1F5⟩,
     .swz ⟨1, 3, 0x55, 0x2A, 1, 2⟩,
     .guard ⟨1, 9, 1, 0⟩,
     .fcmplt ⟨1, 3, 0x55, 0x2A, 1, 2⟩] : List Instr) := by
  decide

theorem test_decode_primary_30_0 :
    [decodeUnit 0xE0002755 0xAA99A345,
     decodeUnit 0xE0012755 0xAA99A345,
     decodeUnit 0xE0022755 0xAA99A345,
     decodeUnit 0xE0032755 0xAA99A345,
     decodeUnit 0xE0042755 0xAA99A345,
     decodeUnit 0xE0052755 0xAA99A345,
     decodeUnit 0xE0062755 0xAA99A345,
     decodeUnit 0xE0072755 0xAA99A345,
     decodeUnit 0xE0082755 0xAA99A345,
     decodeUnit 0xE0092755 0xAA99A345,
     decodeUnit 0xE00A2755 0xAA99A345,
     decodeUnit 0xE00B2755 0xAA99A345] =
    ([.addLong ⟨1, 0x13, 0x55, 1, 1, 0x2A, 2, 0x33, 1, 0, 1, 2, 0x45⟩,
     .subLong ⟨1, 0x13, 0x55, 1, 1, 0x2A, 2, 0x33, 1, 0, 1, 2, 0x45⟩,
     .mulLong ⟨1, 0x13, 0x55, 1, 1, 0x2A, 2, 0x33, 1, 0, 1, 2, 0x45⟩,
     .mulhi ⟨1, 0x13, 0x55, 1, 1, 0x2A, 2, 0x33, 1, 0, 1, 2, 0x45⟩,
     .mad ⟨1, 0x13, 0x55, 1, 1, 0x2A, 2, 0x33, 1, 0, 1, 2, 0x45⟩,
     .andLong ⟨1, 0x13, 0x55, 1, 1, 0x2A, 2, 0x33, 1, 0, 1, 2, 0x45⟩,
     .orLong ⟨1, 0x13, 0x55, 1, 1, 0x2A, 2, 0x33, 1, 0, 1, 2, 0x45⟩,
     .xorLong ⟨1, 0x13, 0x55, 1, 1, 0x2A, 2, 0x33, 1, 0, 1, 2, 0x45⟩,
     .shl ⟨1, 0x13, 0x55, 1, 1, 0x2A, 2, 0x33, 1, 0, 1, 2, 0x45⟩,
     .shr ⟨1, 0x13, 0x55, 1, 1, 0x2A, 2, 0x33, 1, 0, 1, 2, 0x45⟩,
     .sar ⟨1, 0x13, 0x55, 1, 1, 0x2A, 2, 0x33, 1, 0, 1, 2, 0x45⟩,
     .min ⟨1, 0x13, 0x55, 1, 1, 0x2A, 2, 0x33, 1, 0, 1, 2, 0x45⟩] : List Instr) := by
  decide

theorem test_decode_primary_30_1 :
    [decodeUnit 0xE00C2755 0xAA99A345,
     decodeUnit 0xE00D2755 0xAA99A345,
     decodeUnit 0xE00E2755 0xAA99A345,
     decodeUnit 0xE00F2755 0xAA99A345,
     decodeUnit 0xE0102755 0xAA99A345,
     decodeUnit 0xE0112755 0xAA99A345,
     decodeUnit 0xE0122755 0xAA99A345,
     decodeUnit 0xE0132755 0xAA99A345,
     decodeUnit 0xE0142755 0xAA99A345,
     decodeUnit 0xE0152755 0xAA99A345,
     decodeUnit 0xE0202755 0x7FFFFFF0,
     decodeUnit 0xE0212755 0x7FFFFFF0] =
    ([.max ⟨1, 0x13, 0x55, 1, 1, 0x2A, 2, 0x33, 1, 0, 1, 2, 0x45⟩,
     .popc ⟨1, 0x13, 0x55, 1, 1, 0x2A, 2, 0x33, 1, 0, 1, 2, 0x45⟩,
     .clz ⟨1, 0x13, 0x55, 1, 1, 0x2A, 2, 0x33, 1, 0, 1, 2, 0x45⟩,
     .bfe ⟨1, 0x13, 0x55, 1, 1, 0x2A, 2, 0x33, 1, 0, 1, 2, 0x45⟩,
     .bfi ⟨1, 0x13, 0x55, 1, 1, 0x2A, 2, 0x33, 1, 0, 1, 2, 0x45⟩,
     .sel ⟨1, 0x13, 0x55, 1, 1, 0x2A, 2, 0x33, 1, 0, 1, 2, 0x45⟩,
     .cmp ⟨1, 0x13, 0x55, 1, 1, 0x2A, 2, 0x33, 1, 0, 1, 2, 0x45⟩,
     .addaLong ⟨1, 0x13, 0x55, 1, 1, 0x2A, 2, 0x33, 1, 0, 1, 2, 0x45⟩,
     .movLong ⟨1, 0x13, 0x55, 1, 1, 0x2A, 2, 0x33, 1, 0, 1, 2, 0x45⟩,
     .movp ⟨1, 0x13, 0x55, 1, 1, 0x2A, 2, 0x33, 1, 0, 1, 2, 0x45⟩,
     .moviLong ⟨1, 0x13, 0x55, 1, 0, 0x7FFFFFF0⟩,
     .addiLong ⟨1, 0x13, 0x55, 1, 0, 0x7FFFFFF0⟩] : List Instr) := by
  decide

theorem test_decode_primary_30_2 :
    [decodeUnit 0xE0222755 0x7FFFFFF0,
     decodeUnit 0xE0232755 0x7FFFFFF0,
     decodeUnit 0xE0242755 0x7FFFFFF0,
     decodeUnit 0xE0252755 0x7FFFFFF0] =
    ([.andiLong ⟨1, 0x13, 0x55, 1, 0, 0x7FFFFFF0⟩,
     .oriLong ⟨1, 0x13, 0x55, 1, 0, 0x7FFFFFF0⟩,
     .xoriLong ⟨1, 0x13, 0x55, 1, 0, 0x7FFFFFF0⟩,
     .addaiLong ⟨1, 0x13, 0x55, 1, 0, 0x7FFFFFF0⟩] : List Instr) := by
  decide

theorem test_decode_primary_31_0 :
    [decodeUnit 0xE2002755 0xAA99A345,
     decodeUnit 0xE2012755 0xAA99A345,
     decodeUnit 0xE2022755 0xAA99A345,
     decodeUnit 0xE2032755 0xAA99A345,
     decodeUnit 0xE2042755 0xAA99A345,
     decodeUnit 0xE2052755 0xAA99A345,
     decodeUnit 0xE2062755 0xAA99A345,
     decodeUnit 0xE2072755 0xAA99A345,
     decodeUnit 0xE2082755 0xAA99A345,
     decodeUnit 0xE2092755 0xAA99A345,
     decodeUnit 0xE20A2755 0xAA99A345,
     decodeUnit 0xE2102755 0xAA99A345] =
    ([.faddLong ⟨1, 0x13, 0x55, 1, 1, 0x2A, 2, 0x33, 1, 0, 1, 2, 0x45⟩,
     .fsubLong ⟨1, 0x13, 0x55, 1, 1, 0x2A, 2, 0x33, 1, 0, 1, 2, 0x45⟩,
     .fmulLong ⟨1, 0x13, 0x55, 1, 1, 0x2A, 2, 0x33, 1, 0, 1, 2, 0x45⟩,
     .fma ⟨1, 0x13, 0x55, 1, 1, 0x2A, 2, 0x33, 1, 0, 1, 2, 0x45⟩,
     .fminLong ⟨1, 0x13, 0x55, 1, 1, 0x2A, 2, 0x33, 1, 0, 1, 2, 0x45⟩,
     .fmaxLong ⟨1, 0x13, 0x55, 1, 1, 0x2A, 2, 0x33, 1, 0, 1, 2, 0x45⟩,
     .fcmp ⟨1, 0x13, 0x55, 1, 1, 0x2A, 2, 0x33, 1, 0, 1, 2, 0x45⟩,
     .fclass ⟨1, 0x13, 0x55, 1, 1, 0x2A, 2, 0x33, 1, 0, 1, 2, 0x45⟩,
     .fround ⟨1, 0x13, 0x55, 1, 1, 0x2A, 2, 0x33, 1, 0, 1, 2, 0x45⟩,
     .fabs ⟨1, 0x13, 0x55, 1, 1, 0x2A, 2, 0x33, 1, 0, 1, 2, 0x45⟩,
     .fneg ⟨1, 0x13, 0x55, 1, 1, 0x2A, 2, 0x33, 1, 0, 1, 2, 0x45⟩,
     .dadd ⟨1, 0x13, 0x55, 1, 1, 0x2A, 2, 0x33, 1, 0, 1, 2, 0x45⟩] : List Instr) := by
  decide

theorem test_decode_primary_31_1 :
    [decodeUnit 0xE2112755 0xAA99A345,
     decodeUnit 0xE2122755 0xAA99A345,
     decodeUnit 0xE2132755 0xAA99A345,
     decodeUnit 0xE2142755 0xAA99A345,
     decodeUnit 0xE2152755 0xAA99A345,
     decodeUnit 0xE2162755 0xAA99A345,
     decodeUnit 0xE2202755 0xAA99A345,
     decodeUnit 0xE2212755 0xAA99A345,
     decodeUnit 0xE2222755 0xAA99A345,
     decodeUnit 0xE2232755 0xAA99A345,
     decodeUnit 0xE2242755 0xAA99A345,
     decodeUnit 0xE2302755 0xAA99A345] =
    ([.dsub ⟨1, 0x13, 0x55, 1, 1, 0x2A, 2, 0x33, 1, 0, 1, 2, 0x45⟩,
     .dmul ⟨1, 0x13, 0x55, 1, 1, 0x2A, 2, 0x33, 1, 0, 1, 2, 0x45⟩,
     .dfma ⟨1, 0x13, 0x55, 1, 1, 0x2A, 2, 0x33, 1, 0, 1, 2, 0x45⟩,
     .dmin ⟨1, 0x13, 0x55, 1, 1, 0x2A, 2, 0x33, 1, 0, 1, 2, 0x45⟩,
     .dmax ⟨1, 0x13, 0x55, 1, 1, 0x2A, 2, 0x33, 1, 0, 1, 2, 0x45⟩,
     .dcmp ⟨1, 0x13, 0x55, 1, 1, 0x2A, 2, 0x33, 1, 0, 1, 2, 0x45⟩,
     .hadd2 ⟨1, 0x13, 0x55, 1, 1, 0x2A, 2, 0x33, 1, 0, 1, 2, 0x45⟩,
     .hmul2 ⟨1, 0x13, 0x55, 1, 1, 0x2A, 2, 0x33, 1, 0, 1, 2, 0x45⟩,
     .hfma2 ⟨1, 0x13, 0x55, 1, 1, 0x2A, 2, 0x33, 1, 0, 1, 2, 0x45⟩,
     .hmin2 ⟨1, 0x13, 0x55, 1, 1, 0x2A, 2, 0x33, 1, 0, 1, 2, 0x45⟩,
     .hmax2 ⟨1, 0x13, 0x55, 1, 1, 0x2A, 2, 0x33, 1, 0, 1, 2, 0x45⟩,
     .cvt ⟨1, 0x13, 0x55, 1, 1, 0x2A, 2, 0x33, 1, 0, 1, 2, 0x45⟩] : List Instr) := by
  decide

theorem test_decode_primary_32 :
    [decodeUnit 0xE4002755 0xAA99A345,
     decodeUnit 0xE4012755 0xAA99A345,
     decodeUnit 0xE4022755 0xAA99A345,
     decodeUnit 0xE4032755 0xAA99A345,
     decodeUnit 0xE4042755 0xAA99A345,
     decodeUnit 0xE4052755 0xAA99A345,
     decodeUnit 0xE4062755 0xAA99A345,
     decodeUnit 0xE4072755 0xAA99A345] =
    ([.rcp ⟨1, 0x13, 0x55, 1, 1, 0x2A, 2, 0x33, 1, 0, 1, 2, 0x45⟩,
     .rsq ⟨1, 0x13, 0x55, 1, 1, 0x2A, 2, 0x33, 1, 0, 1, 2, 0x45⟩,
     .sqrt ⟨1, 0x13, 0x55, 1, 1, 0x2A, 2, 0x33, 1, 0, 1, 2, 0x45⟩,
     .log2 ⟨1, 0x13, 0x55, 1, 1, 0x2A, 2, 0x33, 1, 0, 1, 2, 0x45⟩,
     .exp2 ⟨1, 0x13, 0x55, 1, 1, 0x2A, 2, 0x33, 1, 0, 1, 2, 0x45⟩,
     .sin ⟨1, 0x13, 0x55, 1, 1, 0x2A, 2, 0x33, 1, 0, 1, 2, 0x45⟩,
     .cos ⟨1, 0x13, 0x55, 1, 1, 0x2A, 2, 0x33, 1, 0, 1, 2, 0x45⟩,
     .tanh ⟨1, 0x13, 0x55, 1, 1, 0x2A, 2, 0x33, 1, 0, 1, 2, 0x45⟩] : List Instr) := by
  decide

theorem test_decode_primary_33_0 :
    [decodeUnit 0xE6002755 0xAA99A345,
     decodeUnit 0xE6012755 0xAA99A345,
     decodeUnit 0xE6022755 0xAA99A345,
     decodeUnit 0xE6032755 0xAA99A345,
     decodeUnit 0xE6042755 0xAA99A345,
     decodeUnit 0xE6052755 0xAA99A345,
     decodeUnit 0xE6062755 0xAA99A345,
     decodeUnit 0xE6082755 0xAA99A345,
     decodeUnit 0xE6092755 0xAA99A345,
     decodeUnit 0xE60A2755 0xAA99A345,
     decodeUnit 0xE60B2755 0xAA99A345,
     decodeUnit 0xE6102755 0xAA99A345] =
    ([.mvadd ⟨1, 0x13, 0x55, 1, 1, 0x2A, 2, 0x33, 1, 0, 1, 2, 0x45⟩,
     .mvsub ⟨1, 0x13, 0x55, 1, 1, 0x2A, 2, 0x33, 1, 0, 1, 2, 0x45⟩,
     .mvmul ⟨1, 0x13, 0x55, 1, 1, 0x2A, 2, 0x33, 1, 0, 1, 2, 0x45⟩,
     .mvfma ⟨1, 0x13, 0x55, 1, 1, 0x2A, 2, 0x33, 1, 0, 1, 2, 0x45⟩,
     .mvdiv ⟨1, 0x13, 0x55, 1, 1, 0x2A, 2, 0x33, 1, 0, 1, 2, 0x45⟩,
     .mvneg ⟨1, 0x13, 0x55, 1, 1, 0x2A, 2, 0x33, 1, 0, 1, 2, 0x45⟩,
     .mvabs ⟨1, 0x13, 0x55, 1, 1, 0x2A, 2, 0x33, 1, 0, 1, 2, 0x45⟩,
     .mvsf ⟨1, 0x13, 0x55, 1, 1, 0x2A, 2, 0x33, 1, 0, 1, 2, 0x45⟩,
     .mvcvt ⟨1, 0x13, 0x55, 1, 1, 0x2A, 2, 0x33, 1, 0, 1, 2, 0x45⟩,
     .mvset ⟨1, 0x13, 0x55, 1, 1, 0x2A, 2, 0x33, 1, 0, 1, 2, 0x45⟩,
     .mvvar ⟨1, 0x13, 0x55, 1, 1, 0x2A, 2, 0x33, 1, 0, 1, 2, 0x45⟩,
     .svadd ⟨1, 0x13, 0x55, 1, 1, 0x2A, 2, 0x33, 1, 0, 1, 2, 0x45⟩] : List Instr) := by
  decide

theorem test_decode_primary_33_1 :
    [decodeUnit 0xE6112755 0xAA99A345,
     decodeUnit 0xE6122755 0xAA99A345,
     decodeUnit 0xE6132755 0xAA99A345,
     decodeUnit 0xE6142755 0xAA99A345,
     decodeUnit 0xE6152755 0xAA99A345,
     decodeUnit 0xE6162755 0xAA99A345,
     decodeUnit 0xE6172755 0xAA99A345] =
    ([.svsub ⟨1, 0x13, 0x55, 1, 1, 0x2A, 2, 0x33, 1, 0, 1, 2, 0x45⟩,
     .svmul ⟨1, 0x13, 0x55, 1, 1, 0x2A, 2, 0x33, 1, 0, 1, 2, 0x45⟩,
     .svfma ⟨1, 0x13, 0x55, 1, 1, 0x2A, 2, 0x33, 1, 0, 1, 2, 0x45⟩,
     .svsf ⟨1, 0x13, 0x55, 1, 1, 0x2A, 2, 0x33, 1, 0, 1, 2, 0x45⟩,
     .svstat ⟨1, 0x13, 0x55, 1, 1, 0x2A, 2, 0x33, 1, 0, 1, 2, 0x45⟩,
     .svset ⟨1, 0x13, 0x55, 1, 1, 0x2A, 2, 0x33, 1, 0, 1, 2, 0x45⟩,
     .svsort ⟨1, 0x13, 0x55, 1, 1, 0x2A, 2, 0x33, 1, 0, 1, 2, 0x45⟩] : List Instr) := by
  decide

theorem test_decode_primary_34 :
    [decodeUnit 0xE8002755 0xAA99A345,
     decodeUnit 0xE8012755 0xAA99A345,
     decodeUnit 0xE8022755 0xAA99A345,
     decodeUnit 0xE8032755 0xAA99A345,
     decodeUnit 0xE8042755 0xAA99A345,
     decodeUnit 0xE8052755 0xAA99A345,
     decodeUnit 0xE8062755 0xAA99A345,
     decodeUnit 0xE8082755 0xAA99A345,
     decodeUnit 0xE8092755 0xAA99A345,
     decodeUnit 0xE80A2755 0xAA99A345] =
    ([.rnd ⟨1, 0x13, 0x55, 1, 1, 0x2A, 2, 0x33, 1, 0, 1, 2, 0x45⟩,
     .rndf ⟨1, 0x13, 0x55, 1, 1, 0x2A, 2, 0x33, 1, 0, 1, 2, 0x45⟩,
     .rndmask ⟨1, 0x13, 0x55, 1, 1, 0x2A, 2, 0x33, 1, 0, 1, 2, 0x45⟩,
     .rndgauss ⟨1, 0x13, 0x55, 1, 1, 0x2A, 2, 0x33, 1, 0, 1, 2, 0x45⟩,
     .rndskip ⟨1, 0x13, 0x55, 1, 1, 0x2A, 2, 0x33, 1, 0, 1, 2, 0x45⟩,
     .rndget ⟨1, 0x13, 0x55, 1, 1, 0x2A, 2, 0x33, 1, 0, 1, 2, 0x45⟩,
     .rndset ⟨1, 0x13, 0x55, 1, 1, 0x2A, 2, 0x33, 1, 0, 1, 2, 0x45⟩,
     .minp ⟨1, 0x13, 0x55, 1, 1, 0x2A, 2, 0x33, 1, 0, 1, 2, 0x45⟩,
     .hdig ⟨1, 0x13, 0x55, 1, 1, 0x2A, 2, 0x33, 1, 0, 1, 2, 0x45⟩,
     .catdraw ⟨1, 0x13, 0x55, 1, 1, 0x2A, 2, 0x33, 1, 0, 1, 2, 0x45⟩] : List Instr) := by
  decide

theorem test_decode_primary_35 :
    [decodeUnit 0xEA002755 0xAA99A345,
     decodeUnit 0xEA012755 0xAA99A345,
     decodeUnit 0xEA022755 0xAA99A345,
     decodeUnit 0xEA032755 0xAA99A345,
     decodeUnit 0xEA042755 0xAA99A345,
     decodeUnit 0xEA052755 0xAA99A345,
     decodeUnit 0xEA062755 0xAA99A345] =
    ([.shfl ⟨1, 0x13, 0x55, 1, 1, 0x2A, 2, 0x33, 1, 0, 1, 2, 0x45⟩,
     .bcast ⟨1, 0x13, 0x55, 1, 1, 0x2A, 2, 0x33, 1, 0, 1, 2, 0x45⟩,
     .vote ⟨1, 0x13, 0x55, 1, 1, 0x2A, 2, 0x33, 1, 0, 1, 2, 0x45⟩,
     .matchOp ⟨1, 0x13, 0x55, 1, 1, 0x2A, 2, 0x33, 1, 0, 1, 2, 0x45⟩,
     .red ⟨1, 0x13, 0x55, 1, 1, 0x2A, 2, 0x33, 1, 0, 1, 2, 0x45⟩,
     .scan ⟨1, 0x13, 0x55, 1, 1, 0x2A, 2, 0x33, 1, 0, 1, 2, 0x45⟩,
     .elect ⟨1, 0x13, 0x55, 1, 1, 0x2A, 2, 0x33, 1, 0, 1, 2, 0x45⟩] : List Instr) := by
  decide

theorem test_decode_primary_36 :
    [decodeUnit 0xEC002755 0x60001803,
     decodeUnit 0xEC012755 0x60001803,
     decodeUnit 0xEC022755 0xAA99A345,
     decodeUnit 0xEC032755 0xAA99A345] =
    ([.bzLong ⟨1, 0x13, 0x55, 1, 0, 1, 0x20001, 0x803⟩,
     .bnzLong ⟨1, 0x13, 0x55, 1, 0, 1, 0x20001, 0x803⟩,
     .brx ⟨1, 0x13, 0x55, 1, 1, 0x2A, 2, 0x33, 1, 0, 1, 2, 0x45⟩,
     .callr ⟨1, 0x13, 0x55, 1, 1, 0x2A, 2, 0x33, 1, 0, 1, 2, 0x45⟩] : List Instr) := by
  decide

theorem test_decode_primary_37 :
    [decodeUnit 0xEE002755 0xAA9A5801,
     decodeUnit 0xEE012755 0xAA9A5801,
     decodeUnit 0xEE022755 0xAA9A5801,
     decodeUnit 0xEE032755 0xAA9A5801,
     decodeUnit 0xEE042755 0xAA9A5801,
     decodeUnit 0xEE052755 0xAA9A5801,
     decodeUnit 0xEE062755 0xAA9A5801,
     decodeUnit 0xEE072755 0xAA9A5801,
     decodeUnit 0xEE082755 0xAA9A5801,
     decodeUnit 0xEE092755 0xAA9A5801,
     decodeUnit 0xEE0A2755 0xAA9A5801,
     decodeUnit 0xEE0B2755 0xAA99A345] =
    ([.ldLong ⟨1, 0x13, 0x55, 1, 1, 0x2A, 2, 1, 2, 0x25, 0x801⟩,
     .stLong ⟨1, 0x13, 0x55, 1, 1, 0x2A, 2, 1, 2, 0x25, 0x801⟩,
     .ldlLong ⟨1, 0x13, 0x55, 1, 1, 0x2A, 2, 1, 2, 0x25, 0x801⟩,
     .stlLong ⟨1, 0x13, 0x55, 1, 1, 0x2A, 2, 1, 2, 0x25, 0x801⟩,
     .atom ⟨1, 0x13, 0x55, 1, 1, 0x2A, 2, 1, 2, 0x25, 0x801⟩,
     .atoml ⟨1, 0x13, 0x55, 1, 1, 0x2A, 2, 1, 2, 0x25, 0x801⟩,
     .gred ⟨1, 0x13, 0x55, 1, 1, 0x2A, 2, 1, 2, 0x25, 0x801⟩,
     .fence ⟨1, 0x13, 0x55, 1, 1, 0x2A, 2, 1, 2, 0x25, 0x801⟩,
     .waita ⟨1, 0x13, 0x55, 1, 1, 0x2A, 2, 1, 2, 0x25, 0x801⟩,
     .wake ⟨1, 0x13, 0x55, 1, 1, 0x2A, 2, 1, 2, 0x25, 0x801⟩,
     .discardLong ⟨1, 0x13, 0x55, 1, 1, 0x2A, 2, 1, 2, 0x25, 0x801⟩,
     .stt ⟨1, 0x13, 0x55, 1, 1, 0x2A, 2, 0x33, 1, 0, 1, 2, 0x45⟩] : List Instr) := by
  decide

theorem test_decode_primary_38 :
    [decodeUnit 0xF0002755 0xAA9A5801,
     decodeUnit 0xF0012755 0xAA9A5801,
     decodeUnit 0xF0022755 0xAA9A5801,
     decodeUnit 0xF0032755 0xAA9A5801,
     decodeUnit 0xF0042755 0xAA9A5801,
     decodeUnit 0xF0052755 0x7FFFFFF0,
     decodeUnit 0xF0062755 0xAA99A345] =
    ([.barrierarrive ⟨1, 0x13, 0x55, 1, 1, 0x2A, 2, 1, 2, 0x25, 0x801⟩,
     .barrierwait ⟨1, 0x13, 0x55, 1, 1, 0x2A, 2, 1, 2, 0x25, 0x801⟩,
     .mbinit ⟨1, 0x13, 0x55, 1, 1, 0x2A, 2, 1, 2, 0x25, 0x801⟩,
     .mbput ⟨1, 0x13, 0x55, 1, 1, 0x2A, 2, 1, 2, 0x25, 0x801⟩,
     .mbget ⟨1, 0x13, 0x55, 1, 1, 0x2A, 2, 1, 2, 0x25, 0x801⟩,
     .waitc ⟨1, 0x13, 0x55, 1, 0, 0x7FFFFFF0⟩,
     .cwait ⟨1, 0x13, 0x55, 1, 1, 0x2A, 2, 0x33, 1, 0, 1, 2, 0x45⟩] : List Instr) := by
  decide

theorem test_decode_primary_39_0 :
    [decodeUnit 0xF2002755 0xAA99A345,
     decodeUnit 0xF2012755 0xAA99A345,
     decodeUnit 0xF2022755 0xAA99A345,
     decodeUnit 0xF2032755 0xAA99A345,
     decodeUnit 0xF2042755 0xAA99A345,
     decodeUnit 0xF2052755 0xAA99A345,
     decodeUnit 0xF2062755 0xAA99A345,
     decodeUnit 0xF2072755 0xAA99A345,
     decodeUnit 0xF2082755 0xAA99A345,
     decodeUnit 0xF2092755 0xAA99A345,
     decodeUnit 0xF20A2755 0xAA99A345,
     decodeUnit 0xF20B2755 0xAA99A345] =
    ([.copy ⟨1, 0x13, 0x55, 1, 1, 0x2A, 2, 0x33, 1, 0, 1, 2, 0x45⟩,
     .copyf ⟨1, 0x13, 0x55, 1, 1, 0x2A, 2, 0x33, 1, 0, 1, 2, 0x45⟩,
     .coll ⟨1, 0x13, 0x55, 1, 1, 0x2A, 2, 0x33, 1, 0, 1, 2, 0x45⟩,
     .tsend ⟨1, 0x13, 0x55, 1, 1, 0x2A, 2, 0x33, 1, 0, 1, 2, 0x45⟩,
     .tdisarm ⟨1, 0x13, 0x55, 1, 1, 0x2A, 2, 0x33, 1, 0, 1, 2, 0x45⟩,
     .ctrrd ⟨1, 0x13, 0x55, 1, 1, 0x2A, 2, 0x33, 1, 0, 1, 2, 0x45⟩,
     .ctrrst ⟨1, 0x13, 0x55, 1, 1, 0x2A, 2, 0x33, 1, 0, 1, 2, 0x45⟩,
     .bfjoin ⟨1, 0x13, 0x55, 1, 1, 0x2A, 2, 0x33, 1, 0, 1, 2, 0x45⟩,
     .bftake ⟨1, 0x13, 0x55, 1, 1, 0x2A, 2, 0x33, 1, 0, 1, 2, 0x45⟩,
     .bfdone ⟨1, 0x13, 0x55, 1, 1, 0x2A, 2, 0x33, 1, 0, 1, 2, 0x45⟩,
     .kvlook ⟨1, 0x13, 0x55, 1, 1, 0x2A, 2, 0x33, 1, 0, 1, 2, 0x45⟩,
     .kvins ⟨1, 0x13, 0x55, 1, 1, 0x2A, 2, 0x33, 1, 0, 1, 2, 0x45⟩] : List Instr) := by
  decide

theorem test_decode_primary_39_1 :
    [decodeUnit 0xF20C2755 0xAA99A345] =
    ([.kvunref ⟨1, 0x13, 0x55, 1, 1, 0x2A, 2, 0x33, 1, 0, 1, 2, 0x45⟩] : List Instr) := by
  decide

theorem test_decode_primary_3A :
    [decodeUnit 0xF4002755 0xAA99A345,
     decodeUnit 0xF4012755 0xAA99A345,
     decodeUnit 0xF4022755 0xAA99A345,
     decodeUnit 0xF4032755 0xAA99A345,
     decodeUnit 0xF4042755 0xAA99A345,
     decodeUnit 0xF4052755 0xAA99A345,
     decodeUnit 0xF4062755 0xAA99A345,
     decodeUnit 0xF4072755 0xAA99A345,
     decodeUnit 0xF4082755 0xAA99A345] =
    ([.tclaim ⟨1, 0x13, 0x55, 1, 1, 0x2A, 2, 0x33, 1, 0, 1, 2, 0x45⟩,
     .tfree ⟨1, 0x13, 0x55, 1, 1, 0x2A, 2, 0x33, 1, 0, 1, 2, 0x45⟩,
     .tshape ⟨1, 0x13, 0x55, 1, 1, 0x2A, 2, 0x33, 1, 0, 1, 2, 0x45⟩,
     .tldw ⟨1, 0x13, 0x55, 1, 1, 0x2A, 2, 0x33, 1, 0, 1, 2, 0x45⟩,
     .tswap ⟨1, 0x13, 0x55, 1, 1, 0x2A, 2, 0x33, 1, 0, 1, 2, 0x45⟩,
     .tmma ⟨1, 0x13, 0x55, 1, 1, 0x2A, 2, 0x33, 1, 0, 1, 2, 0x45⟩,
     .tst ⟨1, 0x13, 0x55, 1, 1, 0x2A, 2, 0x33, 1, 0, 1, 2, 0x45⟩,
     .tsave ⟨1, 0x13, 0x55, 1, 1, 0x2A, 2, 0x33, 1, 0, 1, 2, 0x45⟩,
     .tload ⟨1, 0x13, 0x55, 1, 1, 0x2A, 2, 0x33, 1, 0, 1, 2, 0x45⟩] : List Instr) := by
  decide

theorem test_decode_primary_3B :
    [decodeUnit 0xF6002755 0xAA99A345,
     decodeUnit 0xF6012755 0xAA99A345,
     decodeUnit 0xF6022755 0x7FFFFFF0,
     decodeUnit 0xF6032755 0xAA99A345,
     decodeUnit 0xF6042755 0xAA99A345,
     decodeUnit 0xF6052755 0xAA99A345] =
    ([.rte ⟨1, 0x13, 0x55, 1, 1, 0x2A, 2, 0x33, 1, 0, 1, 2, 0x45⟩,
     .breakOp ⟨1, 0x13, 0x55, 1, 1, 0x2A, 2, 0x33, 1, 0, 1, 2, 0x45⟩,
     .swtrap ⟨1, 0x13, 0x55, 1, 0, 0x7FFFFFF0⟩,
     .rdcyc ⟨1, 0x13, 0x55, 1, 1, 0x2A, 2, 0x33, 1, 0, 1, 2, 0x45⟩,
     .rdsrLong ⟨1, 0x13, 0x55, 1, 1, 0x2A, 2, 0x33, 1, 0, 1, 2, 0x45⟩,
     .wrsrLong ⟨1, 0x13, 0x55, 1, 1, 0x2A, 2, 0x33, 1, 0, 1, 2, 0x45⟩] : List Instr) := by
  decide

theorem test_decode_primary_3C_0 :
    [decodeUnit 0xF800F9C5 0x55555330,
     decodeUnit 0xF801F9C5 0x55555330,
     decodeUnit 0xF802F9C5 0x55555330,
     decodeUnit 0xF803F9C5 0x55555330,
     decodeUnit 0xF804F9C5 0x55555330,
     decodeUnit 0xF805F9C5 0x55555330,
     decodeUnit 0xF806F9C5 0x55555330,
     decodeUnit 0xF807F9C5 0x55555330,
     decodeUnit 0xF808F9C5 0x55555330,
     decodeUnit 0xF809F9C5 0x55555330,
     decodeUnit 0xF80AF9C5 0x55555330,
     decodeUnit 0xF80BF9C5 0x55555330] =
    ([.leadAdd ⟨1, 0x1F3, 0x45, 0, 0x155, 0x0AA, 0x133, 0⟩,
     .leadSub ⟨1, 0x1F3, 0x45, 0, 0x155, 0x0AA, 0x133, 0⟩,
     .leadMul ⟨1, 0x1F3, 0x45, 0, 0x155, 0x0AA, 0x133, 0⟩,
     .leadMulhi ⟨1, 0x1F3, 0x45, 0, 0x155, 0x0AA, 0x133, 0⟩,
     .leadAnd ⟨1, 0x1F3, 0x45, 0, 0x155, 0x0AA, 0x133, 0⟩,
     .leadOr ⟨1, 0x1F3, 0x45, 0, 0x155, 0x0AA, 0x133, 0⟩,
     .leadXor ⟨1, 0x1F3, 0x45, 0, 0x155, 0x0AA, 0x133, 0⟩,
     .leadShl ⟨1, 0x1F3, 0x45, 0, 0x155, 0x0AA, 0x133, 0⟩,
     .leadShr ⟨1, 0x1F3, 0x45, 0, 0x155, 0x0AA, 0x133, 0⟩,
     .leadSar ⟨1, 0x1F3, 0x45, 0, 0x155, 0x0AA, 0x133, 0⟩,
     .leadMin ⟨1, 0x1F3, 0x45, 0, 0x155, 0x0AA, 0x133, 0⟩,
     .leadMax ⟨1, 0x1F3, 0x45, 0, 0x155, 0x0AA, 0x133, 0⟩] : List Instr) := by
  decide

theorem test_decode_primary_3C_1 :
    [decodeUnit 0xF80CF9C5 0x55555330,
     decodeUnit 0xF80DF9C5 0x55555330,
     decodeUnit 0xF810F9C5 0x55600001,
     decodeUnit 0xF811F9C5 0x55600001,
     decodeUnit 0xF812F9C5 0x55600001,
     decodeUnit 0xF813F9C5 0x7FFFFFF0,
     decodeUnit 0xF814F9C5 0x7FFFFFF0] =
    ([.leadSel ⟨1, 0x1F3, 0x45, 0, 0x155, 0x0AA, 0x133, 0⟩,
     .leadCmp ⟨1, 0x1F3, 0x45, 0, 0x155, 0x0AA, 0x133, 0⟩,
     .leadAddi ⟨1, 0x1F3, 0x45, 0, 0x155, 0x200001⟩,
     .leadLd ⟨1, 0x1F3, 0x45, 0, 0x155, 0x200001⟩,
     .leadSt ⟨1, 0x1F3, 0x45, 0, 0x155, 0x200001⟩,
     .leadMovi ⟨1, 0x1F3, 0x45, 0, 0x7FFFFFF0⟩,
     .movhi ⟨1, 0x1F3, 0x45, 0, 0x7FFFFFF0⟩] : List Instr) := by
  decide

theorem test_decode_primary_3D :
    [decodeUnit 0xFA00F9C5 0x5C000600,
     decodeUnit 0xFA01F9C5 0x5C000600,
     decodeUnit 0xFA02F9C5 0x55555330,
     decodeUnit 0xFA03F9C5 0x55555330,
     decodeUnit 0xFA04F9C5 0x55555330,
     decodeUnit 0xFA05F9C5 0x55555330,
     decodeUnit 0xFA06F9C5 0x55555330,
     decodeUnit 0xFA07F9C5 0x55555330,
     decodeUnit 0xFA08F9C5 0x55555330,
     decodeUnit 0xFA09F9C5 0x55555330] =
    ([.bp ⟨1, 0x1F3, 0x45, 0, 5, 1, 0x20003, 0⟩,
     .leadBra ⟨1, 0x1F3, 0x45, 0, 5, 1, 0x20003, 0⟩,
     .leadEnd ⟨1, 0x1F3, 0x45, 0, 0x155, 0x0AA, 0x133, 0⟩,
     .dpush ⟨1, 0x1F3, 0x45, 0, 0x155, 0x0AA, 0x133, 0⟩,
     .ewait ⟨1, 0x1F3, 0x45, 0, 0x155, 0x0AA, 0x133, 0⟩,
     .lrte ⟨1, 0x1F3, 0x45, 0, 0x155, 0x0AA, 0x133, 0⟩,
     .qset ⟨1, 0x1F3, 0x45, 0, 0x155, 0x0AA, 0x133, 0⟩,
     .qstart ⟨1, 0x1F3, 0x45, 0, 0x155, 0x0AA, 0x133, 0⟩,
     .bfcfg ⟨1, 0x1F3, 0x45, 0, 0x155, 0x0AA, 0x133, 0⟩,
     .ckpt ⟨1, 0x1F3, 0x45, 0, 0x155, 0x0AA, 0x133, 0⟩] : List Instr) := by
  decide

theorem test_decode_primary_3E_0 :
    [decodeUnit 0xFC00F9C5 0x55555330,
     decodeUnit 0xFC01F9C5 0x55555330,
     decodeUnit 0xFC02F9C5 0x55555330,
     decodeUnit 0xFC03F9C5 0x55555330,
     decodeUnit 0xFC04F9C5 0x55555330,
     decodeUnit 0xFC05F9C5 0x55555330,
     decodeUnit 0xFC06F9C5 0x55555330,
     decodeUnit 0xFC10F9C5 0x55555330,
     decodeUnit 0xFC11F9C5 0x55555330,
     decodeUnit 0xFC12F9C5 0x55555330,
     decodeUnit 0xFC13F9C5 0x55555330,
     decodeUnit 0xFC14F9C5 0x55555330] =
    ([.leadCopy ⟨1, 0x1F3, 0x45, 0, 0x155, 0x0AA, 0x133, 0⟩,
     .leadCopyf ⟨1, 0x1F3, 0x45, 0, 0x155, 0x0AA, 0x133, 0⟩,
     .leadColl ⟨1, 0x1F3, 0x45, 0, 0x155, 0x0AA, 0x133, 0⟩,
     .leadTsend ⟨1, 0x1F3, 0x45, 0, 0x155, 0x0AA, 0x133, 0⟩,
     .leadTdisarm ⟨1, 0x1F3, 0x45, 0, 0x155, 0x0AA, 0x133, 0⟩,
     .leadCtrrd ⟨1, 0x1F3, 0x45, 0, 0x155, 0x0AA, 0x133, 0⟩,
     .leadCtrrst ⟨1, 0x1F3, 0x45, 0, 0x155, 0x0AA, 0x133, 0⟩,
     .leadTclaim ⟨1, 0x1F3, 0x45, 0, 0x155, 0x0AA, 0x133, 0⟩,
     .leadTfree ⟨1, 0x1F3, 0x45, 0, 0x155, 0x0AA, 0x133, 0⟩,
     .leadTshape ⟨1, 0x1F3, 0x45, 0, 0x155, 0x0AA, 0x133, 0⟩,
     .leadTldw ⟨1, 0x1F3, 0x45, 0, 0x155, 0x0AA, 0x133, 0⟩,
     .leadTswap ⟨1, 0x1F3, 0x45, 0, 0x155, 0x0AA, 0x133, 0⟩] : List Instr) := by
  decide

theorem test_decode_primary_3E_1 :
    [decodeUnit 0xFC15F9C5 0x55555330,
     decodeUnit 0xFC16F9C5 0x55555330,
     decodeUnit 0xFC17F9C5 0x55555330,
     decodeUnit 0xFC18F9C5 0x55555330,
     decodeUnit 0xFC20F9C5 0x55555330] =
    ([.leadTmma ⟨1, 0x1F3, 0x45, 0, 0x155, 0x0AA, 0x133, 0⟩,
     .leadTst ⟨1, 0x1F3, 0x45, 0, 0x155, 0x0AA, 0x133, 0⟩,
     .leadTsave ⟨1, 0x1F3, 0x45, 0, 0x155, 0x0AA, 0x133, 0⟩,
     .leadTload ⟨1, 0x1F3, 0x45, 0, 0x155, 0x0AA, 0x133, 0⟩,
     .stash ⟨1, 0x1F3, 0x45, 0, 0x155, 0x0AA, 0x133, 0⟩] : List Instr) := by
  decide

theorem test_decode_primary_3F :
    [decodeUnit 0xFE00F9C5 0x55555330,
     decodeUnit 0xFE01F9C5 0x55555330,
     decodeUnit 0xFE02F9C5 0x55555330,
     decodeUnit 0xFE03F9C5 0x55555330,
     decodeUnit 0xFE04F9C5 0x7FFFFFF0] =
    ([.leadRdsr ⟨1, 0x1F3, 0x45, 0, 0x155, 0x0AA, 0x133, 0⟩,
     .leadWrsr ⟨1, 0x1F3, 0x45, 0, 0x155, 0x0AA, 0x133, 0⟩,
     .leadRdcyc ⟨1, 0x1F3, 0x45, 0, 0x155, 0x0AA, 0x133, 0⟩,
     .leadBreak ⟨1, 0x1F3, 0x45, 0, 0x155, 0x0AA, 0x133, 0⟩,
     .leadSwtrap ⟨1, 0x1F3, 0x45, 0, 0x7FFFFFF0⟩] : List Instr) := by
  decide

/-! Well-formedness (R315 to R324): for each check a term that it refuses, and a term that passes. -/

theorem test_wf_first_bit : (Instr.mad ⟨0, 4, 8, 0, 0, 9, 0, 10, 0, 0, 0, 0, 0⟩).failedChecks = [.firstBit31] := by decide +kernel
theorem test_wf_reserved : (Instr.leadAdd ⟨1, 10, 0, 0, 496, 2, 0, 1⟩).failedChecks = [.reserved] := by decide +kernel
theorem test_wf_chain_bit : (Instr.bra ⟨1, 0, 5⟩).failedChecks = [.chainBitSet] := by decide +kernel
theorem test_wf_hint : (Instr.add ⟨0, 3, 1, 2, 3, 0⟩).failedChecks = [.hint] := by decide +kernel
theorem test_wf_kind : (Instr.mad ⟨1, 4, 8, 0, 0, 9, 0, 10, 0, 0, 3, 0, 0⟩).failedChecks = [.kind] := by decide +kernel
theorem test_wf_queue : (Instr.mad ⟨1, 4, 9, 0, 0, 9, 0, 10, 0, 2, 0, 0, 0⟩).failedChecks = [.queue] := by decide +kernel
theorem test_wf_rejoin : (Instr.bnzLong ⟨1, 0, 3, 0, 0, 0, 3, 0⟩).failedChecks = [.rejoinZero] := by decide +kernel
theorem test_wf_fma : (Instr.fma ⟨1, 4, 5, 0, 0, 2, 0, 44, 2, 0, 2, 1, 0⟩).failedChecks = [] := by decide +kernel

/-! Single steps, with results from the manual's worked examples. -/

/-- A thread with some registers set. -/
def thr (vs : List (Nat × Word)) : Thread :=
  let t := Thread.start (BitVec.ofNat 48 fetchBase) 64
  { t with v := vs.foldl (fun (a : Vector Word 128) e => a.set! e.1 e.2) t.v }

/-- A machine whose one block has one thread and one lead context, with the thread in hand. -/
def laneS (th : Thread) : State :=
  { State.reset with
    ctxs := [fetchCtx]
    nextId := 2
    blocks := [{ fetchBlock 1 with threads := [th], loc := 4096 }]
    issue := { Issue.none with agent := some (.lane ⟨1, 0⟩), start := th.pc, unit := th.pc } }

/-- Registers of the thread once a unit has run. -/
def after (w x : Word) (vs : List (Nat × Word)) (ns : List Nat) : List Word :=
  match exec (decodeUnit w x) (laneS (thr vs)) with
  | .next t => (match t.thread? ⟨1, 0⟩ with | some y => ns.map fun n => y.v.toList.getD n 0 | none => [])
  | _ => []

/-- The cause and subcode of the trap that a unit takes with no handler, as the issue notes it. -/
def traps (w x : Word) (vs : List (Nat × Word)) : Option (Nat × Nat) :=
  match exec (decodeUnit w x) (laneS (thr vs)) with
  | .next t => t.issue.taken.map fun e => (e.1, e.2.1)
  | _ => none

-- R351's example
theorem test_mulhi : after 0xE0030604 0x02000000 [(1, 0xFFFFFFFF), (2, 0xFFFFFFFF)] [3] = [0] := by decide +kernel
-- R356's example: adda.u32.sh2 v10:v11, v20:v21, v7 and its .s32 form
theorem test_adda_unsigned : after 0xE0131450 0x07000005 [(20, 0x1000), (21, 0x10), (7, 0xFFFFFFF0)] [10, 11] = [0xFC0, 0x14] := by decide +kernel
theorem test_adda_signed : after 0xE0131450 0x07000004 [(20, 0x1000), (21, 0x10), (7, 0xFFFFFFF0)] [10, 11] = [0xFC0, 0x10] := by decide +kernel
-- the short addi v3, v3, -1 of the same example
theorem test_addi_wraps : after 0x040C19FF 0 [(3, 0)] [3] = [0xFFFFFFFF] := by decide +kernel
-- R355's constants: movi v1, 0x2000_0000 then shli v1, v1, 2
theorem test_shli : after 0x16040802 0 [(1, 0x20000000)] [1] = [0x80000000] := by decide +kernel
-- R365's example, hadd2.bf16.rn: the tie goes to even
theorem test_hadd2 : after 0xE2200208 0x03000000 [(2, 0x3F804000), (3, 0x3B803F80)] [1] = [0x3F804040] := by decide +kernel
-- R366's table of conversions, written into v2 from v3
theorem test_cvt_e4m3_sat : after 0xE230040C 0x04040000 [(3, 0xC47A0000)] [2] = [0xFE] := by decide +kernel
-- R255's example: cvt.e4m3 of 470.0 under rn, rn.sat and rz
theorem test_cvt_e4m3_470 : after 0xE230040C 0x04000000 [(3, 0x43EB0000)] [2] = [0x7F] ∧ after 0xE230040C 0x04040000 [(3, 0x43EB0000)] [2] = [0x7E] := by
  decide +kernel
-- R370's table: exp2.f32 v8, v9
theorem test_exp2_overflow : after 0xE4041024 0 [(9, 0x43000000)] [8] = [0x7F800000] := by decide +kernel
theorem test_exp2_subnormal : after 0xE4041024 0 [(9, 0xC3150000)] [8] = [1] ∧ after 0xE4041024 0 [(9, 0xC3160000)] [8] = [0] := by decide +kernel
-- R376's example: mvfma v10:v11, v4:v5, v8, v6:v7 under ind and bnd
theorem test_mvfma_ind : after 0xE6031410 0x08030020 [(4, 0x40400000), (5, 0x3D800000), (8, 0x40000000), (6, 0x40000000), (7, 0x3E800000)] [10, 11] =
    [0x41000000, 0x3F000000] := by decide +kernel
theorem test_mvfma_bnd : after 0xE6031410 0x08030021 [(4, 0x40400000), (5, 0x3D800000), (8, 0x40000000), (6, 0x40000000), (7, 0x3E800000)] [10, 11] =
    [0x41000000, 0x3F800000] := by decide +kernel
-- R378's example: mvcvt.e4m3.sat v12:v13, v4:v5
theorem test_mvcvt : after 0xE6091810 0x00040004 [(4, 0x41540000), (5, 0x3F000000)] [12, 13] = [0x55, 0x3F155556] := by decide +kernel
-- R387's examples: hdig v2, v3, 3
theorem test_hdig : after 0xE809040C 3 [(3, 0xBF800000)] [2] = [0x40] ∧ after 0xE809040C 3 [(3, 0x3F800000)] [2] = [0xBF] := by decide +kernel
-- R322: a hint of 3 is illegal with subcode 4; R318: a first word with bit 31 clear, subcode 2
theorem test_hint_traps : traps 0x020C082C 0 [] = some (1, 4) ∧ traps 0x60040E20 0x09050000 [] = some (1, 2) := by decide +kernel
-- R316: the guard word traps RUNOFF
theorem test_guard_word_traps : traps 0x3E000000 0 [] = some (3, 0) := by decide +kernel

/-! Tools for the witnesses: a unit in hand is a decidable matter. -/

/-- What a unit of a thread works with. -/
def envOf (i : Instr) (r : ThreadRef) (b : Block) (th : Thread) (sh : Share) : LaneEnv :=
  ⟨r, b, b.home r.t, sh, th, (shape i).srcs.map fun x => readSrc sh r.t th x, (shape i).d, th.pc,
    BitVec.ofNat 48 (th.pc.toNat + unitLen i)⟩

/-- What LaneHand asks of a unit that no chain has latched, as a check. -/
def handB (i : Instr) (s : State) (e : LaneEnv) : Bool :=
  decide (s.issue.agent = some (.lane e.r)) && s.issue.latch.isNone &&
  decide (popsOf e.sh e.r.t e.th (shape i).queues = (none, false)) && decide (e.th.pc.toNat + unitLen i < 2 ^ 48) &&
  decide ((shape i).illegal e.b.regCount e.th.inTrap = none) && decide (s.issue.guard ≠ some false) && decide (e.th.status ≠ .ended)

/-- The unit is in hand and a check of it comes out. -/
def handWith (i : Instr) (s : State) (r : ThreadRef) (q : LaneEnv → Bool) : Bool :=
  match s.block? r.block with
  | none => false
  | some b =>
    match b.threads[r.t]? with
    | none => false
    | some th =>
      match b.shares[b.home r.t]? with
      | none => false
      | some sh => handB i s (envOf i r b th sh) && q (envOf i r b th sh)

/-- A unit in hand that meets more. -/
theorem met {i : Instr} {P : State → LaneEnv → Prop} (s : State) (r : ThreadRef) (q : LaneEnv → Bool) (h : handWith i s r q = true)
    (hp : ∀ e, q e = true → P s e) : ∃ s e, LaneHand i s e ∧ P s e := by
  unfold handWith at h
  cases hb : s.block? r.block with
  | none => simp [hb] at h
  | some b =>
    cases ht : b.threads[r.t]? with
    | none => simp [hb, ht] at h
    | some th =>
      cases hs : b.shares[b.home r.t]? with
      | none => simp [hb, ht, hs] at h
      | some sh =>
        simp only [hb, ht, hs, Bool.and_eq_true] at h
        have hq := h.2
        have hc := h.1
        simp only [handB, Bool.and_eq_true, decide_eq_true_eq] at hc
        obtain ⟨⟨⟨⟨⟨⟨h1, h2⟩, h3⟩, h4⟩, h5⟩, h6⟩, h7⟩ := hc
        refine ⟨s, _, ⟨h1, hb, ht, rfl, hs, ?_, rfl, rfl, rfl, h4, h5, h6, h7⟩, hp _ hq⟩
        have hl : s.issue.latch = none := by simpa using h2
        simp only [LaneEnv.has, hl]
        exact ⟨rfl, h3⟩

/-- A unit in hand that meets what can be decided. -/
theorem sure {i : Instr} {P : State → LaneEnv → Prop} (s : State) [∀ e, Decidable (P s e)] (h : handWith i s ⟨1, 0⟩ (fun e => decide (P s e)) = true) :
    ∃ s e, LaneHand i s e ∧ P s e := met s ⟨1, 0⟩ _ h fun _ h => of_decide_eq_true h

/-- A unit in hand. -/
theorem inHand {i : Instr} (s : State) (r : ThreadRef) (h : handWith i s r (fun _ => true) = true) : ∃ s e, LaneHand i s e := by
  obtain ⟨s, e, he, -⟩ := met (P := fun _ _ => True) s r _ h fun _ _ => trivial
  exact ⟨s, e, he⟩

/-- What LeadHand asks, as a check. -/
def leadB (i : Instr) (s : State) (r : LeadRef) (l : Lead) : Bool :=
  decide (s.issue.agent = some (.lead r)) && decide (l.pc.toNat + 2 < 2 ^ 48) && !(leadShape i).packet && (leadShape i).ok &&
  (leadShape i).lim && decide (l.status ≠ .ended)

/-- What a lead unit works with. -/
def leadEnv (r : LeadRef) (b : Block) (sh : Share) : LeadEnv := ⟨r, b, sh, sh.lead, sh.lead.pc, BitVec.ofNat 48 (sh.lead.pc.toNat + 2)⟩

/-- The lead unit is in hand and a check of it comes out. -/
def leadWith (i : Instr) (s : State) (r : LeadRef) (q : LeadEnv → Bool) : Bool :=
  match s.block? r.block with
  | none => false
  | some b =>
    match b.shares[r.j]? with
    | none => false
    | some sh => leadB i s r sh.lead && q (leadEnv r b sh)

/-- A lead unit in hand that meets more. -/
theorem metLead {i : Instr} {P : State → LeadEnv → Prop} (s : State) (r : LeadRef) (q : LeadEnv → Bool) (h : leadWith i s r q = true)
    (hp : ∀ e, q e = true → P s e) : ∃ s e, LeadHand i s e ∧ P s e := by
  unfold leadWith at h
  cases hb : s.block? r.block with
  | none => simp [hb] at h
  | some b =>
    cases hs : b.shares[r.j]? with
    | none => simp [hb, hs] at h
    | some sh =>
      simp only [hb, hs, Bool.and_eq_true] at h
      have hc := h.1
      simp only [leadB, Bool.and_eq_true, decide_eq_true_eq] at hc
      obtain ⟨⟨⟨⟨⟨h1, h2⟩, h3⟩, h4⟩, h5⟩, h6⟩ := hc
      refine ⟨s, _, ⟨h1, hb, hs, rfl, rfl, rfl, h2, ?_, h4, h5, h6⟩, hp _ h.2⟩
      simpa using h3

/-- A lead unit in hand that meets what can be decided. -/
theorem sureLead {i : Instr} {P : State → LeadEnv → Prop} (s : State) [∀ e, Decidable (P s e)]
    (h : leadWith i s ⟨1, 0⟩ (fun e => decide (P s e)) = true) : ∃ s e, LeadHand i s e ∧ P s e := metLead s ⟨1, 0⟩ _ h fun _ h => of_decide_eq_true h

/-- A machine whose one block has some threads and one lead context; the agent issues now. -/
def blockS (ths : List Thread) (l : Lead) (a : Agent) (pc : CodeAddr) : State :=
  { State.reset with
    ctxs := [fetchCtx]
    nextId := 2
    blocks := [{ fetchBlock 1 with threads := ths, m := ths.length, loc := 4096, shares := [⟨0, 0, l, [], .start, []⟩] }]
    issue := { Issue.none with agent := some a, start := pc, unit := pc } }

/-- Its lead context, at the first word of the code. -/
def leadAt (ss : List (Nat × Dword)) : Lead :=
  let l := Lead.start (BitVec.ofNat 48 fetchBase)
  { l with s := ss.foldl (fun (a : Vector Dword 512) e => a.set! e.1 e.2) l.s }

/-- The machine with its lead context in hand. -/
def leadS (l : Lead) : State := blockS [thr []] l (.lead ⟨1, 0⟩) l.pc

/-- The thread in hand. -/
abbrev r0 : ThreadRef := ⟨1, 0⟩

/-- The lead context in hand. -/
abbrev l0 : LeadRef := ⟨1, 0⟩

/-! Units in hand: for every instruction of the statements of register forms (one instruction of each) a state and operands that meet LaneHand. -/

theorem all_in_hand (l : List Instr) (s : State) (r : ThreadRef) (h : (l.all fun i => handWith i s r fun _ => true) = true) :
    ∀ i ∈ l, ∃ s e, LaneHand i s e := fun i hi => inHand s r (List.all_eq_true.mp h i hi)

theorem witness_IntegerFormsAndMoves : ∀ i ∈ ([.add ⟨0, 8, 16, 24, 0, 0⟩,
    .addi ⟨0, 8, 16, 0, 4⟩,
    .sub ⟨0, 8, 16, 24, 0, 0⟩,
    .mul ⟨0, 8, 16, 24, 0, 0⟩,
    .and ⟨0, 8, 16, 24, 0, 0⟩,
    .or ⟨0, 8, 16, 24, 0, 0⟩,
    .xor ⟨0, 8, 16, 24, 0, 0⟩,
    .andi ⟨0, 8, 16, 0, 4⟩,
    .ori ⟨0, 8, 16, 0, 4⟩,
    .xori ⟨0, 8, 16, 0, 4⟩,
    .mov ⟨0, 8, 16, 0, 0, 0⟩,
    .movi ⟨0, 8, 0, 0, 4⟩,
    .cmpeq ⟨0, 8, 16, 24, 0, 0⟩,
    .cmplt ⟨0, 8, 16, 24, 0, 0⟩] : List Instr),
    ∃ s e, LaneHand i s e := all_in_hand _ (laneS (thr [])) r0 (by decide +kernel)

theorem witness_IntegerFormsAndMoves_2 : ∀ i ∈ ([.adda ⟨0, 8, 16, 24, 0, 0⟩,
    .addai ⟨0, 8, 16, 0, 4⟩,
    .addaLong ⟨1, 8, 16, 0, 0, 24, 0, 0, 0, 0, 0, 0, 0⟩,
    .movLong ⟨1, 8, 16, 0, 0, 0, 0, 0, 0, 0, 0, 0, 0⟩,
    .movp ⟨1, 8, 16, 0, 0, 0, 0, 0, 0, 0, 0, 0, 0⟩,
    .moviLong ⟨1, 8, 0, 0, 0, 8⟩,
    .addiLong ⟨1, 8, 16, 0, 0, 8⟩,
    .andiLong ⟨1, 8, 16, 0, 0, 8⟩,
    .oriLong ⟨1, 8, 16, 0, 0, 8⟩,
    .xoriLong ⟨1, 8, 16, 0, 0, 8⟩,
    .addaiLong ⟨1, 8, 16, 0, 0, 8⟩] : List Instr),
    ∃ s e, LaneHand i s e := all_in_hand _ (laneS (thr [])) r0 (by decide +kernel)

theorem witness_LongArithmetic : ∀ i ∈ ([.addLong ⟨1, 8, 16, 0, 0, 24, 0, 0, 0, 0, 0, 0, 0⟩,
    .subLong ⟨1, 8, 16, 0, 0, 24, 0, 0, 0, 0, 0, 0, 0⟩,
    .mulLong ⟨1, 8, 16, 0, 0, 24, 0, 0, 0, 0, 0, 0, 0⟩,
    .mulhi ⟨1, 8, 16, 0, 0, 24, 0, 0, 0, 0, 0, 0, 0⟩,
    .mad ⟨1, 8, 16, 0, 0, 24, 0, 32, 0, 0, 0, 0, 0⟩] : List Instr),
    ∃ s e, LaneHand i s e := all_in_hand _ (laneS (thr [])) r0 (by decide +kernel)

theorem witness_LogicShiftOrderCount : ∀ i ∈ ([.shli ⟨0, 8, 16, 0, 4⟩,
    .shri ⟨0, 8, 16, 0, 4⟩,
    .sari ⟨0, 8, 16, 0, 4⟩,
    .andLong ⟨1, 8, 16, 0, 0, 24, 0, 0, 0, 0, 0, 0, 0⟩,
    .orLong ⟨1, 8, 16, 0, 0, 24, 0, 0, 0, 0, 0, 0, 0⟩,
    .xorLong ⟨1, 8, 16, 0, 0, 24, 0, 0, 0, 0, 0, 0, 0⟩,
    .shl ⟨1, 8, 16, 0, 0, 24, 0, 0, 0, 0, 0, 0, 0⟩,
    .shr ⟨1, 8, 16, 0, 0, 24, 0, 0, 0, 0, 0, 0, 0⟩,
    .sar ⟨1, 8, 16, 0, 0, 24, 0, 0, 0, 0, 0, 0, 0⟩,
    .min ⟨1, 8, 16, 0, 0, 24, 0, 0, 0, 0, 0, 0, 0⟩,
    .max ⟨1, 8, 16, 0, 0, 24, 0, 0, 0, 0, 0, 0, 0⟩,
    .popc ⟨1, 8, 16, 0, 0, 0, 0, 0, 0, 0, 0, 0, 0⟩,
    .clz ⟨1, 8, 16, 0, 0, 0, 0, 0, 0, 0, 0, 0, 0⟩,
    .log2 ⟨1, 8, 16, 0, 0, 0, 0, 0, 0, 0, 0, 0, 0⟩] : List Instr),
    ∃ s e, LaneHand i s e := all_in_hand _ (laneS (thr [])) r0 (by decide +kernel)

theorem witness_BitFieldsAndComparisons : ∀ i ∈ ([.bfe ⟨1, 8, 16, 0, 0, 24, 0, 0, 0, 0, 0, 0, 0⟩,
    .bfi ⟨1, 8, 16, 0, 0, 24, 0, 32, 0, 0, 0, 0, 0⟩,
    .sel ⟨1, 8, 16, 0, 0, 24, 0, 32, 0, 0, 0, 0, 0⟩,
    .cmp ⟨1, 8, 16, 0, 0, 24, 0, 0, 0, 0, 0, 0, 0⟩] : List Instr),
    ∃ s e, LaneHand i s e := all_in_hand _ (laneS (thr [])) r0 (by decide +kernel)

theorem witness_FloatComparedAndRounded : ∀ i ∈ ([.fmin ⟨0, 8, 16, 24, 0, 0⟩,
    .fmax ⟨0, 8, 16, 24, 0, 0⟩,
    .fcmplt ⟨0, 8, 16, 24, 0, 0⟩,
    .fminLong ⟨1, 8, 16, 0, 0, 24, 0, 0, 0, 0, 0, 0, 0⟩,
    .fmaxLong ⟨1, 8, 16, 0, 0, 24, 0, 0, 0, 0, 0, 0, 0⟩,
    .fcmp ⟨1, 8, 16, 0, 0, 24, 0, 0, 0, 0, 0, 0, 0⟩,
    .dmin ⟨1, 8, 16, 0, 0, 24, 0, 0, 0, 0, 0, 0, 0⟩,
    .dmax ⟨1, 8, 16, 0, 0, 24, 0, 0, 0, 0, 0, 0, 0⟩,
    .dcmp ⟨1, 8, 16, 0, 0, 24, 0, 0, 0, 0, 0, 0, 0⟩] : List Instr),
    ∃ s e, LaneHand i s e := all_in_hand _ (laneS (thr [])) r0 (by decide +kernel)

theorem witness_FloatComparedAndRounded_2 : ∀ i ∈ ([.fclass ⟨1, 8, 16, 0, 0, 0, 0, 0, 0, 0, 0, 0, 0⟩,
    .fround ⟨1, 8, 16, 0, 0, 0, 0, 0, 0, 0, 0, 0, 0⟩,
    .fabs ⟨1, 8, 16, 0, 0, 0, 0, 0, 0, 0, 0, 0, 0⟩,
    .fneg ⟨1, 8, 16, 0, 0, 0, 0, 0, 0, 0, 0, 0, 0⟩] : List Instr),
    ∃ s e, LaneHand i s e := all_in_hand _ (laneS (thr [])) r0 (by decide +kernel)

theorem witness_FloatArithmetic : ∀ i ∈ ([.fadd ⟨0, 8, 16, 24, 0, 0⟩,
    .fsub ⟨0, 8, 16, 24, 0, 0⟩,
    .fmul ⟨0, 8, 16, 24, 0, 0⟩,
    .faddLong ⟨1, 8, 16, 0, 0, 24, 0, 0, 0, 0, 0, 0, 0⟩,
    .fsubLong ⟨1, 8, 16, 0, 0, 24, 0, 0, 0, 0, 0, 0, 0⟩,
    .fmulLong ⟨1, 8, 16, 0, 0, 24, 0, 0, 0, 0, 0, 0, 0⟩,
    .fma ⟨1, 8, 16, 0, 0, 24, 0, 32, 0, 0, 0, 0, 0⟩,
    .dadd ⟨1, 8, 16, 0, 0, 24, 0, 0, 0, 0, 0, 0, 0⟩,
    .dsub ⟨1, 8, 16, 0, 0, 24, 0, 0, 0, 0, 0, 0, 0⟩,
    .dmul ⟨1, 8, 16, 0, 0, 24, 0, 0, 0, 0, 0, 0, 0⟩,
    .dfma ⟨1, 8, 16, 0, 0, 24, 0, 32, 0, 0, 0, 0, 0⟩,
    .hadd2 ⟨1, 8, 16, 0, 0, 24, 0, 0, 0, 0, 0, 0, 0⟩,
    .hmul2 ⟨1, 8, 16, 0, 0, 24, 0, 0, 0, 0, 0, 0, 0⟩,
    .hfma2 ⟨1, 8, 16, 0, 0, 24, 0, 32, 0, 0, 0, 0, 0⟩] : List Instr),
    ∃ s e, LaneHand i s e := all_in_hand _ (laneS (thr [])) r0 (by decide +kernel)

theorem witness_FloatArithmetic_2 : ∀ i ∈ ([.hmin2 ⟨1, 8, 16, 0, 0, 24, 0, 0, 0, 0, 0, 0, 0⟩,
    .hmax2 ⟨1, 8, 16, 0, 0, 24, 0, 0, 0, 0, 0, 0, 0⟩,
    .rcp ⟨1, 8, 16, 0, 0, 0, 0, 0, 0, 0, 0, 0, 0⟩,
    .rsq ⟨1, 8, 16, 0, 0, 0, 0, 0, 0, 0, 0, 0, 0⟩,
    .sqrt ⟨1, 8, 16, 0, 0, 0, 0, 0, 0, 0, 0, 0, 0⟩,
    .log2 ⟨1, 8, 16, 0, 0, 0, 0, 0, 0, 0, 0, 0, 0⟩,
    .exp2 ⟨1, 8, 16, 0, 0, 0, 0, 0, 0, 0, 0, 0, 0⟩,
    .sin ⟨1, 8, 16, 0, 0, 0, 0, 0, 0, 0, 0, 0, 0⟩,
    .cos ⟨1, 8, 16, 0, 0, 0, 0, 0, 0, 0, 0, 0, 0⟩,
    .tanh ⟨1, 8, 16, 0, 0, 0, 0, 0, 0, 0, 0, 0, 0⟩] : List Instr),
    ∃ s e, LaneHand i s e := all_in_hand _ (laneS (thr [])) r0 (by decide +kernel)

theorem witness_SamplesSorted : ∀ i ∈ ([.svsort ⟨1, 8, 16, 0, 0, 0, 0, 0, 0, 0, 0, 0, 0⟩] : List Instr),
    ∃ s e, LaneHand i s e := all_in_hand _ (laneS (thr [])) r0 (by decide +kernel)

theorem witness_DistributionForms : ∀ i ∈ ([.mvadd ⟨1, 8, 16, 0, 0, 24, 0, 0, 0, 0, 0, 0, 0⟩,
    .mvsub ⟨1, 8, 16, 0, 0, 24, 0, 0, 0, 0, 0, 0, 0⟩,
    .mvmul ⟨1, 8, 16, 0, 0, 24, 0, 0, 0, 0, 0, 0, 0⟩,
    .mvfma ⟨1, 8, 16, 0, 0, 24, 0, 32, 0, 0, 0, 0, 0⟩,
    .mvdiv ⟨1, 8, 16, 0, 0, 24, 0, 0, 0, 0, 0, 0, 0⟩,
    .mvneg ⟨1, 8, 16, 0, 0, 0, 0, 0, 0, 0, 0, 0, 0⟩,
    .mvabs ⟨1, 8, 16, 0, 0, 0, 0, 0, 0, 0, 0, 0, 0⟩,
    .mvsf ⟨1, 8, 16, 0, 0, 0, 0, 0, 0, 0, 0, 0, 0⟩,
    .mvset ⟨1, 8, 16, 0, 0, 24, 0, 0, 0, 0, 0, 0, 0⟩,
    .mvvar ⟨1, 8, 16, 0, 0, 0, 0, 0, 0, 0, 0, 0, 0⟩,
    .svadd ⟨1, 8, 16, 0, 0, 24, 0, 0, 0, 0, 0, 0, 0⟩,
    .svsub ⟨1, 8, 16, 0, 0, 24, 0, 0, 0, 0, 0, 0, 0⟩,
    .svmul ⟨1, 8, 16, 0, 0, 24, 0, 0, 0, 0, 0, 0, 0⟩,
    .svfma ⟨1, 8, 16, 0, 0, 24, 0, 32, 0, 0, 0, 0, 0⟩] : List Instr),
    ∃ s e, LaneHand i s e := all_in_hand _ (laneS (thr [])) r0 (by decide +kernel)

theorem witness_DistributionForms_2 : ∀ i ∈ ([.svsf ⟨1, 8, 16, 0, 0, 0, 0, 0, 0, 0, 0, 0, 0⟩,
    .svstat ⟨1, 8, 16, 0, 0, 0, 0, 0, 0, 0, 0, 0, 0⟩,
    .svset ⟨1, 8, 16, 0, 0, 0, 0, 0, 0, 0, 0, 0, 0⟩] : List Instr),
    ∃ s e, LaneHand i s e := all_in_hand _ (laneS (thr [])) r0 (by decide +kernel)

theorem witness_VariancesAndConversions : ∀ i ∈ ([.add ⟨0, 8, 16, 24, 0, 0⟩,
    .cvt ⟨1, 8, 16, 0, 0, 0, 0, 0, 0, 0, 0, 0, 2⟩,
    .mvadd ⟨1, 8, 16, 0, 0, 24, 0, 0, 0, 0, 0, 0, 0⟩,
    .mvsub ⟨1, 8, 16, 0, 0, 24, 0, 0, 0, 0, 0, 0, 0⟩,
    .mvcvt ⟨1, 8, 16, 0, 0, 0, 0, 0, 0, 0, 0, 0, 2⟩,
    .svset ⟨1, 8, 16, 0, 0, 0, 0, 0, 0, 0, 0, 0, 0⟩] : List Instr),
    ∃ s e, LaneHand i s e := all_in_hand _ (laneS (thr [])) r0 (by decide +kernel)

theorem witness_RandomDraws : ∀ i ∈ ([.rnd ⟨1, 8, 0, 0, 0, 0, 0, 0, 0, 0, 0, 0, 0⟩,
    .rndf ⟨1, 8, 0, 0, 0, 0, 0, 0, 0, 0, 0, 0, 0⟩,
    .rndmask ⟨1, 8, 16, 0, 0, 0, 0, 0, 0, 0, 0, 0, 0⟩,
    .rndgauss ⟨1, 8, 0, 0, 0, 0, 0, 0, 0, 0, 0, 0, 0⟩,
    .rndskip ⟨1, 0, 16, 0, 0, 0, 0, 0, 0, 0, 0, 0, 0⟩,
    .rndget ⟨1, 8, 0, 0, 0, 0, 0, 0, 0, 0, 0, 0, 0⟩,
    .rndset ⟨1, 0, 16, 0, 0, 0, 0, 0, 0, 0, 0, 0, 0⟩,
    .hdig ⟨1, 8, 16, 0, 0, 0, 0, 0, 0, 0, 0, 0, 0⟩] : List Instr),
    ∃ s e, LaneHand i s e := all_in_hand _ (laneS (thr [])) r0 (by decide +kernel)

/-! Hypotheses of the statements about control, traps and system registers. -/

/-- A check that an address is a word of the code below its guard packet. -/
def inC (e : LaneEnv) (t : Int) : Bool :=
  decide ((e.b.code.word0 : Int) ≤ t ∧ t + 3 < (e.b.code.word0 : Int) + (e.b.code.words : Int))

theorem inC_true {e : LaneEnv} {t : Int} (h : inC e t = true) : inCode e t := by simpa [inC, inCode] using h

theorem inC_false {e : LaneEnv} {t : Int} (h : inC e t = false) : ¬inCode e t := by simpa [inC, inCode] using h

/-- A thread in a handler, with its saved address and cause. -/
def inHandler (pc : CodeAddr) (cause : Word) : Thread := { thr [] with inTrap := true, trapPc := pc, cause := cause }

/-- A thread on its carrel core. -/
def ejected : Thread := { thr [] with carrel := some 3 }

theorem witness_Branches_taken : ∃ s e, LaneHand (.bz ⟨0, 16, 8⟩) s e ∧ e.x 0 = 0 ∧ inCode e (e.pc.toNat + ((8 : BitVec 18).toInt)) :=
  met (laneS (thr [])) r0 (fun e => decide (e.x 0 = 0) && inC e (e.pc.toNat + ((8 : BitVec 18).toInt))) (by decide +kernel)
    fun _ h => by simp only [Bool.and_eq_true, decide_eq_true_eq] at h; exact ⟨h.1, inC_true h.2⟩

theorem witness_Branches_outside : ∃ s e, LaneHand (.bra ⟨0, 0, 9⟩) s e ∧ ¬inCode e (e.pc.toNat + ((9 : BitVec 18).toInt)) :=
  met (laneS (thr [])) r0 (fun e => !inC e (e.pc.toNat + ((9 : BitVec 18).toInt))) (by decide +kernel)
    fun _ h => inC_false (by simpa using h)

theorem witness_Branches_not_taken : ∃ s e, LaneHand (.bnz ⟨0, 16, 8⟩) s e ∧ e.x 0 = 0 :=
  met (laneS (thr [])) r0 (fun e => decide (e.x 0 = 0)) (by decide +kernel) fun _ h => of_decide_eq_true h

theorem witness_Branches_call : ∃ s e, LaneHand (.call ⟨0, 8, 0x3FFFF⟩) s e ∧ ¬inCode e (e.pc.toNat + ((0x3FFFF : BitVec 18).toInt)) :=
  met (laneS (thr [])) r0 (fun e => !inC e (e.pc.toNat + ((0x3FFFF : BitVec 18).toInt))) (by decide +kernel)
    fun _ h => inC_false (by simpa using h)

theorem witness_Branches_indirect : (∃ s e, LaneHand (.ret ⟨0, 0, 16, 0, 0, 0⟩) s e ∧ inCode e (e.pair 0).toNat ∧ ((e.pair 0).toNat : Int) < 2 ^ 48) ∧
    ∃ s e, LaneHand (.callr ⟨1, 8, 16, 0, 0, 0, 0, 0, 0, 0, 0, 0, 0⟩) s e ∧ ¬(inCode e (e.pair 0).toNat ∧ ((e.pair 0).toNat : Int) < 2 ^ 48) :=
  ⟨met (laneS (thr [(16, 0xC008)])) r0 (fun e => inC e (e.pair 0).toNat && decide (((e.pair 0).toNat : Int) < 2 ^ 48)) (by decide +kernel)
    fun _ h => by simp only [Bool.and_eq_true, decide_eq_true_eq] at h; exact ⟨inC_true h.1, h.2⟩,
  met (laneS (thr [(16, 0xC000), (17, 0x10000)])) r0 (fun e => !inC e (e.pair 0).toNat) (by decide +kernel)
    fun _ h c => inC_false (by simpa using h) c.1⟩

theorem witness_Branches_long : (∃ s e, LaneHand (.bzLong ⟨1, 0, 16, 0, 0, 0, 3, 2⟩) s e ∧ e.x 0 = 0 ∧ inCode e (e.pc.toNat + ((3 : BitVec 18).toInt))) ∧
    (∃ s e, LaneHand (.bnzLong ⟨1, 0, 16, 0, 0, 0, 3, 2⟩) s e ∧ ¬e.x 0 ≠ 0) ∧
    ∃ s e, LaneHand (.bnzLong ⟨1, 0, 16, 0, 0, 0, 9, 2⟩) s e ∧ e.x 0 ≠ 0 ∧ ¬inCode e (e.pc.toNat + ((9 : BitVec 18).toInt)) :=
  ⟨met (laneS (thr [])) r0 (fun e => decide (e.x 0 = 0) && inC e (e.pc.toNat + ((3 : BitVec 18).toInt))) (by decide +kernel)
    fun _ h => by simp only [Bool.and_eq_true, decide_eq_true_eq] at h; exact ⟨h.1, inC_true h.2⟩,
  met (laneS (thr [])) r0 (fun e => decide (¬e.x 0 ≠ 0)) (by decide +kernel) fun _ h => of_decide_eq_true h,
  met (laneS (thr [(16, 1)])) r0 (fun e => decide (e.x 0 ≠ 0) && !inC e (e.pc.toNat + ((9 : BitVec 18).toInt))) (by decide +kernel)
    fun _ h => by simp only [Bool.and_eq_true, decide_eq_true_eq] at h; exact ⟨h.1, inC_false (by simpa using h.2)⟩⟩

theorem witness_RejoinEjectAndEnd_hands : (∃ s e, LaneHand .rejoin s e ∧ e.th.carrel = none ∧ e.th.chain = []) ∧
    (∃ s e, LaneHand .rejoin s e ∧ e.th.carrel ≠ none ∧ e.th.late = true ∧ e.pc ∈ e.th.lateRp) ∧
    (∃ s e, LaneHand .reform s e ∧ e.th.carrel ≠ none) ∧ (∃ s e, LaneHand .reform s e ∧ e.th.carrel = none ∧ s.binFree e.b e.j = true) ∧
    (∃ s e, LaneHand (.grant ⟨0, 8, 0, 0, 64⟩) s e ∧ e.th.carrel = none) ∧ (∃ s e, LaneHand (.grant ⟨0, 8, 0, 0, 8⟩) s e ∧ e.th.carrel ≠ none) ∧
    (∃ s e, LaneHand (.setpri ⟨0, 0, 0, 0, 15⟩) s e) ∧ (∃ s e, LaneHand .yield s e) ∧
    (∃ s e, LaneHand .exitOp s e ∧ e.th.st = 0 ∧ ∀ x ∈ s.sideLog, x.who ≠ e.r) ∧ (∃ s e, LaneHand .exitOp s e ∧ e.th.st ≠ 0) ∧
    ∃ s e, LaneHand .endOp s e ∧ e.th.st = 0 ∧ e.th.cp = [] ∧ e.th.tl = [] :=
  ⟨met (laneS (thr [])) r0 (fun e => decide (e.th.carrel = none ∧ e.th.chain = [])) (by decide +kernel) fun _ h => of_decide_eq_true h,
  met (laneS { ejected with late := true, lateRp := [BitVec.ofNat 48 fetchBase] }) r0
    (fun e => decide (e.th.carrel ≠ none ∧ e.th.late = true ∧ e.pc ∈ e.th.lateRp)) (by decide +kernel) fun _ h => of_decide_eq_true h,
  met (laneS ejected) r0 (fun e => decide (e.th.carrel ≠ none)) (by decide +kernel) fun _ h => of_decide_eq_true h,
  met (laneS (thr [])) r0 (fun e => decide (e.th.carrel = none ∧ (laneS (thr [])).binFree e.b e.j = true)) (by decide +kernel) fun _ h => of_decide_eq_true h,
  met (laneS (thr [])) r0 (fun e => decide (e.th.carrel = none)) (by decide +kernel) fun _ h => of_decide_eq_true h,
  met (laneS ejected) r0 (fun e => decide (e.th.carrel ≠ none)) (by decide +kernel) fun _ h => of_decide_eq_true h,
  inHand (laneS (thr [])) r0 (by decide +kernel), inHand (laneS (thr [])) r0 (by decide +kernel),
  met (laneS (thr [])) r0 (fun e => decide (e.th.st = 0 ∧ ∀ x ∈ (laneS (thr [])).sideLog, x.who ≠ e.r)) (by decide +kernel) fun _ h => of_decide_eq_true h,
  met (laneS { thr [] with st := 1 }) r0 (fun e => decide (e.th.st ≠ 0)) (by decide +kernel) fun _ h => of_decide_eq_true h,
  met (laneS (thr [])) r0 (fun e => decide (e.th.st = 0 ∧ e.th.cp = [] ∧ e.th.tl = [])) (by decide +kernel) fun _ h => of_decide_eq_true h⟩

/-- A machine with two threads at a rejoin address, of which the second has arrived. -/
def rejoinS (arrived : List Nat) (second : TStatus) : State :=
  let ths : List Thread := [{ thr [] with chain := [5] }, { thr [] with chain := [5], status := second }]
  let s := blockS ths (.start (BitVec.ofNat 48 fetchBase)) (.lane ⟨1, 0⟩) (BitVec.ofNat 48 fetchBase)
  { s with blocks := s.blocks.map fun (b : Block) => { b with recs := [⟨5, 0, BitVec.ofNat 48 fetchBase, [0, 1], arrived, [], some 7⟩] } }

theorem witness_RejoinEjectAndEnd_record : (∃ s e, LaneHand .rejoin s e ∧ e.th.carrel = none ∧ ∃ x ∈ e.b.recs, e.th.chain = [x.id] ∧ x.rp = e.pc ∧
      (e.b.recs.filter fun y => y.id = x.id) = [x] ∧ e.r.t ∈ x.members ∧ e.r.t ∉ x.arrived ∧ e.r.t ∉ x.removed ∧
      ∀ m ∈ x.members, m = e.r.t ∨ m ∈ x.arrived ∨ m ∈ x.removed) ∧
    ∃ s e, LaneHand .rejoin s e ∧ e.th.carrel = none ∧ ∃ x ∈ e.b.recs, e.th.chain = [x.id] ∧ x.rp = e.pc ∧ e.r.t ∈ x.members ∧ e.r.t ∉ x.arrived ∧
      e.r.t ∉ x.removed ∧ ∃ m ∈ x.members, m ≠ e.r.t ∧ m ∉ x.arrived ∧ m ∉ x.removed :=
  ⟨met (rejoinS [1] (.wait (.rejoin 5))) r0 (fun e => decide (e.th.carrel = none ∧ ∃ x ∈ e.b.recs, e.th.chain = [x.id] ∧ x.rp = e.pc ∧
      (e.b.recs.filter fun y => y.id = x.id) = [x] ∧ e.r.t ∈ x.members ∧ e.r.t ∉ x.arrived ∧ e.r.t ∉ x.removed ∧
      ∀ m ∈ x.members, m = e.r.t ∨ m ∈ x.arrived ∨ m ∈ x.removed)) (by decide +kernel) fun _ h => of_decide_eq_true h,
  met (rejoinS [] .ready) r0 (fun e => decide (e.th.carrel = none ∧ ∃ x ∈ e.b.recs, e.th.chain = [x.id] ∧ x.rp = e.pc ∧ e.r.t ∈ x.members ∧
      e.r.t ∉ x.arrived ∧ e.r.t ∉ x.removed ∧ ∃ m ∈ x.members, m ≠ e.r.t ∧ m ∉ x.arrived ∧ m ∉ x.removed)) (by decide +kernel)
    fun _ h => of_decide_eq_true h⟩

/-- An option that holds something. -/
theorem there {α : Type} {o : Option α} {d : α} (h : o.isSome = true) : o = some (o.getD d) := by
  cases o with
  | none => cases h
  | some x => rfl

/-- The block of a machine of one thread. -/
theorem has_thread (th : Thread) : (laneS th).block? 1 = some { fetchBlock 1 with threads := [th], loc := 4096 } := by
  simp [laneS, State.block?, fetchBlock]

/-- The lead context of a machine. -/
theorem has_lead (l : Lead) : (leadS l).lead? l0 = some l := rfl

/-- Its block. -/
theorem has_lead_block (l : Lead) : ∃ b, (leadS l).block? 1 = some b := ⟨_, rfl⟩

/-- A machine in which a group in hand has an unhandled trap to settle, and an operation of its lead context is outstanding. -/
def killS : State :=
  let s := laneS (thr [])
  { s with
    issue := { s.issue with kills := [(fetchBlock 1).nodeRef] }
    ops := [⟨9, .agent (.lead l0), 1023, .a, 0, none, 7, .copy (.glob 0) (.glob 64) 0 none, [], [], [], [], .registered, ⟨0, 0, 0, 0⟩, false, []⟩] }

theorem witness_TrapsTaken : (∃ (s : State) (r : ThreadRef) (b : Block) (th : Thread), s.block? r.block = some b ∧ b.threads[r.t]? = some th ∧
      th.status ≠ .ended ∧ th.trapVec ≠ 0 ∧ th.inTrap = false) ∧
    (∃ (s : State) (r : ThreadRef) (b : Block) (th : Thread), s.block? r.block = some b ∧ b.threads[r.t]? = some th ∧ th.status ≠ .ended ∧
      (th.trapVec = 0 ∨ th.inTrap = true) ∧ recordReaches s b.nodeRef 0x40 32 ∧ s.issue.rest = []) ∧
    (∃ (s : State) (n : NodeRef) (q : Block), n ∈ s.issue.kills ∧ s.settleKills.block? 1 = some q ∧ q.nodeRef = n) ∧
    ∃ (s : State) (r : LeadRef) (b : Block) (l : Lead), s.block? r.block = some b ∧ s.lead? r = some l ∧ l.s[495] ≠ 0 ∧ l.inTrap = false :=
  ⟨⟨laneS { thr [] with trapVec := 3 }, r0, _, _, has_thread _, rfl, by decide, by decide, rfl⟩,
  ⟨{ laneS (thr []) with ctxs := [] }, r0, _, _, has_thread _, rfl, by decide, .inl rfl, fun _ h => absurd h (by simp [State.ctx?]), rfl⟩,
  ⟨killS, (fetchBlock 1).nodeRef, (killS.settleKills.block? 1).getD (fetchBlock 1), by decide +kernel, there (by decide +kernel), by decide +kernel⟩,
  let ⟨b, hb⟩ := has_lead_block (leadAt [(495, 3)])
  ⟨leadS (leadAt [(495, 3)]), l0, b, leadAt [(495, 3)], hb, has_lead _, by decide +kernel, rfl⟩⟩

theorem witness_TrapsRaisedAndReturned : (∃ s e, LaneHand (.swtrap ⟨1, 0, 0, 0, 0, 255⟩) s e) ∧
    (∃ s e, LaneHand (.breakOp ⟨1, 0, 0, 0, 0, 0, 0, 0, 0, 0, 0, 0, 0⟩) s e ∧ e.th.pass = false ∧ s.debugged e.b.ctx = false) ∧
    (∃ s e, LaneHand (.breakOp ⟨1, 0, 0, 0, 0, 0, 0, 0, 0, 0, 0, 0, 0⟩) s e ∧ e.th.pass = false ∧ s.debugged e.b.ctx = true) ∧
    (∃ s e, LaneHand (.breakOp ⟨1, 0, 0, 0, 0, 0, 0, 0, 0, 0, 0, 0, 0⟩) s e ∧ e.th.pass = true) ∧
    (∃ s e, LaneHand (.rte ⟨1, 0, 0, 0, 0, 0, 0, 0, 0, 0, 0, 0, 0⟩) s e ∧ e.th.inTrap = false) ∧
    (∃ s e, LaneHand (.rte ⟨1, 0, 0, 0, 0, 0, 0, 0, 0, 0, 0, 0, 0⟩) s e ∧ e.th.inTrap = true ∧ e.th.cause.toNat % 256 = 0x13 ∧ e.th.cause.getLsbD 19 = false) ∧
    (∃ s e, LaneHand (.rte ⟨1, 0, 0, 0, 0, 0, 0, 0, 0, 0, 0, 0, 0⟩) s e ∧ e.th.inTrap = true ∧ ¬(e.th.cause.toNat % 256 = 0x13) ∧
      inCode e e.th.trapPc.toNat ∧ e.b.stage ≠ .resuming) ∧
    ∃ s e, LaneHand (.rte ⟨1, 0, 0, 0, 0, 0, 0, 0, 0, 0, 0, 0, 0⟩) s e ∧ e.th.inTrap = true ∧ ¬(e.th.cause.toNat % 256 = 0x13) ∧ ¬inCode e e.th.trapPc.toNat :=
  ⟨inHand (laneS (thr [])) r0 (by decide +kernel),
  met (laneS (thr [])) r0 (fun e => decide (e.th.pass = false ∧ (laneS (thr [])).debugged e.b.ctx = false)) (by decide +kernel) fun _ h => of_decide_eq_true h,
  met { laneS (thr []) with dbg := { Dbg.reset with cfg := 0x7FF } } r0
    (fun e => decide (e.th.pass = false ∧ ({ laneS (thr []) with dbg := { Dbg.reset with cfg := 0x7FF } } : State).debugged e.b.ctx = true)) (by decide +kernel)
    fun _ h => of_decide_eq_true h,
  met (laneS { thr [] with pass := true }) r0 (fun e => decide (e.th.pass = true)) (by decide +kernel) fun _ h => of_decide_eq_true h,
  met (laneS (thr [])) r0 (fun e => decide (e.th.inTrap = false)) (by decide +kernel) fun _ h => of_decide_eq_true h,
  met (laneS (inHandler 0xC001 0x13)) r0 (fun e => decide (e.th.inTrap = true ∧ e.th.cause.toNat % 256 = 0x13 ∧ e.th.cause.getLsbD 19 = false)) (by decide +kernel)
    fun _ h => of_decide_eq_true h,
  met (laneS (inHandler 0xC008 0x10)) r0 (fun e => decide (e.th.inTrap = true ∧ ¬(e.th.cause.toNat % 256 = 0x13) ∧ e.b.stage ≠ .resuming) &&
      inC e e.th.trapPc.toNat) (by decide +kernel) fun _ h => by
    simp only [Bool.and_eq_true, decide_eq_true_eq] at h
    exact ⟨h.1.1, h.1.2.1, inC_true h.2, h.1.2.2⟩,
  met (laneS (inHandler 0xC009 0x10)) r0 (fun e => decide (e.th.inTrap = true ∧ ¬(e.th.cause.toNat % 256 = 0x13)) && !inC e e.th.trapPc.toNat) (by decide +kernel)
    fun _ h => by
      simp only [Bool.and_eq_true, decide_eq_true_eq] at h
      exact ⟨h.1.1, h.1.2, inC_false (by simpa using h.2)⟩⟩

theorem witness_TrapsRaisedAndReturned_lead : (∃ s e, LeadHand (.leadSwtrap ⟨1, 0, 0, 0, 255⟩) s e) ∧
    (∃ s e, LeadHand (.leadBreak ⟨1, 0, 0, 0, 0, 0, 0, 0⟩) s e ∧ e.l.pass = false ∧ s.debugged e.b.ctx = false) ∧
    (∃ s e, LeadHand (.lrte ⟨1, 0, 0, 0, 0, 0, 0, 0⟩) s e ∧ e.l.inTrap = false) ∧
    ∃ s e, LeadHand (.lrte ⟨1, 0, 0, 0, 0, 0, 0, 0⟩) s e ∧ e.l.inTrap = true ∧ ¬(e.l.cause.toNat % 256 = 0x13) ∧ e.b.code.word0 ≤ (e.l.lk[1]).toNat ∧
      (e.l.lk[1]).toNat + 3 < e.b.code.word0 + e.b.code.words ∧ e.b.stage ≠ .resuming :=
  ⟨by obtain ⟨s, e, h, -⟩ := metLead (i := .leadSwtrap ⟨1, 0, 0, 0, 255⟩) (P := fun _ _ => True) (leadS (leadAt [])) l0 (fun _ => true) (by decide +kernel) fun _ _ => trivial; exact ⟨s, e, h⟩,
  metLead (leadS (leadAt [])) l0 (fun e => decide (e.l.pass = false ∧ (leadS (leadAt [])).debugged e.b.ctx = false)) (by decide +kernel)
    fun _ h => of_decide_eq_true h,
  metLead (leadS (leadAt [])) l0 (fun e => decide (e.l.inTrap = false)) (by decide +kernel) fun _ h => of_decide_eq_true h,
  metLead (leadS { leadAt [] with inTrap := true, lk := (Vector.replicate 8 (0 : Dword)).set! 1 0xC008 }) l0
    (fun e => decide (e.l.inTrap = true ∧ ¬(e.l.cause.toNat % 256 = 0x13) ∧ e.b.code.word0 ≤ (e.l.lk[1]).toNat ∧
      (e.l.lk[1]).toNat + 3 < e.b.code.word0 + e.b.code.words ∧ e.b.stage ≠ .resuming)) (by decide +kernel) fun _ h => of_decide_eq_true h⟩

theorem witness_SystemRegisters : (∃ s e, LaneHand (.rdsr ⟨0, 8, 0, 0, 0x1D⟩) s e ∧ (0x1D, e.th.key.toNat / 2 ^ 32) ∈ sysRegs e) ∧
    (∃ s e, LaneHand (.rdsrLong ⟨1, 8, 0, 0, 0, 0, 0, 0, 0, 0, 0, 0, 0x40⟩) s e) ∧ (∃ s e, LaneHand (.rdsr ⟨0, 8, 0, 0, 0⟩) s e) ∧
    (∃ s e, LaneHand (.wrsr ⟨0, 0, 16, 0, 0x17⟩) s e ∧ (e.x 0).toNat % 3 = 0 ∧ (e.x 0).toNat + 3 < e.b.code.words ∧ e.x 0 ≠ 0) ∧
    (∃ s e, LaneHand (.wrsr ⟨0, 0, 16, 0, 0x17⟩) s e ∧ ¬(e.x 0 = 0 ∨ ((e.x 0).toNat % 3 = 0 ∧ (e.x 0).toNat + 3 < e.b.code.words))) ∧
    (∃ s e, LaneHand (.wrsrLong ⟨1, 0, 16, 0, 0, 0, 0, 0, 0, 0, 0, 0, 0x01⟩) s e) ∧ (∃ s e, LaneHand (.rdcyc ⟨1, 8, 0, 0, 0, 0, 0, 0, 0, 0, 0, 0, 0⟩) s e) ∧
    (∃ s e, LeadHand (.leadWrsr ⟨1, 0, 0x40, 0, 16, 0, 0, 0⟩) s e ∧ e.b.ctx ≠ 0) ∧
    ∃ s e, LeadHand (.leadWrsr ⟨1, 0, 0x40, 0, 16, 0, 0, 0⟩) s e ∧ e.b.ctx = 0 :=
  ⟨met (laneS (thr [])) r0 (fun _ => true) (by decide +kernel) fun _ _ => by simp [sysRegs],
  inHand (laneS (thr [])) r0 (by decide +kernel), inHand (laneS (thr [])) r0 (by decide +kernel),
  met (laneS (thr [(16, 6)])) r0 (fun e => decide ((e.x 0).toNat % 3 = 0 ∧ (e.x 0).toNat + 3 < e.b.code.words ∧ e.x 0 ≠ 0)) (by decide +kernel)
    fun _ h => of_decide_eq_true h,
  met (laneS (thr [(16, 9)])) r0 (fun e => decide (¬(e.x 0 = 0 ∨ ((e.x 0).toNat % 3 = 0 ∧ (e.x 0).toNat + 3 < e.b.code.words)))) (by decide +kernel)
    fun _ h => of_decide_eq_true h,
  inHand (laneS (thr [])) r0 (by decide +kernel), inHand (laneS (thr [])) r0 (by decide +kernel),
  metLead (leadS (leadAt [])) l0 (fun e => decide (e.b.ctx ≠ 0)) (by decide +kernel) fun _ h => of_decide_eq_true h,
  metLead (let s := leadS (leadAt []); { s with blocks := s.blocks.map fun (b : Block) => { b with ctx := 0 } }) l0 (fun e => decide (e.b.ctx = 0))
    (by decide +kernel) fun _ h => of_decide_eq_true h⟩

theorem witness_WordsOfNoForm : (∃ (s : State) (r : LeadRef) (l : Lead), s.issue.agent = some (.lead r) ∧ s.lead? r = some l ∧ l.pc.toNat + 1 < 2 ^ 48) ∧
    (∃ s e, LaneHand (.nop ⟨0, 0⟩) s e) ∧ (∃ s e, LaneHand (.guard ⟨1, 9, 1, 0⟩) s e) ∧ ∃ (s : State) (r : ThreadRef), s.issue.agent = some (.lane r) :=
  ⟨⟨leadS (leadAt []), l0, leadAt [], rfl, has_lead _, by decide +kernel⟩,
  inHand (laneS (thr [])) r0 (by decide +kernel), inHand (laneS (thr [])) r0 (by decide +kernel), laneS (thr []), r0, rfl⟩

theorem witness_DecodeTrapsFirst : LaneForm (.add ⟨0, 8, 16, 24, 0, 0⟩) ∧ LaneForm (.ldLong ⟨1, 8, 16, 0, 0, 0, 0, 0, 0, 2, 4⟩) ∧
    (shape (.leadAdd ⟨1, 0, 0, 0, 0, 0, 0, 0⟩)).pipe = .lead ∧ (leadShape (.leadAdd ⟨1, 0, 0, 0, 0, 0, 0, 1⟩)).ok = false ∧
    (leadShape (.leadAdd ⟨1, 0, 0, 1, 0, 0, 0, 0⟩)).packet = true ∧ (shape (.add ⟨1, 8, 16, 24, 0, 3⟩)).ok = true ∧
    (∃ x ∈ (shape (.add ⟨1, 8, 16, 24, 0, 3⟩)).srcs, x.kind = 0 ∧ x.hint = 3) ∧ (shape (.addLong ⟨0, 8, 16, 0, 0, 24, 0, 0, 0, 0, 0, 0, 0⟩)).ok = false ∧
    regsOk 16 false (shape (.add ⟨0, 16, 0, 0, 0, 0⟩)).d 1 = false ∧ (shape (.rdsr ⟨0, 8, 0, 0, 0x1F⟩)).lim = false ∧
    (popsOf ⟨0, 0, leadAt [], [], .start, []⟩ 0 (thr []) (shape (.addLong ⟨1, 8, 8, 0, 0, 24, 0, 0, 0, 2, 0, 0, 0⟩)).queues) = (none, true) ∧
    ∃ e, LaneHand (.add ⟨0, 8, 16, 24, 0, 0⟩) { laneS (thr []) with issue := { (laneS (thr [])).issue with guard := none } } e := by
  have lane (i : Instr) (h1 : encode i ≠ []) (h2 : (shape i).pipe ≠ .lead) (h3 : ∀ f, i ≠ .nop f) (h4 : ∀ f, i ≠ .guardWord f)
      (h5 : ∀ w x, i ≠ .unassignedEncoding w x) : LaneForm i := ⟨h1, h2, h3, h4, h5⟩
  refine ⟨lane _ (by decide) (by decide) (by simp) (by simp) (by simp), lane _ (by decide) (by decide) (by simp) (by simp) (by simp), by decide, by decide,
    by decide, by decide, by decide, by decide, by decide, by decide, by decide +kernel, ?_⟩
  refine ⟨envOf _ r0 _ (thr []) _, rfl, has_thread _, rfl, rfl, rfl, ⟨rfl, by decide +kernel⟩, rfl, rfl, rfl, by decide +kernel, by decide +kernel, by decide, by decide⟩

/-! Hypotheses of the statements about cross-lane forms, memory, fences, waits, mailboxes. -/

/-- An extent of three pages: the first is mapped at 0x100000, the second absent, the third without a leaf. -/
def ext0 : Extent := ⟨false, true, true, 0x10000, 1, 0x30000, 0, [⟨0x10000, 0x20000, .mapped 0x100000 0⟩, ⟨0x20000, 0x30000, .absent⟩]⟩

/-- The node whose block runs. -/
def node0 : RNode :=
  { idx := 0, phase := .running, preds := 0, die := .a, order := 0, entered := 0, cls := 0, passed := none, blocking := false, exts := [ext0],
    translated := true, code := 0x2F000, blocks := 1, nextBlock := 1, clusterDie := none, again := [], ended := 0, status := none, op := none, clk := [], ends := [] }

/-- The machine with a thread in hand whose node has that extent. -/
def memS (th : Thread) : State := { laneS th with replays := [⟨1023, 0, 1, 0, 0, [node0]⟩] }

/-- A check of what an access comes to. -/
def chkIs (s : State) (e : LaneEnv) (va n level : Nat) (need : Need) (c : Chk) : Bool := decide (s.chk e.acor va n need level n = c)

theorem witness_LocalMemoryForms : (∃ s e, LaneHand (.ldl ⟨0, 8, 16, 0, 4⟩) s e ∧ localAddr e 4 = 4092 ∧ localAddr e 4 % 4 = 0 ∧ localThere e (localAddr e 4) 4 ∧
      s.lock e.acor.skip (.loc e.b.id (localAddr e 4) 4) < 2) ∧
    (∃ s e, LaneHand (.stlLong ⟨1, 0, 16, 0, 0, 24, 0, 0, 0, 4, 0⟩) s e ∧ localAddr e 0 % 16 = 0 ∧ localThere e (localAddr e 0) 16) ∧
    (∃ s e, LaneHand (.ldlLong ⟨1, 8, 16, 0, 0, 0, 0, 0, 0, 3, 4⟩) s e ∧ localAddr e 4 % 8 ≠ 0) ∧
    (∃ s e, LaneHand (.stl ⟨0, 8, 16, 0, 0⟩) s e ∧ localAddr e 0 % 4 = 0 ∧ ¬localThere e (localAddr e 0) 4) ∧
    (∃ s e, LaneHand (.atoml ⟨1, 8, 16, 0, 0, 24, 0, 0, 0, 0x20, 0⟩) s e ∧ e.th.st ≠ 0) ∧
    ∃ s e, LaneHand (.atoml ⟨1, 8, 16, 0, 0, 24, 0, 0, 0, 0x39, 0⟩) s e ∧ e.th.st = 0 ∧ ∀ x ∈ s.sideLog, x.who ≠ e.r :=
  ⟨met (laneS (thr [(16, 4088)])) r0 (fun e => decide (localAddr e 4 = 4092 ∧ localAddr e 4 % 4 = 0 ∧
      (localAddr e 4 < 2 ^ 23 ∧ localAddr e 4 / 2 ^ 18 < e.b.shares.length ∧ localAddr e 4 % 2 ^ 18 + 4 ≤ e.b.loc) ∧
      (laneS (thr [(16, 4088)])).lock e.acor.skip (.loc e.b.id (localAddr e 4) 4) < 2)) (by decide +kernel) fun _ h => by simpa [localThere] using h,
  met (laneS (thr [(16, 4080)])) r0 (fun e => decide (localAddr e 0 % 16 = 0 ∧
      localAddr e 0 < 2 ^ 23 ∧ localAddr e 0 / 2 ^ 18 < e.b.shares.length ∧ localAddr e 0 % 2 ^ 18 + 16 ≤ e.b.loc)) (by decide +kernel)
    fun _ h => by simpa [localThere] using h,
  met (laneS (thr [])) r0 (fun e => decide (localAddr e 4 % 8 ≠ 0)) (by decide +kernel) fun _ h => of_decide_eq_true h,
  met (laneS (thr [(16, 4096)])) r0 (fun e => decide (localAddr e 0 % 4 = 0 ∧ 4096 ≤ localAddr e 0 ∧ e.b.loc = 4096 ∧ localAddr e 0 < 2 ^ 18)) (by decide +kernel)
    fun _ h => by
      simp only [decide_eq_true_eq] at h
      refine ⟨h.1, fun c => ?_⟩
      have := c.2.2
      rw [Nat.mod_eq_of_lt h.2.2.2] at this
      omega,
  met (laneS { thr [] with st := 1 }) r0 (fun e => decide (e.th.st ≠ 0)) (by decide +kernel) fun _ h => of_decide_eq_true h,
  met (laneS (thr [])) r0 (fun e => decide (e.th.st = 0 ∧ ∀ x ∈ (laneS (thr [])).sideLog, x.who ≠ e.r)) (by decide +kernel) fun _ h => of_decide_eq_true h⟩

theorem witness_GlobalLoadsStoresChecked : (∃ s e, LaneHand (.ld ⟨0, 8, 16, 0, 0⟩) s e ∧ s.chk e.acor (globalAddr e 0) 4 .load 2 4 = .ok 0x10FFFC ∧
      ¬(s.logHas e.acor (globalAddr e 0) = true ∨ 63 ≤ e.th.ld)) ∧
    (∃ s e, LaneHand (.ldLong ⟨1, 8, 16, 0, 0, 0, 0, 0, 0, 4, 0⟩) s e ∧ s.chk e.acor (globalAddr e 0) 16 .load 2 16 = .ok 0x10FFF0 ∧ 63 ≤ e.th.ld) ∧
    (∃ s e, LaneHand (.ld ⟨0, 8, 16, 0, 0⟩) s e ∧ s.chk e.acor (globalAddr e 0) 4 .load 2 4 = .absent) ∧
    (∃ s e, LaneHand (.ld ⟨0, 8, 16, 0, 0⟩) s e ∧ s.chk e.acor (globalAddr e 0) 4 .load 2 4 = .fatal) ∧
    (∃ s e, LaneHand (.ld ⟨0, 8, 16, 0, 0⟩) s e ∧ s.chk e.acor (globalAddr e 0) 4 .load 2 4 = .trap (.sync 0x05 0 0x40000)) ∧
    (∃ s e, LaneHand (.st ⟨0, 8, 16, 0, 0⟩) s e ∧ s.chk e.acor (globalAddr e 0) 4 .store 1 4 = .ok 0x100000 ∧ s.logHas e.acor (globalAddr e 0) = false ∧
      e.th.st < 63) ∧
    (∃ s e, LaneHand (.stLong ⟨1, 0, 16, 0, 0, 24, 0, 0, 0, 3, 0⟩) s e ∧ s.chk e.acor (globalAddr e 0) 8 .store 1 8 = .absent ∧ s.logRoom e.acor = true) ∧
    ∃ s e, LaneHand (.gred ⟨1, 0, 16, 0, 0, 24, 0, 0, 0, 1, 0⟩) s e ∧ s.chk e.acor (globalAddr e 0) 4 .store 1 4 = .ok 0x100000 ∧ 63 ≤ e.th.st :=
  ⟨met (memS (thr [(16, 0x1FFFC)])) r0 (fun e => decide ((memS (thr [(16, 0x1FFFC)])).chk e.acor (globalAddr e 0) 4 .load 2 4 = .ok 0x10FFFC ∧
      ¬((memS (thr [(16, 0x1FFFC)])).logHas e.acor (globalAddr e 0) = true ∨ 63 ≤ e.th.ld))) (by decide +kernel) fun _ h => of_decide_eq_true h,
  met (memS { thr [(16, 0x1FFF0)] with ld := 63 }) r0
    (fun e => decide ((memS { thr [(16, 0x1FFF0)] with ld := 63 }).chk e.acor (globalAddr e 0) 16 .load 2 16 = .ok 0x10FFF0 ∧ 63 ≤ e.th.ld)) (by decide +kernel)
    fun _ h => of_decide_eq_true h,
  met (memS (thr [(16, 0x20000)])) r0 (fun e => chkIs (memS (thr [(16, 0x20000)])) e (globalAddr e 0) 4 2 .load .absent) (by decide +kernel)
    fun _ h => of_decide_eq_true h,
  met (memS (thr [(16, 0x3FFFC)])) r0 (fun e => chkIs (memS (thr [(16, 0x3FFFC)])) e (globalAddr e 0) 4 2 .load .fatal) (by decide +kernel)
    fun _ h => of_decide_eq_true h,
  met (memS (thr [(16, 0x40000)])) r0 (fun e => chkIs (memS (thr [(16, 0x40000)])) e (globalAddr e 0) 4 2 .load (.trap (.sync 0x05 0 0x40000)))
    (by decide +kernel) fun _ h => of_decide_eq_true h,
  met (memS (thr [(16, 0x10000)])) r0 (fun e => decide ((memS (thr [(16, 0x10000)])).chk e.acor (globalAddr e 0) 4 .store 1 4 = .ok 0x100000 ∧
      (memS (thr [(16, 0x10000)])).logHas e.acor (globalAddr e 0) = false ∧ e.th.st < 63)) (by decide +kernel) fun _ h => of_decide_eq_true h,
  met (memS (thr [(16, 0x2EFF8)])) r0 (fun e => decide ((memS (thr [(16, 0x2EFF8)])).chk e.acor (globalAddr e 0) 8 .store 1 8 = .absent ∧
      (memS (thr [(16, 0x2EFF8)])).logRoom e.acor = true)) (by decide +kernel) fun _ h => of_decide_eq_true h,
  met (memS { thr [(16, 0x10000)] with st := 63 }) r0
    (fun e => decide ((memS { thr [(16, 0x10000)] with st := 63 }).chk e.acor (globalAddr e 0) 4 .store 1 4 = .ok 0x100000 ∧ 63 ≤ e.th.st)) (by decide +kernel)
    fun _ h => of_decide_eq_true h⟩

theorem witness_GlobalLoadsStoresChecked_extents : ∃ (s : State) (a : Acor) (c : Ctx) (node : RNode) (va : Nat), s.ctx? a.b.ctx = some c ∧
    s.node? a.b.nodeRef = some node ∧ a.handler = false ∧ va % 4 = 0 ∧ va + 4 ≤ 2 ^ 56 ∧ (∃ x, node.exts = [] ++ x :: [] ∧ x.walked = false ∧ 4 ≤ x.reach va ∧ x.rd = true) :=
  ⟨memS (thr []), ⟨.lane r0, fetchBlock 1, 0, .core .a 0, false, false, false⟩, fetchCtx, node0, 0x10000, rfl, rfl, rfl, rfl, by decide, ext0, rfl, rfl,
    by decide, rfl⟩

theorem witness_GlobalAtomicsAndDiscards : (∃ s e, LaneHand (.atom ⟨1, 8, 16, 0, 0, 24, 0, 0, 0, 0, 0⟩) s e ∧
      s.chk e.acor (globalAddr e 0) 4 .both 1 4 = .ok 0x100000 ∧ s.logHas e.acor (globalAddr e 0) = false ∧ e.th.ld < 63) ∧
    (∃ s e, LaneHand (.atom ⟨1, 0, 16, 0, 0, 24, 0, 0, 0, 0x2F, 0⟩) s e ∧ s.chk e.acor (globalAddr e 0) 4 .store 1 4 = .ok 0x100000 ∧
      s.logHas e.acor (globalAddr e 0) = false ∧ e.th.st = 0 ∧ ∀ x ∈ s.sideLog, x.who ≠ e.r) ∧
    (∃ s e, LaneHand (.atom ⟨1, 8, 16, 0, 0, 24, 0, 0, 0, 0x20, 0⟩) s e ∧ s.chk e.acor (globalAddr e 0) 4 .both 1 4 = .ok 0x100000 ∧ e.th.st ≠ 0) ∧
    (∃ s e, LaneHand (.discard ⟨0, 0, 16, 0, 0⟩) s e ∧ s.chk e.acor (globalAddr e 0) 128 .store 1 128 = .ok 0x100000 ∧ e.th.st < 63) ∧
    ∃ s e, LaneHand (.discardLong ⟨1, 0, 16, 0, 0, 0, 0, 0, 0, 0, 0⟩) s e ∧ s.chk e.acor (globalAddr e 0) 128 .store 1 128 = .absent :=
  ⟨met (memS (thr [(16, 0x10000)])) r0 (fun e => decide ((memS (thr [(16, 0x10000)])).chk e.acor (globalAddr e 0) 4 .both 1 4 = .ok 0x100000 ∧
      (memS (thr [(16, 0x10000)])).logHas e.acor (globalAddr e 0) = false ∧ e.th.ld < 63)) (by decide +kernel) fun _ h => of_decide_eq_true h,
  met (memS (thr [(16, 0x10000)])) r0 (fun e => decide ((memS (thr [(16, 0x10000)])).chk e.acor (globalAddr e 0) 4 .store 1 4 = .ok 0x100000 ∧
      (memS (thr [(16, 0x10000)])).logHas e.acor (globalAddr e 0) = false ∧ e.th.st = 0 ∧ ∀ x ∈ (memS (thr [(16, 0x10000)])).sideLog, x.who ≠ e.r))
    (by decide +kernel) fun _ h => of_decide_eq_true h,
  met (memS { thr [(16, 0x10000)] with st := 1 }) r0 (fun e => decide ((memS { thr [(16, 0x10000)] with st := 1 }).chk e.acor (globalAddr e 0) 4 .both 1 4 =
      .ok 0x100000 ∧ e.th.st ≠ 0)) (by decide +kernel) fun _ h => of_decide_eq_true h,
  met (memS (thr [(16, 0x10000)])) r0 (fun e => decide ((memS (thr [(16, 0x10000)])).chk e.acor (globalAddr e 0) 128 .store 1 128 = .ok 0x100000 ∧ e.th.st < 63))
    (by decide +kernel) fun _ h => of_decide_eq_true h,
  met (memS (thr [(16, 0x20000)])) r0 (fun e => chkIs (memS (thr [(16, 0x20000)])) e (globalAddr e 0) 128 1 .store .absent) (by decide +kernel)
    fun _ h => of_decide_eq_true h⟩

theorem witness_FencesAndCounterWaits : (∃ s e, LaneHand (.fence ⟨1, 0, 0, 0, 0, 0, 0, 0, 0, 3, 0⟩) s e ∧ e.th.st = 0 ∧ e.th.ld = 0 ∧ (∀ x ∈ s.sideLog, x.who ≠ e.r) ∧
      ∀ l ∈ s.loads, l.who ≠ .lane e.r) ∧
    (∃ s e, LaneHand (.fence ⟨1, 0, 0, 0, 0, 0, 0, 0, 0, 2, 0⟩) s e ∧ e.th.st ≠ 0) ∧
    (∃ s e, LaneHand (.waitc ⟨1, 0, 0, 0, 0, 0⟩) s e ∧ e.th.ld ≤ 0 ∧ e.th.st ≤ 0) ∧ (∃ s e, LaneHand (.waitc ⟨1, 0, 0, 0, 0, 0x3F⟩) s e ∧ ¬e.th.st ≤ 0x3F / 2 ^ 6 % 2 ^ 6) ∧
    (∃ s e, LaneHand (.cwait ⟨1, 8, 16, 0, 0, 24, 0, 0, 0, 0, 0, 0, 0⟩) s e ∧ (e.x 0).toNat < 2 ^ 14 ∧ ∃ c, s.counter? .a 5 = some c ∧ c.ctx = e.b.ctx ∧
      (e.x 0).toNat % 2 ^ 13 = 5 ∧ (e.x 1).toNat ≤ c.val.toNat) ∧
    (∃ s e, LaneHand (.cwait ⟨1, 8, 16, 0, 0, 24, 0, 0, 0, 0, 0, 0, 0⟩) s e ∧ 2 ^ 14 ≤ (e.x 0).toNat) ∧
    ∃ s e, LaneHand (.cwait ⟨1, 8, 16, 0, 0, 24, 0, 0, 0, 0, 0, 0, 1⟩) s e ∧ (e.x 0).toNat < 2 ^ 14 ∧ s.counter? .a ((e.x 0).toNat % 2 ^ 13) = none :=
  ⟨met (laneS (thr [])) r0 (fun e => decide (e.th.st = 0 ∧ e.th.ld = 0 ∧ (∀ x ∈ (laneS (thr [])).sideLog, x.who ≠ e.r) ∧
      ∀ l ∈ (laneS (thr [])).loads, l.who ≠ .lane e.r)) (by decide +kernel) fun _ h => of_decide_eq_true h,
  met (laneS { thr [] with st := 1 }) r0 (fun e => decide (e.th.st ≠ 0)) (by decide +kernel) fun _ h => of_decide_eq_true h,
  met (laneS (thr [])) r0 (fun e => decide (e.th.ld ≤ 0 ∧ e.th.st ≤ 0)) (by decide +kernel) fun _ h => of_decide_eq_true h,
  met (laneS { thr [] with st := 1 }) r0 (fun e => decide (¬e.th.st ≤ 0x3F / 2 ^ 6 % 2 ^ 6)) (by decide +kernel) fun _ h => of_decide_eq_true h,
  met { laneS (thr [(16, 5), (24, 7)]) with counters := [⟨.a, 5, 1023, 7, .none⟩] } r0
    (fun e => decide ((e.x 0).toNat < 2 ^ 14 ∧ e.b.ctx = 1023 ∧ (e.x 0).toNat % 2 ^ 13 = 5 ∧ (e.x 1).toNat ≤ 7)) (by decide +kernel)
    fun _ h => by simp only [decide_eq_true_eq] at h; exact ⟨h.1, ⟨.a, 5, 1023, 7, .none⟩, rfl, h.2.1.symm, h.2.2.1, h.2.2.2⟩,
  met (laneS (thr [(16, 0x4000)])) r0 (fun e => decide (2 ^ 14 ≤ (e.x 0).toNat)) (by decide +kernel) fun _ h => of_decide_eq_true h,
  met (laneS (thr [])) r0 (fun e => decide ((e.x 0).toNat < 2 ^ 14)) (by decide +kernel) fun _ h => ⟨of_decide_eq_true h, rfl⟩⟩

theorem witness_AddressWaitsAndBarriers : (∃ s e, LaneHand (.waita ⟨1, 8, 16, 0, 0, 24, 0, 0, 0, 0, 0⟩) s e ∧ e.th.status = .ready ∧
      s.chk e.acor (globalAddr e 0) 4 .load 2 4 = .ok 0x100000 ∧ s.logHas e.acor (globalAddr e 0) = false ∧ s.homeQuiet (.lane e.r) 0x100000 4 = true ∧
      homeOf 0x100000 ≠ .window ∧ s.meets e.b.die none 0x100000 4 true = .none ∧ little (s.homeRead 0x100000 4) = (e.x 1).toNat) ∧
    (∃ s e, LaneHand (.waita ⟨1, 8, 16, 0, 0, 24, 0, 0, 0, 0, 0⟩) s e ∧ s.chk e.acor (globalAddr e 0) 4 .load 2 4 = .ok 0x100000 ∧
      little (s.homeRead 0x100000 4) ≠ (e.x 1).toNat) ∧
    (∃ s e, LaneHand (.waita ⟨1, 8, 16, 0, 0, 24, 0, 0, 0, 0, 0⟩) s e ∧ e.th.status = .wait (.address true) ∧
      s.access e.b.die e.b.nodeRef e.th.inTrap (globalAddr e 0) 4 .load = .pa 0x100000 0) ∧
    (∃ s e, LaneHand (.wake ⟨1, 8, 16, 0, 0, 24, 0, 0, 0, 0, 0⟩) s e ∧ s.chk e.acor (globalAddr e 0) 4 .load 3 4 = .ok 0x100000 ∧
      (∀ x ∈ s.stores, x.who ≠ .lane e.r) ∧ (∀ l ∈ s.loads, l.who = .lane e.r → l.atom = none) ∧ ∀ x ∈ s.sideLog, x.who ≠ e.r) ∧
    (∃ s e, LaneHand (.barrierarrive ⟨1, 0, 0, 0, 0, 0, 0, 0, 0, 0, 0⟩) s e ∧ e.th.ph.toNat < 2 ^ 64 - 1 ∧ e.b.bp.toNat < 2 ^ 64 - 2 ∧ e.th.ph - e.b.bp ≠ 2 ∧
      e.th.st = 0 ∧ (∀ x ∈ s.sideLog, x.who ≠ e.r) ∧ ∀ l ∈ s.loads, l.who ≠ .lane e.r) ∧
    (∃ s e, LaneHand (.barrierarrive ⟨1, 0, 0, 0, 0, 0, 0, 0, 0, 0, 0⟩) s e ∧ e.th.ph - e.b.bp = 2) ∧
    (∃ s e, LaneHand (.barrierwait ⟨1, 0, 0, 0, 0, 0, 0, 0, 0, 0, 0⟩) s e ∧ e.th.ph.toNat ≤ e.b.bp.toNat) ∧
    ∃ s e, LaneHand (.barrierwait ⟨1, 0, 0, 0, 0, 0, 0, 0, 0, 1, 0⟩) s e ∧ e.th.status = .wait .barrier ∧ ¬e.th.ph.toNat ≤ e.b.bp.toNat :=
  ⟨met (memS (thr [(16, 0x10000)])) r0 (fun e => decide (e.th.status = .ready ∧ (memS (thr [(16, 0x10000)])).chk e.acor (globalAddr e 0) 4 .load 2 4 = .ok 0x100000 ∧
      (memS (thr [(16, 0x10000)])).logHas e.acor (globalAddr e 0) = false ∧ (memS (thr [(16, 0x10000)])).homeQuiet (.lane e.r) 0x100000 4 = true ∧
      homeOf 0x100000 ≠ .window ∧ (memS (thr [(16, 0x10000)])).meets e.b.die none 0x100000 4 true = .none ∧
      little ((memS (thr [(16, 0x10000)])).homeRead 0x100000 4) = (e.x 1).toNat)) (by decide +kernel) fun _ h => of_decide_eq_true h,
  met (memS (thr [(16, 0x10000), (24, 1)])) r0 (fun e => decide ((memS (thr [(16, 0x10000), (24, 1)])).chk e.acor (globalAddr e 0) 4 .load 2 4 = .ok 0x100000 ∧
      little ((memS (thr [(16, 0x10000), (24, 1)])).homeRead 0x100000 4) ≠ (e.x 1).toNat)) (by decide +kernel) fun _ h => of_decide_eq_true h,
  met (memS { thr [(16, 0x10000)] with status := .wait (.address true) }) r0 (fun e => decide (e.th.status = .wait (.address true) ∧
      (memS { thr [(16, 0x10000)] with status := .wait (.address true) }).access e.b.die e.b.nodeRef e.th.inTrap (globalAddr e 0) 4 .load = .pa 0x100000 0))
    (by decide +kernel) fun _ h => of_decide_eq_true h,
  met (memS (thr [(16, 0x10000)])) r0 (fun e => chkIs (memS (thr [(16, 0x10000)])) e (globalAddr e 0) 4 3 .load (.ok 0x100000)) (by decide +kernel)
    fun _ h => ⟨of_decide_eq_true h, by simp [memS, laneS, State.reset], by simp [memS, laneS, State.reset], by simp [memS, laneS, State.reset]⟩,
  met (laneS { thr [] with ph := 1 }) r0 (fun e => decide (e.th.ph.toNat < 2 ^ 64 - 1 ∧ e.b.bp.toNat < 2 ^ 64 - 2 ∧ e.th.ph - e.b.bp ≠ 2 ∧ e.th.st = 0))
    (by decide +kernel) fun _ h => by
      simp only [decide_eq_true_eq] at h
      exact ⟨h.1, h.2.1, h.2.2.1, h.2.2.2, by simp [laneS, State.reset], by simp [laneS, State.reset]⟩,
  met (laneS { thr [] with ph := 2 }) r0 (fun e => decide (e.th.ph - e.b.bp = 2)) (by decide +kernel) fun _ h => of_decide_eq_true h,
  met (laneS (thr [])) r0 (fun e => decide (e.th.ph.toNat ≤ e.b.bp.toNat)) (by decide +kernel) fun _ h => of_decide_eq_true h,
  met (laneS { thr [] with ph := 1, status := .wait .barrier }) r0 (fun e => decide (e.th.status = .wait .barrier ∧ ¬e.th.ph.toNat ≤ e.b.bp.toNat))
    (by decide +kernel) fun _ h => of_decide_eq_true h⟩

/-- The machine whose block has one mailbox of 2 slots of 16 bytes at 0. -/
def boxS (th : Thread) (pub take claim ret : Word) : State :=
  let s := laneS th
  { s with blocks := s.blocks.map fun (b : Block) => { b with
      boxes := [some ⟨false, 0, 16, 2, 0, claim, pub, take, ret, [], []⟩]
      code := { b.code with launch := { b.code.launch with boxes := 1 } } } }

theorem witness_Mailboxes : (∃ s e, LaneHand (.mbinit ⟨1, 0, 16, 0, 0, 24, 0, 0, 0, 0, 0⟩) s e ∧ e.b.code.launch.boxes = 1 ∧ (e.x 1).toNat = 1 + 64 * 2 ^ 11) ∧
    (∃ s e, LaneHand (.mbinit ⟨1, 0, 16, 0, 0, 24, 0, 0, 0, 0, 1⟩) s e ∧ e.b.code.launch.boxes ≤ 1) ∧
    (∃ s e, LaneHand (.mbput ⟨1, 0, 0, 0, 0, 0, 0, 0, 0, 1, 0⟩) s e ∧ (∃ b m x, e.box? s ⟨1, 0, 0, 0, 0, 0, 0, 0, 0, 1, 0⟩ = some (b, m, x) ∧ x.pub ≠ x.claim)) ∧
    (∃ s e, LaneHand (.mbput ⟨1, 0, 0, 0, 0, 0, 0, 0, 0, 1, 0⟩) s e ∧ (∃ b m x, e.box? s ⟨1, 0, 0, 0, 0, 0, 0, 0, 0, 1, 0⟩ = some (b, m, x) ∧ x.pub = x.claim)) ∧
    (∃ s e, LaneHand (.mbget ⟨1, 8, 0, 0, 0, 0, 0, 0, 0, 0, 0⟩) s e ∧ (∃ b m x, e.box? s ⟨1, 8, 0, 0, 0, 0, 0, 0, 0, 0, 0⟩ = some (b, m, x) ∧
      (x.claim.toNat - x.ret.toNat : Int) % 2 ^ 32 < x.k)) ∧
    ∃ s e, LaneHand (.mbget ⟨1, 8, 0, 0, 0, 0, 0, 0, 0, 0, 1⟩) s e ∧ e.box? s ⟨1, 8, 0, 0, 0, 0, 0, 0, 0, 0, 1⟩ = none :=
  ⟨met (boxS (thr [(24, 1 + 64 * 2 ^ 11)]) 0 0 0 0) r0 (fun e => decide (e.b.code.launch.boxes = 1 ∧ (e.x 1).toNat = 1 + 64 * 2 ^ 11)) (by decide +kernel)
    fun _ h => of_decide_eq_true h,
  met (boxS (thr []) 0 0 0 0) r0 (fun e => decide (e.b.code.launch.boxes ≤ 1)) (by decide +kernel) fun _ h => of_decide_eq_true h,
  met (boxS (thr []) 0 0 1 0) r0 (fun e => decide (((e.box? (boxS (thr []) 0 0 1 0) ⟨1, 0, 0, 0, 0, 0, 0, 0, 0, 1, 0⟩).any fun p => p.2.2.pub ≠ p.2.2.claim) = true))
    (by decide +kernel) fun e h => by
      simp only [decide_eq_true_eq] at h
      obtain ⟨p, hp, hq⟩ := (Option.any_eq_true _ _).mp h
      exact ⟨p.1, p.2.1, p.2.2, hp, by simpa using hq⟩,
  met (boxS (thr []) 0 0 0 0) r0 (fun e => decide (((e.box? (boxS (thr []) 0 0 0 0) ⟨1, 0, 0, 0, 0, 0, 0, 0, 0, 1, 0⟩).any fun p => p.2.2.pub = p.2.2.claim) = true))
    (by decide +kernel) fun e h => by
      simp only [decide_eq_true_eq] at h
      obtain ⟨p, hp, hq⟩ := (Option.any_eq_true _ _).mp h
      exact ⟨p.1, p.2.1, p.2.2, hp, by simpa using hq⟩,
  met (boxS (thr []) 0 0 1 0) r0 (fun e => decide (((e.box? (boxS (thr []) 0 0 1 0) ⟨1, 8, 0, 0, 0, 0, 0, 0, 0, 0, 0⟩).any fun p =>
      (p.2.2.claim.toNat - p.2.2.ret.toNat : Int) % 2 ^ 32 < p.2.2.k) = true)) (by decide +kernel) fun e h => by
      simp only [decide_eq_true_eq] at h
      obtain ⟨p, hp, hq⟩ := (Option.any_eq_true _ _).mp h
      exact ⟨p.1, p.2.1, p.2.2, hp, by simpa using hq⟩,
  met (boxS (thr []) 0 0 0 0) r0 (fun e => (e.box? (boxS (thr []) 0 0 0 0) ⟨1, 8, 0, 0, 0, 0, 0, 0, 0, 0, 1⟩).isNone) (by decide +kernel)
    fun e h => by simpa using h⟩

/-- The cross-lane forms with a member mask in their last source: position 0 alone, and both of two threads. -/
theorem witness_CrossLaneForms : (∃ s e, LaneHand (.shfl ⟨1, 8, 16, 0, 0, 24, 0, 32, 0, 0, 0, 0, 3⟩) s e ∧ e.th.g = 64 ∧ e.th.carrel = none ∧ e.th.stale = false ∧
      maskOf (.shfl ⟨1, 8, 16, 0, 0, 24, 0, 32, 0, 0, 0, 0, 3⟩) e = 1 ∧ gangPos e = 0) ∧
    (∃ s e, LaneHand (.vote ⟨1, 8, 16, 0, 0, 0, 0, 32, 0, 0, 0, 0, 0⟩) s e ∧ maskOf (.vote ⟨1, 8, 16, 0, 0, 0, 0, 32, 0, 0, 0, 0, 0⟩) e = 0) ∧
    (∃ s e, LaneHand (.vote ⟨1, 8, 16, 0, 0, 0, 0, 32, 0, 0, 0, 0, 0⟩) s e ∧ e.th.stale = true) ∧
    (∃ s e, LaneHand (.elect ⟨1, 8, 0, 0, 0, 0, 0, 32, 0, 0, 0, 0, 0⟩) s e ∧ e.th.carrel ≠ none) ∧
    (∃ s e, LaneHand (.swz ⟨0, 8, 16, 24, 0, 0⟩) s e) ∧
    ∃ s e, LaneHand (.red ⟨1, 8, 16, 0, 0, 0, 0, 32, 0, 0, 0, 0, 8⟩) s e ∧ e.th.status = .wait (.xlane (some [7])) :=
  ⟨met (laneS (thr [(32, 1)])) r0 (fun e => decide (e.th.g = 64 ∧ e.th.carrel = none ∧ e.th.stale = false ∧
      maskOf (.shfl ⟨1, 8, 16, 0, 0, 24, 0, 32, 0, 0, 0, 0, 3⟩) e = 1 ∧ gangPos e = 0)) (by decide +kernel) fun _ h => of_decide_eq_true h,
  met (laneS (thr [])) r0 (fun e => decide (maskOf (.vote ⟨1, 8, 16, 0, 0, 0, 0, 32, 0, 0, 0, 0, 0⟩) e = 0)) (by decide +kernel) fun _ h => of_decide_eq_true h,
  met (laneS { thr [] with stale := true }) r0 (fun e => decide (e.th.stale = true)) (by decide +kernel) fun _ h => of_decide_eq_true h,
  met (laneS ejected) r0 (fun e => decide (e.th.carrel ≠ none)) (by decide +kernel) fun _ h => of_decide_eq_true h,
  inHand (laneS (thr [])) r0 (by decide +kernel),
  met (laneS { thr [] with status := .wait (.xlane (some [7])) }) r0 (fun e => decide (e.th.status = .wait (.xlane (some [7])))) (by decide +kernel)
    fun _ h => of_decide_eq_true h⟩


/-- What an operation of the lead context holds under a lock. -/
def lockOp (src dst : List Span) : Op :=
  ⟨9, .agent (.lead ⟨1, 0⟩), 1023, .a, 0, none, 7, .copy (.glob 0) (.glob 64) 0 none, [], [], src, dst, .registered, ⟨0, 0, 0, 0⟩, false, []⟩

/-- A load of the thread in hand. -/
def loadOf (grp : Nat) : Load :=
  ⟨1, grp, .lane r0, (fetchBlock 1).nodeRef, .core .a 0, 0x100000, 0x10000, 4, false, none, [some ⟨false, 8⟩], 0, false, 0, ⟨0, 0, 0, 0⟩, none, 0, false, none, none⟩

/-- A store of the thread in hand, with an order where it synchronises. -/
def storeOf (ord : Nat) : Store :=
  ⟨1, 1, .lane r0, (fetchBlock 1).nodeRef, .core .a 0, 0x100000, 0x10000, [1, 0, 0, 0], if ord = 0 then none else some ⟨15, 1, 0, ord⟩, false, ⟨0, 0, 0, 0⟩, 0, none, none⟩

/-- An access of local space that nothing stands against, as a check. -/
def locOk (s : State) (e : LaneEnv) (la n level : Nat) : Bool :=
  la % n = 0 && la < 2 ^ 23 && la / 2 ^ 18 < e.b.shares.length && la % 2 ^ 18 + n ≤ e.b.loc && s.lock e.acor.skip (.loc e.b.id la n) < level

theorem locOk_true {s : State} {e : LaneEnv} {la n level : Nat} (h : locOk s e la n level = true) : localOk s e la n level := by
  simp only [locOk, Bool.and_eq_true, decide_eq_true_eq] at h
  exact ⟨h.1.1.1.1, ⟨h.1.1.1.2, h.1.1.2, h.1.2⟩, h.2⟩

/-- A thread that is ready has done no half of an access. -/
theorem ready_no_half {e : LaneEnv} (h : e.th.status = .ready) : ¬halfDone e := by
  rintro ⟨u, ws, hw⟩
  simp [h] at hw

/-- The thread in hand with a status. -/
def inState (x : TStatus) : Thread := { thr [] with status := x }

theorem witness_LocalMemoryForms_2 :
    (∃ s e, LaneHand (.ldlLong ⟨1, 8, 16, 0, 0, 0, 0, 0, 0, 4, 0⟩) s e ∧ ¬halfDone e ∧ localOk s e (localAddr e 0) 16 2 ∧ s.issue.chained = false) ∧
    (∃ s e, LaneHand (.stlLong ⟨1, 0, 16, 0, 0, 24, 0, 0, 0, 4, 0⟩) s e ∧ ¬halfDone e ∧ localOk s e (localAddr e 0) 16 1 ∧ s.loads = []) ∧
    (∃ s e, LaneHand (.stl ⟨0, 8, 16, 0, 0⟩) s e ∧ ¬halfDone e ∧ localOk s e (localAddr e 0) 4 1 ∧ ∃ l ∈ s.loads, l.who = .lane e.r) ∧
    (∃ s e, LaneHand (.stl ⟨0, 8, 16, 0, 0⟩) s e ∧ ¬halfDone e ∧ localAddr e 0 % 4 = 0 ∧ localThere e (localAddr e 0) 4 ∧
      1 ≤ s.lock e.acor.skip (.loc e.b.id (localAddr e 0) 4)) ∧
    (∃ s e, LaneHand (.atoml ⟨1, 8, 16, 0, 0, 24, 0, 0, 0, 0x10, 0⟩) s e ∧ localOk s e (localAddr e 0) 4 1 ∧ e.th.st = 0 ∧ s.loads = [] ∧ s.stores = []) ∧
    ∃ s e, LaneHand (.atoml ⟨1, 8, 16, 0, 0, 24, 0, 0, 0, 0x10, 0⟩) s e ∧ localOk s e (localAddr e 0) 4 1 ∧
      ∃ x ∈ s.stores, x.who = .lane e.r ∧ ∃ o, x.atom = some o ∧ o.ord ≠ 0 :=
  ⟨met (laneS (thr [])) r0 (fun e => decide (e.th.status = .ready) && locOk (laneS (thr [])) e (localAddr e 0) 16 2) (by decide +kernel) fun _ h => by
    simp only [Bool.and_eq_true, decide_eq_true_eq] at h; exact ⟨ready_no_half h.1, locOk_true h.2, rfl⟩,
  met (laneS (thr [])) r0 (fun e => decide (e.th.status = .ready) && locOk (laneS (thr [])) e (localAddr e 0) 16 1) (by decide +kernel) fun _ h => by
    simp only [Bool.and_eq_true, decide_eq_true_eq] at h; exact ⟨ready_no_half h.1, locOk_true h.2, rfl⟩,
  met { laneS (thr []) with loads := [loadOf 1] } r0 (fun e => decide (e.th.status = .ready ∧ e.r = r0) &&
      locOk { laneS (thr []) with loads := [loadOf 1] } e (localAddr e 0) 4 1) (by decide +kernel) fun _ h => by
    simp only [Bool.and_eq_true, decide_eq_true_eq] at h; exact ⟨ready_no_half h.1.1, locOk_true h.2, _, .head _, by rw [h.1.2]; rfl⟩,
  met { laneS (thr []) with ops := [lockOp [.loc 1 0 16] []] } r0 (fun e => decide (e.th.status = .ready ∧
      1 ≤ ({ laneS (thr []) with ops := [lockOp [.loc 1 0 16] []] } : State).lock e.acor.skip (.loc e.b.id (localAddr e 0) 4)) &&
      locOk { laneS (thr []) with ops := [lockOp [.loc 1 0 16] []] } e (localAddr e 0) 4 2) (by decide +kernel) fun _ h => by
    simp only [Bool.and_eq_true, decide_eq_true_eq] at h; exact ⟨ready_no_half h.1.1, (locOk_true h.2).1, (locOk_true h.2).2.1, h.1.2⟩,
  met (laneS (thr [])) r0 (fun e => decide (e.th.st = 0) && locOk (laneS (thr [])) e (localAddr e 0) 4 1) (by decide +kernel) fun _ h => by
    simp only [Bool.and_eq_true, decide_eq_true_eq] at h; exact ⟨locOk_true h.2, h.1, rfl, rfl⟩,
  met { laneS (thr []) with stores := [storeOf 2] } r0 (fun e => decide (e.r = r0) && locOk { laneS (thr []) with stores := [storeOf 2] } e (localAddr e 0) 4 1)
    (by decide +kernel) fun _ h => by
    simp only [Bool.and_eq_true, decide_eq_true_eq] at h; exact ⟨locOk_true h.2, _, .head _, by rw [h.1]; rfl, _, rfl, by decide⟩⟩

/-- Half of a 16-byte access has been performed. -/
theorem witness_LocalMemoryForms_halves :
    (∃ s e, LaneHand (.ldlLong ⟨1, 8, 16, 0, 0, 0, 0, 0, 0, 4, 0⟩) s e ∧ e.th.status = .wait (.half true [1, 2])) ∧
    ∃ s e, LaneHand (.stlLong ⟨1, 0, 16, 0, 0, 24, 0, 0, 0, 4, 0⟩) s e ∧ e.th.status = .wait (.half false []) ∧ localOk s e (localAddr e 0) 16 1 :=
  ⟨sure (laneS (inState (.wait (.half true [1, 2])))) (by decide +kernel),
  met (laneS (inState (.wait (.half false [])))) r0 (fun e => decide (e.th.status = .wait (.half false [])) &&
      locOk (laneS (inState (.wait (.half false [])))) e (localAddr e 0) 16 1) (by decide +kernel) fun _ h => by
    simp only [Bool.and_eq_true, decide_eq_true_eq] at h; exact ⟨h.1, locOk_true h.2⟩⟩

/-- The machine with a thread in hand whose page is walked for, from a root at pa. -/
def pageS (pa : Nat) (th : Thread) : State :=
  { memS th with
    ctxs := [{ fetchCtx with l0 := pa }]
    replays := [⟨1023, 0, 1, 0, 0, [{ node0 with exts := [⟨true, true, true, 0x10000, 1, 0x10000, 0, []⟩] }]⟩] }

/-- The machine with an absent page on which its core has a fault already. -/
def heldS (th : Thread) : State := { memS th with faults := [⟨.core .a 0, 1023, ⟨1023, 1, 0⟩, 0, 0x20000, false, 0, 0⟩] }

theorem witness_GlobalLoadsStoresChecked_2 :
    (∃ s e, LaneHand (.ld ⟨0, 8, 16, 0, 0⟩) s e ∧ s.chk e.acor (globalAddr e 0) 4 .load 2 4 matches .dev .noMemory _) ∧
    (∃ s e, LaneHand (.st ⟨0, 8, 16, 0, 0⟩) s e ∧ s.chk e.acor (globalAddr e 0) 4 .store 1 4 matches .dev .clear _) ∧
    (∃ s e, LaneHand (.ld ⟨0, 8, 16, 0, 0⟩) s e ∧ s.chk e.acor (globalAddr e 0) 4 .load 2 4 = .absent ∧
      ∃ x ∈ s.faults, x.unit = e.acor.unit ∧ x.ctx = e.b.nodeRef.ctx ∧ x.va / 65536 = globalAddr e 0 / 65536) ∧
    (∃ s e, LaneHand (.st ⟨0, 8, 16, 0, 0⟩) s e ∧ s.chk e.acor (globalAddr e 0) 4 .store 1 4 = .absent ∧ s.logRoom e.acor = true ∧
      ∃ x ∈ s.faults, x.unit = e.acor.unit ∧ x.ctx = e.b.nodeRef.ctx ∧ x.va / 65536 = globalAddr e 0 / 65536) ∧
    ∃ s e, LaneHand (.ld ⟨0, 8, 16, 0, 0⟩) s e ∧ s.chk e.acor (globalAddr e 0) 4 .load 2 4 = .trap (.sync 0x06 1 0x10000) :=
  ⟨sure (pageS 0x7000000000 (thr [(16, 0x10000)])) (by decide +kernel), sure (pageS 0x3000000000 (thr [(16, 0x10000)])) (by decide +kernel),
  sure (heldS (thr [(16, 0x20000)])) (by decide +kernel), sure (heldS (thr [(16, 0x20000)])) (by decide +kernel),
  sure { memS (thr [(16, 0x10000)]) with ops := [lockOp [] [.phys 0x100000 16]] } (by decide +kernel)⟩

theorem witness_FencesAndCounterWaits_2 : 
    (∃ s e, LaneHand (.fence ⟨1, 0, 0, 0, 0, 0, 0, 0, 0, 1, 0⟩) s e ∧ e.th.ld = 0 ∧ s.loads = []) ∧
    (∃ s e, LaneHand (.waitc ⟨1, 0, 0, 0, 0, 0xFF000⟩) s e ∧ e.th.ld = 0 ∧ e.th.st = 0 ∧ e.th.cp = [] ∧ e.th.tl = []) ∧
    (∃ s e, LaneHand (.cwait ⟨1, 8, 16, 0, 0, 24, 0, 0, 0, 0, 0, 0, 0⟩) s e ∧ (e.x 0).toNat = 2 ^ 13 ∧ s.counter? .b 0 = some ⟨.b, 0, 1023, 7, .none⟩ ∧
      e.b.ctx = 1023 ∧ (e.x 1).toNat = 8) :=
  ⟨sure (laneS (thr [])) (by decide +kernel), sure (laneS (thr [])) (by decide +kernel),
  sure { laneS (thr [(16, 0x2000), (24, 8)]) with counters := [⟨.b, 0, 1023, 7, .none⟩] } (by decide +kernel)⟩

theorem witness_AddressWaitsAndBarriers_2 :
    (∃ s e, LaneHand (.waita ⟨1, 8, 16, 0, 0, 24, 0, 0, 0, 0, 0⟩) s e ∧ e.th.status = .ready ∧ s.chk e.acor (globalAddr e 0) 4 .load 2 4 = .ok 0x100000 ∧
      s.homeQuiet (.lane e.r) 0x100000 4 = false) ∧
    (∃ s e, LaneHand (.waita ⟨1, 8, 16, 0, 0, 24, 0, 0, 0, 0, 0⟩) s e ∧ e.th.status = .ready ∧ s.chk e.acor (globalAddr e 0) 4 .load 2 4 = .ok 0x100000 ∧
      s.logHas e.acor (globalAddr e 0) = false ∧ s.homeQuiet (.lane e.r) 0x100000 4 = true ∧ s.meets e.b.die none 0x100000 4 true = .poisoned) ∧
    (∃ s e, LaneHand (.wake ⟨1, 8, 16, 0, 0, 24, 0, 0, 0, 0, 0⟩) s e ∧ s.chk e.acor (globalAddr e 0) 4 .load 3 4 = .ok 0x100000 ∧ (e.x 1).toNat = 1 ∧
      s.wakes = [⟨.a, 1023, 0x100000, ⟨1, 7⟩⟩, ⟨.a, 1023, 0x100000, ⟨1, 8⟩⟩]) ∧
    (∃ s e, LaneHand (.wake ⟨1, 8, 16, 0, 0, 24, 0, 0, 0, 0, 0⟩) s e ∧ s.chk e.acor (globalAddr e 0) 4 .load 3 4 = .ok 0x100000 ∧
      ∃ x ∈ s.stores, x.who = .lane e.r) ∧
    (∃ s e, LaneHand (.barrierarrive ⟨1, 0, 0, 0, 0, 0, 0, 0, 0, 0, 0⟩) s e ∧ e.th.ph = 1 ∧ e.b.bp = 0 ∧ e.th.st = 1) ∧
    ∃ s e, LaneHand (.barrierwait ⟨1, 0, 0, 0, 0, 0, 0, 0, 0, 1, 0⟩) s e ∧ e.th.status = .ready ∧ e.th.ph = 1 ∧ e.b.bp = 0 ∧ e.th.st = 0 :=
  ⟨sure { memS (thr [(16, 0x10000)]) with stores := [storeOf 0] } (by decide +kernel),
  sure { memS (thr [(16, 0x10000)]) with poison := [0x100000] } (by decide +kernel),
  sure { memS (thr [(16, 0x10000), (24, 1)]) with wakes := [⟨.a, 1023, 0x100000, ⟨1, 7⟩⟩, ⟨.a, 1023, 0x100000, ⟨1, 8⟩⟩] } (by decide +kernel),
  sure { memS (thr [(16, 0x10000)]) with stores := [storeOf 0] } (by decide +kernel),
  sure (laneS { thr [] with ph := 1, st := 1 }) (by decide +kernel), sure (laneS { thr [] with ph := 1 }) (by decide +kernel)⟩
/-! Hypotheses of the statements about engine commands. -/

/-- The machine with every unit ready. -/
def cmdS (th : Thread) : State := { memS th with pkg := { Pkg.reset with readyF := 0xFFFFFFFFFFFFFFFF, readyC := BitVec.allOnes 256 } }

/-- The same with its lead context in hand. -/
def cmdL (l : Lead) : State :=
  { leadS l with
    replays := [⟨1023, 0, 1, 0, 0, [node0]⟩]
    pkg := { Pkg.reset with readyF := 0xFFFFFFFFFFFFFFFF, readyC := BitVec.allOnes 256 } }

/-- A check that an operation may enter. -/
def enters (u : State) (o : Op) : Bool :=
  decide ((entered u o).opUnit o = .ready) && (entered u o).underLimit o && (entered u o).entryFree o && (entered u o).rangesFree o

theorem enters_true {u : State} {o : Op} (h : enters u o = true) : mayEnter u o := by
  simp only [enters, Bool.and_eq_true, decide_eq_true_eq] at h
  exact ⟨h.1.1.1, h.1.1.2, h.1.2, h.2⟩

/-- A copy of 256 bytes of global space. -/
def copyOp (u : State) (a : Acor) : Op :=
  u.newOp a 0 (.copy (.glob 0x10000) (.glob 0x10100) 0x100 none) [rangeAt (.glob 0x10000) 0x100] [rangeAt (.glob 0x10100) 0x100]

theorem witness_CopyAndCollectiveCommands_copy : copyLegal 0x10000 0x10100 0x100 ∧ ¬copyLegal 0x10000 0x100FF 0x100 ∧ ¬copyLegal 0x10000 0x20000 0 ∧
    ¬copyLegal (2 ^ 32) 0 (0x100 + 2 ^ 41) ∧
    (∃ s e, LaneHand (.copy ⟨1, 0, 16, 0, 0, 24, 0, 32, 0, 0, 0, 0, 0⟩) s e ∧ e.th.heldOp = none ∧ (e.pair 0).toNat = 0x10000 ∧ (e.pair 1).toNat = 0x10100 ∧
      (e.pair 2).toNat = 0x100 ∧
      (e.start (.copy ⟨1, 0, 16, 0, 0, 24, 0, 32, 0, 0, 0, 0, 0⟩) s).areasTrap e.acor [rangeAt (.glob 0x10000) 0x100] [rangeAt (.glob 0x10100) 0x100] = none ∧
      mayEnter (e.start (.copy ⟨1, 0, 16, 0, 0, 24, 0, 32, 0, 0, 0, 0, 0⟩) s) (copyOp (e.start (.copy ⟨1, 0, 16, 0, 0, 24, 0, 32, 0, 0, 0, 0, 0⟩) s) e.acor)) ∧
    ∃ s e, LeadHand (.leadCopy ⟨1, 0, 0, 0, 16, 17, 18, 0⟩) s e ∧ e.l.status = .ready ∧ (e.l.get 16).toNat = 0x10000 ∧ (e.l.get 17).toNat = 0x10100 ∧
      (e.l.get 18).toNat = 0x100 ∧ s.areasTrap e.acor [rangeAt (.glob 0x10000) 0x100] [rangeAt (.glob 0x10100) 0x100] = none ∧ mayEnter s (copyOp s e.acor) :=
  ⟨by unfold copyLegal; decide, by unfold copyLegal; decide, by unfold copyLegal; decide, by unfold copyLegal; decide,
  met (cmdS (thr [(16, 0x10000), (24, 0x10100), (32, 0x100)])) r0 (fun e =>
      let s := cmdS (thr [(16, 0x10000), (24, 0x10100), (32, 0x100)])
      let u := e.start (.copy ⟨1, 0, 16, 0, 0, 24, 0, 32, 0, 0, 0, 0, 0⟩) s
      decide (e.th.heldOp = none ∧ (e.pair 0).toNat = 0x10000 ∧ (e.pair 1).toNat = 0x10100 ∧ (e.pair 2).toNat = 0x100 ∧
        u.areasTrap e.acor [rangeAt (.glob 0x10000) 0x100] [rangeAt (.glob 0x10100) 0x100] = none) && enters u (copyOp u e.acor)) (by decide +kernel)
    fun _ h => by
      simp only [Bool.and_eq_true, decide_eq_true_eq] at h
      exact ⟨h.1.1, h.1.2.1, h.1.2.2.1, h.1.2.2.2.1, h.1.2.2.2.2, enters_true h.2⟩,
  metLead (cmdL (leadAt [(16, 0x10000), (17, 0x10100), (18, 0x100)])) l0 (fun e =>
      let s := cmdL (leadAt [(16, 0x10000), (17, 0x10100), (18, 0x100)])
      decide (e.l.status = .ready ∧ (e.l.get 16).toNat = 0x10000 ∧ (e.l.get 17).toNat = 0x10100 ∧ (e.l.get 18).toNat = 0x100 ∧
        s.areasTrap e.acor [rangeAt (.glob 0x10000) 0x100] [rangeAt (.glob 0x10100) 0x100] = none) && enters s (copyOp s e.acor)) (by decide +kernel)
    fun _ h => by
      simp only [Bool.and_eq_true, decide_eq_true_eq] at h
      exact ⟨h.1.1, h.1.2.1, h.1.2.2.1, h.1.2.2.2.1, h.1.2.2.2.2, enters_true h.2⟩⟩

theorem witness_CopyAndCollectiveCommands_copyf : ∃ s e, LaneHand (.copyf ⟨1, 0, 16, 0, 0, 24, 0, 32, 0, 0, 0, 0, 0⟩) s e ∧ e.th.heldOp = none ∧
    copyfLegal e.b 0x10000 0 (0x100 + 2 ^ 32) ∧ ¬copyfLegal e.b 0x10000 0xFFF (0x100 + 2 ^ 32) ∧ (e.pair 0).toNat = 0x10000 ∧ (e.pair 1).toNat = 0 ∧
    (e.pair 2).toNat = 0x100 + 2 ^ 32 ∧
    (e.start (.copyf ⟨1, 0, 16, 0, 0, 24, 0, 32, 0, 0, 0, 0, 0⟩) s).areasTrap e.acor [rangeAt (.glob 0x10000) 0x100] [rangeAt (.loc e.b.id 0) 0x100] = none :=
  met (cmdS (thr [(16, 0x10000), (32, 0x100), (33, 1)])) r0 (fun e =>
      let u := e.start (.copyf ⟨1, 0, 16, 0, 0, 24, 0, 32, 0, 0, 0, 0, 0⟩) (cmdS (thr [(16, 0x10000), (32, 0x100), (33, 1)]))
      decide (e.th.heldOp = none ∧ (e.b.local? 0 0x100).isSome = true ∧ (e.b.local? 0xFFF 0x100).isSome = false ∧ (e.pair 0).toNat = 0x10000 ∧ (e.pair 1).toNat = 0 ∧
        (e.pair 2).toNat = 0x100 + 2 ^ 32 ∧ u.areasTrap e.acor [rangeAt (.glob 0x10000) 0x100] [rangeAt (.loc e.b.id 0) 0x100] = none)) (by decide +kernel)
    fun _ h => by
      simp only [decide_eq_true_eq] at h
      refine ⟨h.1, ⟨by decide, by decide, by decide, by decide, by decide, by decide, h.2.1⟩, fun c => ?_, h.2.2.2⟩
      have : (LaneEnv.b _).local? 0xFFF 0x100 |>.isSome := c.2.2.2.2.2.2
      rw [h.2.2.1] at this
      exact Bool.noConfusion this

/-- The words of a collective's record, its group of one, and a triggered send's record, at 0x10000 and up. -/
def recordS (s : State) : State :=
  (((s.homeWrite 0x100000 ([0x10040, 0x10200, 0x10300, 16, 0x12].flatMap fun x => bytesOf 8 x)).homeWrite 0x100040 (bytesOf 8 1)).homeWrite 0x100800
    ([0x10200, 0x40, 0x100000000, 0x1400000007].flatMap fun x => bytesOf 8 x))

theorem witness_CopyAndCollectiveCommands_coll : ∃ s e, LaneHand (.coll ⟨1, 0, 16, 0, 0, 0, 0, 0, 0, 0, 0, 0, 0⟩) s e ∧ e.th.heldOp = none ∧
    ∃ ws u, e.record (e.start (.coll ⟨1, 0, 16, 0, 0, 0, 0, 0, 0, 0, 0, 0, 0⟩) s) (e.pair 0).toNat 64 = .words ws u ∧ collFields (fun k => ws.getD k 0) = true ∧
      ∃ g z, ({ u with holds := s.holds } : State).readGroup e.acor (fun k => ws.getD k 0) = .inr (g, z) ∧ (∀ x ∈ g, x < 2 ^ 21) ∧ (g.filter fun x => x = s.pkg.devnum.toNat).length = 1 :=
  met (recordS (cmdS (thr [(16, 0x10000)]))) r0 (fun e =>
      let s := recordS (cmdS (thr [(16, 0x10000)]))
      e.th.heldOp.isNone && (match e.record (e.start (.coll ⟨1, 0, 16, 0, 0, 0, 0, 0, 0, 0, 0, 0, 0⟩) s) (e.pair 0).toNat 64 with
        | .words ws u => collFields (fun k => ws.getD k 0) && (match ({ u with holds := s.holds } : State).readGroup e.acor (fun k => ws.getD k 0) with
          | .inr (g, _) => decide ((∀ x ∈ g, x < 2 ^ 21) ∧ (g.filter fun x => x = s.pkg.devnum.toNat).length = 1)
          | .inl _ => false)
        | _ => false)) (by decide +kernel)
    fun e h => by
      simp only [Bool.and_eq_true] at h
      refine ⟨by simpa using h.1, ?_⟩
      have h2 := h.2
      split at h2
      · rename_i ws u hr
        simp only [Bool.and_eq_true] at h2
        refine ⟨ws, u, hr, h2.1, ?_⟩
        have h3 := h2.2
        split at h3
        · rename_i g z hg
          simp only [decide_eq_true_eq] at h3
          exact ⟨g, z, hg, h3⟩
        · exact Bool.noConfusion h3
      · exact Bool.noConfusion h2

/-- The record of a send of one byte at an address, of a counter that nobody has. -/
def sendS (src : Nat) : State := (cmdS (thr [(16, 0x10800)])).homeWrite 0x100800 ([src, 0x40, 0x100000000, 0x1400000007].flatMap fun x => bytesOf 8 x)

/-- Of a send whose counter nobody has, the source traps EXTENT or nothing. -/
def sendMeets (src : Nat) (z : Option Trap) (e : LaneEnv) : Bool :=
  match e.record (e.start (.tsend ⟨1, 8, 16, 0, 0, 0, 0, 0, 0, 0, 0, 0, 0⟩) (sendS src)) (e.pair 0).toNat 32 with
  | .words ws u => decide (ws = [src, 0x40, 0x100000000, 0x1400000007] ∧ sourceTrap u e.acor (fun k => ws.getD k 0) = z)
  | _ => false

theorem sendMeets_words {src : Nat} {z : Option Trap} {e : LaneEnv} (h : sendMeets src z e = true) :
    ∃ ws u, e.record (e.start (.tsend ⟨1, 8, 16, 0, 0, 0, 0, 0, 0, 0, 0, 0, 0⟩) (sendS src)) (e.pair 0).toNat 32 = .words ws u ∧
      ws = [src, 0x40, 0x100000000, 0x1400000007] ∧ sourceTrap u e.acor (fun k => ws.getD k 0) = z := by
  unfold sendMeets at h
  split at h
  · rename_i ws u hr
    exact ⟨ws, u, hr, of_decide_eq_true h⟩
  · exact Bool.noConfusion h

theorem witness_SendsAndCounters_protect :
    (∃ s e, LaneHand (.tsend ⟨1, 8, 16, 0, 0, 0, 0, 0, 0, 0, 0, 0, 0⟩) s e ∧ s.counters = [] ∧
      ∃ ws u, e.record (e.start (.tsend ⟨1, 8, 16, 0, 0, 0, 0, 0, 0, 0, 0, 0, 0⟩) s) (e.pair 0).toNat 32 = .words ws u ∧
        ws = [0x10200, 0x40, 0x100000000, 0x1400000007] ∧ sourceTrap u e.acor (fun k => ws.getD k 0) = none) ∧
    ∃ s e, LaneHand (.tsend ⟨1, 8, 16, 0, 0, 0, 0, 0, 0, 0, 0, 0, 0⟩) s e ∧ s.counters = [] ∧
      ∃ ws u, e.record (e.start (.tsend ⟨1, 8, 16, 0, 0, 0, 0, 0, 0, 0, 0, 0, 0⟩) s) (e.pair 0).toNat 32 = .words ws u ∧
        ws = [0x90000000000, 0x40, 0x100000000, 0x1400000007] ∧ sourceTrap u e.acor (fun k => ws.getD k 0) = some (.sync 0x05 0 0x90000000000) :=
  ⟨met (sendS 0x10200) r0 (sendMeets 0x10200 none) (by decide +kernel) fun _ h => ⟨rfl, sendMeets_words h⟩,
  met (sendS 0x90000000000) r0 (sendMeets 0x90000000000 (some (.sync 0x05 0 0x90000000000))) (by decide +kernel) fun _ h => ⟨rfl, sendMeets_words h⟩⟩

theorem witness_SendsAndCounters : (∃ s e, LaneHand (.tsend ⟨1, 8, 16, 0, 0, 0, 0, 0, 0, 0, 0, 0, 0⟩) s e ∧ e.th.heldOp = none ∧
      ∃ ws u, e.record (e.start (.tsend ⟨1, 8, 16, 0, 0, 0, 0, 0, 0, 0, 0, 0, 0⟩) s) (e.pair 0).toNat 32 = .words ws u ∧ ws = [0x10200, 0x40, 0x100000000, 0x1400000007] ∧
        ∃ c, s.counter? e.b.die 0x14 = some c ∧ c.ctx = e.b.ctx ∧ c.val.toNat < 7) ∧
    sendLegal .a (fun k => [0x10200, 0x40, 0x100000000, 0x1400000007].getD k 0) ∧ ¬sendLegal .a (fun k => [0x10200, 0x40, 0, 0x1400000007].getD k 0) ∧
    (∃ s e, LaneHand (.tdisarm ⟨1, 8, 16, 0, 0, 0, 0, 0, 0, 0, 0, 0, 0⟩) s e) ∧
    (∃ s e, LaneHand (.ctrrd ⟨1, 8, 16, 0, 0, 0, 0, 0, 0, 0, 0, 0, 0⟩) s e ∧ (e.x 0).toNat = 0x3FFF ∧ ∃ c, s.counter? .b 0x1FFF = some c ∧ c.ctx = e.b.ctx) ∧
    (∃ s e, LaneHand (.ctrrst ⟨1, 8, 16, 0, 0, 0, 0, 0, 0, 0, 0, 0, 0⟩) s e ∧ 2 ^ 14 ≤ (e.x 0).toNat) ∧
    ∃ s e, LeadHand (.leadTsend ⟨1, 0, 0, 0, 508, 0, 0, 0⟩) s e ∧ (508 : BitVec 9).toNat + 4 ≤ 512 :=
  ⟨met ({ recordS (cmdS (thr [(16, 0x10800)])) with counters := [⟨.a, 0x14, 1023, 6, .none⟩] }) r0 (fun e =>
      let s : State := { recordS (cmdS (thr [(16, 0x10800)])) with counters := [⟨.a, 0x14, 1023, 6, .none⟩] }
      e.th.heldOp.isNone && decide (e.b.die = .a ∧ e.b.ctx = 1023) &&
        (match e.record (e.start (.tsend ⟨1, 8, 16, 0, 0, 0, 0, 0, 0, 0, 0, 0, 0⟩) s) (e.pair 0).toNat 32 with
         | .words ws _ => decide (ws = [0x10200, 0x40, 0x100000000, 0x1400000007])
         | _ => false)) (by decide +kernel)
    fun e h => by
      simp only [Bool.and_eq_true, decide_eq_true_eq] at h
      refine ⟨by simpa using h.1.1, ?_⟩
      have h2 := h.2
      split at h2
      · rename_i ws u hr
        exact ⟨ws, u, hr, of_decide_eq_true h2, ⟨.a, 0x14, 1023, 6, .none⟩, by rw [h.1.2.1]; rfl, h.1.2.2.symm, by decide⟩
      · exact Bool.noConfusion h2,
  by unfold sendLegal; decide, by unfold sendLegal; decide, inHand (cmdS (thr [])) r0 (by decide +kernel),
  met ({ cmdS (thr [(16, 0x3FFF)]) with counters := [⟨.b, 0x1FFF, 1023, 6, .none⟩] }) r0 (fun e => decide ((e.x 0).toNat = 0x3FFF ∧ e.b.ctx = 1023)) (by decide +kernel)
    fun _ h => by
      simp only [decide_eq_true_eq] at h
      exact ⟨h.1, ⟨.b, 0x1FFF, 1023, 6, .none⟩, rfl, h.2.symm⟩,
  met (cmdS (thr [(16, 0x4000)])) r0 (fun e => decide (2 ^ 14 ≤ (e.x 0).toNat)) (by decide +kernel) fun _ h => of_decide_eq_true h,
  metLead (cmdL (leadAt [])) l0 (fun _ => true) (by decide +kernel) fun _ _ => by decide⟩

/-- A move of the corner-turn stage within its pages. -/
def moveOf : Stash := ⟨0, 256, 0x10000, 128, 0x12000, 256, none⟩

theorem witness_CornerTurns : (∃ s e, LeadHand (.stash ⟨1, 19, 0, 0, 16, 17, 18, 0⟩) s e ∧ e.l.status = .ready ∧ (e.l.get 19).toNat = 2 + 2 ^ 18 + 2 * 2 ^ 36 ∧
      (e.l.get 16).toNat = 0 ∧ (e.l.get 17).toNat = 0x10000 ∧ (e.l.get 18).toNat = 0x12000) ∧
    pitchesOk (2 + 2 ^ 18 + 2 * 2 ^ 36) ∧ ¬pitchesOk (2 + 2 ^ 18 + 131073 * 2 ^ 36) ∧ ¬pitchesOk (2 ^ 18 + 2 ^ 36) ∧
    turnMove (2 + 2 ^ 18 + 2 * 2 ^ 36) 0 0x10000 0x12000 = moveOf ∧
    ∃ s e, LaneHand (.stt ⟨1, 8, 16, 0, 0, 24, 0, 32, 0, 0, 0, 0, 0⟩) s e ∧ e.th.heldOp = none ∧ (e.pair 3).toNat = 2 + 2 ^ 18 + 2 * 2 ^ 36 ∧ (e.x 0).toNat = 0 ∧
      (e.pair 1).toNat = 0x10000 ∧ (e.pair 2).toNat = 0x12000 ∧
      (e.start (.stt ⟨1, 8, 16, 0, 0, 24, 0, 32, 0, 0, 0, 0, 0⟩) s).areasTrap e.acor [⟨.loc e.b.id 0, 64, 128, 256⟩]
        [⟨.glob 0x10000, 64, 128, 128⟩, ⟨.glob 0x12000, 64, 128, 256⟩] = none :=
  ⟨metLead (cmdL (leadAt [(19, 2 + 2 ^ 18 + 2 * 2 ^ 36), (17, 0x10000), (18, 0x12000)])) l0 (fun e => decide (e.l.status = .ready ∧
      (e.l.get 19).toNat = 2 + 2 ^ 18 + 2 * 2 ^ 36 ∧ (e.l.get 16).toNat = 0 ∧ (e.l.get 17).toNat = 0x10000 ∧ (e.l.get 18).toNat = 0x12000)) (by decide +kernel)
    fun _ h => of_decide_eq_true h,
  by unfold pitchesOk; decide, by unfold pitchesOk; decide, by unfold pitchesOk; decide, by decide,
  met (let s := cmdS (thr [(8, 2 + 2 ^ 18), (9, 32), (24, 0x10000), (32, 0x12000)]);
       { s with blocks := s.blocks.map fun (b : Block) => { b with loc := 0x8000 } }) r0 (fun e =>
      let s0 := cmdS (thr [(8, 2 + 2 ^ 18), (9, 32), (24, 0x10000), (32, 0x12000)])
      let s : State := { s0 with blocks := s0.blocks.map fun (b : Block) => { b with loc := 0x8000 } }
      decide (e.th.heldOp = none ∧ (e.pair 3).toNat = 2 + 2 ^ 18 + 2 * 2 ^ 36 ∧ (e.x 0).toNat = 0 ∧ (e.pair 1).toNat = 0x10000 ∧ (e.pair 2).toNat = 0x12000 ∧
        (e.start (.stt ⟨1, 8, 16, 0, 0, 24, 0, 32, 0, 0, 0, 0, 0⟩) s).areasTrap e.acor [⟨.loc e.b.id 0, 64, 128, 256⟩]
          [⟨.glob 0x10000, 64, 128, 128⟩, ⟨.glob 0x12000, 64, 128, 256⟩] = none)) (by decide +kernel) fun _ h => of_decide_eq_true h⟩

/-- A record of BF16 tiles: types 0 and 0, mode 0, m 16, k 64, n 16. -/
def shapeWord : Dword := BitVec.ofNat 64 (16 * 2 ^ 12 + 64 * 2 ^ 19 + 16 * 2 ^ 28)

theorem witness_TileForms : recordOk shapeWord.toNat ∧ ¬recordOk (65 * 2 ^ 12 + 64 * 2 ^ 19 + 16 * 2 ^ 28) ∧ ¬recordOk (16 * 2 ^ 12 + 65 * 2 ^ 19 + 16 * 2 ^ 28) ∧
    (∃ s e, LaneHand (.tshape ⟨1, 0, 16, 0, 0, 0, 0, 0, 0, 0, 0, 0, 3⟩) s e ∧ e.pair 0 = shapeWord) ∧
    (∃ s e, LaneHand (.tldw ⟨1, 0, 16, 0, 0, 24, 0, 32, 0, 0, 0, 0, 0⟩) s e ∧ e.th.heldOp = none ∧ e.sh.tile.sh.toList.getD 0 none = none) ∧
    (∃ s e, LaneHand (.tst ⟨1, 0, 16, 0, 0, 24, 0, 0, 0, 0, 0, 0, 0⟩) s e ∧ e.th.heldOp = none ∧ e.sh.tile.sh.toList.getD 0 none = some shapeWord) ∧
    (∃ s e, LaneHand (.tmma ⟨1, 0, 16, 0, 0, 24, 0, 32, 0, 0, 0, 0, 0⟩) s e ∧ e.th.heldOp = none) ∧
    (∃ s e, LaneHand (.tsave ⟨1, 0, 16, 0, 0, 0, 0, 0, 0, 0, 0, 0, 0⟩) s e ∧ e.th.heldOp = none ∧ (e.pair 0).toNat % 128 ≠ 0) ∧
    (∃ s e, LaneHand (.tload ⟨1, 0, 16, 0, 0, 0, 0, 0, 0, 0, 0, 0, 0⟩) s e ∧ e.th.heldOp = none ∧ (e.pair 0).toNat = 0x10000 ∧
      (e.start (.tload ⟨1, 0, 16, 0, 0, 0, 0, 0, 0, 0, 0, 0, 0⟩) s).areasTrap e.acor [rangeAt (.glob 0x10000) 16384] [] = none ∧
      (e.start (.tload ⟨1, 0, 16, 0, 0, 0, 0, 0, 0, 0, 0, 0, 0⟩) s).tileHeld e.b.id e.j 0 = false) ∧
    (∃ s e, LaneHand (.tclaim ⟨1, 8, 16, 0, 0, 0, 0, 0, 0, 0, 0, 0, 0⟩) s e ∧ e.th.heldOp = none ∧ (e.x 0).toNat = 0x1FFFF ∧
      mayEnter (e.start (.tclaim ⟨1, 8, 16, 0, 0, 0, 0, 0, 0, 0, 0, 0, 0⟩) s) (tileOp (e.start (.tclaim ⟨1, 8, 16, 0, 0, 0, 0, 0, 0, 0, 0, 0, 0⟩) s) e.acor e.pc
        (tileOf e.acor 0 0 0 0x1FFFF 0x1FFFF (e.pair 1).toNat (e.pair 2).toNat) [] [])) ∧
    (∃ s e, LaneHand (.tfree ⟨1, 0, 16, 0, 0, 0, 0, 0, 0, 0, 0, 0, 0⟩) s e ∧ e.th.heldOp = none) ∧
    ∃ s e, LeadHand (.leadTswap ⟨1, 0, 0, 0, 0, 0, 0, 0⟩) s e ∧ e.l.status = .ready :=
  ⟨by unfold recordOk; decide, by unfold recordOk; decide, by unfold recordOk; decide,
  met (cmdS (thr [(16, 0x02010000), (17, 1)])) r0 (fun e => decide (e.pair 0 = shapeWord)) (by decide +kernel) fun _ h => of_decide_eq_true h,
  met (cmdS (thr [])) r0 (fun e => decide (e.th.heldOp = none ∧ e.sh.tile.sh.toList.getD 0 none = none)) (by decide +kernel) fun _ h => of_decide_eq_true h,
  met (let s := cmdS (thr []); { s with blocks := s.blocks.map fun (b : Block) => { b with shares := b.shares.map fun (x : Share) =>
      { x with tile := { x.tile with sh := x.tile.sh.set! 0 (some shapeWord) } } } }) r0
    (fun e => decide (e.th.heldOp = none ∧ e.sh.tile.sh.toList.getD 0 none = some shapeWord)) (by decide +kernel) fun _ h => of_decide_eq_true h,
  met (cmdS (thr [])) r0 (fun e => decide (e.th.heldOp = none)) (by decide +kernel) fun _ h => of_decide_eq_true h,
  met (cmdS (thr [(16, 64)])) r0 (fun e => decide (e.th.heldOp = none ∧ (e.pair 0).toNat % 128 ≠ 0)) (by decide +kernel) fun _ h => of_decide_eq_true h,
  met (cmdS (thr [(16, 0x10000)])) r0 (fun e =>
      let u := e.start (.tload ⟨1, 0, 16, 0, 0, 0, 0, 0, 0, 0, 0, 0, 0⟩) (cmdS (thr [(16, 0x10000)]))
      decide (e.th.heldOp = none ∧ (e.pair 0).toNat = 0x10000 ∧ u.areasTrap e.acor [rangeAt (.glob 0x10000) 16384] [] = none ∧ u.tileHeld e.b.id e.j 0 = false))
    (by decide +kernel) fun _ h => of_decide_eq_true h,
  met (cmdS (thr [(16, 0x1FFFF)])) r0 (fun e =>
      let u := e.start (.tclaim ⟨1, 8, 16, 0, 0, 0, 0, 0, 0, 0, 0, 0, 0⟩) (cmdS (thr [(16, 0x1FFFF)]))
      decide (e.th.heldOp = none ∧ (e.x 0).toNat = 0x1FFFF) &&
        enters u (tileOp u e.acor e.pc (tileOf e.acor 0 0 0 0x1FFFF 0x1FFFF (e.pair 1).toNat (e.pair 2).toNat) [] [])) (by decide +kernel)
    fun _ h => by
      simp only [Bool.and_eq_true, decide_eq_true_eq] at h
      exact ⟨h.1.1, h.1.2, enters_true h.2⟩,
  met (cmdS (thr [])) r0 (fun e => decide (e.th.heldOp = none)) (by decide +kernel) fun _ h => of_decide_eq_true h,
  metLead (cmdL (leadAt [])) l0 (fun e => decide (e.l.status = .ready)) (by decide +kernel) fun _ h => of_decide_eq_true h⟩

/-- The operation of MINP on 64 logits at 0, a mask at 0x200 and a list at 0x400. -/
def minpOp (u : State) (e : LaneEnv) : Op :=
  u.newOp e.acor 0 (.sample ⟨false, 0, 0, 0, e.vals.getD 0 [], e.vals.getD 1 [], e.vals.getD 2 []⟩) (e.b.flatAreas 0 256 ++ e.b.flatAreas 0x200 8) (e.b.flatAreas 0x400 528)

theorem witness_SamplerAndCatalogue : (∃ s e, LaneHand (.minp ⟨1, 8, 16, 0, 0, 24, 0, 32, 0, 0, 0, 0, 0⟩) s e ∧ e.th.heldOp = none ∧ (e.w 0 0).toNat = 0 ∧
      (e.w 0 1).toNat = 0x200 ∧ (e.w 1 0).toNat = 0x400 ∧ (e.w 1 1).toNat = 64 ∧ flatIn e.b 0x400 528 ∧
      mayEnter (e.start (.minp ⟨1, 8, 16, 0, 0, 24, 0, 32, 0, 0, 0, 0, 0⟩) s) (minpOp (e.start (.minp ⟨1, 8, 16, 0, 0, 24, 0, 32, 0, 0, 0, 0, 0⟩) s) e)) ∧
    (∃ s e, LaneHand (.minp ⟨1, 8, 16, 0, 0, 24, 0, 32, 0, 0, 0, 0, 0⟩) s e ∧ e.th.heldOp = none ∧ (e.w 1 1).toNat = 0) ∧
    (∃ s e, LaneHand (.minp ⟨1, 8, 16, 0, 0, 24, 0, 32, 0, 0, 0, 0, 0⟩) s e ∧ e.th.heldOp = none ∧ (e.w 1 1).toNat = 262144 ∧ ¬flatIn e.b 0 (4 * 262144)) ∧
    (∃ s e, LaneHand (.catdraw ⟨1, 8, 16, 0, 0, 24, 0, 32, 0, 0, 0, 0, 0⟩) s e ∧ e.th.heldOp = none ∧ (e.x 1).toNat = 0x3F800000 ∧ (e.w 2 1).toNat = 2 ^ 30 - 1 ∧
      flatIn e.b 0 16) ∧
    (∃ s e, LaneHand (.kvlook ⟨1, 8, 16, 0, 0, 0, 0, 0, 0, 0, 0, 0, 0⟩) s e ∧ e.th.heldOp = none) ∧
    (∃ s e, LaneHand (.kvins ⟨1, 8, 16, 0, 0, 24, 0, 32, 0, 0, 0, 0, 0⟩) s e ∧ e.th.heldOp = none ∧ (e.pair 1).toNat = 0x10000 ∧ (e.x 2).toNat = 0xFFFF) ∧
    ∃ s e, LaneHand (.kvunref ⟨1, 8, 16, 0, 0, 0, 0, 0, 0, 0, 0, 0, 0⟩) s e ∧ e.th.heldOp = none ∧ e.th.st = 0 ∧ (∀ x ∈ s.sideLog, x.who ≠ e.r) ∧
      ∀ l ∈ s.loads, l.who ≠ .lane e.r :=
  ⟨met (cmdS (thr [(17, 0x200), (24, 0x400), (25, 64)])) r0 (fun e =>
      let u := e.start (.minp ⟨1, 8, 16, 0, 0, 24, 0, 32, 0, 0, 0, 0, 0⟩) (cmdS (thr [(17, 0x200), (24, 0x400), (25, 64)]))
      decide (e.th.heldOp = none ∧ (e.w 0 0).toNat = 0 ∧ (e.w 0 1).toNat = 0x200 ∧ (e.w 1 0).toNat = 0x400 ∧ (e.w 1 1).toNat = 64 ∧
        0x400 + 528 ≤ e.b.c * e.b.loc) && enters u (minpOp u e)) (by decide +kernel)
    fun _ h => by
      simp only [Bool.and_eq_true, decide_eq_true_eq] at h
      exact ⟨h.1.1, h.1.2.1, h.1.2.2.1, h.1.2.2.2.1, h.1.2.2.2.2.1, h.1.2.2.2.2.2, enters_true h.2⟩,
  met (cmdS (thr [])) r0 (fun e => decide (e.th.heldOp = none ∧ (e.w 1 1).toNat = 0)) (by decide +kernel) fun _ h => of_decide_eq_true h,
  met (cmdS (thr [(25, 262144)])) r0 (fun e => decide (e.th.heldOp = none ∧ (e.w 1 1).toNat = 262144 ∧ ¬(0 + 4 * 262144 ≤ e.b.c * e.b.loc))) (by decide +kernel)
    fun _ h => by
      simp only [decide_eq_true_eq] at h
      exact h,
  met (cmdS (thr [(24, 0x3F800000), (33, 0x3FFFFFFF)])) r0 (fun e => decide (e.th.heldOp = none ∧ (e.x 1).toNat = 0x3F800000 ∧ (e.w 2 1).toNat = 2 ^ 30 - 1 ∧
      0 + 16 ≤ e.b.c * e.b.loc)) (by decide +kernel) fun _ h => by
      simp only [decide_eq_true_eq] at h
      exact h,
  met (cmdS (thr [])) r0 (fun e => decide (e.th.heldOp = none)) (by decide +kernel) fun _ h => of_decide_eq_true h,
  met (cmdS (thr [(24, 0x10000), (32, 0xFFFF)])) r0 (fun e => decide (e.th.heldOp = none ∧ (e.pair 1).toNat = 0x10000 ∧ (e.x 2).toNat = 0xFFFF)) (by decide +kernel)
    fun _ h => of_decide_eq_true h,
  met (cmdS (thr [])) r0 (fun e => decide (e.th.heldOp = none ∧ e.th.st = 0)) (by decide +kernel) fun _ h => by
      simp only [decide_eq_true_eq] at h
      exact ⟨h.1, h.2, by simp [cmdS, memS, laneS, State.reset], by simp [cmdS, memS, laneS, State.reset]⟩⟩

/-- The machine with channel 3 of die A set up by the block's context. -/
def chanS (th : Thread) (es : List BfEntry) (bs : List Batch) : State := { cmdS th with cycA := 9, channels := [⟨.a, 3, some 1023, 4, 8, 100, es, bs, 2, none, [⟨⟨1, 0⟩, 8, 0, 0⟩]⟩] }

theorem witness_BatchQueue : (∃ s e, LaneHand (.bfjoin ⟨1, 8, 16, 0, 0, 24, 0, 0, 0, 0, 0, 0, 3⟩) s e ∧ (∃ c, owns s e 3 c ∧ (e.x 0).toNat = c.maxRows) ∧
      s.bfqState e.b.die = .ready ∧ e.th.st = 0) ∧
    (∃ s e, LaneHand (.bfjoin ⟨1, 8, 16, 0, 0, 24, 0, 0, 0, 0, 0, 0, 3⟩) s e ∧ ∃ c, owns s e 3 c ∧ c.maxRows < (e.x 0).toNat) ∧
    (∃ s e, LaneHand (.bfjoin ⟨1, 8, 16, 0, 0, 24, 0, 0, 0, 0, 0, 0, 3⟩) s e ∧ e.th.status = .wait (.join 5 (some 7))) ∧
    (∃ s e, LaneHand (.bfjoin ⟨1, 8, 16, 0, 0, 24, 0, 0, 0, 0, 0, 0, 2⟩) s e ∧ s.channel? e.b.die 2 = none ∧ (e.x 0).toNat = 1) ∧
    (∃ s e, LaneHand (.bftake ⟨1, 8, 16, 0, 0, 0, 0, 0, 0, 0, 0, 0, 3⟩) s e ∧ (e.x 0).toNat % 16 ≠ 0) ∧
    (∃ s e, LaneHand (.bftake ⟨1, 8, 16, 0, 0, 0, 0, 0, 0, 0, 0, 0, 3⟩) s e ∧ (e.b.local? (e.x 0).toNat 1040).isSome = true ∧
      ∃ c, owns s e 3 c ∧ c.batches = [] ++ (⟨1, 4, [(9, 0, 4)], none⟩ : Batch) :: [] ∧ c.takers = [⟨e.r, 8, 0, 0⟩] ∧ s.cycle e.b.die = 9) ∧
    (∃ s e, LaneHand (.bfdone ⟨1, 0, 16, 0, 0, 24, 0, 0, 0, 0, 0, 0, 0⟩) s e ∧ (e.x 0).toNat = 3 + 8 * 1 ∧ ∃ c x, owns s e 3 c ∧ x ∈ c.batches ∧ x.num = 1 ∧ x.taker = some 1) ∧
    (∃ s e, LeadHand (.bfcfg ⟨1, 0, 3, 0, 16, 0, 0, 0⟩) s e ∧ s.channel? e.b.die 3 = none ∧ s.bfqState e.b.die = .ready) ∧
    cfgOk (4096 + 4096 * 2 ^ 16 + 2 ^ 20 * 2 ^ 32) ∧ ¬cfgOk (4096 + 4096 * 2 ^ 16 + 15 * 2 ^ 32) :=
  ⟨met (chanS (thr [(16, 8)]) [] []) r0 (fun e => decide (e.b.die = .a ∧ e.b.ctx = 1023 ∧ (e.x 0).toNat = 8 ∧ (chanS (thr [(16, 8)]) [] []).bfqState e.b.die = .ready ∧ e.th.st = 0))
      (by decide +kernel) fun e h => by
      simp only [decide_eq_true_eq] at h
      exact ⟨⟨_, ⟨by rw [channelOf, h.1]; rfl, by rw [h.2.1]⟩, h.2.2.1⟩, h.2.2.2.1, h.2.2.2.2⟩,
  met (chanS (thr [(16, 9)]) [] []) r0 (fun e => decide (e.b.die = .a ∧ e.b.ctx = 1023 ∧ (e.x 0).toNat = 9)) (by decide +kernel) fun e h => by
      simp only [decide_eq_true_eq] at h
      exact ⟨_, ⟨by rw [channelOf, h.1]; rfl, by rw [h.2.1]⟩, by rw [h.2.2]; decide⟩,
  met (chanS { thr [] with status := .wait (.join 5 (some 7)) } [] []) r0 (fun e => decide (e.th.status = .wait (.join 5 (some 7)))) (by decide +kernel)
    fun _ h => of_decide_eq_true h,
  met (chanS (thr [(16, 1)]) [] []) r0 (fun e => ((chanS (thr [(16, 1)]) [] []).channel? e.b.die 2).isNone && decide ((e.x 0).toNat = 1)) (by decide +kernel)
    fun _ h => by simpa using h,
  met (chanS (thr [(16, 8)]) [] []) r0 (fun e => decide ((e.x 0).toNat % 16 ≠ 0)) (by decide +kernel) fun _ h => of_decide_eq_true h,
  met (chanS (thr [(16, 0xBF0)]) [] [⟨1, 4, [(9, 0, 4)], none⟩]) r0 (fun e => decide (e.b.die = .a ∧ e.b.ctx = 1023 ∧ e.r = r0 ∧ (e.b.local? (e.x 0).toNat 1040).isSome = true))
    (by decide +kernel) fun e h => by
      simp only [decide_eq_true_eq] at h
      exact ⟨h.2.2.2, _, ⟨by rw [channelOf, h.1]; rfl, by rw [h.2.1]⟩, rfl, by rw [h.2.2.1], by rw [h.1]; rfl⟩,
  met (chanS (thr [(16, 11)]) [] [⟨1, 4, [(9, 0, 4)], some 1⟩]) r0 (fun e => decide (e.b.die = .a ∧ e.b.ctx = 1023 ∧ (e.x 0).toNat = 3 + 8 * 1))
    (by decide +kernel) fun e h => by
      simp only [decide_eq_true_eq] at h
      exact ⟨h.2.2, _, ⟨1, 4, [(9, 0, 4)], some 1⟩, ⟨by rw [channelOf, h.1]; rfl, by rw [h.2.1]⟩, by simp, rfl, rfl⟩,
  metLead (cmdL (leadAt [])) l0 (fun e => ((cmdL (leadAt [])).channel? e.b.die 3).isNone && decide ((cmdL (leadAt [])).bfqState e.b.die = .ready)) (by decide +kernel)
    fun _ h => by simpa using h,
  by unfold cfgOk; decide, by unfold cfgOk; decide⟩


/-- An operation of the thread in hand that has finished with some words. -/
def doneOp (w : Work) (ws : List Word) : Op :=
  ⟨9, .agent (.lane r0), 1023, .a, 0, none, 7, w, [], [], [], [], .finished ws, ⟨0, 0, 0, 0⟩, false, []⟩

/-- Operations that held their thread have finished; one of the stage has read its rows. -/
theorem witness_HeldGoesOn :
    (∃ s e, LaneHand (.minp ⟨1, 8, 16, 0, 0, 24, 0, 32, 0, 0, 0, 0, 0⟩) s e ∧ e.th.status = .wait (.op 9) ∧ (s.op? 9).map (·.phase) = some (.finished [4])) ∧
    (∃ s e, LaneHand (.catdraw ⟨1, 8, 16, 0, 0, 24, 0, 32, 0, 0, 0, 0, 0⟩) s e ∧ e.th.status = .wait (.op 9) ∧
      (s.op? 9).map (·.phase) = some (.finished [0x40])) ∧
    (∃ s e, LaneHand (.kvlook ⟨1, 8, 16, 0, 0, 0, 0, 0, 0, 0, 0, 0, 0⟩) s e ∧ e.th.status = .wait (.op 9) ∧
      (s.op? 9).map (·.phase) = some (.finished [1, 0, 0, 1])) ∧
    ∃ s e, LaneHand (.stt ⟨1, 8, 16, 0, 0, 24, 0, 32, 0, 0, 0, 0, 0⟩) s e ∧ e.th.status = .wait (.op 9) ∧
      (s.op? 9).map (fun x => (x.phase, x.work)) = some (.registered, .stash { moveOf with rows := some [] }) :=
  ⟨sure { cmdS (inState (.wait (.op 9))) with ops := [doneOp (.sample ⟨false, 0, 0, 0, [], [], []⟩) [4]] } (by decide +kernel),
  sure { cmdS (inState (.wait (.op 9))) with ops := [doneOp (.sample ⟨true, 0, 0, 0, [], [], []⟩) [0x40]] } (by decide +kernel),
  sure { cmdS (inState (.wait (.op 9))) with ops := [doneOp (.cat ⟨0, false, 0, 0, 0⟩) [1, 0, 0, 1]] } (by decide +kernel),
  sure { cmdS (inState (.wait (.op 9))) with ops := [{ doneOp (.stash { moveOf with rows := some [] }) [] with phase := .registered }] } (by decide +kernel)⟩

theorem witness_SamplerAndCatalogue_enters :
    (∃ s e, LaneHand (.catdraw ⟨1, 8, 16, 0, 0, 24, 0, 32, 0, 0, 0, 0, 0⟩) s e ∧ e.th.heldOp = none ∧ (e.x 0).toNat = 0 ∧ (e.x 1).toNat = 0x3F800000 ∧
      mayEnter (e.start (.catdraw ⟨1, 8, 16, 0, 0, 24, 0, 32, 0, 0, 0, 0, 0⟩) s) ((e.start (.catdraw ⟨1, 8, 16, 0, 0, 24, 0, 32, 0, 0, 0, 0, 0⟩) s).newOp e.acor 0
        (.sample ⟨true, e.th.key, 0, 0, e.vals.getD 0 [], e.vals.getD 1 [], e.vals.getD 2 []⟩) (e.b.flatAreas 0 16) [])) ∧
    (∃ s e, LaneHand (.kvlook ⟨1, 8, 16, 0, 0, 0, 0, 0, 0, 0, 0, 0, 0⟩) s e ∧ e.th.heldOp = none ∧
      mayEnter (e.start (.kvlook ⟨1, 8, 16, 0, 0, 0, 0, 0, 0, 0, 0, 0, 0⟩) s) (catOp (e.start (.kvlook ⟨1, 8, 16, 0, 0, 0, 0, 0, 0, 0, 0, 0, 0⟩) s) e 0 false 0 0)) ∧
    ∃ s e, LaneHand (.bfjoin ⟨1, 8, 16, 0, 0, 24, 0, 0, 0, 0, 0, 0, 3⟩) s e ∧ e.th.status = .wait (.join 5 none) :=
  ⟨met (cmdS (thr [(24, 0x3F800000)])) r0 (fun e =>
      let u := e.start (.catdraw ⟨1, 8, 16, 0, 0, 24, 0, 32, 0, 0, 0, 0, 0⟩) (cmdS (thr [(24, 0x3F800000)]))
      decide (e.th.heldOp = none ∧ (e.x 0).toNat = 0 ∧ (e.x 1).toNat = 0x3F800000) && enters u (u.newOp e.acor 0
        (.sample ⟨true, e.th.key, 0, 0, e.vals.getD 0 [], e.vals.getD 1 [], e.vals.getD 2 []⟩) (e.b.flatAreas 0 16) [])) (by decide +kernel)
    fun _ h => by
      simp only [Bool.and_eq_true, decide_eq_true_eq] at h
      exact ⟨h.1.1, h.1.2.1, h.1.2.2, enters_true h.2⟩,
  met (cmdS (thr [])) r0 (fun e =>
      let u := e.start (.kvlook ⟨1, 8, 16, 0, 0, 0, 0, 0, 0, 0, 0, 0, 0⟩) (cmdS (thr []))
      decide (e.th.heldOp = none) && enters u (catOp u e 0 false 0 0)) (by decide +kernel)
    fun _ h => by
      simp only [Bool.and_eq_true, decide_eq_true_eq] at h
      exact ⟨h.1, enters_true h.2⟩,
  sure (chanS (inState (.wait (.join 5 none))) [] []) (by decide +kernel)⟩
/-! Hypotheses of the statements about the lead slice. -/

theorem lead_in_hand (l : List Instr) (s : State) (r : LeadRef) (h : (l.all fun i => leadWith i s r fun _ => true) = true) :
    ∀ i ∈ l, ∃ s e, LeadHand i s e := fun i hi => by
  obtain ⟨s, e, he, -⟩ := metLead (i := i) (P := fun _ _ => True) s r _ (List.all_eq_true.mp h i hi) fun _ _ => trivial
  exact ⟨s, e, he⟩

theorem witness_LeadScalarsAndControl : ∀ i ∈ ([.leadAdd ⟨1, 10, 0, 0, 496, 2, 0, 0⟩, .leadSub ⟨1, 10, 0, 0, 496, 2, 0, 0⟩,
    .leadMul ⟨1, 10, 0, 0, 496, 2, 0, 0⟩, .leadMulhi ⟨1, 10, 1, 0, 496, 2, 0, 0⟩, .leadAnd ⟨1, 10, 1, 0, 496, 2, 0, 0⟩, .leadOr ⟨1, 10, 0, 0, 496, 2, 0, 0⟩,
    .leadXor ⟨1, 10, 0, 0, 496, 2, 0, 0⟩, .leadShl ⟨1, 10, 0, 0, 496, 2, 0, 0⟩, .leadShr ⟨1, 10, 0, 0, 496, 2, 0, 0⟩, .leadSar ⟨1, 10, 0, 0, 496, 2, 0, 0⟩,
    .leadMin ⟨1, 10, 0, 0, 496, 2, 0, 0⟩, .leadMax ⟨1, 10, 1, 0, 496, 2, 0, 0⟩, .leadSel ⟨1, 10, 0, 0, 496, 2, 3, 0⟩, .leadAddi ⟨1, 511, 0, 0, 496, 0x3FFFFF⟩,
    .leadMovi ⟨1, 10, 3, 0, 0x7FFFFFFF⟩, .movhi ⟨1, 10, 1, 0, 0⟩, .leadCmp ⟨1, 7, 0x0D, 0, 496, 2, 0, 0⟩, .leadBra ⟨1, 0, 0, 0, 0, 0, 3, 0⟩,
    .leadEnd ⟨1, 0, 0, 0, 0, 0, 0, 0⟩] : List Instr), ∃ s e, LeadHand i s e := lead_in_hand _ (leadS (leadAt [])) l0 (by decide +kernel)

theorem witness_LeadScalarsAndControl_branch : (∃ s e, LeadHand (.bp ⟨1, 0, 0, 0, 7, 1, 3, 0⟩) s e ∧ e.l.p.getLsbD 7 = false) ∧
    ∃ s e, LeadHand (.bp ⟨1, 0, 0, 0, 7, 0, 3, 0⟩) s e ∧ e.l.p.getLsbD 7 = false :=
  ⟨metLead (leadS (leadAt [])) l0 (fun e => decide (e.l.p.getLsbD 7 = false)) (by decide +kernel) fun _ h => of_decide_eq_true h,
  metLead (leadS (leadAt [])) l0 (fun e => decide (e.l.p.getLsbD 7 = false)) (by decide +kernel) fun _ h => of_decide_eq_true h⟩

/-- A lead context with queue 2 set up at 0x100, two words deep. -/
def queueLead (q : Queue) (ss : List (Nat × Dword)) : Lead := let l := leadAt ss; { l with queues := l.queues.set! 2 (some q) }

theorem witness_LeadMemoryAndQueues_access : (∃ s e, LeadHand (.leadLd ⟨1, 10, 0x0B, 0, 16, 0⟩) s e ∧ s.sampling e.b.ctx = false ∧
      leadAddr e ⟨1, 10, 0x0B, 0, 16, 0⟩ = 4088 ∧ (e.b.local? 4088 8).isSome = true ∧ s.lock e.acor.skip (.loc e.b.id 4088 8) < 2) ∧
    (∃ s e, LeadHand (.leadSt ⟨1, 10, 0x0B, 0, 16, 0⟩) s e ∧ s.sampling e.b.ctx = false ∧ leadAddr e ⟨1, 10, 0x0B, 0, 16, 0⟩ = 4096 ∧ e.b.local? 4096 8 = none) ∧
    (∃ s e, LeadHand (.leadLd ⟨1, 10, 0x02, 0, 16, 0⟩) s e ∧ s.sampling e.b.ctx = false ∧ s.chk e.acor (leadAddr e ⟨1, 10, 0x02, 0, 16, 0⟩) 4 .load 2 4 = .ok 0x100000) ∧
    (∃ s e, LeadHand (.leadSt ⟨1, 10, 0x02, 0, 16, 0⟩) s e ∧ s.sampling e.b.ctx = false ∧ s.chk e.acor (leadAddr e ⟨1, 10, 0x02, 0, 16, 0⟩) 4 .store 1 4 = .absent) ∧
    ∃ s e, LeadHand (.leadSt ⟨1, 10, 0x02, 0, 16, 0⟩) s e ∧ leadAddr e ⟨1, 10, 0x02, 0, 16, 0⟩ % 4 ≠ 0 :=
  ⟨metLead (cmdL (leadAt [(16, 4088)])) l0 (fun e => decide ((cmdL (leadAt [(16, 4088)])).sampling e.b.ctx = false ∧ leadAddr e ⟨1, 10, 0x0B, 0, 16, 0⟩ = 4088 ∧
      (e.b.local? 4088 8).isSome = true ∧ (cmdL (leadAt [(16, 4088)])).lock e.acor.skip (.loc e.b.id 4088 8) < 2)) (by decide +kernel) fun _ h => of_decide_eq_true h,
  metLead (cmdL (leadAt [(16, 4096)])) l0 (fun e => decide ((cmdL (leadAt [(16, 4096)])).sampling e.b.ctx = false ∧ leadAddr e ⟨1, 10, 0x0B, 0, 16, 0⟩ = 4096 ∧
      e.b.local? 4096 8 = none)) (by decide +kernel) fun _ h => of_decide_eq_true h,
  metLead (cmdL (leadAt [(16, 0x10000)])) l0 (fun e => decide ((cmdL (leadAt [(16, 0x10000)])).sampling e.b.ctx = false ∧
      (cmdL (leadAt [(16, 0x10000)])).chk e.acor (leadAddr e ⟨1, 10, 0x02, 0, 16, 0⟩) 4 .load 2 4 = .ok 0x100000)) (by decide +kernel) fun _ h => of_decide_eq_true h,
  metLead (cmdL (leadAt [(16, 0x20000)])) l0 (fun e => decide ((cmdL (leadAt [(16, 0x20000)])).sampling e.b.ctx = false ∧
      (cmdL (leadAt [(16, 0x20000)])).chk e.acor (leadAddr e ⟨1, 10, 0x02, 0, 16, 0⟩) 4 .store 1 4 = .absent)) (by decide +kernel) fun _ h => of_decide_eq_true h,
  metLead (cmdL (leadAt [(16, 2)])) l0 (fun e => decide (leadAddr e ⟨1, 10, 0x02, 0, 16, 0⟩ % 4 ≠ 0)) (by decide +kernel) fun _ h => of_decide_eq_true h⟩

theorem witness_LeadMemoryAndQueues_queues : (∃ s e, LeadHand (.dpush ⟨1, 0, 0, 0, 16, 0, 0, 0⟩) s e ∧ ∃ th ∈ e.b.threads, th.status ≠ .ended ∧ e.l.dqw - th.dqr = 64) ∧
    (∃ s e, LeadHand (.dpush ⟨1, 0, 0, 0, 16, 0, 0, 0⟩) s e ∧ ∀ th ∈ e.b.threads, e.l.dqw - th.dqr ≠ 64) ∧
    (∃ s e, LeadHand (.qset ⟨1, 0, 2, 0, 16, 0, 0, 0⟩) s e ∧ (e.l.get 16).toNat = 0xF80 + 64 * 2 ^ 32 ∧ e.b.loc = 4096 ∧ e.l.queues.toList.getD 2 none = none) ∧
    (∃ s e, LeadHand (.qset ⟨1, 0, 2, 0, 16, 0, 0, 0⟩) s e ∧ (e.l.get 16).toNat = 1 * 2 ^ 32) ∧
    (∃ s e, LeadHand (.qstart ⟨1, 0, 2, 0, 16, 0, 0, 0⟩) s e ∧ e.l.queues.toList.getD 2 none = none) ∧
    (∃ s e, LeadHand (.qstart ⟨1, 0, 2, 0, 16, 0, 0, 0⟩) s e ∧ e.l.queues.toList.getD 2 none = some ⟨0x100, 2, false, 1, 0, none⟩ ∧
      streamTakes e 16 ⟨0x100, 2, false, 1, 0, none⟩ ∧ streamLen e 16 = 4 ∧ streamAt e 16 3 = 12) ∧
    (∃ s e, LeadHand (.ewait ⟨1, 10, 0, 0, 0, 0, 0, 0⟩) s e ∧ e.l.evq = (⟨1, 2, true, []⟩ : Record) :: []) ∧
    (∃ s e, LeadHand (.ewait ⟨1, 10, 1, 0, 0, 0, 0, 0⟩) s e ∧ e.l.evq = []) ∧
    (∃ s e, LeadHand (.ckpt ⟨1, 0, 0, 0, 16, 17, 0, 0⟩) s e ∧ (s.node? e.b.nodeRef).isSome = true ∧ (s.replay? e.b.seq.toNat 1).isNone = true) :=
  ⟨metLead (leadS { leadAt [] with dqw := 64 }) l0 (fun e => decide (∃ th ∈ e.b.threads, th.status ≠ .ended ∧ e.l.dqw - th.dqr = 64)) (by decide +kernel)
    fun _ h => of_decide_eq_true h,
  metLead (leadS { leadAt [] with dqw := 63 }) l0 (fun e => decide (∀ th ∈ e.b.threads, e.l.dqw - th.dqr ≠ 64)) (by decide +kernel)
    fun _ h => of_decide_eq_true h,
  metLead (leadS (leadAt [(16, BitVec.ofNat 64 (0xF80 + 64 * 2 ^ 32))])) l0 (fun e => decide ((e.l.get 16).toNat = 0xF80 + 64 * 2 ^ 32 ∧ e.b.loc = 4096 ∧
      e.l.queues.toList.getD 2 none = none)) (by decide +kernel) fun _ h => of_decide_eq_true h,
  metLead (leadS (leadAt [(16, 0x100000000)])) l0 (fun e => decide ((e.l.get 16).toNat = 1 * 2 ^ 32)) (by decide +kernel) fun _ h => of_decide_eq_true h,
  metLead (leadS (leadAt [])) l0 (fun e => decide (e.l.queues.toList.getD 2 none = none)) (by decide +kernel) fun _ h => of_decide_eq_true h,
  metLead (leadS (queueLead ⟨0x100, 2, false, 1, 0, none⟩ [(16, BitVec.ofNat 64 (2 ^ 63)), (17, 3), (18, 4)])) l0
    (fun e => decide (e.l.queues.toList.getD 2 none = some ⟨0x100, 2, false, 1, 0, none⟩ ∧ (e.l.get 16).toNat / 2 ^ 56 % 2 ^ 7 = 0 ∧
      (∀ k, k < 7 → 2 ≤ k → -(2 ^ 39) ≤ (e.l.get (BitVec.ofNat 9 (16 + k))).toInt ∧ (e.l.get (BitVec.ofNat 9 (16 + k))).toInt < 2 ^ 39) ∧ e.l.get 22 = 0 ∧
      streamLen e 16 = 4 ∧ streamAt e 16 3 = 12)) (by decide +kernel) fun _ h => by
      simp only [decide_eq_true_eq] at h
      exact ⟨h.1, ⟨rfl, h.2.1, fun k h2 h6 => h.2.2.1 k (by omega) h2, fun _ => h.2.2.2.1⟩, h.2.2.2.2⟩,
  metLead (leadS { leadAt [] with evq := [⟨1, 2, true, []⟩] }) l0 (fun e => decide (e.l.evq = (⟨1, 2, true, []⟩ : Record) :: [])) (by decide +kernel)
    fun _ h => of_decide_eq_true h,
  metLead (leadS (leadAt [])) l0 (fun e => decide (e.l.evq = [])) (by decide +kernel) fun _ h => of_decide_eq_true h,
  metLead (cmdL (leadAt [])) l0 (fun e => ((cmdL (leadAt [])).node? e.b.nodeRef).isSome && ((cmdL (leadAt [])).replay? e.b.seq.toNat 1).isNone) (by decide +kernel)
    fun _ h => by simpa using h⟩

/-- A ring that fits at the top of the share, one that is not empty, an access held on an absent page, and a round of one lead context. -/
theorem witness_LeadMemoryAndQueues_2 :
    (∃ s e, LeadHand (.qset ⟨1, 0, 2, 0, 16, 0, 0, 0⟩) s e ∧ (e.l.get 16).toNat = 0xF00 + 64 * 2 ^ 32 ∧ e.b.loc = 4096 ∧ e.l.queues.toList.getD 2 none = none) ∧
    (∃ s e, LeadHand (.qset ⟨1, 0, 2, 0, 16, 0, 0, 0⟩) s e ∧ (e.l.get 16).toNat = 0xF00 + 64 * 2 ^ 32 ∧
      e.l.queues.toList.getD 2 none = some ⟨0x100, 2, false, 1, 1, none⟩ ∧ ∃ t ∈ e.b.onCore e.r.j, (e.b.threads[t]?).map (fun th => (th.status, th.qr.toList.getD 2 0)) = some (.ready, 0)) ∧
    (∃ s e, LeadHand (.leadLd ⟨1, 10, 0x02, 0, 16, 0⟩) s e ∧ s.chk e.acor (leadAddr e ⟨1, 10, 0x02, 0, 16, 0⟩) 4 .load 2 4 = .absent ∧
      ∃ x ∈ s.faults, x.unit = e.acor.unit ∧ x.ctx = e.b.nodeRef.ctx ∧ x.va / 65536 = leadAddr e ⟨1, 10, 0x02, 0, 16, 0⟩ / 65536) ∧
    (∃ s e, LeadHand (.ckpt ⟨1, 0, 0, 0, 16, 17, 0, 0⟩) s e ∧ recordReaches s e.b.nodeRef 0 64 ∧ (s.node? e.b.nodeRef).isSome = true ∧
      (∀ t ∈ e.b.onCore e.r.j, ∀ th, e.b.threads[t]? = some th → s.atDq e.b e.sh t th = true ∧ th.st = 0 ∧ ∀ x ∈ s.sideLog, x.who ≠ ⟨e.b.id, t⟩)) :=
  ⟨sureLead (leadS (leadAt [(16, BitVec.ofNat 64 (0xF00 + 64 * 2 ^ 32))])) (by decide +kernel),
  sureLead (leadS (queueLead ⟨0x100, 2, false, 1, 1, none⟩ [(16, BitVec.ofNat 64 (0xF00 + 64 * 2 ^ 32))])) (by decide +kernel),
  sureLead { cmdL (leadAt [(16, 0x20000)]) with faults := [⟨.core .a 0, 1023, ⟨1023, 1, 0⟩, 0, 0x20000, false, 0, 0⟩] } (by decide +kernel),
  metLead (let s := cmdL (leadAt []); { s with ctxs := [], blocks := s.blocks.map fun b => { b with threads := [] } }) l0
    (fun e => decide (e.b.nodeRef = ⟨1023, 1, 0⟩ ∧ e.b.threads = [])) (by decide +kernel) fun _ h => by
      simp only [decide_eq_true_eq] at h
      exact ⟨fun _ hc => absurd hc (by simp [State.ctx?]), by rw [h.1]; rfl, fun t _ th ht => by rw [h.2] at ht; simp at ht⟩⟩

-- R408's add in the table's example form add s10, s496, s2
theorem test_lead_add : (match exec (decodeUnit 0xF8000500 0x7C004000) (leadS (leadAt [(496, 40), (2, 2)])) with
    | .next t => (t.lead? l0).map fun l => (l.get 10, l.pc)
    | _ => none) = some (42, 0xC002) := by decide +kernel
-- R410: movi with SEXT and bit 31 of the constant in MODE bit 0
theorem test_lead_movi : (match exec (.leadMovi ⟨1, 10, 3, 0, 0x7FFFFFFF⟩) (leadS (leadAt [])) with
    | .next t => (t.lead? l0).map fun l => l.get 10
    | _ => none) = some 0xFFFFFFFFFFFFFFFF := by decide +kernel

/-! Hypotheses of the statements about events: the device, the network, commands, replays. -/

/-- A machine after reset with every unit ready and an event in hand. -/
def upS (a : Arg) : State := { State.reset with arg := a, pkg := { Pkg.reset with readyF := 0xFFFFFFFFFFFFFFFF, readyC := BitVec.allOnes 256 } }

/-- The same with a live context and its running block. -/
def evS (a : Arg) : State := { cmdS (thr []) with arg := a }

theorem witness_PackageAndWindow : (∃ s : State, s.arg = .unit .a 0x05 true ∧ hasTest 0x05 = true ∧ unitKey .a 0x05 ∉ s.pkg.passed ∧ unitKey .a 0x05 ∉ s.pkg.failed) ∧
    (∃ s : State, s.arg = .unit .b 0x9C false ∧ hasTest 0x9C = true ∧ unitKey .b 0x9C ∉ s.pkg.passed ∧ unitKey .b 0x9C ∉ s.pkg.failed) ∧ hasTest 0xA8 = false ∧
    (∃ s : State, s.arg = .extend 7 [1] ∧ s.pkg.readyF.getLsbD 0 = true ∧ s.pkg.readyF.getLsbD 1 = true) ∧ (∃ s : State, s.pkg.readyF.getLsbD 1 = false ∧ (Die.a, 0xFE) ∈ s.pkg.passed ∧ (Die.a, 0xFE) ∉ s.pkg.failed) ∧
    (∃ s : State, s.arg = .nonce 5 ∧ s.pkg.readyF.getLsbD 0 = true ∧ s.fw.nonces.length = 4) ∧
    (∃ s : State, s.fw.nonces = (5 : BitVec 256) :: [] ∧ s.pkg.readyF.getLsbD 0 = true) ∧
    (∃ (s : State) (pa : Nat), s.arg = .num pa ∧ homeOf pa = .tier2 .a) ∧ (∃ s : State, s.arg = .soft (.charged 1023 .a 0x05) ∧ (s.ctx? 1023).isSome = true ∧ hasTest 0x05 = true) ∧
    (∃ s : State, s.pkg.readyF.getLsbD 2 = true ∧ s.pkg.flitRetries = 16) ∧ (∃ s : State, s.pkg.flitRetries = 15) ∧
    (∃ s : State, s.arg = .coolant ⟨451, 160, 1050, 1050⟩ ∧ s.pkg.thermal ≠ 2) ∧
    (∃ s : State, s.arg = .coolant ⟨400, 200, 950, 950⟩ ∧ s.pkg.thermal = 1 ∧ s.pkg.slow = true ∧ s.pkg.normalRun = 98) ∧
    tripped ⟨451, 160, 1050, 1050⟩ ∧ ¬tripped ⟨450, 160, 1050, 1050⟩ ∧ warned ⟨401, 200, 950, 950⟩ ∧ ¬warned ⟨400, 200, 950, 950⟩ ∧
    takes { State.reset with evt := { Evt.reset with cfg := 0x114, tail := 0xFFFFF } } ∧ ¬takes { State.reset with evt := { Evt.reset with cfg := 0x114, tail := 0x100000 } } :=
  ⟨⟨upS (.unit .a 0x05 true), rfl, by decide, by decide, by decide⟩, ⟨upS (.unit .b 0x9C false), rfl, by decide, by decide, by decide⟩, by decide,
  ⟨upS (.extend 7 [1]), rfl, by decide, by decide⟩, ⟨{ State.reset with pkg := { Pkg.reset with passed := [(.a, 0xFE)] } }, by decide⟩,
  ⟨{ upS (.nonce 5) with fw := { Firmware.reset with nonces := [1, 2, 3, 4] } }, rfl, by decide, rfl⟩,
  ⟨{ upS .none with fw := { Firmware.reset with nonces := [5] } }, rfl, by decide⟩, ⟨upS (.num 0xFFFFFFFF80), 0xFFFFFFFF80, rfl, by decide⟩,
  ⟨evS (.soft (.charged 1023 .a 0x05)), rfl, rfl, by decide⟩, ⟨{ upS .none with pkg := { (upS .none).pkg with flitRetries := 16 } }, by decide, rfl⟩,
  ⟨{ upS .none with pkg := { (upS .none).pkg with flitRetries := 15 } }, rfl⟩, ⟨upS (.coolant ⟨451, 160, 1050, 1050⟩), rfl, by decide⟩,
  ⟨{ upS (.coolant ⟨400, 200, 950, 950⟩) with pkg := { (upS .none).pkg with thermal := 1, slow := true, normalRun := 98 } }, rfl, rfl, rfl, rfl⟩,
  by unfold tripped; decide, by unfold tripped; decide, by unfold warned tripped; decide, by unfold warned tripped; decide,
  by unfold takes; decide, by unfold takes; decide⟩

theorem witness_PackageAndWindow_host : (∃ s : State, s.arg = .window ⟨0x108, 8, 0x12345678⟩ ∧ s.readyBit bitMgmt = true ∧ s.readyBit bitFw = true) ∧
    (∃ s : State, s.arg = .window ⟨0x5F8, 8, 1⟩ ∧ s.readyBit bitMgmt = true ∧ (0x5F8 : Nat) = 0x400 + 8 * 63) ∧ (∃ s : State, s.arg = .window ⟨0x7FF, 4, 1⟩) ∧
    (plainRegister State.reset 0x610 0).isSome = true ∧
    (∃ s : State, s.arg = .num 15) ∧ (∃ s : State, s.live (s.dbg.cfg.toNat % 2 ^ 10) = true) ∧
    (∃ (s : State) (c : Ctx), s.arg = .kick 1023 (15 * 2 ^ 32) ∧ s.readyBit bitMgmt = true ∧ s.readyBit bitFw = true ∧ s.ctx? 1023 = some c ∧ c.stat ≠ 3 ∧
      s.readyBit (bitGc c.home) = true ∧ (BitVec.ofNat 32 ((15 * 2 ^ 32 : BitVec 256).toNat / 2 ^ 32) - c.e : Word).toNat = 14) ∧
    (∃ (s : State) (c : Ctx), s.arg = .kick 1023 (17 * 2 ^ 32) ∧ s.ctx? 1023 = some c ∧ (BitVec.ofNat 32 ((17 * 2 ^ 32 : BitVec 256).toNat / 2 ^ 32) - c.e : Word).toNat = 16) ∧
    (∃ s : State, s.arg = .kick 3 0 ∧ s.ctx? 3 = none) ∧ ∃ (s : State) (c : Ctx), s.arg = .fp 1023 35 9 ∧ s.ctx? 1023 = some c ∧ s.readyBit bitMgmt = true :=
  ⟨⟨upS (.window ⟨0x108, 8, 0x12345678⟩), rfl, by decide, by decide⟩, ⟨upS (.window ⟨0x5F8, 8, 1⟩), rfl, by decide, by decide⟩, ⟨upS (.window ⟨0x7FF, 4, 1⟩), rfl⟩,
  by decide, ⟨upS (.num 15), rfl⟩, ⟨{ evS .none with dbg := { Dbg.reset with cfg := 1023 } }, by decide +kernel⟩,
  ⟨evS (.kick 1023 (15 * 2 ^ 32)), fetchCtx, rfl, by decide +kernel, by decide +kernel, rfl, by decide, by decide +kernel, by decide⟩,
  ⟨evS (.kick 1023 (17 * 2 ^ 32)), fetchCtx, rfl, rfl, by decide⟩, ⟨evS (.kick 3 0), rfl, rfl⟩,
  ⟨evS (.fp 1023 35 9), fetchCtx, rfl, rfl, by decide +kernel⟩⟩

/-- A region of 4,096 bytes with counter 5. -/
def region0 : Region := ⟨.a, 3, 1023, 0x10000, 4096, 5, 1⟩

/-- A host's packet for member 63 at the bridge, on port 0. -/
def brPkt : HeldPkt := .write ⟨0, 0x7F, 9, none, 1, 0, 64, 0, [1], .none⟩

/-- Member 63 is device 4, which port 0 reaches. -/
def bridgeS : State :=
  let s := upS (.bridge brPkt)
  { s with
    mem := (s.homeWrite (32 * 4 + 16) (bytesOf 8 0x10001)).mem
    pkg := { s.pkg with ports := Vector.replicate 16 ⟨true, false, false, 0, 0, 0⟩, bridge := s.pkg.bridge.set! 63 0x200004 } }

theorem witness_NetworkAndLandings : (∃ s : State, s.arg = .portUp 15 true false) ∧ (∃ s : State, s.arg = .num 15 ∧ ∀ o ∈ s.ops, o.towards = none) ∧
    (∃ s : State, s.arg = .num 0 ∧ s.pkg.readyF.getLsbD 48 = true ∧ s.pkg.ports[0].up = true) ∧ (∃ s : State, s.arg = .codeword 3 false) ∧
    (∃ (s : State) (p : HeldPkt), s.arg = .bridge p ∧ p.from_ = (0, 9) ∧ s.portUp 0 = true ∧ (s.pkg.bridge.toList.getD (p.key.toNat % 64) 0).getLsbD 21 = false) ∧
    (∃ (s : State) (p : HeldPkt), s.arg = .bridge p ∧ p.from_ = (0, 9) ∧ s.portUp 0 = true ∧ (s.pkg.bridge.toList.getD (p.key.toNat % 64) 0).toNat = 2 ^ 21 + 4 ∧
      s.pkg.devnum.toNat = 0 ∧ ∃ k, carries s .a 4 k) ∧
    (∃ (s : State) (p : RmaWrite), s.arg = .rmaWrite p ∧ p.port < 16 ∧ s.portUp p.port = true ∧ p.key.toNat / 64 ≠ 0x3FFFFFF ∧ ¬∃ r, keyNames s p.key r) ∧
    (∃ (s : State) (p : RmaWrite), s.arg = .rmaWrite p ∧ p.port < 16 ∧ s.portUp p.port = true ∧ p.key.toNat / 64 ≠ 0x3FFFFFF ∧ keyNames s p.key region0 ∧
      s.msgs = [] ∧ region0.len < p.off + p.total) ∧
    ∃ (s : State) (i : Nat) (p : HeldPkt), s.arg = .num i ∧ s.heldPkts[i]? = some p ∧ p.from_.1 < 16 := by
  let up : Pkg := { (upS .none).pkg with ports := Vector.replicate 16 ⟨true, false, false, 0, 0, 0⟩ }
  refine ⟨⟨upS (.portUp 15 true false), rfl⟩, ⟨upS (.num 15), rfl, by decide⟩, ⟨{ upS (.num 0) with pkg := up }, rfl, by decide, by decide⟩,
    ⟨upS (.codeword 3 false), rfl⟩, ⟨{ upS (.bridge brPkt) with pkg := up }, brPkt, rfl, rfl, by decide, by decide⟩,
    ⟨bridgeS, brPkt, rfl, rfl, by decide +kernel, by decide +kernel, rfl, 0, by unfold carries peerEntry; decide +kernel⟩, ?_, ?_, ?_⟩
  · refine ⟨{ upS (.rmaWrite ⟨0, 0xC0, 9, none, 1, 0, 64, 0, [1], .none⟩) with pkg := up }, ⟨0, 0xC0, 9, none, 1, 0, 64, 0, [1], .none⟩, rfl, by decide, by decide, by decide, ?_⟩
    simp [keyNames, upS, State.reset]
  · exact ⟨{ evS (.rmaWrite ⟨0, 0xC0, 9, none, 1, 4033, 64, 0, [1], .none⟩) with pkg := up, regions := [region0] }, ⟨0, 0xC0, 9, none, 1, 4033, 64, 0, [1], .none⟩, rfl, by decide, by decide,
      by decide, ⟨by decide, rfl⟩, rfl, by decide⟩
  · exact ⟨{ upS (.num 0) with heldPkts := [(.write ⟨0, 0xC0, 9, none, 1, 0, 64, 0, [1], .none⟩)] }, 0, _, rfl, rfl, by decide⟩

/-! Hypotheses of the statements about operations that end, commands, regions and graphs. -/

/-- A context whose tables map the page at 0x10000 to 0x500000, readable and writable; the page at 0x20000 is pending, the one at 0x30000 has no leaf. -/
def mapC : Ctx := { fetchCtx with l0 := 0x1000000, home := .a, classMax := 3, poolQ := 4, cores := 3, copyMask := 1 }

/-- The machine with those tables. -/
def mapM (s : State) : State :=
  ((((s.homeWrite 0x1000000 (bytesOf 8 0x2000001)).homeWrite 0x2000000 (bytesOf 8 0x3000001)).homeWrite 0x3000000 (bytesOf 8 0x4000001)).homeWrite 0x4000008
    (bytesOf 8 0x50001B)).homeWrite 0x4000010 (bytesOf 8 4)

/-- The machine with every unit ready, that context, and an event in hand. -/
def mapS (a : Arg) : State := { mapM (upS a) with ctxs := [mapC] }

theorem has_leaf : (mapS .none).walk .a mapC 0x10000 = .leaf 0x500000 65536 true true false 0 ∧ (mapS .none).walk .a mapC 0x20000 = .pend 65536 ∧
    (mapS .none).walk .a mapC 0x30000 = .bad 65536 := by decide +kernel

/-- An operation of the thread, and of its lead context. -/
def opOfW (id : Nat) (w : Work) (a : Agent) : Op := ⟨id, .agent a, 1023, .a, 0, none, 7, w, [], [], [], [], .registered, ⟨0, 0, 0, 0⟩, false, []⟩

/-- A triggered send that has fired. -/
def firedSend : Tsend := ⟨0x10000, 0, 3, .a, 9, 64, 1, 5, 0, 0, 0, true, 1⟩

/-- A collective of one member whose reduction is over. -/
def coll1 : Coll := ⟨[0], 0, 0, 0, 16, 1, 0, 4, false, 7, 0, 0, true, true, [], [], [], [], [], 0, none⟩

/-- One of two members that waits for input. -/
def coll2 : Coll := ⟨[0, 9], 0, 0, 0, 16, 2, 0, 4, false, 7, 0, 0, true, true, [], [], [], [], [], 0, none⟩

/-- The machine with these operations and an event in hand. -/
def withOps (a : Arg) (l : List Op) : State := { evS a with ops := l }

theorem witness_NetworkAndLandings_sends : ∃ (s : State) (o : Op), s.arg = .num 4 ∧ s.op? 4 = some o ∧ o.work = .tsend firedSend ∧ o.phase = .registered ∧
    firedSend.sent ≠ 0 ∧ firedSend.device ≠ s.pkg.devnum.toNat ∧ s.issuerHeld o = false ∧ s.cycle o.die < firedSend.sent - 1 + 400000000 :=
  ⟨withOps (.num 4) [opOfW 4 (.tsend firedSend) (.lane r0)], _, rfl, rfl, rfl, rfl, by decide, by decide, by decide +kernel, by decide +kernel⟩

theorem witness_NetworkAndLandings_late : ∃ (s : State) (o : Op), s.arg = .num 4 ∧ s.op? 4 = some o ∧ o.work = .tsend firedSend ∧
    firedSend.sent - 1 + 400000000 ≤ s.cycle o.die :=
  ⟨{ withOps (.num 4) [opOfW 4 (.tsend firedSend) (.lane r0)] with cycA := 400000000 }, _, rfl, rfl, rfl, by decide +kernel⟩

theorem witness_NetworkAndLandings_issuers :
    (∃ (s : State) (o : Op) (th y : Thread), o.issuer = .agent (.lane r0) ∧ s.thread? r0 = some th ∧ (s.finishOp o 0).thread? r0 = some y) ∧
    (∃ (s : State) (o : Op) (x : Lead), o.issuer = .agent (.lead l0) ∧ o.count ≠ .no ∧ s.lead? l0 = some x ∧ x.status ≠ .ended ∧
      ((s.finishOp o 0).lead? l0).isSome = true) ∧
    ∃ (s : State) (o : Op) (x : RNode), o.issuer = .node ⟨1023, 1, 0⟩ ∧ s.node? ⟨1023, 1, 0⟩ = some x ∧ x.op = some o.id ∧
      ((s.finishOp o 0x25).node? ⟨1023, 1, 0⟩).isSome = true :=
  ⟨⟨withOps .none [opOfW 4 (.tsend firedSend) (.lane r0)], opOfW 4 (.tsend firedSend) (.lane r0), _, _, rfl, rfl, rfl⟩,
  ⟨withOps .none [opOfW 4 (.tsend firedSend) (.lead l0)], opOfW 4 (.tsend firedSend) (.lead l0), _, rfl, by decide, rfl, by decide +kernel, by decide +kernel⟩,
  ⟨{ withOps .none [{ opOfW 4 (.coll coll1) (.lane r0) with issuer := .node ⟨1023, 1, 0⟩ }] with replays := [⟨1023, 0, 1, 0, 0, [{ node0 with op := some 4 }]⟩] },
    { opOfW 4 (.coll coll1) (.lane r0) with issuer := .node ⟨1023, 1, 0⟩ }, { node0 with op := some 4 }, rfl, rfl, rfl, by decide +kernel⟩⟩

/-- All ports carry traffic. -/
def upPorts (s : State) : State := { s with pkg := { s.pkg with ports := Vector.replicate 16 ⟨true, false, false, 0, 0, 0⟩ } }

/-- A check of what a collective's step asks. -/
def collReady (s : State) (o : Op) : Bool :=
  !s.issuerHeld o && decide (s.opPages o = .ready) && decide ((s.opMeets o).1 = .none)

theorem witness_NetworkAndLandings_colls :
    (∃ s : State, ∃ o, s.arg = .num 4 ∧ s.op? 4 = some o ∧ o.work = .coll coll1 ∧ o.phase = .registered ∧ collReady s o = true ∧ coll1.phaseOver = true ∧
      coll1.nextPhase = none) ∧
    (∃ s : State, ∃ o, s.arg = .num 4 ∧ s.op? 4 = some o ∧ o.work = .coll { coll1 with coll := 2 } ∧ collReady s o = true ∧
      ({ coll1 with coll := 2 } : Coll).nextPhase = some 1 ∧ ({ coll1 with coll := 2 } : Coll).phaseOver = true) ∧
    (∃ s : State, ∃ o, s.arg = .num 4 ∧ s.op? 4 = some o ∧ o.work = .coll { coll1 with leave := false, begun := false } ∧ collReady s o = true) ∧
    (∃ s : State, ∃ o, s.arg = .num 4 ∧ s.op? 4 = some o ∧ o.work = .coll coll2 ∧ collReady s o = true ∧ coll2.begun = true ∧ coll2.phaseOver = false ∧
      s.pkg.colltmo ≠ 0 ∧ coll2.waitFrom + s.pkg.colltmo.toNat < s.cycle o.die) ∧
    (∃ s : State, s.arg = .num 4 ∧ s.pkg.colltmo = 0) ∧
    ∃ s : State, ∃ o, s.arg = .coll 3 4 coll1.head .mismatch ∧ s.portUp 3 = true ∧ coll1.head ≠ coll2.head ∧ s.op? 4 = some o ∧ o.work = .coll coll2 ∧
      collReady s o = true ∧ coll2.inq = [] ∧ coll2.leave = true :=
  ⟨⟨withOps (.num 4) [opOfW 4 (.coll coll1) (.lane r0)], _, rfl, rfl, rfl, rfl, by decide +kernel, by decide, by decide⟩,
  ⟨withOps (.num 4) [opOfW 4 (.coll { coll1 with coll := 2 }) (.lane r0)], _, rfl, rfl, rfl, by decide +kernel, by decide, by decide⟩,
  ⟨withOps (.num 4) [opOfW 4 (.coll { coll1 with leave := false, begun := false }) (.lane r0)], _, rfl, rfl, rfl, by decide +kernel⟩,
  ⟨{ withOps (.num 4) [opOfW 4 (.coll coll2) (.lane r0)] with cycA := 2000000001 }, _, rfl, rfl, rfl, by decide +kernel, by decide, by decide, by decide +kernel,
    by decide +kernel⟩,
  ⟨{ upS (.num 4) with pkg := { (upS .none).pkg with colltmo := 0 } }, rfl, rfl⟩,
  ⟨upPorts (withOps (.coll 3 4 coll1.head .mismatch) [opOfW 4 (.coll coll2) (.lane r0)]), _, rfl, by decide +kernel, by decide, rfl, rfl, by decide +kernel, rfl, rfl⟩⟩

theorem witness_NetworkAndLandings_leave :
    (∃ s : State, s.arg = .die .a ∧ (s.gov .a).pending ≠ [] ∧ s.pkg.slow = false ∧ (s.gov .a).grants = 7 ∧ nextRequest (s.gov .a).pending = some (.copy 2, 3)) ∧
    (∃ s : State, s.arg = .die .a ∧ (s.gov .a).pending ≠ [] ∧ (s.gov .a).window = s.cycle .a / 64 ∧ (s.gov .a).grants = 8) ∧
    ∃ s : State, (∃ e ∈ (s.gov .a).idle, e.1 = 5 ∧ e.2 + 256 ≤ s.cycle .a) ∧ Requester.tile 5 ∈ (s.gov .a).held :=
  ⟨⟨{ upS (.die .a) with govA := ⟨[], [(.tile 5, 4), (.copy 2, 3)], 0, 7, 0, []⟩ }, rfl, by decide +kernel, rfl, rfl, by decide⟩,
  ⟨{ upS (.die .a) with govA := ⟨[], [(.tile 5, 4), (.copy 2, 3)], 0, 8, 0, []⟩ }, rfl, by decide +kernel, by decide +kernel, rfl⟩,
  ⟨{ upS (.die .a) with govA := ⟨[.tile 5], [], 0, 0, 0, [(5, 0)]⟩, cycA := 256 }, by decide +kernel, by decide +kernel⟩⟩

/-- A command that runs. -/
def cmdRuns (op : BitVec 8) (c : Cmd) : State := { mapS .none with cmdBusy := some ⟨op, c⟩ }

/-- A command for a context. -/
def cmdOf (ctx : BitVec 16) (ws : List Dword) : Cmd := ⟨0, ctx, 7, ws.getD 0 0, ws.getD 1 0, ws.getD 2 0, ws.getD 3 0, ws.getD 4 0, ws.getD 5 0, ws.getD 6 0⟩

theorem is_running (op : BitVec 8) (c : Cmd) : Claim.inHand (cmdRuns op c) ⟨op, c⟩ := ⟨rfl, .inl rfl⟩

theorem witness_HostCommands_queue :
    (∃ s : State, s.readyBit bitMgmt = true ∧ s.readyBit bitFw = true ∧ s.arg = .cmd (cmdOf 3 []) ∧ s.cmdq.length = 15) ∧
    (∃ s : State, s.arg = .cmd (cmdOf 3 []) ∧ s.cmdq.length = 16) ∧ (∃ s : State, s.arg = .badCmd 9 (cmdOf 3 [])) ∧
    (∃ s : State, Claim.inHand s ⟨9, cmdOf 3 []⟩) ∧
    (∃ (s : State) (q : QCmd), isFor .ctxLimits q ∧ Claim.inHand s q ∧ s.ctx? q.c.ctx.toNat = none ∧ q.c.rsv = 0 ∧ unassignedClear q) ∧
    (∃ (s : State) (q : QCmd), isFor .ctxLimits q ∧ Claim.inHand s q ∧ s.ctx? q.c.ctx.toNat ≠ none ∧ q.c.rsv = 0 ∧ ¬unassignedClear q) ∧
    ∃ (s : State) (q : QCmd), isFor .ctxCreate q ∧ Claim.inHand s q ∧ s.ctx? q.c.ctx.toNat ≠ none ∧ q.c.rsv = 0 ∧ unassignedClear q :=
  ⟨⟨{ upS (.cmd (cmdOf 3 [])) with cmdq := List.replicate 15 ⟨1, cmdOf 3 []⟩ }, by decide, by decide, rfl, rfl⟩,
  ⟨{ upS (.cmd (cmdOf 3 [])) with cmdq := List.replicate 16 ⟨1, cmdOf 3 []⟩ }, rfl, rfl⟩, ⟨upS (.badCmd 9 (cmdOf 3 [])), rfl⟩,
  ⟨{ upS .none with cmdq := [⟨9, cmdOf 3 []⟩] }, rfl, .inr ⟨rfl, [], rfl⟩⟩,
  ⟨cmdRuns 6 (cmdOf 3 [8]), ⟨6, cmdOf 3 [8]⟩, by simp [isFor, opOf], is_running _ _, by decide +kernel, rfl, by simp [unassignedClear, cmdOf]⟩,
  ⟨cmdRuns 6 (cmdOf 1023 [0x8008]), ⟨6, cmdOf 1023 [0x8008]⟩, by simp [isFor, opOf], is_running _ _, by decide +kernel, rfl, by simp [unassignedClear, cmdOf]⟩,
  ⟨cmdRuns 1 (cmdOf 1023 [0, 0, 8]), ⟨1, cmdOf 1023 [0, 0, 8]⟩, by simp [isFor, opOf], is_running _ _, by decide +kernel, rfl, by simp [unassignedClear, cmdOf]⟩⟩

theorem witness_HostCommands_create :
    (∃ (s : State) (q : QCmd), isFor .ctxCreate q ∧ Claim.inHand s q ∧ s.ctx? q.c.ctx.toNat = none ∧ q.c.rsv = 0 ∧ q.c.ctx.toNat < 1024 ∧ unassignedClear q ∧
      q.c.w3.toNat / 8 % 2 ^ 13 = 4096 ∧ q.c.w1.toNat % 64 = 0 ∧ s.meets .a none q.c.w1.toNat 64 true = .none ∧ rootLegal (natOf (s.homeRead q.c.w1.toNat 64))) ∧
    ∃ q : QCmd, isFor .ctxCreate q ∧ q.c.w3.toNat / 8 % 2 ^ 13 = 0 ∧ unassignedClear q :=
  ⟨⟨cmdRuns 1 (cmdOf 3 [0x9000, 0, 0x8000]), ⟨1, cmdOf 3 [0x9000, 0, 0x8000]⟩, by simp [isFor, opOf], is_running _ _, by decide +kernel, rfl, by decide,
    by simp [unassignedClear, cmdOf], by decide, by decide, by decide +kernel, by unfold rootLegal; decide +kernel⟩,
  ⟨⟨1, cmdOf 3 [0x9000, 0, 0]⟩, by simp [isFor, opOf], by decide, by simp [unassignedClear, cmdOf]⟩⟩

theorem witness_HostCommands_destroy :
    (∃ (s : State) (q : QCmd) (c : Ctx), isFor .ctxDestroy q ∧ Claim.inHand s q ∧ q.c.rsv = 0 ∧ s.ctx? q.c.ctx.toNat = some c ∧ c.stat ≠ 3 ∧
      s.replays.filter (fun r => r.ctx = q.c.ctx.toNat) = [⟨1023, 0, 1, 0, 0, [node0]⟩]) ∧
    (∃ (s : State) (q : QCmd) (c : Ctx), s.cmdBusy = some q ∧ q.op = 2 ∧ s.ctx? q.c.ctx.toNat = some c ∧ c.stat = 3 ∧ NothingLeft s q.c.ctx.toNat) ∧
    ∃ (s : State) (q : QCmd) (c : Ctx), s.cmdBusy = some q ∧ q.op = 2 ∧ s.ctx? q.c.ctx.toNat = some c ∧ c.stat = 3 ∧ ¬NothingLeft s q.c.ctx.toNat :=
  ⟨⟨{ cmdRuns 2 (cmdOf 1023 []) with replays := [⟨1023, 0, 1, 0, 0, [node0]⟩] }, ⟨2, cmdOf 1023 []⟩, mapC, by simp [isFor, opOf], ⟨rfl, .inl rfl⟩, rfl, rfl, by decide, rfl⟩,
  ⟨{ cmdRuns 2 (cmdOf 1023 []) with ctxs := [{ mapC with stat := 3 }] }, ⟨2, cmdOf 1023 []⟩, { mapC with stat := 3 }, rfl, rfl, rfl, rfl,
    by unfold NothingLeft; decide +kernel⟩,
  ⟨{ cmdRuns 2 (cmdOf 1023 []) with ctxs := [{ mapC with stat := 3 }], blocks := [fetchBlock 1] }, ⟨2, cmdOf 1023 []⟩, { mapC with stat := 3 }, rfl, rfl, rfl, rfl,
    by unfold NothingLeft; decide +kernel⟩⟩

theorem witness_HostCommands_partition :
    (∃ (s : State) (q : QCmd) (c : Ctx), isFor .ctxPartition q ∧ Claim.inHand s q ∧ q.c.rsv = 0 ∧ unassignedClear q ∧ s.ctx? q.c.ctx.toNat = some c ∧ c.stat = 1 ∧
      ∃ i, i < 256 ∧ asks q i ∧ sharers s 1023 i ≠ [] ∧ ¬(q.c.w6.getLsbD 0 = true)) ∧
    (∃ (s : State) (q : QCmd) (c : Ctx), isFor .ctxPartition q ∧ Claim.inHand s q ∧ q.c.rsv = 0 ∧ unassignedClear q ∧ s.ctx? q.c.ctx.toNat = some c ∧ c.stat = 1 ∧
      (∀ x ∈ s.ctxs, x.num = 1023) ∧ strays s 1023 (q.c.w4 ++ q.c.w3 ++ q.c.w2 ++ q.c.w1)) ∧
    (∃ (s : State) (q : QCmd) (c : Ctx), isFor .ctxPartition q ∧ Claim.inHand s q ∧ s.ctx? q.c.ctx.toNat = some c ∧ c.stat = 1 ∧ (∀ x ∈ s.ctxs, x.num = 1023) ∧
      ¬strays s 1023 (q.c.w4 ++ q.c.w3 ++ q.c.w2 ++ q.c.w1)) ∧
    (∃ (s : State) (q : QCmd) (c : Ctx), s.ctx? q.c.ctx.toNat = some c ∧ s.cmdBusy = some q ∧ q.op = 3 ∧ c.stat = 2 ∧ strays s 1023 c.cores) ∧
    (∃ (s : State) (q : QCmd) (c : Ctx), s.ctx? q.c.ctx.toNat = some c ∧ s.cmdBusy = some q ∧ q.op = 3 ∧ c.stat = 2 ∧ ¬strays s 1023 c.cores) ∧
    ∃ (s : State) (q : QCmd) (c : Ctx), isFor .ctxLimits q ∧ Claim.inHand s q ∧ q.c.rsv = 0 ∧ unassignedClear q ∧ s.ctx? q.c.ctx.toNat = some c ∧ q.c.w1.toNat / 4 = 4096 := by
  refine ⟨⟨{ cmdRuns 3 (cmdOf 1023 [1]) with ctxs := [mapC, { mapC with num := 4 }] }, ⟨3, cmdOf 1023 [1]⟩, mapC, by simp [isFor, opOf], ⟨rfl, .inl rfl⟩, rfl,
      by simp [unassignedClear, cmdOf], rfl, rfl, 0, by decide, by unfold asks; decide, by unfold sharers; decide +kernel, by decide⟩,
    ⟨{ cmdRuns 3 (cmdOf 1023 [2]) with blocks := [fetchBlock 1] }, ⟨3, cmdOf 1023 [2]⟩, mapC, by simp [isFor, opOf], ⟨rfl, .inl rfl⟩, rfl,
      by simp [unassignedClear, cmdOf], rfl, rfl, by decide +kernel, by unfold strays; decide +kernel⟩,
    ⟨{ cmdRuns 3 (cmdOf 1023 [1]) with blocks := [fetchBlock 1] }, ⟨3, cmdOf 1023 [1]⟩, mapC, by simp [isFor, opOf], ⟨rfl, .inl rfl⟩, rfl, rfl, by decide +kernel,
      by unfold strays; decide +kernel⟩,
    ⟨{ cmdRuns 3 (cmdOf 1023 []) with ctxs := [{ mapC with stat := 2, cores := 2 }], blocks := [fetchBlock 1] }, ⟨3, cmdOf 1023 []⟩, { mapC with stat := 2, cores := 2 },
      rfl, rfl, rfl, rfl, by unfold strays; decide +kernel⟩,
    ⟨{ cmdRuns 3 (cmdOf 1023 []) with ctxs := [{ mapC with stat := 2, cores := 1 }], blocks := [fetchBlock 1] }, ⟨3, cmdOf 1023 []⟩, { mapC with stat := 2, cores := 1 },
      rfl, rfl, rfl, rfl, by unfold strays; decide +kernel⟩,
    ⟨cmdRuns 6 (cmdOf 1023 [0x4000]), ⟨6, cmdOf 1023 [0x4000]⟩, mapC, by simp [isFor, opOf], is_running _ _, rfl, by simp [unassignedClear, cmdOf], rfl, by decide⟩⟩

/-- A region set over 0x10000 to 0x10FFF with counter 5 and unit 2. -/
def regionSetCmd : QCmd := ⟨7, cmdOf 1023 [0x803, 0x10000, 0x1000, 0x8005]⟩

theorem witness_HostCommands_regions :
    (∃ (s : State) (c : Ctx), isFor .regionSet regionSetCmd ∧ Claim.inHand s regionSetCmd ∧ regionSetCmd.c.rsv = 0 ∧ unassignedClear regionSetCmd ∧
      s.ctx? 1023 = some c ∧ regionSetCmd.c.w2.toNat % 64 = 0 ∧ regionSetCmd.c.w3.toNat = 0x1000 ∧ regionSetCmd.c.w4.toNat / 2 ^ 14 = 2 ∧
      (∃ x ∈ s.counters, x.die = .a ∧ x.idx = regionSetCmd.c.w4.toNat % 2 ^ 13 ∧ x.ctx = 1023) ∧ ¬∃ r ∈ s.regions, r.die = .a ∧ r.idx = 3 ∧ r.ctx ≠ 1023) ∧
    (∃ s : State, Claim.inHand s regionSetCmd ∧ ∃ r ∈ s.regions, r.die = .a ∧ r.idx = 3 ∧ r.ctx ≠ 1023) ∧ (∃ s : State, Claim.inHand s regionSetCmd ∧ s.counters = []) ∧
    (∃ (s : State) (q : QCmd) (c : Ctx), isFor .regionFree q ∧ Claim.inHand s q ∧ q.c.rsv = 0 ∧ unassignedClear q ∧ s.ctx? q.c.ctx.toNat = some c ∧ s.regions = [region0]) ∧
    (∃ (s : State) (q : QCmd) (c : Ctx), isFor .counterSetAssign q ∧ Claim.inHand s q ∧ q.c.rsv = 0 ∧ unassignedClear q ∧ s.ctx? q.c.ctx.toNat = some c ∧
      s.counter? .a 5 = none ∧ counterOf q = (.a, 5)) ∧
    (∃ (s : State) (q : QCmd) (c : Ctx), isFor .counterSetRelease q ∧ Claim.inHand s q ∧ unassignedClear q ∧ s.ctx? q.c.ctx.toNat = some c ∧
      s.counter? .a 5 = some ⟨.a, 5, 1023, 9, .none⟩ ∧ counterOf q = (.a, 5) ∧ ∃ r ∈ s.regions, r.die = .a ∧ r.ctr = 5) ∧
    (∃ (s : State) (q : QCmd) (c : Ctx), isFor .counterSetValue q ∧ Claim.inHand s q ∧ unassignedClear q ∧ s.ctx? q.c.ctx.toNat = some c ∧
      s.counter? .a 5 = some ⟨.a, 5, 1023, 9, .none⟩ ∧ counterOf q = (.a, 5) ∧ q.c.w1.toNat / 2 ^ 14 ≠ 3 ∧ noSends s .a 5) ∧
    ∃ q : QCmd, isFor .counterSetValue q ∧ q.c.w1.toNat / 2 ^ 14 = 3 := by
  refine ⟨⟨{ mapS .none with cmdBusy := some regionSetCmd, counters := [⟨.a, 5, 1023, 9, .none⟩] }, mapC, by simp [isFor, opOf, regionSetCmd, cmdOf], ⟨rfl, .inl rfl⟩, rfl,
      by simp [unassignedClear, regionSetCmd, cmdOf], rfl, by decide, by decide, by decide, by decide +kernel, by decide +kernel⟩,
    ⟨{ mapS .none with cmdBusy := some regionSetCmd, regions := [{ region0 with ctx := 4 }] }, ⟨rfl, .inl rfl⟩, by decide +kernel⟩,
    ⟨{ mapS .none with cmdBusy := some regionSetCmd }, ⟨rfl, .inl rfl⟩, rfl⟩,
    ⟨{ cmdRuns 7 (cmdOf 1023 [3]) with regions := [region0] }, ⟨7, cmdOf 1023 [3]⟩, mapC, by simp [isFor, opOf, cmdOf], ⟨rfl, .inl rfl⟩, rfl,
      by simp [unassignedClear, cmdOf], rfl, rfl⟩,
    ⟨cmdRuns 8 (cmdOf 1023 [5]), ⟨8, cmdOf 1023 [5]⟩, mapC, by simp [isFor, opOf, cmdOf], is_running _ _, rfl, by simp [unassignedClear, cmdOf], rfl, rfl, rfl⟩,
    ⟨{ cmdRuns 8 (cmdOf 1023 [0x4005]) with counters := [⟨.a, 5, 1023, 9, .none⟩], regions := [region0] }, ⟨8, cmdOf 1023 [0x4005]⟩, mapC, by simp [isFor, opOf, cmdOf],
      ⟨rfl, .inl rfl⟩, by simp [unassignedClear, cmdOf], rfl, rfl, rfl, by decide +kernel⟩,
    ⟨{ cmdRuns 8 (cmdOf 1023 [0x8005, 9]) with counters := [⟨.a, 5, 1023, 9, .none⟩] }, ⟨8, cmdOf 1023 [0x8005, 9]⟩, mapC, by simp [isFor, opOf, cmdOf], ⟨rfl, .inl rfl⟩,
      by simp [unassignedClear, cmdOf], rfl, rfl, rfl, by decide, fun o h => absurd h (by simp [cmdRuns, mapS, mapM, upS, State.homeWrite, State.reset])⟩,
    ⟨⟨8, cmdOf 1023 [0xC005]⟩, by simp [isFor, opOf, cmdOf], by decide⟩⟩

/-- A graph object of one host-notify node without extents and eight bytes of parameters, at 0x500000: its header, its node, its parameters. -/
def graphM (s : State) : State :=
  s.homeWrite 0x500000 ((([0x1_47524150, 0x8_00000001, 64, 128, 128, 128, 136, 0] : List Nat).flatMap fun x => bytesOf 8 x) ++ bytesOf 8 3)

theorem witness_HostCommands_graphs :
    (∃ (s : State) (q : QCmd) (c : Ctx), isFor .graphRegister q ∧ Claim.inHand s q ∧ q.c.rsv = 0 ∧ unassignedClear q ∧ s.ctx? q.c.ctx.toNat = some c ∧
      q.c.w1.toNat % 64 = 0 ∧ (∀ g ∈ c.graphs, g.handle ≠ q.c.w2.toNat) ∧ ∃ g codes, (running s q).graphCheck (.cmd c.num) c q.c.w1.toNat q.c.w2.toNat = .ok g codes) ∧
    (∃ (s : State) (q : QCmd) (c : Ctx), isFor .graphRegister q ∧ Claim.inHand s q ∧ unassignedClear q ∧ s.ctx? q.c.ctx.toNat = some c ∧ q.c.w1.toNat % 64 = 0 ∧
      (running s q).graphCheck (.cmd c.num) c q.c.w1.toNat q.c.w2.toNat = .bad 0) ∧
    (∃ q : QCmd, isFor .graphRegister q ∧ q.c.w1.toNat % 64 ≠ 0) ∧
    (∃ (s : State) (q : QCmd) (c : Ctx), isFor .graphRelease q ∧ Claim.inHand s q ∧ unassignedClear q ∧ s.ctx? q.c.ctx.toNat = some c ∧
      (∃ g ∈ c.graphs, g.handle = q.c.w1.toNat) ∧ ¬∃ r ∈ s.replays, r.ctx = c.num ∧ r.handle = q.c.w1.toNat) ∧
    (∃ (s : State) (q : QCmd) (c : Ctx), isFor .graphRelease q ∧ Claim.inHand s q ∧ s.ctx? q.c.ctx.toNat = some c ∧
      (∃ g ∈ c.graphs, g.handle = q.c.w1.toNat) ∧ ∃ r ∈ s.replays, r.ctx = c.num ∧ r.handle = q.c.w1.toNat) ∧
    (∃ (s : State) (c : Ctx), s.gcDev (.cmd 1023) c 0x30000 64 = none ∧ s.gcAbsent (.cmd 1023) c 0x30000 64 = none ∧ s.gcNat (.cmd 1023) c 0x30000 64 = none) ∧
    ∃ (s : State) (c : Ctx) (x : Nat), s.gcDev (.cmd 1023) c 0x10000 64 = none ∧ s.gcAbsent (.cmd 1023) c 0x10000 64 = none ∧ s.gcNat (.cmd 1023) c 0x10000 64 = some x ∧ x % 2 ^ 32 = 0x47524150 := by
  have hok : (match (running { graphM (mapS .none) with cmdBusy := some ⟨4, cmdOf 1023 [0x10000, 3]⟩ } ⟨4, cmdOf 1023 [0x10000, 3]⟩).graphCheck (.cmd 1023) mapC
      0x10000 3 with | .ok _ _ => true | _ => false) = true := by decide +kernel
  refine ⟨⟨{ graphM (mapS .none) with cmdBusy := some ⟨4, cmdOf 1023 [0x10000, 3]⟩ }, ⟨4, cmdOf 1023 [0x10000, 3]⟩, mapC, by simp [isFor, opOf], ⟨rfl, .inl rfl⟩, rfl,
      by simp [unassignedClear, cmdOf], rfl, by decide, by decide, ?_⟩,
    ⟨cmdRuns 4 (cmdOf 1023 [0x10000, 3]), ⟨4, cmdOf 1023 [0x10000, 3]⟩, mapC, by simp [isFor, opOf], is_running _ _,
      by simp [unassignedClear, cmdOf], rfl, by decide, by decide +kernel⟩,
    ⟨⟨4, cmdOf 1023 [0x10008, 3]⟩, by simp [isFor, opOf], by decide⟩,
    ⟨{ cmdRuns 5 (cmdOf 1023 [3]) with ctxs := [{ mapC with graphs := [⟨3, 0x10000, 136, 128, 8, []⟩] }] }, ⟨5, cmdOf 1023 [3]⟩,
      { mapC with graphs := [⟨3, 0x10000, 136, 128, 8, []⟩] }, by simp [isFor, opOf], ⟨rfl, .inl rfl⟩, by simp [unassignedClear, cmdOf], rfl, by decide, by decide +kernel⟩,
    ⟨{ cmdRuns 5 (cmdOf 1023 [3]) with ctxs := [{ mapC with graphs := [⟨3, 0x10000, 136, 128, 8, []⟩] }], replays := [⟨1023, 3, 1, 0, 0, [node0]⟩] },
      ⟨5, cmdOf 1023 [3]⟩, { mapC with graphs := [⟨3, 0x10000, 136, 128, 8, []⟩] }, by simp [isFor, opOf], ⟨rfl, .inl rfl⟩, rfl, by decide, by decide +kernel⟩,
    ⟨mapS .none, mapC, by decide +kernel, by decide +kernel, by decide +kernel⟩,
    ⟨graphM (mapS .none), mapC, _, by decide +kernel, by decide +kernel, rfl, by decide +kernel⟩⟩
  change ∃ g codes, (running { graphM (mapS .none) with cmdBusy := some ⟨4, cmdOf 1023 [0x10000, 3]⟩ } ⟨4, cmdOf 1023 [0x10000, 3]⟩).graphCheck (.cmd 1023) mapC
    0x10000 3 = .ok g codes
  revert hok
  split
  · rename_i g codes h
    exact fun _ => ⟨g, codes, h⟩
  · exact fun h => Bool.noConfusion h

/-! Hypotheses of the statements about kicks, nodes and the placer. -/

/-- A registered graph of one node. -/
def graph1 (x : GNode) : Graph := ⟨3, 0x10000, 0x1000, 0x800, 64, [x]⟩

/-- A node of a kind with no extents. -/
def gnode (kind : Nat) (b0 b2 : Dword) : GNode := ⟨kind, 0, 0, 0, false, false, 0, [], [], b0, 0, b2, 0⟩

/-- A loaded object of one-thread blocks that need a given local store. -/
def code1 (loc : Nat) (cohold : Bool) : Code := { fetchCode with launch := ⟨1, [0], 7, 0, 0, cohold, 0, 0, loc, 0⟩ }

/-- The context with a graph and an object. -/
def gctx (x : GNode) (o : Code) : Ctx := { mapC with graphs := [graph1 x], codes := [o] }

/-- The node in a phase. -/
def rnode (p : NodePhase) : RNode := { node0 with phase := p, exts := [], translated := false, nextBlock := 0, code := 0x2F000 }

/-- The machine with that context, and a replay of the graph with the node. -/
def nodeS (x : GNode) (o : Code) (y : RNode) : State :=
  { mapS (.node ⟨1023, 1, 0⟩) with ctxs := [gctx x o], replays := [⟨1023, 3, 1, 0, 0, [y]⟩] }

/-- The node that these states are about. -/
abbrev n0 : NodeRef := ⟨1023, 1, 0⟩

/-- A kick with SEQ 1 of graph 3, a table at 0x10000 with one entry, and a check value. -/
def kickOf (crc : Nat) : Kick := BitVec.ofNat 256 (3 + 2 ^ 32 + 0x10000 * 2 ^ 64 + crc * 2 ^ 128 + 2 ^ 160)

/-- Its table: it replaces all of slot 2 with 9. -/
def tableBytes1 : List Byte := bytesOf 8 (1 + 2 ^ 32) ++ List.replicate 24 0 ++ bytesOf 8 (2 + 2 * 2 ^ 16) ++ bytesOf 8 9

/-- The machine with the table in memory and the context's kicks. -/
def kickS (c : Ctx) : State := { (mapS (.num 1023)).homeWrite 0x500000 tableBytes1 with ctxs := [c] }

/-- The context with the kick of the table. -/
def kickC : Ctx := { gctx (gnode 3 0 0) (code1 0 false) with kicks := [kickOf 369737214] }

theorem witness_KicksAndReplays_none :
    ∃ (s : State) (c : Ctx), s.arg = .num 1023 ∧ s.ctx? 1023 = some c ∧ c.taking = none ∧ ∀ k ∈ c.kicks, k.toNat / 2 ^ 32 % 2 ^ 32 ≠ c.e.toNat :=
  ⟨mapS (.num 1023), mapC, rfl, rfl, rfl, fun k h => absurd h (by simp [mapC, fetchCtx])⟩

theorem has_kick : (kickS kickC).arg = .num 1023 ∧ (kickS kickC).ctx? 1023 = some kickC ∧ kickC.taking = none := ⟨rfl, rfl, rfl⟩

theorem is_legal : kickC.kicks.find? (fun k => BitVec.ofNat 32 (BitVec.toNat k / 2 ^ 32) = kickC.e) = some (kickOf 369737214) ∧
    kickLegal kickC (kickOf 369737214) ∧ tableReached (kickS kickC) kickC (kickOf 369737214) ∧ tablePresent (kickS kickC) kickC (kickOf 369737214) ∧
    patchTable (kickS kickC) kickC (kickOf 369737214) = some tableBytes1 ∧ agrees (kickOf 369737214) tableBytes1 := by
  unfold kickLegal tableReached tablePresent patchTable agrees
  decide +kernel

theorem has_entry : kickC.graphs.find? (fun g => g.handle = (kickOf 369737214).toNat % 2 ^ 32) = some (graph1 (gnode 3 0 0)) ∧ headerLegal tableBytes1 ∧
    entryLegal (graph1 (gnode 3 0 0)) tableBytes1 0 := by
  unfold headerLegal entryLegal
  decide +kernel

theorem witness_KicksAndReplays_taken : ∃ (s : State) (c : Ctx) (k : Kick), s.arg = .num 1023 ∧ s.ctx? 1023 = some c ∧ c.taking = none ∧
    c.kicks.find? (fun k => BitVec.ofNat 32 (BitVec.toNat k / 2 ^ 32) = c.e) = some k ∧ kickLegal c k ∧ tableReached s c k ∧ tablePresent s c k ∧
    ∃ bs g, patchTable s c k = some bs ∧ agrees k bs ∧ c.graphs.find? (fun g => g.handle = k.toNat % 2 ^ 32) = some g ∧ headerLegal bs ∧ entryLegal g bs 0 :=
  ⟨_, _, _, has_kick.1, has_kick.2.1, has_kick.2.2, is_legal.1, is_legal.2.1, is_legal.2.2.1, is_legal.2.2.2.1, _, _, is_legal.2.2.2.2.1, is_legal.2.2.2.2.2, has_entry⟩

theorem witness_KicksAndReplays_broken :
    (∃ c k, c.kicks.find? (fun k => BitVec.ofNat 32 (BitVec.toNat k / 2 ^ 32) = c.e) = some k ∧ ¬kickLegal c k) ∧
    (∃ s c k, kickLegal c k ∧ tableReached s c k ∧ ¬tablePresent s c k) ∧ (∃ s c k, tableReached s c k ∧ tablePresent s c k ∧ patchTable s c k = none) ∧
    (∃ s c k bs, patchTable s c k = some bs ∧ ¬agrees k bs) ∧ (∃ bs, ¬headerLegal bs) ∧ ∃ g bs, entryLegal g bs 0 ∧ ¬entryLegal g bs 1 :=
  ⟨⟨{ kickC with kicks := [BitVec.ofNat 256 (4 + 2 ^ 32)] }, BitVec.ofNat 256 (4 + 2 ^ 32), by decide +kernel, by unfold kickLegal; decide +kernel⟩,
  ⟨kickS kickC, kickC, BitVec.ofNat 256 (3 + 2 ^ 32 + 0x20000 * 2 ^ 64), by unfold kickLegal; decide +kernel, by unfold tableReached; decide +kernel, by unfold tablePresent; decide +kernel⟩,
  ⟨kickS kickC, kickC, BitVec.ofNat 256 (3 + 2 ^ 32 + 0x30000 * 2 ^ 64), by unfold tableReached; decide +kernel, by unfold tablePresent; decide +kernel, by unfold patchTable; decide +kernel⟩,
  ⟨kickS kickC, kickC, kickOf 0, tableBytes1, by unfold patchTable; decide +kernel, by unfold agrees; decide +kernel⟩,
  ⟨List.replicate 16 1, by unfold headerLegal; decide⟩,
  ⟨graph1 (gnode 3 0 0), tableBytes1 ++ bytesOf 8 8, by unfold entryLegal; decide +kernel, by unfold entryLegal; decide +kernel⟩⟩

theorem witness_KicksAndReplays_later :
    (∃ (s : State) (c : Ctx) (x : Taking), s.arg = .num 1023 ∧ s.ctx? 1023 = some c ∧ c.taking = some x ∧ x.step = 4 ∧ x.start + 8000 * (x.rereads + 1) = s.cycA.toNat ∧
      c.home = .a ∧ tableReached s c x.kick ∧ tablePresent s c x.kick) ∧
    (∃ (s : State) (c : Ctx) (x : Taking) (g : Graph), s.arg = .num 1023 ∧ s.ctx? 1023 = some c ∧ c.taking = some x ∧ x.step = 6 ∧
      c.graphs.find? (fun g => g.handle = x.kick.toNat % 2 ^ 32) = some g ∧ (∀ gn ∈ g.nodes, gn.die ≠ 3) ∧ ¬(∃ r ∈ s.replays, r.ctx = 1023 ∧ r.handle = 3) ∧ s.replay? 1023 1 = none ∧
      ∃ page, s.gcNat (.kick 1023) c (x.kick.toNat / 2 ^ 64 % 2 ^ 56 + 32) 8 = some (wordAt x.table 32) ∧
        s.gcNat (.kick 1023) c (x.kick.toNat / 2 ^ 64 % 2 ^ 56 + 40) 8 = some 9 ∧ s.pageOf c (g.va + g.paramOff + 16) = some page) ∧
    ∃ (s : State) (c : Ctx) (x : Taking), s.arg = .num 1023 ∧ s.ctx? 1023 = some c ∧ c.taking = some x ∧ x.step = 6 ∧ ∃ r ∈ s.replays, r.ctx = 1023 ∧ r.handle = 3 :=
  ⟨⟨{ kickS { kickC with taking := some ⟨kickOf 0, 4, 0, 15, 0, []⟩ } with cycA := 128000 }, { kickC with taking := some ⟨kickOf 0, 4, 0, 15, 0, []⟩ }, _, rfl, rfl, rfl,
    rfl, rfl, rfl, by unfold tableReached; decide +kernel, by unfold tablePresent; decide +kernel⟩,
  ⟨kickS { kickC with taking := some ⟨kickOf 0, 6, 0, 0, 0, tableBytes1⟩ }, { kickC with taking := some ⟨kickOf 0, 6, 0, 0, 0, tableBytes1⟩ }, _, graph1 (gnode 3 0 0),
    rfl, rfl, rfl, rfl, by decide +kernel, by decide +kernel, by decide +kernel, by decide +kernel, 0x500000, by decide +kernel, by decide +kernel, by decide +kernel⟩,
  ⟨{ kickS { kickC with taking := some ⟨kickOf 0, 6, 0, 0, 0, tableBytes1⟩ } with replays := [⟨1023, 3, 7, 0, 0, []⟩] },
    { kickC with taking := some ⟨kickOf 0, 6, 0, 0, 0, tableBytes1⟩ }, _, rfl, rfl, rfl, rfl, by decide +kernel⟩⟩

theorem over_none (x : GNode) (o : Code) (y : RNode) : workOver (nodeS x o y) n0 := by
  simp [workOver, nodeS, mapS, mapM, upS, State.homeWrite, State.reset]

theorem witness_NodesOfReplays_complete :
    (∃ (s : State) (r : Replay) (x : RNode) (c : Ctx) (g : Graph) (gn : GNode), s.arg = .node n0 ∧ s.replay? 1023 1 = some r ∧ r.nodes[0]? = some x ∧
      s.ctx? 1023 = some c ∧ c.graphs.find? (fun g => g.handle = r.handle) = some g ∧ g.nodes[0]? = some gn ∧ gn.kind ≤ 4 ∧
      r.nodes.map RNode.idx = List.range r.nodes.length ∧ r.nodes.length = g.nodes.length ∧ completesOk s n0 x gn.kind ∧ restOver r 0 ∧ gn.succs = []) ∧
    (∃ (s : State) (x : RNode), completesFailed s n0 x) ∧ (∃ (s : State) (x : RNode), ¬completesOk s n0 x 3 ∧ ¬completesFailed s n0 x) ∧
    ∃ (r : Replay), ¬restOver r 0 := by
  refine ⟨⟨nodeS (gnode 4 0 0) (code1 0 false) (rnode .pool), _, _, _, _, _, rfl, rfl, rfl, rfl, rfl, rfl, by decide, rfl, rfl, ?_, ?_, rfl⟩,
    ⟨nodeS (gnode 0 0 0) (code1 0 false) (rnode .pool), { rnode .pool with status := some 0x40 }, rfl, .inl rfl, over_none _ _ _⟩,
    ⟨nodeS (gnode 3 0 0) (code1 0 false) (rnode .pool), rnode .pool, ?_, ?_⟩, ⟨1023, 3, 1, 0, 0, [rnode .running, { rnode .running with idx := 1 }]⟩, ?_⟩
  · exact ⟨rfl, .inr (.inr (.inr ⟨rfl, rfl⟩))⟩
  · intro i x h hi
    match i, hi with
    | i + 1, _ => simp at h
  · simp [completesOk, rnode]
  · simp [completesFailed, rnode, node0]
  · intro h
    have := h 1 _ rfl (by decide)
    simp [rnode] at this

theorem witness_NodesOfReplays_rest :
    (∃ (s : State) (x : RNode) (c : Ctx) (g : Graph) (gn : GNode), s.arg = .node n0 ∧ s.node? n0 = some x ∧ s.gnode? n0 = some (c, g, gn) ∧ gn.kind = 3 ∧
      x.phase = .running ∧ x.op = none ∧ x.status = none) ∧
    (∃ (s : State) (r : Replay) (x : RNode), s.arg = .die .a ∧ mayEnterPool s .a r x ∧
      (∀ r' x', mayEnterPool s .a r' x' → (r', x') = (r, x) ∨ x.order < x'.order) ∧ s.node? ⟨r.ctx, r.seq, x.idx⟩ = some x ∧
      (s.gnode? ⟨r.ctx, r.seq, x.idx⟩).isSome = true) ∧ (∃ s : State, s.arg = .die .a ∧ s.replays = []) ∧
    (∃ (s : State) (x : RNode) (c : Ctx), s.arg = .node n0 ∧ s.node? n0 = some x ∧ s.ctx? 1023 = some c ∧ x.phase = .pool ∧ x.entered + 200000 = s.cycA.toNat ∧
      x.cls < c.classMax ∧ x.die = .a) := by
  refine ⟨⟨nodeS (gnode 3 0 0) (code1 0 false) (rnode .running), _, _, _, _, rfl, rfl, rfl, rfl, rfl, rfl, rfl⟩,
    ⟨{ nodeS (gnode 3 0 0) (code1 0 false) (rnode .ready) with arg := .die .a }, ⟨1023, 3, 1, 0, 0, [rnode .ready]⟩, rnode .ready, rfl, ?_, ?_, rfl, rfl⟩, ⟨upS (.die .a), rfl, rfl⟩,
    ⟨{ nodeS (gnode 3 0 0) (code1 0 false) (rnode .pool) with cycA := 200000 }, _, _, rfl, rfl, rfl, rfl, rfl, by decide, rfl⟩⟩
  · refine ⟨by simp [nodeS], by simp, rfl, rfl, by unfold poolHas; decide +kernel, gctx (gnode 3 0 0) (code1 0 false), rfl, by unfold poolHas; decide +kernel⟩
  · rintro r' x' ⟨hr, hx, -⟩
    left
    simp only [nodeS, List.mem_singleton] at hr
    subst hr
    simp only [List.mem_singleton] at hx
    rw [hx]

/-- An extent descriptor of 256 bytes at the address that slot 2 holds, readable and writable. -/
def desc1 : BitVec 256 := BitVec.ofNat 256 (2 + 2 ^ 14 + 2 ^ 15 + 256 * 2 ^ 128)

/-- The machine where slot 2 holds an address. -/
def slotS (x : GNode) (o : Code) (y : RNode) (v : Nat) : State :=
  { (nodeS x o y).homeWrite 0x500810 (bytesOf 8 v) with arg := .node n0 }

theorem witness_NodesDispatched_extents :
    (∃ (s : State) (c : Ctx) (g : Graph) (x : GNode), x.exts = [desc1] ∧ 1 ≤ x.next ∧ desc1.getLsbD 13 = false ∧ desc1.toNat / 2 ^ 128 % 2 ^ 64 = 256 ∧
      s.slot c g 2 = 0x10000 ∧ s.walk .a c 0x10000 = .leaf 0x500000 65536 true true false 0) ∧
    (∃ (s : State) (c : Ctx) (g : Graph), s.slot c g 2 = 0x20000 ∧ s.walk .a c 0x20000 = .pend 65536 ∧ s.verdict (.node n0) c.num 0x20000 = none) ∧
    ∃ (s : State) (c : Ctx) (g : Graph), s.slot c g 2 = 0x30000 ∧ s.walk .a c 0x30000 = .bad 65536 :=
  ⟨⟨slotS (gnode 1 0 0) (code1 0 false) (rnode .pool) 0x10000, gctx (gnode 1 0 0) (code1 0 false), graph1 (gnode 1 0 0), { gnode 1 0 0 with exts := [desc1], next := 1 },
    rfl, by decide, by decide, by decide, by decide +kernel, by decide +kernel⟩,
  ⟨slotS (gnode 1 0 0) (code1 0 false) (rnode .pool) 0x20000, gctx (gnode 1 0 0) (code1 0 false), graph1 (gnode 1 0 0), by decide +kernel, by decide +kernel,
    by decide +kernel⟩,
  ⟨slotS (gnode 1 0 0) (code1 0 false) (rnode .pool) 0x30000, gctx (gnode 1 0 0) (code1 0 false), graph1 (gnode 1 0 0), by decide +kernel, by decide +kernel⟩⟩

/-- A graph node of a kernel whose object slot 2 names, and of a copy over one extent. -/
def kern : GNode := gnode 0 2 5

/-- The same with the extent. -/
def copy1 : GNode := { gnode 1 0 0 with exts := [desc1], next := 1, b1 := 256 }

/-- A node alone in its pool has none before it. -/
theorem not_first {s : State} {y : RNode} (hs : s.replays = [⟨1023, 3, 1, 0, 0, [y]⟩]) : ∀ r, s.replay? n0.ctx n0.seq = some r → ¬comesFirst s r y := by
  rintro r hr ⟨q, hq, z, hz, -, -, h, -⟩
  have hm : r ∈ s.replays := List.mem_of_find?_eq_some hr
  rw [hs, List.mem_singleton] at hq hm
  subst hq hm
  rw [List.mem_singleton.1 hz] at h
  simp [sooner] at h

theorem stands {s : State} {y : RNode} {c : Ctx} {g : Graph} {x : GNode} (ha : s.arg = .node n0) (hn : s.node? n0 = some y) (hg : s.gnode? n0 = some (c, g, x))
    (hp : y.phase = .pool ∧ y.status = none ∧ y.translated = false) (hs : s.replays = [⟨1023, 3, 1, 0, 0, [y]⟩])
    (hr : s.pkg.readyF.getLsbD (if y.die = .b then 16 else 15) = true) : Stands s n0 y c g x :=
  ⟨ha, hn, hg, hp.1, hp.2.1, hp.2.2, not_first hs, hr⟩

theorem witness_NodesDispatched_kinds :
    (∃ s c g, Stands s n0 (rnode .pool) c g (gnode 4 0 0)) ∧
    (∃ s c g, Stands s n0 (rnode .pool) c g kern ∧ unitTakes s kern ∧ s.translate n0 .a c g kern = .ok [] ∧
      ∃ o, c.codes.find? (fun o => o.va = s.slot c g kern.b0.toNat) = some o ∧ o.launch.levels ≤ 6) ∧
    (∃ s c g, Stands s n0 (rnode .pool) c g kern ∧ s.translate n0 .a c g kern = .ok [] ∧ ∀ o ∈ c.codes, o.va ≠ s.slot c g kern.b0.toNat) ∧
    (∃ s c g x, Stands s n0 (rnode .pool) c g x ∧ unitTakes s x ∧ x.kind = 3 ∧ s.translate n0 .a c g x = .ok []) ∧
    (∃ s c g x, Stands s n0 (rnode .pool) c g x ∧ unitTakes s x ∧ s.translate n0 .a c g x = .fail) ∧
    ∃ s c g x ps, Stands s n0 (rnode .pool) c g x ∧ unitTakes s x ∧ s.translate n0 .a c g x = .wait ps ∧ ps ≠ [] :=
  ⟨⟨nodeS (gnode 4 0 0) (code1 0 false) (rnode .pool), _, _, stands rfl rfl rfl ⟨rfl, rfl, rfl⟩ rfl (by decide +kernel)⟩,
  ⟨slotS kern (code1 0 false) (rnode .pool) 0x2F000, gctx kern (code1 0 false), graph1 kern, stands rfl rfl rfl ⟨rfl, rfl, rfl⟩ rfl (by decide +kernel), .inl rfl,
    by decide +kernel, code1 0 false, by decide +kernel, by decide⟩,
  ⟨slotS kern (code1 0 false) (rnode .pool) 0x2E000, gctx kern (code1 0 false), graph1 kern, stands rfl rfl rfl ⟨rfl, rfl, rfl⟩ rfl (by decide +kernel),
    by decide +kernel, by decide +kernel⟩,
  ⟨nodeS (gnode 3 0 0) (code1 0 false) (rnode .pool), gctx (gnode 3 0 0) (code1 0 false), graph1 (gnode 3 0 0), gnode 3 0 0,
    stands rfl rfl rfl ⟨rfl, rfl, rfl⟩ rfl (by decide +kernel), .inr ⟨rfl, by decide +kernel⟩, rfl, by decide +kernel⟩,
  ⟨slotS { kern with exts := [desc1], next := 1 } (code1 0 false) (rnode .pool) 0x30000, gctx { kern with exts := [desc1], next := 1 } (code1 0 false),
    graph1 { kern with exts := [desc1], next := 1 }, { kern with exts := [desc1], next := 1 }, stands rfl rfl rfl ⟨rfl, rfl, rfl⟩ rfl (by decide +kernel), .inl rfl, by decide +kernel⟩,
  ⟨slotS { kern with exts := [desc1], next := 1 } (code1 0 false) (rnode .pool) 0x20000, gctx { kern with exts := [desc1], next := 1 } (code1 0 false),
    graph1 { kern with exts := [desc1], next := 1 }, { kern with exts := [desc1], next := 1 }, [(0x20000, true, true)], stands rfl rfl rfl ⟨rfl, rfl, rfl⟩ rfl (by decide +kernel),
    .inl rfl, by decide +kernel, by decide⟩⟩

theorem witness_NodesDispatched_copies : ∃ (s : State) (c : Ctx) (g : Graph), Stands s n0 (rnode .pool) c g copy1 ∧ copy1.kind = 1 ∧
    s.pkg.readyF.getLsbD (if (rnode .pool).die = .b then 18 else 17) = true ∧
    (∀ r ∈ s.replays, ∀ z ∈ r.nodes, (⟨r.ctx, r.seq, z.idx⟩ : NodeRef) = n0 ∧ z = rnode .pool ∧ s.replay? 1023 1 = some r ∧ z.again = []) ∧
    copyEngine s .a c 0 ∧ ∃ es a, s.translate n0 .a c g copy1 = .ok es ∧ es[copy1.b0.toNat % 2 ^ 8]? = some a ∧ es[copy1.b0.toNat / 2 ^ 8 % 2 ^ 8]? = some a := by
  have ht : ((slotS copy1 (code1 0 false) (rnode .pool) 0x10000).translate n0 .a (gctx copy1 (code1 0 false)) (graph1 copy1) copy1) =
      .ok [⟨false, true, true, 0x10000, 1, 256, 0, [⟨0x10000, 0x20000, .mapped 0x500000 0⟩]⟩] := by decide +kernel
  refine ⟨slotS copy1 (code1 0 false) (rnode .pool) 0x10000, gctx copy1 (code1 0 false), graph1 copy1, stands rfl rfl rfl ⟨rfl, rfl, rfl⟩ rfl (by decide +kernel), rfl,
    by decide +kernel, ?_, ?_, _, _, ht, rfl, rfl⟩
  · intro r hr z hz
    change r ∈ [(⟨1023, 3, 1, 0, 0, [rnode .pool]⟩ : Replay)] at hr
    simp only [List.mem_singleton] at hr
    subst hr
    simp only [List.mem_singleton] at hz
    subst hz
    exact ⟨rfl, rfl, rfl, rfl⟩
  · refine ⟨by decide +kernel, .inl ⟨⟨by decide, by decide⟩, fun k h => absurd h (by omega)⟩⟩

/-- A translated node with blocks to place, and one whose block after the first is next. -/
def placeY (c : Nat) : RNode := { rnode .pool with translated := true, blocks := 5, nextBlock := 2, cls := c }

theorem is_places (o : Code) (c : Nat) (h : o.va = 0x2F000) : Places (nodeS kern o (placeY c)) n0 (placeY c) (gctx kern o) (graph1 kern) kern o := by
  refine ⟨rfl, rfl, rfl, rfl, rfl, rfl, rfl, rfl, by simp [placeY], ?_, ?_, ?_⟩
  · change (0xFFFFFFFFFFFFFFFF : Dword).getLsbD (if Die.a = .b then 16 else 15) = true
    decide
  · simp [gctx, h, placeY, rnode]
  · intro r hr z hz _ _
    simp only [nodeS, List.mem_singleton] at hr
    subst hr
    simp only [List.mem_singleton] at hz
    exact ⟨rfl, hz⟩

theorem witness_BlockPlacement :
    (∃ s y c g x o, Places s n0 y c g x o ∧ x.die ≠ 3 ∧ o.launch.cohold = false ∧ Shaped o.launch c.pmode 1 1 0 ∧ coreThreads o.launch.regs c.pmode ≠ 0 ∧
      s.dbg.stops = [] ∧ takesShare s c .a 1 128 0 0 ∧ ¬(32 < 1 ∨ (if c.pmode then 131072 else 262144) < 0)) ∧
    (∃ s y c g x o l, Places s n0 y c g x o ∧ o.launch.cohold = false ∧ Shaped o.launch c.pmode 1 1 l ∧ 262144 < l ∧ c.pmode = false) ∧
    (∃ s y c g x o, Places s n0 y c g x o ∧ o.launch.cohold = true ∧ y.nextBlock % 2 ^ o.launch.width 1 = 0) ∧
    (∃ (s : State) (r : Replay) (y : RNode), s.arg = .node n0 ∧ s.node? n0 = some y ∧ s.replay? 1023 1 = some r ∧ s.fitsNow (r, y) = true) ∧
    ∃ (s : State) (r : Replay) (y : RNode), s.arg = .node n0 ∧ s.node? n0 = some y ∧ s.replay? 1023 1 = some r ∧ s.fitsNow (r, y) = false ∧ y.phase = .pool ∧
      y.translated = true ∧ y.status = none ∧ y.nextBlock < y.blocks ∧ y.passed = some 7 := by
  have hs : takesShare (nodeS kern (code1 0 false) (placeY 0)) (gctx kern (code1 0 false)) .a 1 128 0 0 :=
    ⟨by decide, by decide +kernel, by decide +kernel, by unfold within; decide +kernel, by unfold within; decide +kernel, 0, by decide, by decide +kernel⟩
  refine ⟨⟨_, _, _, _, _, _, is_places (code1 0 false) 0 rfl, by decide, rfl, ⟨by decide, by decide, by decide⟩, by decide, rfl, hs, by decide⟩,
    ⟨_, _, _, _, _, _, 262400, is_places (code1 262400 false) 0 rfl, rfl, ⟨by decide, by decide, by decide⟩, by decide, rfl⟩,
    ⟨_, _, _, _, _, _, is_places (code1 0 true) 0 rfl, rfl, by decide⟩,
    ⟨nodeS kern (code1 0 false) (placeY 0), _, _, rfl, rfl, rfl, by decide +kernel⟩,
    ⟨{ nodeS kern (code1 0 false) { placeY 0 with passed := some 7 } with pkg := { (upS .none).pkg with readyC := 0 } }, _, _, rfl, rfl, rfl, by decide +kernel, rfl, rfl, rfl,
      by decide, rfl⟩⟩


/-- The context whose save area stands in its mapped page. -/
def saveC : Ctx := { mapC with save := 0x10000 }

/-- A record of a node reaches a save area whose page is mapped. -/
theorem reaches {s : State} {node : NodeRef} {c : Ctx} {off n : Nat} {p q : List (Nat × Nat)} (hc : s.ctx? node.ctx = some c) (hn : n < 65536)
    (hr : vpartsGo s c.home c false 2 (c.save + off) 8 [] = .ok p) (hw : vpartsGo s c.home c true 2 (c.save + off) n [] = .ok q) : recordReaches s node off n := by
  intro c' h bs hl
  obtain rfl := Option.some.inj (hc.symm.trans h)
  have h1 : 8 / 65536 + 2 = 2 := rfl
  have h2 : n / 65536 + 2 = 2 := by rw [Nat.div_eq_of_lt hn]
  simp [State.vread, State.vwrite, hl, h1, h2, hr, hw]

/-- A machine with that context, of which a part is one of the machines above. -/
def savedS (s : State) : State := { mapM s with ctxs := [saveC], pkg := (upS .none).pkg }

theorem witness_recordReaches :
    (∃ (s : State) (r : ThreadRef) (b : Block) (th : Thread), s.block? r.block = some b ∧ b.threads[r.t]? = some th ∧ th.status ≠ .ended ∧
      (th.trapVec = 0 ∨ th.inTrap = true) ∧ recordReaches s b.nodeRef 0x40 32 ∧ (s.ctx? b.ctx).isSome = true ∧ s.issue.rest = []) ∧
    (∃ s e, LeadHand (.ckpt ⟨1, 0, 0, 0, 16, 17, 0, 0⟩) s e ∧ recordReaches s e.b.nodeRef 0 64 ∧ (s.ctx? e.b.ctx).isSome = true) ∧
    ∃ s c g, Stands s n0 (rnode .pool) c g kern ∧ s.translate n0 .a c g kern = .ok [] ∧ (∀ o ∈ c.codes, o.va ≠ s.slot c g kern.b0.toNat) ∧
      recordReaches s n0 0x40 32 ∧ (s.ctx? n0.ctx).isSome = true := by
  have hm : ((savedS (leadS (leadAt []))).ctx? 1023) = some saveC := rfl
  refine ⟨⟨savedS (laneS (thr [])), r0, { fetchBlock 1 with threads := [thr []], loc := 4096 }, thr [], has_thread _, rfl, by decide, .inl rfl,
    reaches (c := saveC) rfl (by decide) (p := [(0x500040, 8)]) (q := [(0x500040, 32)]) (by decide +kernel) (by decide +kernel), rfl, rfl⟩, ?_, ?_⟩
  · refine metLead (savedS (leadS (leadAt []))) l0 (fun e => decide (e.b.nodeRef.ctx = 1023 ∧ e.b.ctx = 1023)) (by decide +kernel) fun e h => ?_
    simp only [decide_eq_true_eq] at h
    exact ⟨reaches (c := saveC) (by rw [h.1, hm]) (by decide) (p := [(0x500000, 8)]) (q := [(0x500000, 64)]) (by decide +kernel) (by decide +kernel),
      by rw [h.2, hm]; rfl⟩
  · let k : Ctx := { gctx kern (code1 0 false) with save := 0x10000 }
    exact ⟨{ slotS kern (code1 0 false) (rnode .pool) 0x2E000 with ctxs := [k] }, k, graph1 kern, stands rfl rfl rfl ⟨rfl, rfl, rfl⟩ rfl (by decide +kernel),
      by decide +kernel, by decide +kernel,
      reaches (c := k) rfl (by decide) (p := [(0x500040, 8)]) (q := [(0x500040, 32)]) (by decide +kernel) (by decide +kernel), rfl⟩

/-- A join with a successor that stands on its first extent, and another join. -/
def extG : Graph := ⟨3, 0x10000, 0x1000, 0x800, 64, [{ gnode 4 0 0 with succs := [1] }, { copy1 with die := 3, npred := 1 }, gnode 4 0 0]⟩

/-- The machine that replays it. -/
def extS : State :=
  let s := slotS (gnode 4 0 0) (code1 0 false) (rnode .pool) 0x10000
  { s with ctxs := [{ mapC with graphs := [extG] }], replays := [⟨1023, 3, 1, 0, 0, [rnode .pool, { rnode .waiting with idx := 1, preds := 1 }, { rnode .ready with idx := 2 }]⟩] }

/-- A node that completes with a successor on its first extent, one that fails, and the record of a host-notify node that has another before it. -/
theorem witness_NodesOfReplays_found :
    (∃ (s : State) (r : Replay) (x : RNode) (c : Ctx) (g : Graph) (gn : GNode), s.arg = .node n0 ∧ s.replay? 1023 1 = some r ∧ r.nodes[0]? = some x ∧
      s.ctx? 1023 = some c ∧ c.graphs.find? (fun g => g.handle = r.handle) = some g ∧ g.nodes[0]? = some gn ∧ gn.kind ≤ 4 ∧
      r.nodes.map RNode.idx = List.range r.nodes.length ∧ r.nodes.length = g.nodes.length ∧ (∀ j z, j ∈ gn.succs → g.nodes[j]? = some z → dieFound s c g z) ∧
      completesOk s n0 x gn.kind ∧ ¬restOver r 0 ∧ ∃ j z, j ∈ gn.succs ∧ g.nodes[j]? = some z ∧ z.die = 3 ∧ z.exts ≠ []) ∧
    (∃ (s : State) (x : RNode), s.arg = .node n0 ∧ s.node? n0 = some x ∧ x.phase = .running ∧ x.op = none ∧ notifiesBefore s x) ∧
    (∃ (s : State) (x : RNode), s.arg = .node n0 ∧ s.node? n0 = some x ∧ x.phase = .running ∧ x.op = none ∧ ¬notifiesBefore s x) ∧
    ∃ (s : State) (r : Replay) (x : RNode) (c : Ctx) (g : Graph) (gn : GNode), mayEnterPool s .a r x ∧ s.gnode? ⟨r.ctx, r.seq, x.idx⟩ = some (c, g, gn) ∧
      handsOver s c .a := by
  refine ⟨⟨extS, _, _, _, _, _, rfl, rfl, rfl, rfl, rfl, rfl, by decide, rfl, rfl, ?_, ?_, ?_, 1, _, by decide, rfl, rfl, by decide⟩,
    ⟨{ nodeS (gnode 3 0 0) (code1 0 false) { rnode .running with order := 5 } with
        replays := [⟨1023, 3, 1, 0, 0, [{ rnode .running with order := 5 }, { rnode .running with order := 4 }]⟩] },
      { rnode .running with order := 5 }, rfl, rfl, rfl, rfl, _, .head _, _, .tail _ (.head _), rfl, rfl, rfl, by decide, _, rfl, rfl⟩,
    ⟨nodeS (gnode 3 0 0) (code1 0 false) (rnode .running), _, rfl, rfl, rfl, rfl, ?_⟩,
    ⟨{ nodeS (gnode 3 0 0) (code1 0 false) (rnode .ready) with arg := .die .a }, ⟨1023, 3, 1, 0, 0, [rnode .ready]⟩, rnode .ready, _, _, _,
      ⟨by simp [nodeS], by simp, rfl, rfl, by unfold poolHas; decide +kernel, gctx (gnode 3 0 0) (code1 0 false), rfl, by unfold poolHas; decide +kernel⟩, rfl, .inl rfl⟩⟩
  · intro j z hj hz hd hk
    obtain rfl : j = 1 := by simpa using hj
    obtain rfl := Option.some.inj hz
    exact .inr ⟨0x500000, desc1, 0x500000, 65536, true, true, false, 0, rfl, by decide +kernel, by decide +kernel⟩
  · exact ⟨rfl, .inr (.inr (.inr ⟨rfl, rfl⟩))⟩
  · intro h
    exact absurd (h 2 _ rfl (by decide)) (by decide)
  · rintro ⟨r, hr, y, hy, -, -, -, h, -⟩
    simp only [nodeS, List.mem_singleton] at hr
    subst hr
    rw [List.mem_singleton.1 hy] at h
    exact absurd h (Nat.lt_irrefl _)

/-- A host-notify node before another of its pool, and one before a kernel that places blocks; slots that the placer reads. -/
theorem witness_NodesDispatched_turn :
    (∃ (s : State) (r : Replay) (y : RNode), s.arg = .node ⟨1023, 1, 1⟩ ∧ s.replay? 1023 1 = some r ∧ s.node? ⟨1023, 1, 1⟩ = some y ∧ comesFirst s r y) ∧
    (∃ s c g, (s : State).slotsMeet c g copy1.slots = (.none, 0) ∧ copy1.exts = [desc1] ∧ s.walk .a c 0x10000 = .leaf 0x500000 65536 true true false 0 ∧
      s.slot c g 2 = 0x10000) ∧
    ∃ s y c g x o, Places s n0 y c g x o ∧ (s.slotsMeet c g ((List.range (x.b1.toNat / 2 ^ 16 % 2 ^ 16)).map fun i => x.b1.toNat % 2 ^ 16 + i)).1 = .none ∧
      ∃ es : List Nat, es.Nodup ∧ es.length = 1 ∧ ∀ i ∈ es, i < 128 ∧ c.cores.getLsbD (i + if y.die = .b then 128 else 0) = true ∧
        s.pkg.readyC.getLsbD (i + if y.die = .b then 128 else 0) = true := by
  let s1 : State := { nodeS (gnode 3 0 0) (code1 0 false) (rnode .pool) with
    arg := .node ⟨1023, 1, 1⟩, replays := [⟨1023, 3, 1, 0, 0, [rnode .pool, { rnode .pool with idx := 1 }]⟩] }
  exact ⟨⟨s1, _, _, rfl, rfl, rfl, ⟨1023, 3, 1, 0, 0, [rnode .pool, { rnode .pool with idx := 1 }]⟩, by simp [s1], rnode .pool, by simp, rfl, .inl rfl,
      by unfold sooner; decide, by decide +kernel⟩,
    ⟨slotS copy1 (code1 0 false) (rnode .pool) 0x10000, gctx copy1 (code1 0 false), graph1 copy1, by decide +kernel, rfl, by decide +kernel, by decide +kernel⟩,
    ⟨_, _, _, _, _, _, is_places (code1 0 false) 0 rfl, by decide +kernel, [0], by decide, rfl, by decide +kernel⟩⟩
/-! Hypotheses of the statements about accesses that complete, held pages, rejoin records, streams, pre-emption and stops. -/

/-- A load of four bytes into v8. -/
def ld1 : Load := ⟨4, 4, .lane r0, n0, .core .a 0, 0x100000, 0x10000, 4, false, none, [some ⟨false, 8⟩], 0, false, 1, ⟨0, 0, 0, 0⟩, none, 3, false, none, none⟩

/-- A store of four bytes. -/
def st1 : Store := ⟨4, 4, .lane r0, n0, .core .a 0, 0x100000, 0x10000, [1, 2, 3, 4], none, false, ⟨0, 0, 0, 0⟩, 3, none, none⟩

theorem near1 (s : State) (h : s.poison = []) : near s (.core .a 0) 0x100000 4 := ⟨⟨.a, .inl (by decide)⟩, by decide, by simp [h]⟩

theorem witness_LoadsReturnStoresShow_loads :
    (∃ (s : State) (th : Thread) (b : Block), s.arg = .num 4 ∧ s.loads.find? (fun x => x.seq = 4) = some ld1 ∧ s.block? 1 = some b ∧ s.thread? r0 = some th ∧
      near s ld1.cache ld1.pa ld1.n ∧ noRecord s b.ctx ∧ (∀ x ∈ s.loads, x.who = ld1.who → x.seq < ld1.seq → x.pa + x.n ≤ ld1.pa ∨ ld1.pa + ld1.n ≤ x.pa) ∧ s.stores = []) ∧
    ∃ s : State, s.arg = .num 4 ∧ s.loads.find? (fun x => x.seq = 4) = some ld1 ∧ ∃ x ∈ s.loads, x.who = ld1.who ∧ x.seq < ld1.seq ∧ x.pa < ld1.pa + ld1.n ∧ ld1.pa < x.pa + x.n :=
  ⟨⟨{ evS (.num 4) with loads := [ld1] }, _, _, rfl, rfl, rfl, rfl, near1 _ rfl, .inr (by decide +kernel), by decide +kernel, rfl⟩,
  ⟨{ evS (.num 4) with loads := [{ ld1 with seq := 3 }, ld1] }, rfl, rfl, by decide +kernel⟩⟩

theorem witness_LoadsReturnStoresShow_stores :
    (∃ (s : State) (th : Thread), s.arg = .num 4 ∧ s.stores.find? (fun x => x.seq = 4) = some st1 ∧ s.thread? r0 = some th ∧
      near s st1.cache st1.pa st1.bytes.length ∧ ¬((∃ l ∈ s.loads, l.who = st1.who ∧ l.seq < st1.seq) ∨
        ∃ y ∈ s.stores, y.who = st1.who ∧ y.seq < st1.seq ∧ y.pa < st1.pa + st1.bytes.length ∧ st1.pa < y.pa + y.bytes.length)) ∧
    ∃ s : State, s.arg = .num 4 ∧ s.stores.find? (fun x => x.seq = 4) = some st1 ∧ ∃ l ∈ s.loads, l.who = st1.who ∧ l.seq < st1.seq :=
  ⟨⟨{ evS (.num 4) with stores := [st1] }, _, rfl, rfl, rfl, near1 _ rfl, by decide +kernel⟩,
  ⟨{ evS (.num 4) with stores := [st1], loads := [{ ld1 with seq := 3 }] }, rfl, rfl, by decide +kernel⟩⟩

/-- A held page fault of core 0 of die A. -/
def fault1 : HeldFault := ⟨.core .a 0, 1023, n0, 1, 0x10000, false, 0, 0⟩

theorem witness_PagesHeldAndHot :
    (∃ (s : State) (c : Ctx), s.arg = .num 0 ∧ s.faults[0]? = some fault1 ∧ s.ctx? fault1.ctx = some c ∧ s.owed = [] ∧ s.ckpts = [] ∧ s.cycA.toNat = 4096 ∧
      s.walk .a c fault1.va = .leaf 0x500000 65536 true true false 0 ∧ s.holds = [⟨.agent (.lane r0), .core .a 0, 1023, 0x10000, true, false, none⟩] ∧
      ∃ th, s.thread? r0 = some th ∧ th.status = .wait .held) ∧
    (∃ (s : State) (c : Ctx), s.arg = .num 0 ∧ s.faults[0]? = some { fault1 with va := 0x20000 } ∧ s.ctx? 1023 = some c ∧ s.walk .a c 0x20000 = .pend 65536 ∧
      s.cycA.toNat = 4096 ∧ ¬c.pfTmo ≤ 4096) ∧
    (∃ s : State, s.arg = .num 0 ∧ s.faults[0]? = some fault1 ∧ s.cycA.toNat = 4095) ∧
    (∃ (s : State) (h : HotCtl) (c : Ctx), s.arg = .num 9 ∧ s.hot[9]? = some h ∧ h.len ≠ 0 ∧ h.start + h.len = s.cycB.toNat ∧ s.ctx? 0 = some c ∧ c.stat = 1 ∧
      c.hotBase ≠ 0 ∧ c.hotInt ≠ 0 ∧ (s.meets .b none (c.hotBase + 2048 * 9) 2048 false = .none ∨ s.meets .b none (c.hotBase + 2048 * 9) 2048 false = .clear) ∧
      h.cand = [(5, 9), (7, 9), (6, 10)]) ∧
    ∃ (s : State) (h : HotCtl), s.arg = .num 9 ∧ s.hot[9]? = some h ∧ h.len ≠ 0 ∧ h.start + h.len ≤ s.cycB.toNat ∧ s.ctx? 0 = none := by
  refine ⟨⟨{ mapS (.num 0) with
        faults := [fault1]
        cycA := 4096
        holds := [⟨.agent (.lane r0), .core .a 0, 1023, 0x10000, true, false, none⟩]
        blocks := [{ fetchBlock 1 with threads := [{ thr [] with status := .wait .held }] }] }, mapC, rfl, rfl, rfl, rfl, rfl, rfl, by decide +kernel, rfl, _, rfl, rfl⟩,
    ⟨{ mapS (.num 0) with
        faults := [{ fault1 with va := 0x20000 }]
        cycA := 4096
        ctxs := [{ mapC with pfTmo := 200000000 }] }, { mapC with pfTmo := 200000000 }, rfl, rfl, rfl, by decide +kernel, rfl, by decide⟩,
    ⟨{ mapS (.num 0) with faults := [fault1], cycA := 4095 }, rfl, rfl, rfl⟩,
    ⟨{ mapS (.num 9) with
        ctxs := [{ mapC with num := 0, hotBase := 0x600000, hotInt := 1 }]
        hot := List.replicate 9 .reset ++ [⟨[], [(5, 9), (7, 9), (6, 10)], 3, 0, 65536⟩]
        cycB := 65536 }, _, _, rfl, rfl, by decide, rfl, rfl, rfl, by decide, by decide, by decide +kernel, rfl⟩,
    ⟨{ mapS (.num 9) with
        hot := List.replicate 9 .reset ++ [⟨[], [(5, 9)], 3, 0, 65536⟩]
        cycB := 65536 }, _, rfl, rfl, by decide, by decide, by decide +kernel⟩⟩

/-- A fault with an entry of its core's side log, whose page has resolved, and one whose page has not and is late. -/
theorem witness_HeldPages_2 :
    (∃ (s : State) (c : Ctx) (e : SideEntry), s.arg = .num 0 ∧ s.faults[0]? = some fault1 ∧ s.ctx? 1023 = some c ∧ s.owed = [] ∧ s.cycA.toNat = 4096 ∧
      settlement (s.walk .a c fault1.va) (c.pfTmo ≤ 4096 - fault1.since) fault1.va false true (some (.ok 0x500000)) ∧ e ∈ s.sideLog ∧ e.pa = none ∧ (s.thread? e.who).isSome = true) ∧
    ∃ (s : State) (c : Ctx) (e : SideEntry), s.arg = .num 0 ∧ s.faults[0]? = some { fault1 with va := 0x20000 } ∧ s.ctx? 1023 = some c ∧ s.owed = [] ∧ s.cycA.toNat = 4096 ∧
      settlement (s.walk .a c 0x20000) (c.pfTmo ≤ 4096 - fault1.since) 0x20000 false true (some .fatal) ∧ e ∈ s.sideLog ∧ (s.thread? e.who).isSome = true := by
  let f (va : Nat) : State := { mapS (.num 0) with
    faults := [{ fault1 with va := va }], cycA := 4096, sideLog := [⟨5, none, .a, 0, 1023, r0, va, false, 0, 15, 0x04030201, n0, ⟨0, 0, 0, 0⟩, 3, none⟩]
    blocks := [{ fetchBlock 1 with threads := [thr []] }] }
  have h1 : (f 0x10000).walk .a mapC 0x10000 = .leaf 0x500000 65536 true true false 0 := by decide +kernel
  have h2 : (f 0x20000).walk .a mapC 0x20000 = .pend 65536 := by decide +kernel
  refine ⟨⟨f 0x10000, mapC, _, rfl, rfl, rfl, rfl, rfl, ?_, List.mem_singleton.mpr rfl, rfl, rfl⟩, ⟨f 0x20000, mapC, _, rfl, rfl, rfl, rfl, rfl, ?_, List.mem_singleton.mpr rfl, rfl⟩⟩
  · rw [show fault1.va = 0x10000 from rfl, h1]
    exact ⟨fun _ => rfl, fun h => absurd ⟨fun _ => rfl, fun _ => rfl⟩ h⟩
  · rw [h2]
    exact ⟨fun _ => rfl, fun h => absurd (by decide) h⟩

/-- The running block, changed, with an event in hand. -/
def blkS (a : Arg) (f : Block → Block) : State := { evS a with blocks := (evS a).blocks.map f }

/-- A rejoin record with a missing member, and a bin. -/
def rec1 : RejoinRec := ⟨9, 0, 0xC001, [0, 1], [0], [], some 5⟩
def bin1 : Bin := ⟨9, 0, 0xC001, [(0, 5)]⟩

theorem witness_DivergenceAndStreams_records :
    (∃ (s : State) (b : Block), s.arg = .record 1 9 ∧ s.block? 1 = some b ∧ b.recs.find? (fun r => r.id = 9) = some rec1 ∧ b.stop = none ∧
      ∃ c ∈ rec1.first, c + b.code.launch.rejoinTmo + 1 = nowOf s b) ∧
    (∃ (s : State) (b : Block), s.arg = .record 1 9 ∧ s.block? 1 = some b ∧ b.recs.find? (fun r => r.id = 9) = some rec1 ∧ b.stop = none ∧ nowOf s b = 5) ∧
    (∃ (s : State) (b : Block) (th : Thread), s.arg = .record 1 9 ∧ s.block? 1 = some b ∧ b.bins.find? (fun x => x.id = 9) = some bin1 ∧ b.stop = none ∧
      bin1.threads = [(0, 5)] ∧ b.threads[0]? = some th ∧ 5 + b.code.launch.reformAge ≤ nowOf s b) ∧
    ∃ (s : State) (b : Block) (th : Thread), s.arg = .record 1 9 ∧ s.block? 1 = some b ∧ b.bins.find? (fun x => x.id = 9) = some bin1 ∧ b.threads[0]? = some th ∧
      ¬(th.g.toNat ≤ 1 ∨ 5 + b.code.launch.reformAge ≤ nowOf s b) :=
  ⟨⟨{ blkS (.record 1 9) (fun b => { b with recs := [rec1] }) with cycA := 6 }, _, rfl, rfl, rfl, rfl, 5, rfl, rfl⟩,
  ⟨{ blkS (.record 1 9) (fun b => { b with recs := [rec1] }) with cycA := 5 }, _, rfl, rfl, rfl, rfl, rfl⟩,
  ⟨{ blkS (.record 1 9) (fun b => { b with bins := [bin1] }) with cycA := 6 }, _, _, rfl, rfl, rfl, rfl, rfl, rfl, by decide +kernel⟩,
  ⟨{ blkS (.record 1 9) (fun b => { b with bins := [bin1] }) with cycA := 4 }, _, _, rfl, rfl, rfl, rfl, by decide +kernel⟩⟩

/-- The machine with its thread changed. -/
def thS (a : Arg) (f : Thread → Thread) : State := blkS a fun b => { b with threads := b.threads.map f }

theorem witness_DivergenceAndStreams_carrels :
    (∃ (s : State) (b : Block) (th : Thread), s.arg = .thread r0 ∧ s.block? 1 = some b ∧ b.threads[0]? = some th ∧ th.status = .wait (.toCarrel 3) ∧ th.ld = 0 ∧ th.st = 0 ∧ th.preempt = false ∧ b.stop = none) ∧
    (∃ (s : State) (th : Thread), s.thread? r0 = some th ∧ th.status = .wait (.toCarrel 3) ∧ th.st = 1) ∧
    (∃ (s : State) (b : Block) (th : Thread), s.arg = .thread r0 ∧ s.block? 1 = some b ∧ b.threads[0]? = some th ∧ th.status = .wait (.fromCarrel false) ∧ th.ld = 0 ∧ th.st = 0 ∧ th.preempt = false ∧ b.stop = none ∧
      b.recs = [{ rec1 with rp := th.pc, arrived := [] }] ∧ rec1.id ∈ th.chain ∧ ∃ q ∈ rec1.members, q ≠ 0) ∧
    ∃ (s : State) (b : Block) (th : Thread), s.arg = .thread r0 ∧ s.block? 1 = some b ∧ b.threads[0]? = some th ∧ th.status = .wait (.fromCarrel true) ∧ th.ld = 0 ∧ th.st = 0 ∧ th.preempt = false ∧ b.stop = none ∧
      b.recs = [] ∧ b.bins = [{ bin1 with threads := [] }] ∧ bin1.core = b.home 0 ∧ bin1.pc = th.pc + 1 :=
  ⟨⟨thS (.thread r0) fun t => { t with status := .wait (.toCarrel 3) }, _, _, rfl, rfl, rfl, rfl, rfl, rfl, rfl, rfl⟩,
  ⟨thS (.thread r0) fun t => { t with status := .wait (.toCarrel 3), st := 1 }, _, rfl, rfl, rfl⟩,
  ⟨blkS (.thread r0) fun b => { b with threads := [{ thr [] with status := .wait (.fromCarrel false), chain := [9], carrel := some 3 }], recs := [{ rec1 with rp := 0xC000, arrived := [] }] },
    _, _, rfl, rfl, rfl, rfl, rfl, rfl, rfl, rfl, rfl, by decide +kernel, by decide⟩,
  ⟨blkS (.thread r0) fun b => { b with threads := [{ thr [] with status := .wait (.fromCarrel true), carrel := some 3 }], bins := [{ bin1 with threads := [] }] },
    _, _, rfl, rfl, rfl, rfl, rfl, rfl, rfl, rfl, rfl, rfl, by decide +kernel, by decide +kernel⟩⟩

/-- A stream of two by three entries over local space from 64 on, and its queue. -/
def stream1 : Stream := ⟨64, [2, 3, 1, 1], [4, 8, 0, 0], 0, false, 0, true⟩
def queue1 (x : Stream) (w : Nat) : Queue := ⟨1024, 2, false, 1, w, some x⟩

/-- The machine with that queue as q3. -/
def streamS (x : Stream) (w : Nat) : State :=
  blkS (.stream l0 3) fun b => { b with shares := b.shares.map fun (y : Share) => { y with lead := { y.lead with queues := y.lead.queues.set! 3 (some (queue1 x w)) } } }

theorem witness_DivergenceAndStreams_streams :
    (∃ (s : State) (b : Block) (sh : Share), s.arg = .stream l0 3 ∧ s.block? 1 = some b ∧ b.shares[0]? = some sh ∧ sh.lead.queues.toList[3]? = some (some (queue1 stream1 0)) ∧
      b.stop = none ∧ b.stage = .running ∧ (∃ j o, b.local? 64 4 = some (j, o)) ∧
      ¬∃ t ∈ b.onCore 0, ∃ th ∈ b.threads[t]?, th.status ≠ .ended ∧ 2 ≤ ((0 : BitVec 16) - th.qr.toList.getD 3 0).toNat) ∧
    ∃ (s : State) (b : Block) (sh : Share), s.arg = .stream l0 3 ∧ s.block? 1 = some b ∧ b.shares[0]? = some sh ∧
      sh.lead.queues.toList[3]? = some (some (queue1 { stream1 with running := false } 2)) ∧
      ∃ t ∈ b.onCore 0, ∃ th ∈ b.threads[t]?, th.status ≠ .ended ∧ 2 ≤ ((2 : BitVec 16) - th.qr.toList.getD 3 0).toNat :=
  ⟨⟨streamS stream1 0, _, _, rfl, rfl, rfl, by decide +kernel, rfl, rfl, ⟨0, 64, by decide +kernel⟩, by decide +kernel⟩,
  ⟨streamS { stream1 with running := false } 2, _, _, rfl, rfl, rfl, by decide +kernel, by decide +kernel⟩⟩

/-- A block being saved in slot 2. -/
def savingS (a : Arg) (th : Thread) (l : Lead) : State :=
  blkS a fun b => { b with stage := .saving, slot := some 2, threads := [th], shares := b.shares.map fun (y : Share) => { y with lead := l } }

theorem witness_PreemptionAndStops_enter :
    (∃ (s : State) (b : Block) (th : Thread) (c : Ctx), s.arg = .agent (.lane r0) ∧ s.block? 1 = some b ∧ b.threads[0]? = some th ∧ b.stop = none ∧ b.stage = .saving ∧
      th.preempt = true ∧ th.inTrap = false ∧ th.pfatal = none ∧ th.status = .ready ∧ th.ld = 0 ∧ th.st = 0 ∧ th.cp = [] ∧ th.tl = [] ∧ s.loads = [] ∧ th.trapVec ≠ 0 ∧
      s.ctx? b.ctx = some c ∧ b.slot = some 2) ∧
    (∃ (s : State) (b : Block) (th : Thread), s.arg = .agent (.lane r0) ∧ s.block? 1 = some b ∧ b.threads[0]? = some th ∧ b.stop = none ∧ b.stage = .saving ∧
      th.preempt = true ∧ th.inTrap = false ∧ th.pfatal = none ∧ th.status = .wait .retry ∧ th.st = 1) ∧
    (∃ (s : State) (b : Block) (th : Thread), s.arg = .agent (.lane r0) ∧ s.block? 1 = some b ∧ b.threads[0]? = some th ∧ th.status = .parked) ∧
    (∃ (s : State) (b : Block) (l : Lead) (c : Ctx), s.arg = .agent (.lead l0) ∧ s.block? 1 = some b ∧ s.lead? l0 = some l ∧ b.stop = none ∧ b.stage = .saving ∧
      l.preempt = true ∧ l.inTrap = false ∧ l.status = .ready ∧ s.loads = [] ∧ l.s[495] ≠ 0 ∧ s.ctx? b.ctx = some c ∧ b.slot = some 2 ∧ s.ops = []) ∧
    ∃ (s : State) (b : Block) (l : Lead), s.arg = .agent (.lead l0) ∧ s.block? 1 = some b ∧ s.lead? l0 = some l ∧ l.preempt = true ∧
      ∃ o ∈ s.ops, o.issuer = .agent (.lead l0) ∧ o.phase ≠ .waiting := by
  refine ⟨⟨savingS (.agent (.lane r0)) { thr [] with preempt := true, trapVec := 3 } (leadAt []), _, _, _, rfl, rfl, rfl, rfl, rfl, rfl, rfl, rfl, rfl, rfl, rfl, rfl, rfl, rfl,
      by decide +kernel, rfl, rfl⟩,
    ⟨savingS (.agent (.lane r0)) { thr [] with preempt := true, status := .wait .retry, st := 1 } (leadAt []), _, _, rfl, rfl, rfl, rfl, rfl, rfl, rfl, rfl, rfl, rfl⟩,
    ⟨savingS (.agent (.lane r0)) { thr [] with status := .parked } (leadAt []), _, _, rfl, rfl, rfl, rfl⟩,
    ⟨savingS (.agent (.lead l0)) (thr []) { leadAt [(495, 3)] with preempt := true }, _, _, _, rfl, rfl, rfl, rfl, rfl, rfl, rfl, rfl, rfl, by decide +kernel, rfl, rfl, rfl⟩,
    ⟨{ savingS (.agent (.lead l0)) (thr []) { leadAt [(495, 3)] with preempt := true } with ops := [opOfW 4 (.coll coll1) (.lead l0)] }, _, _, rfl, rfl, rfl, rfl, _,
      List.mem_singleton.mpr rfl, rfl, by decide⟩⟩

/-- The block with its parties parked, under tables with a leaf of 1 GiB that maps its save area. -/
def parkedS : State :=
  ({ savingS (.num 1) { thr [] with status := .parked } { leadAt [] with status := .parked } with ctxs := [mapC] } : State).homeWrite 0x1000000 (bytesOf 8 0x2000001)
    |>.homeWrite 0x2000000 (bytesOf 8 0x1B)

theorem witness_PreemptionAndStops_saves : (∃ (s : State) (b : Block) (c : Ctx) (x : RNode), s.arg = .num 1 ∧ s.block? 1 = some b ∧ s.ctx? b.ctx = some c ∧ b.slot = some 2 ∧
      b.stop = none ∧ Parked s b ∧ s.node? b.nodeRef = some x ∧ ∃ ws, s.saveAll b.die c 1 (b.saveWrites c 2) [] = .ok ws) ∧
    ∃ (s : State) (b : Block), s.arg = .num 1 ∧ s.block? 1 = some b ∧ b.slot = some 2 ∧ b.stop = none ∧ ¬Parked s b := by
  have hw : (match (parkedS.block? 1).map fun b => parkedS.saveAll b.die mapC 1 (b.saveWrites mapC 2) [] with | some (.ok _) => true | _ => false) = true := by
    decide +kernel
  refine ⟨⟨parkedS, _, mapC, node0, rfl, rfl, rfl, rfl, rfl, ?_, rfl, ?_⟩,
    ⟨savingS (.num 1) (thr []) (leadAt []), _, rfl, rfl, rfl, rfl, fun h => absurd (h.2.1 (thr []) (List.mem_singleton.mpr rfl)).1 (by decide +kernel)⟩⟩
  · refine ⟨rfl, fun th h => ?_, fun x h => ?_, fun l h => absurd h ?_, fun l h => absurd h ?_, fun l h => absurd h ?_, fun l h => absurd h ?_⟩
    · rw [List.mem_singleton.mp h]
      exact ⟨.inr rfl, rfl, rfl⟩
    · rw [List.mem_singleton.mp h]
      exact .inr rfl
    all_goals exact List.not_mem_nil
  · revert hw
    split
    · rename_i ws h
      exact fun _ => ⟨ws, Option.some.inj h⟩
    · exact fun h => Bool.noConfusion h

theorem witness_PreemptionAndStops_stops :
    (∃ s : State, s.arg = .dword 0 ∧ s.readyBit bitMgmt = true ∧ s.readyBit bitFw = true ∧ s.live (s.dbg.cfg.toNat % 2 ^ 10) = true ∧ s.dbg.seq = 0xFFFFFFFF ∧
      s.blocks.map Block.b = [0]) ∧
    (∃ s : State, s.arg = .dword (2 ^ 63) ∧ s.live (s.dbg.cfg.toNat % 2 ^ 10) = true ∧ s.blocks = []) ∧
    (∃ (s : State) (b : Block), s.arg = .num 1 ∧ s.block? 1 = some b ∧ b.stop = some ⟨2, false, 0⟩ ∧ (∀ th ∈ b.threads, th.ld = 0 ∧ th.st = 0) ∧ s.loads = [] ∧ s.stores = [] ∧
      s.sideLog = [] ∧ s.dbg.slot = 0 ∧ s.ctxs = []) ∧
    (∃ (s : State) (b : Block), s.arg = .num 1 ∧ s.block? 1 = some b ∧ b.stop = some ⟨2, false, 0⟩ ∧ ∃ l ∈ s.loads, l.who.block = b.id) ∧
    ∃ b : Block, b.shares.length ≤ 32 :=
  ⟨⟨{ evS (.dword 0) with dbg := { Dbg.reset with cfg := 1023, seq := 0xFFFFFFFF } }, rfl, by decide +kernel, by decide +kernel, by decide +kernel, rfl, rfl⟩,
  ⟨{ evS (.dword (2 ^ 63)) with dbg := { Dbg.reset with cfg := 1023, seq := 0xFFFFFFFF }, blocks := [] }, rfl, by decide +kernel, rfl⟩,
  ⟨{ blkS (.num 1) (fun b => { b with stop := some ⟨2, false, 0⟩ }) with ctxs := [] }, _, rfl, rfl, rfl, by decide +kernel, rfl, rfl, rfl, rfl, rfl⟩,
  ⟨{ blkS (.num 1) (fun b => { b with stop := some ⟨2, false, 0⟩ }) with loads := [ld1] }, _, rfl, rfl, rfl, ld1, List.mem_singleton.mpr rfl, rfl⟩,
  ⟨fetchBlock 1, by decide⟩⟩

theorem witness_ThreadSaveAndRestore :
    ∃ rd : Nat → Nat → Nat, ∀ p ∈ threadParts 0 0 (thr [(112, 5)]), ∀ o n, o + n ≤ p.2.length → rd (p.1 + o) n = natOf ((p.2.drop o).take n) := by
  refine ⟨fun a n => natOf ((((threadParts 0 0 (thr [(112, 5)])).getD (if a < 0xE4000 then 0 else 1) (0, [])).2.drop
    (a - if a < 0xE4000 then 0x4000 else 0xE41C0)).take n), fun p hp o n h => ?_⟩
  have h0 : ((threadParts 0 0 (thr [(112, 5)])).map fun p => (p.1, p.2.length)) = [(0x4000, 128), (0xE41C0, 56)] := by decide +kernel
  have hl : ∀ q : Nat × List Byte, q ∈ threadParts 0 0 (thr [(112, 5)]) → (q.1, q.2.length) ∈ ([(0x4000, 128), (0xE41C0, 56)] : List (Nat × Nat)) := fun q hq => by
    rw [← h0]
    exact List.mem_map_of_mem hq
  have hd : ∀ q : Nat × List Byte, q ∈ threadParts 0 0 (thr [(112, 5)]) → q = (threadParts 0 0 (thr [(112, 5)])).getD (if q.1 < 0xE4000 then 0 else 1) (0, []) := by
    intro q hq
    simp only [threadParts, List.mem_cons, List.not_mem_nil, or_false] at hq ⊢
    rcases hq with rfl | rfl <;> rfl
  have hq := hl p hp
  simp only [List.mem_cons, Prod.mk.injEq, List.not_mem_nil, or_false] at hq
  rcases hq with ⟨h1, h2⟩ | ⟨h1, h2⟩
  · have : p.1 + o < 0xE4000 := by omega
    simp only [this, if_true]
    have e := hd p hp
    rw [h1] at e
    rw [if_pos (by omega)] at e
    rw [← e, h1, Nat.add_sub_cancel_left]
  · have : ¬p.1 + o < 0xE4000 := by omega
    simp only [this, if_false]
    have e := hd p hp
    rw [h1] at e
    rw [if_neg (by omega)] at e
    rw [← e, h1, Nat.add_sub_cancel_left]

/-- The log of a recorded run at 0x10000: the tag 5 of the block, and the read that waits for clock 7 of agent 1 of the block with tag 9. -/
def logS (f : Stamp) : State :=
  { ({ mapS (.num 4) with
      blocks := [{ fetchBlock 1 with threads := [thr []], loc := 4096 }]
      loads := [{ ld1 with pa := 0x100000, since := some 0 }]
      stamps := [f] } : State).homeWrite 0x500000 (bytesOf 32 (2 + 5 * 2 ^ 16 + 2 ^ 160) ++ bytesOf 32 (1 + 9 * 2 ^ 16 + 2 ^ 32 + 7 * 2 ^ 64 + 5 * 2 ^ 96 + 2 ^ 128)) with
    dbg := { Dbg.reset with cfg := 1023 + 2 * 2 ^ 12, accBase := 0x10000 + 10 * 2 ^ 56 } }

theorem witness_LoadsReturnStoresShow_replay : ∃ (s : State) (l : Load) (b : Block) (v : Nat), s.arg = .num 4 ∧ s.loads.find? (fun x => x.seq = 4) = some l ∧
    l.who = .lane r0 ∧ s.block? 1 = some b ∧ l.atom = none ∧ l.since = some 0 ∧ near s l.cache l.pa l.n ∧ s.rrPair l = some (b, v) ∧ s.dbg.samples = [] ∧
    s.pairReady b.ctx v = true ∧ stampLogged s b v l.pa := by
  have hq : (match (logS ⟨0x100000, 9, 1, 7⟩).rrPair { ld1 with pa := 0x100000, since := some 0 } with
      | some (b, v) => (logS ⟨0x100000, 9, 1, 7⟩).pairReady b.ctx v && decide (1 = v / 2 ^ 32 % 2 ^ 16 ∧ 7 = v / 2 ^ 64 % 2 ^ 32 ∧
          9 = (match (logS ⟨0x100000, 9, 1, 7⟩).blockOfTag b.ctx (v / 2 ^ 16 % 2 ^ 16) with | some w => w.tag.toNat | none => v / 2 ^ 16 % 2 ^ 16))
      | none => false) = true := by decide +kernel
  split at hq
  · rename_i b v hr
    simp only [Bool.and_eq_true, decide_eq_true_eq] at hq
    have hb : (logS ⟨0x100000, 9, 1, 7⟩).block? 1 = some b := by
      obtain ⟨x, h1, h2⟩ := Option.bind_eq_some_iff.mp hr
      rw [show b = x from ?_]
      · exact h1
      · split at h2
        · obtain ⟨y, -, h3⟩ := Option.map_eq_some_iff.mp h2
          exact (congrArg Prod.fst h3).symm
        · simp at h2
    exact ⟨logS ⟨0x100000, 9, 1, 7⟩, { ld1 with pa := 0x100000, since := some 0 }, b, v, rfl, rfl, rfl, hb, rfl, rfl, near1 _ rfl, hr, rfl, hq.1,
      ⟨0x100000, 9, 1, 7⟩, rfl, hq.2.1, hq.2.2.1, hq.2.2.2⟩
  · exact Bool.noConfusion hq

/-! Hypotheses of the statements about what the engines do by themselves. -/

/-- An operation of the thread on places, waiting or registered, on an engine. -/
def placeOp (w : Work) (src dst : List Area) (p : OpPhase) (e : Option Nat) : Op :=
  { opOfW 4 w (.lane r0) with src := src, dst := dst, phase := p, engine := e }

/-- A copy of 256 bytes between local places. -/
def copyLoc (p : OpPhase) (e : Option Nat) (f : Option Follow) : Op :=
  placeOp (.copy (.loc 1 0) (.loc 1 0x400) 256 f) [rangeAt (.loc 1 0) 256] [rangeAt (.loc 1 0x400) 256] p e

theorem witness_CopiesComplete_register :
    (∃ (s : State) (o : Op), s.arg = .num 4 ∧ s.op? 4 = some o ∧ o.phase = .waiting ∧ s.opUnit o = .ready ∧ s.underLimit o = true ∧ s.entryFree o = true ∧
      s.rangesFree o = true ∧ o.engine = none ∧ o.accepted = false ∧ o.work = .copy (.loc 1 0) (.loc 1 0x400) 256 none) ∧
    (∃ (s : State) (o x : Op), s.op? 4 = some o ∧ o.phase = .waiting ∧ x ∈ s.ops ∧ x.id ≠ 4 ∧ x.phase ≠ .waiting ∧
      spansHit (s.srcSpans o ++ s.dstSpans o) (x.lockSrc ++ x.lockDst) = true) ∧
    (∃ (s : State) (o : Op), s.arg = .num 4 ∧ s.op? 4 = some o ∧ o.phase = .waiting ∧ (∃ u n, s.unitOf o = some (u, n)) ∧ s.opUnit o = .failed) := by
  refine ⟨⟨withOps (.num 4) [copyLoc .waiting none none], _, rfl, rfl, rfl, by decide +kernel, by decide +kernel, by decide +kernel, by decide +kernel, rfl, rfl, rfl⟩,
    ⟨withOps (.num 4) [{ copyLoc .registered (some 0) none with id := 3, lockDst := [.loc 1 0x400 256] }, copyLoc .waiting none none], _,
      { copyLoc .registered (some 0) none with id := 3, lockDst := [.loc 1 0x400 256] }, rfl, rfl, by simp [withOps], by decide, by decide, by decide +kernel⟩, ?_⟩
  have hu : ((withOps (.num 4) [copyLoc .waiting none none]).unitOf (copyLoc .waiting none none)).isSome = true := by decide +kernel
  obtain ⟨u, hu⟩ := Option.isSome_iff_exists.mp hu
  refine ⟨{ withOps (.num 4) [copyLoc .waiting none none] with pkg := { Pkg.reset with failed := [Die.a, .b].flatMap fun d => (List.range 256).map fun u => unitKey d (BitVec.ofNat 8 u) } },
    copyLoc .waiting none none, rfl, rfl, rfl, ⟨u.1, u.2, hu⟩, by decide +kernel⟩

theorem witness_CopiesComplete_land :
    (∃ (s : State) (o : Op), s.arg = .num 4 ∧ s.op? 4 = some o ∧ o = copyLoc .registered (some 2) none ∧
      (s.ops.find? fun z => z.die = o.die && z.engine = some 2).map (fun z => z.id) = some 4 ∧ s.issuerHeld o = false ∧ spansHit o.lockSrc o.lockDst = false ∧
      placeAt s o (.loc 1 0) 256 .load [] ∧ placeAt s o (.loc 1 0x400) 256 .store [] ∧ (s.share? 1 0).isSome = true ∧ (s.locRead 1 0 0 256).length = 256) ∧
    (∃ (s : State) (o : Op), s.arg = .num 4 ∧ s.op? 4 = some o ∧ o.work = .copy (.glob 0x10000) (.glob 0x20000) 1048577 none ∧ s.issuerHeld o = false ∧
      .copy 2 ∉ (s.gov o.die).held) ∧
    ∃ s : State, s.arg = .num 4 ∧ (s.ops.find? fun z => z.die = .a && z.engine = some 2).map (fun z => z.id) = some 3 := by
  refine ⟨⟨withOps (.num 4) [copyLoc .registered (some 2) none], _, rfl, rfl, rfl, by decide +kernel, by decide +kernel, by decide +kernel, rfl, rfl, by decide +kernel,
      by decide +kernel⟩,
    ⟨withOps (.num 4) [placeOp (.copy (.glob 0x10000) (.glob 0x20000) 1048577 none) [] [] .registered (some 2)], _, rfl, rfl, rfl, by decide +kernel, by decide +kernel⟩,
    ⟨withOps (.num 4) [{ copyLoc .registered (some 2) none with id := 3 }, copyLoc .registered (some 2) none], rfl, by decide +kernel⟩⟩

/-- A command alone is taken next. -/
theorem taken {s : State} {o : Op} (h : s.ops = [o]) : takesNext s o := fun x hx hn => absurd (congrArg Op.id (List.mem_singleton.mp (h ▸ hx))) hn

/-- A record of one row, one step and one column. -/
def tinyWord : Dword := BitVec.ofNat 64 (2 ^ 12 + 2 ^ 19 + 2 ^ 28)

/-- The plane that fits it, and a tile slot with that record, plane and tile 0. -/
def plane1 : Plane := ⟨0, 1, 1, 0, [0x3F80], [], []⟩
def slot1 : TileSlot := ⟨(Vector.replicate 4 none).set! 0 (some tinyWord), some plane1, some plane1, [(0, [])]⟩

/-- The machine with that slot, and a tile command. -/
def tileS (a : Arg) (l : List Op) : State :=
  { blkS a (fun b => { b with shares := b.shares.map fun (x : Share) => { x with tile := slot1 } }) with ops := l, govA := ⟨[.tile 0], [], 0, 0, 0, []⟩ }

/-- A tile command on tile 0, or on the tiles of mask 1. -/
def tcmd (fn a b : Nat) : TileCmd := ⟨fn, 1, 0, 0, tinyWord, 0, 1, a, b, 0, false, false, none, none⟩

/-- Its operation. -/
def tileO (t : TileCmd) (src dst : List Area) : Op := placeOp (.tile t) src dst .registered none

theorem witness_CopiesComplete_follow :
    (∃ (s : State) (o : Op) (b : Block) (f : Follow), s.arg = .num 4 ∧ s.op? 4 = some o ∧ o.work = .copy (.loc 1 0) (.loc 1 0x400) 256 (some f) ∧ o.phase = .running ∧
      s.block? 1 = some b ∧ o.issuer = .agent (.lane r0) ∧ (s.slotOf 1 0).sh.toList.getD f.sh none = none) ∧
    ∃ (s : State) (o : Op) (b : Block) (f : Follow), s.arg = .num 4 ∧ s.op? 4 = some o ∧ o.work = .copy (.loc 1 0) (.loc 1 0x400) 256 (some f) ∧ o.phase = .running ∧
      s.block? 1 = some b ∧ (s.slotOf 1 0).sh.toList.getD f.sh none = some tinyWord ∧ (shapeRec tinyWord).mode ≠ 2 ∧ (shapeRec tinyWord).chain = 0 ∧
      s.tileTrap ⟨.lane r0, b, 0, b.leadCache 0, o.handler, false, true⟩
        ⟨3, 1, 0, 0, tinyWord, 0, 0, 0x400, f.scale + f.pitch / 16 * 2 ^ 32, 0, false, false, none, none⟩ true = none ∧ s.nextId ≠ 4 :=
  ⟨⟨withOps (.num 4) [copyLoc .running none (some ⟨false, 0, 0, 16, 0⟩)], _, _, ⟨false, 0, 0, 16, 0⟩, rfl, rfl, rfl, rfl, rfl, rfl, by decide +kernel⟩,
  ⟨tileS (.num 4) [copyLoc .running none (some ⟨false, 0, 0, 16, 0⟩)], _, _, ⟨false, 0, 0, 16, 0⟩, rfl, rfl, rfl, rfl, rfl, by decide +kernel, by decide +kernel,
    by decide +kernel, by decide +kernel, by decide +kernel⟩⟩

/-- The command that the copy's follow-on enters, and whether anything but the copy stands against it. -/
def followCmd : TileCmd := ⟨3, 1, 0, 0, tinyWord, 0, 0, 0x400, 2 ^ 32, 0, false, false, none, none⟩
def followOk (s : State) (o : Op) : Bool :=
  (s.dropOp 4).rangesOk { o with
    id := s.nextId, core := 0, engine := none, work := .tile followCmd, src := followCmd.areas.1, dst := [], lockSrc := [], lockDst := [], phase := .registered }
    (s.ops.filter fun z => spansHit (s.srcSpans z ++ s.dstSpans z) o.lockDst = false)

/-- A copy whose follow-on enters now, and one whose command still meets a held range. -/
theorem witness_CopiesComplete_enter : (∃ (s : State) (o : Op), s.arg = .num 4 ∧ s.op? 4 = some o ∧ o.phase = .running ∧ followOk s o = true) ∧
    ∃ (s : State) (o : Op), s.arg = .num 4 ∧ s.op? 4 = some o ∧ o.phase = .running ∧ followOk s o = false :=
  ⟨⟨tileS (.num 4) [copyLoc .running none (some ⟨false, 0, 0, 16, 0⟩)], _, rfl, rfl, rfl, by decide +kernel⟩,
  ⟨tileS (.num 4) [copyLoc .running none (some ⟨false, 0, 0, 16, 0⟩), { copyLoc .registered (some 0) none with id := 9, lockDst := [.loc 1 0x400 2] }], _, rfl, rfl, rfl,
    by decide +kernel⟩⟩

theorem witness_CornerTurns_move :
    (∃ (s : State) (o : Op), s.arg = .num 4 ∧ s.op? 4 = some o ∧ o.work = .stash ⟨0, 128, 0x10000, 128, 0x18000, 128, none⟩ ∧ o.phase = .registered ∧
      o.issuer = .agent (.lane r0) ∧ o.src = [] ∧ o.dst = [⟨.glob 0x10000, 64, 128, 128⟩, ⟨.glob 0x18000, 64, 128, 128⟩]) ∧
    ∃ (s : State) (o : Op) (p q : Nat → Nat), s.arg = .num 4 ∧ s.op? 4 = some o ∧ o.work = .stash ⟨0, 128, 0x10000, 128, 0x18000, 128, some (List.replicate 8192 0)⟩ ∧
      s.issuerHeld o = false ∧
      (∀ i, i < 64 → liesAt (s.rowParts o (0x10000 + i * 128) 128 .store) [(p i, 128)] ∧ liesAt (s.rowParts o (0x18000 + i * 128) 128 .store) [(q i, 128)]) ∧
      reach s o.die ((List.range 64).map (fun i => (p i, 128)) ++ (List.range 64).map fun i => (q i, 128)) := by
  refine ⟨⟨withOps (.num 4) [placeOp (.stash ⟨0, 128, 0x10000, 128, 0x18000, 128, none⟩) [] [⟨.glob 0x10000, 64, 128, 128⟩, ⟨.glob 0x18000, 64, 128, 128⟩] .registered none], _,
      rfl, rfl, rfl, rfl, rfl, rfl, rfl⟩,
    ⟨withOps (.num 4) [placeOp (.stash ⟨0, 128, 0x10000, 128, 0x18000, 128, some (List.replicate 8192 0)⟩) []
        [⟨.glob 0x10000, 64, 128, 128⟩, ⟨.glob 0x18000, 64, 128, 128⟩] .registered none], _, fun i => 0x100000 + i * 128, fun i => 0x108000 + i * 128, rfl, rfl, rfl,
      by decide +kernel, by unfold liesAt; decide +kernel, ?_, by decide +kernel⟩⟩
  intro x hx
  refine ⟨⟨.a, .inl ?_⟩, ?_, fun l h => (List.not_mem_nil (show l ∈ ([] : List Nat) from h)).elim⟩
  all_goals
    revert x
    decide +kernel

theorem witness_StepsAccumulate :
    (∃ (s : State) (o : Op) (t : TileCmd), s.arg = .num 4 ∧ s.op? 4 = some o ∧ o.work = .tile t ∧ t.fn = 5 ∧ (shapeRec t.sh).chain = 0 ∧ mayStart s o t ∧
      Requester.tile o.core ∈ (s.gov o.die).held ∧ (s.gov o.die).idle = [] ∧ recordOk t.sh.toNat ∧ (s.share? t.block t.j).isSome = true ∧ (s.slotOf t.block t.j).active = some plane1 ∧
      plane1.tag = (shapeRec t.sh).tag ∧ ∀ q ∈ t.names, ((s.slotOf t.block t.j).tile? q).isSome = true) ∧
    (∃ (s : State) (o : Op) (t : TileCmd), s.arg = .num 4 ∧ s.op? 4 = some o ∧ o.work = .tile t ∧ t.fn = 5 ∧ (shapeRec t.sh).chain = 0 ∧ mayStart s o t ∧
      ¬Requester.tile o.core ∈ (s.gov o.die).held) ∧
    ∃ (s : State) (o : Op) (t : TileCmd), s.arg = .num 4 ∧ s.op? 4 = some o ∧ o.work = .tile t ∧ t.fn = 5 ∧ t.started = true := by
  refine ⟨⟨tileS (.num 4) [tileO (tcmd 5 0 (2 ^ 32)) [] []], _, tcmd 5 0 (2 ^ 32), rfl, rfl, rfl, rfl, by decide, ?_, by decide +kernel, rfl, by unfold recordOk; decide,
      by decide +kernel, by decide +kernel, by decide, by decide +kernel⟩,
    ⟨{ tileS (.num 4) [tileO (tcmd 5 0 (2 ^ 32)) [] []] with govA := .reset }, _, tcmd 5 0 (2 ^ 32), rfl, rfl, rfl, rfl, by decide, ?_, by decide +kernel⟩,
    ⟨tileS (.num 4) [tileO { tcmd 5 0 (2 ^ 32) with started := true } [] []], _, { tcmd 5 0 (2 ^ 32) with started := true }, rfl, rfl, rfl, rfl, rfl⟩⟩
  all_goals
    refine ⟨rfl, by decide +kernel, fun x hx y hy _ _ hs => ?_, taken rfl⟩
    simp only [tileS, List.mem_singleton] at hx
    subst hx
    simp only [tileO, placeOp, opOfW, Work.tile.injEq] at hy
    subst hy
    exact Bool.noConfusion (show false = true from hs)

/-- A check that a command has its turn, alone in its slot. -/
def turns (t : TileCmd) (src dst : List Area) : Bool := (tileS (.num 4) [tileO t src dst]).tileTurn (tileO t src dst) t

theorem witness_TileCommandsComplete_turns :
    (∃ (s : State) (o : Op) (t : TileCmd), s.arg = .num 4 ∧ s.op? 4 = some o ∧ o.work = .tile t ∧ s.tileTurn o t = true ∧ takesNext s o ∧ t.fn = 3 ∧ t.plane = none) ∧
    (∃ (s : State) (o : Op) (t : TileCmd), s.arg = .num 4 ∧ s.op? 4 = some o ∧ o.work = .tile t ∧ s.tileTurn o t = true ∧ t.fn = 3 ∧ t.plane = some plane1) ∧
    (∃ (s : State) (o : Op) (t : TileCmd), s.arg = .num 4 ∧ s.op? 4 = some o ∧ o.work = .tile t ∧ t.fn = 5 ∧ t.started = true ∧ t.bound = true) ∧
    (∃ (s : State) (o : Op) (t : TileCmd), s.arg = .num 4 ∧ s.op? 4 = some o ∧ o.work = .tile t ∧ s.tileTurn o t = true ∧ takesNext s o ∧ t.fn = 6 ∧ recordOk t.sh.toNat ∧
      t.b / 2 ^ 48 % 4 = 0 ∧ ((s.slotOf t.block t.j).tile? 0).isSome = true) ∧
    (∃ (s : State) (o : Op) (t : TileCmd), s.arg = .num 4 ∧ s.op? 4 = some o ∧ o.work = .tile t ∧ s.tileTurn o t = true ∧ takesNext s o ∧ t.fn = 7 ∧ o.src = [] ∧
      o.dst = [rangeAt (.glob t.a) 16384] ∧ liesAt (s.rowParts o t.a 16384 .store) [(0x100000, 16384)] ∧ reach s o.die [(0x100000, 16384)] ∧
      ((s.slotOf t.block t.j).tile? 0).isSome = true) ∧
    (∃ (s : State) (o : Op) (t : TileCmd), s.arg = .num 4 ∧ s.op? 4 = some o ∧ o.work = .tile t ∧ s.tileTurn o t = true ∧ takesNext s o ∧ t.fn = 8 ∧ t.bytes = none ∧
      o.src = [rangeAt (.glob t.a) 16384] ∧ o.dst = [] ∧ liesAt (s.rowParts o t.a 16384 .load) [(0x100000, 16384)] ∧ reach s o.die [(0x100000, 16384)]) ∧
    (∃ (s : State) (o : Op) (t : TileCmd), s.op? 4 = some o ∧ o.work = .tile t ∧ t.fn = 8 ∧ t.bytes = some [1, 2] ∧ ((s.slotOf t.block t.j).tile? 0).isSome = true) ∧
    (∀ fn, fn ≤ 1 → ∃ (s : State) (o : Op) (t : TileCmd), s.arg = .num 4 ∧ s.op? 4 = some o ∧ o.work = .tile t ∧ t.fn = fn ∧ o.phase = .registered ∧
      ∀ x ∈ (s.slotOps t.block t.j).takeWhile (fun x => x.1.id != 4), clears x.2 t = true) ∧
    (∃ (s : State) (o : Op) (t : TileCmd), s.arg = .core .a 0 ∧ (∀ x ∈ s.ops, ¬streams .a 0 x) ∧ s.ops = [o] ∧ o.work = .tile t ∧ t.fn = 4 ∧ s.tileTurn o t = true) ∧
    ∃ (s : State) (x : Op), s.arg = .core .a 0 ∧ s.ops = [x] ∧ streams .a 0 x := by
  have near1 : ∀ l, reach (tileS (.num 4) l) .a [(0x100000, 16384)] := fun l =>
    ⟨fun p hp => by
      rw [List.mem_singleton.mp hp]
      exact ⟨⟨.a, .inl (by decide)⟩, by decide, by simp [tileS, blkS, evS, cmdS, memS, laneS, State.reset]⟩, List.pairwise_singleton _ _⟩
  refine ⟨⟨tileS (.num 4) [tileO (tcmd 3 0 (2 ^ 32)) [] []], _, tcmd 3 0 (2 ^ 32), rfl, rfl, rfl, by decide +kernel, taken rfl, rfl, rfl⟩,
    ⟨tileS (.num 4) [tileO { tcmd 3 0 (2 ^ 32) with plane := some plane1 } [] []], _, { tcmd 3 0 (2 ^ 32) with plane := some plane1 }, rfl, rfl, rfl, by decide +kernel, rfl, rfl⟩,
    ⟨tileS (.num 4) [tileO { tcmd 5 0 (2 ^ 32) with started := true, bound := true } [] []], _, { tcmd 5 0 (2 ^ 32) with started := true, bound := true }, rfl, rfl, rfl, rfl,
      rfl, rfl⟩,
    ⟨tileS (.num 4) [tileO (tcmd 6 0 (2 ^ 32)) [] []], _, tcmd 6 0 (2 ^ 32), rfl, rfl, rfl, by decide +kernel, taken rfl, rfl, by unfold recordOk; decide, by decide, by decide +kernel⟩,
    ⟨tileS (.num 4) [tileO (tcmd 7 0x10000 0) [] [rangeAt (.glob 0x10000) 16384]], _, tcmd 7 0x10000 0, rfl, rfl, rfl, by decide +kernel, taken rfl, rfl, rfl, rfl, by unfold liesAt; decide +kernel,
      near1 _, by decide +kernel⟩,
    ⟨tileS (.num 4) [tileO (tcmd 8 0x10000 0) [rangeAt (.glob 0x10000) 16384] []], _, tcmd 8 0x10000 0, rfl, rfl, rfl, by decide +kernel, taken rfl, rfl, rfl, rfl, rfl,
      by unfold liesAt; decide +kernel, near1 _⟩,
    ⟨tileS (.num 4) [tileO { tcmd 8 0x10000 0 with bytes := some [1, 2] } [] []], _, { tcmd 8 0x10000 0 with bytes := some [1, 2] }, rfl, rfl, rfl, rfl, by decide +kernel⟩,
    fun fn _ => ⟨tileS (.num 4) [tileO (tcmd fn 0 0) [] []], _, tcmd fn 0 0, rfl, rfl, rfl, rfl, rfl, ?_⟩,
    ⟨tileS (.core .a 0) [tileO (tcmd 4 0 0) [] []], _, tcmd 4 0 0, rfl, ?_, rfl, rfl, rfl, by decide +kernel⟩,
    ⟨tileS (.core .a 0) [tileO { tcmd 5 0 (2 ^ 32) with started := true } [] []], _, rfl, rfl, rfl, rfl, { tcmd 5 0 (2 ^ 32) with started := true }, rfl, rfl, rfl⟩⟩
  · have : ((tileS (.num 4) [tileO (tcmd fn 0 0) [] []]).slotOps 1 0).takeWhile (fun x => x.1.id != 4) = [] := rfl
    intro x hx
    rw [show (tcmd fn 0 0).block = 1 from rfl, show (tcmd fn 0 0).j = 0 from rfl, this] at hx
    exact absurd hx List.not_mem_nil
  · rintro x hx ⟨-, -, t, ht, hs, -⟩
    simp only [tileS, List.mem_singleton] at hx
    subst hx
    simp only [tileO, placeOp, opOfW, Work.tile.injEq] at ht
    subst ht
    exact Bool.noConfusion (show false = true from hs)

/-- A sampling operation. -/
def sampO (c : SampCmd) (p : OpPhase) : Op := { opOfW 4 (.sample c) (.lane r0) with phase := p }

/-- A catalogue insertion under a table of two buckets. -/
def catC : Ctx := { mapC with catBase := 0x10000, catLog2 := 1 }
def catS : State := { mapS (.num 4) with ctxs := [catC], ops := [opOfW 4 (.cat ⟨1, false, 7, 0x20000, 1⟩) (.lane r0)] }

theorem witness_SamplerAndCatalogueRun :
    (∃ (s : State) (o : Op) (c : SampCmd) (b : Block), s.arg = .num 4 ∧ s.op? 4 = some o ∧ o.work = .sample c ∧ c.catdraw = false ∧ o.issuer = .agent (.lane r0) ∧
      s.block? 1 = some b ∧ s.samplerHead o = true ∧ flatIn b 0 (4 * 3) ∧ flatIn b 64 1 ∧ flatIn b 128 (16 + 8 * 3) ∧ b.loc ≤ 2 ^ 18 ∧ b.c ≤ b.shares.length ∧
      c.a = [0, 64] ∧ c.b = [128, 3]) ∧
    (∃ (s : State) (o : Op) (c : SampCmd) (b : Block) (th : Thread), s.arg = .num 4 ∧ s.op? 4 = some o ∧ o.work = .sample c ∧ c.catdraw = true ∧ s.block? 1 = some b ∧
      s.thread? r0 = some th ∧ s.samplerHead o = true ∧ o.phase = .registered ∧ little (s.flatRead b 0 4) ≤ 262144 ∧ flatIn b 16 (8 * little (s.flatRead b 0 4))) ∧
    (∃ (s : State) (o : Op) (c : SampCmd) (b : Block) (q : Lead), s.arg = .num 4 ∧ s.op? 4 = some o ∧ o.work = .sample c ∧ c.catdraw = true ∧ s.block? 1 = some b ∧
      o.phase = .running ∧ s.samplerHead o = true ∧ flatIn b 0 16 ∧ s.lead? l0 = some q ∧ q.status ≠ .ended ∧ q.evq.length = 0) ∧
    (∃ (s : State) (o : Op) (c : CatCmd) (x : Ctx), s.arg = .num 4 ∧ s.op? 4 = some o ∧ o.work = .cat c ∧ s.ctx? o.ctx = some x ∧ c.fn = 1 ∧ c.page < 2 ^ 56 ∧
      o.phase = .registered ∧ (s.catMeets x ((s.catAddrs x c.key).getD [])).1 = .none ∧ ∃ l, (s.catAddrs x c.key).bind s.catSlots = some l) ∧
    ∃ (s : State) (o : Op) (c : CatCmd) (x : Ctx), s.arg = .num 4 ∧ s.op? 4 = some o ∧ o.work = .cat c ∧ s.ctx? o.ctx = some x ∧ (s.catMeets x ((s.catAddrs x c.key).getD [])).1 = .none ∧ (s.catAddrs x c.key).bind s.catSlots = none := by
  have hc : ((catS.catAddrs catC 7).bind catS.catSlots).isSome = true := by decide +kernel
  obtain ⟨l, hl⟩ := Option.isSome_iff_exists.mp hc
  refine ⟨⟨withOps (.num 4) [sampO ⟨false, 0, 0, 0, [0, 64], [128, 3], [0]⟩ .registered], _, ⟨false, 0, 0, 0, [0, 64], [128, 3], [0]⟩, _, rfl, rfl, rfl, rfl, rfl, rfl,
      by decide +kernel, by unfold flatIn; decide +kernel, by unfold flatIn; decide +kernel, by unfold flatIn; decide +kernel, by decide +kernel, by decide +kernel, rfl, rfl⟩,
    ⟨withOps (.num 4) [sampO ⟨true, 0, 0, 0, [0], [0], [0, 0]⟩ .registered], _, ⟨true, 0, 0, 0, [0], [0], [0, 0]⟩, _, _, rfl, rfl, rfl, rfl, rfl, rfl, by decide +kernel, rfl,
      by decide +kernel, by unfold flatIn; decide +kernel⟩,
    ⟨withOps (.num 4) [sampO ⟨true, 0, 0, 0, [0], [0], [0, 0]⟩ .running], _, ⟨true, 0, 0, 0, [0], [0], [0, 0]⟩, _, _, rfl, rfl, rfl, rfl, rfl, rfl, by decide +kernel,
      by unfold flatIn; decide +kernel, rfl, by decide +kernel, by decide +kernel⟩,
    ⟨catS, _, ⟨1, false, 7, 0x20000, 1⟩, catC, rfl, rfl, rfl, rfl, rfl, by decide, rfl, by decide +kernel, l, hl⟩,
    ⟨{ mapS (.num 4) with ops := [opOfW 4 (.cat ⟨1, false, 7, 0x20000, 1⟩) (.lane r0)] }, _, ⟨1, false, 7, 0x20000, 1⟩, mapC, rfl, rfl, rfl, rfl, by decide +kernel, by decide +kernel⟩⟩

/-- A channel with one entry that has waited. -/
def chan1 (age : Nat) : Channel := ⟨.a, 3, some 1023, 4, 8, age, [⟨5, r0, 1023, 0, 2, 9, 0, 0, 0, none, []⟩], [], 0, none, []⟩

theorem witness_BatchQueue_forms :
    (∃ (s : State) (c : Channel), s.arg = .channel .a 3 ∧ s.readyBit (bitBfq .a) = true ∧ s.channel? .a 3 = some c ∧
      (c.entries.filter fun e => e.batch.isNone && decide (e.cycle < s.cycle .a)) ≠ [] ∧ c.formed ≠ some (s.cycle .a) ∧ ∃ e, c.entries.head? = some e ∧ e.cycle + c.age ≤ s.cycle .a) ∧
    ∃ (s : State) (c : Channel), s.arg = .channel .a 3 ∧ s.readyBit (bitBfq .a) = true ∧ s.channel? .a 3 = some c ∧ c.thresh = 4 ∧ rowSum c.entries = 2 ∧
      s.cycle .a < 0 + c.age :=
  ⟨⟨{ upS (.channel .a 3) with channels := [chan1 10], cycA := 10 }, _, rfl, by decide +kernel, rfl, by decide +kernel, by decide +kernel, _, rfl, by decide +kernel⟩,
  ⟨{ upS (.channel .a 3) with channels := [chan1 11], cycA := 10 }, _, rfl, by decide +kernel, rfl, rfl, by decide, by decide +kernel⟩⟩

/-! Hypotheses of the statements about the whole machine. -/

theorem witness_EncodedFormsDecode : ∃ i : Instr, i.WellFormed ∧ i.canonical = true ∧ encode i ≠ [] :=
  ⟨.add ⟨0, 8, 16, 24, 0, 0⟩, by unfold Instr.WellFormed; decide +kernel, by decide +kernel, by decide +kernel⟩

theorem witness_DecodedFormsEncode : ∃ bs i, decodeBytes bs = some (i, []) :=
  ⟨(encode (.add ⟨0, 8, 16, 24, 0, 0⟩)).flatMap bytesOfWord, .add ⟨0, 8, 16, 24, 0, 0⟩, by decide +kernel⟩

/-- The machine with ADD v8, v16, v24 at the address of the next instruction. -/
def stepS : State := State.reset.withFetchWord 32 0x02208180

theorem witness_MemoryStaysCanonical : ∃ s t : State, s.mem.wf = true ∧ step s = .next t := by
  have h : (match step stepS with | .next _ => true | _ => false) = true := by decide +kernel
  revert h
  split
  · rename_i t h
    exact fun _ => ⟨stepS, t, by decide +kernel, h⟩
  · exact fun h => Bool.noConfusion h

/-- The package with its clocks stopped and inputs to come. -/
def stoppedS (l : List (Instr × Arg)) : State := { State.reset with clocksOn := false, inbox := l }

theorem witness_StoppedUntilReset : (∃ s t : State, stopped s ∧ step s = .next t) ∧ (∃ s : State, stopped s ∧ s.inbox = [] ∧ s.fw.nonces = []) ∧
    ∃ s : State, s.clocksOn = false ∧ s.inbox = [(.packageReset, .none)] := by
  refine ⟨⟨stoppedS [(.kickTake, .num 3)], { stoppedS [] with tick := 1 }, ⟨rfl, by decide, ?_⟩, rfl⟩, ⟨stoppedS [], ⟨rfl, by decide, fun x h => absurd h List.not_mem_nil⟩, rfl, rfl⟩,
    ⟨stoppedS [(.packageReset, .none)], rfl, rfl⟩⟩
  intro x h
  rw [List.mem_singleton.mp h]
  simp

/-- The words of the placed packet: the instruction, then zeros. -/
def placed (w : Word) (j : Nat) : Word := if j = 0 then w else 0

theorem witness_StepRunsDecoded_lane : ∃ (s : State) (r : ThreadRef) (b : Block) (th : Thread) (sh : Share) (c : Ctx) (w : Nat → Word) (i : Instr) (rest : List Byte) (u : UnitWord),
    s.clocksOn = true ∧ s.issue.rest = [] ∧ s.turn = some (.lane r) ∧ s.block? r.block = some b ∧ b.threads[r.t]? = some th ∧ b.shares[b.home r.t]? = some sh ∧
    s.ctx? b.ctx = some c ∧ th.pfatal = none ∧ th.status ≠ .ended ∧ ({ s.advance with turn := none } : State).group b r.t th = [r.t] ∧ packetAt s b.die c th.pc.toNat w ∧
    decodeBytes (fromSlot w (th.pc.toNat % 3)) = some (i, rest) ∧ th.pc.toNat + (encode i).length < 2 ^ 48 ∧
    chainAt (th.pc.toNat % 3) true (packetUnits (w 0) (w 1) (w 2)) = some [u] ∧ laneChainTrap b.regCount th.inTrap [u] = none ∧
    popsOf sh r.t th (shape i).queues = (none, false) := by
  refine ⟨stepS, r0, fetchBlock 1, Thread.start (BitVec.ofNat 48 fetchBase) 64, ⟨0, 0, .start (BitVec.ofNat 48 fetchBase), [], .start, []⟩, fetchCtx, placed 0x02208180,
    .add ⟨0, 8, 16, 24, 0, 0⟩, List.replicate 8 0, ⟨0, 1, .add ⟨0, 8, 16, 24, 0, 0⟩, false, false, false, false⟩, rfl, rfl, rfl, rfl, rfl, rfl, rfl, rfl, by decide +kernel,
    by decide +kernel, ?_, by decide +kernel, by decide +kernel, by decide +kernel, by decide +kernel, by decide +kernel⟩
  intro j hj
  match j, hj with
  | 0, _ => exact ⟨(3, 0x10000), by decide +kernel, ⟨⟨.a, .inl (by decide +kernel)⟩, by decide +kernel, fun _ h => absurd h List.not_mem_nil⟩, by decide +kernel⟩
  | 1, _ => exact ⟨(3, 0x10000), by decide +kernel, ⟨⟨.a, .inl (by decide +kernel)⟩, by decide +kernel, fun _ h => absurd h List.not_mem_nil⟩, by decide +kernel⟩
  | 2, _ => exact ⟨(3, 0x10000), by decide +kernel, ⟨⟨.a, .inl (by decide +kernel)⟩, by decide +kernel, fun _ h => absurd h List.not_mem_nil⟩, by decide +kernel⟩

/-- The machine with lead ADD s10, s0, 496 at the address of the next instruction. -/
def leadStepS : State := State.reset.withFetchWord 64 0x7C004000F8000500

/-- Its words. -/
def leadWords (j : Nat) : Word := if j = 0 then 0xF8000500 else if j = 1 then 0x7C004000 else 0

theorem witness_StepRunsDecoded_lead : ∃ (s : State) (r : LeadRef) (b : Block) (sh : Share) (c : Ctx) (w : Nat → Word) (i : Instr) (rest : List Byte) (u : UnitWord),
    s.clocksOn = true ∧ s.issue.rest = [] ∧ s.turn = some (.lead r) ∧ s.block? r.block = some b ∧ b.shares[r.j]? = some sh ∧ s.ctx? b.ctx = some c ∧ sh.lead.pfatal = none ∧
    sh.lead.status ≠ .ended ∧ packetAt s b.die c sh.lead.pc.toNat w ∧ decodeBytes (fromSlot w (sh.lead.pc.toNat % 3)) = some (i, rest) ∧ (shape i).pipe = .lead ∧
    sh.lead.pc.toNat + 2 < 2 ^ 48 ∧ chainAt (sh.lead.pc.toNat % 3) true (packetUnits (w 0) (w 1) (w 2)) = some [u] ∧ leadChainTrap [u] = none := by
  refine ⟨leadStepS, l0, fetchBlock 1, ⟨0, 0, .start (BitVec.ofNat 48 fetchBase), [], .start, []⟩, fetchCtx, leadWords, .leadAdd ⟨1, 10, 0, 0, 496, 2, 0, 0⟩, List.replicate 4 0,
    ⟨0, 2, .leadAdd ⟨1, 10, 0, 0, 496, 2, 0, 0⟩, false, false, false, false⟩, rfl, rfl, rfl, rfl, rfl, rfl, rfl, by decide +kernel,
    ?_, by decide +kernel, by decide +kernel, by decide +kernel, by decide +kernel, by decide +kernel⟩
  intro j hj
  match j, hj with
  | 0, _ => exact ⟨(3, 0x10000), by decide +kernel, ⟨⟨.a, .inl (by decide +kernel)⟩, by decide +kernel, fun _ h => absurd h List.not_mem_nil⟩, by decide +kernel⟩
  | 1, _ => exact ⟨(3, 0x10000), by decide +kernel, ⟨⟨.a, .inl (by decide +kernel)⟩, by decide +kernel, fun _ h => absurd h List.not_mem_nil⟩, by decide +kernel⟩
  | 2, _ => exact ⟨(3, 0x10000), by decide +kernel, ⟨⟨.a, .inl (by decide +kernel)⟩, by decide +kernel, fun _ h => absurd h List.not_mem_nil⟩, by decide +kernel⟩

theorem witness_StepRunsDecoded_event : ∃ (s : State) (i : Instr) (a : Arg), s.clocksOn = true ∧ s.issue.rest = [] ∧ s.turn = none ∧ s.noteReady.chosen = some (.own i a) := by
  let s : State := { State.reset with ctxs := List.replicate (Config.choose 0 0 + 1) fetchCtx }
  have hn : s.noteReady = s := rfl
  have hc : s.candidates = s.ownEvents.map fun e => Cand.own e.1 e.2 := by
    simp [State.candidates, State.issuers, s, State.reset]
  have hl : Config.choose 0 0 < s.ownEvents.length := by
    simp [State.ownEvents, State.graphEvents, forNums, s, State.reset, List.length_flatMap]
    omega
  refine ⟨s, (s.ownEvents[Config.choose 0 0]).1, (s.ownEvents[Config.choose 0 0]).2, rfl, rfl, rfl, ?_⟩
  have hm : Config.choose 0 s.tick % (s.candidates.length + 1) = Config.choose 0 0 := by
    rw [hc, List.length_map]
    exact Nat.mod_eq_of_lt (Nat.lt_succ_of_lt hl)
  rw [hn, State.chosen, hm, hc, List.getElem?_map, List.getElem?_eq_getElem hl]
  rfl

/-- An input stands first among the candidates, and an agent is ready: the choice that names them is free. -/
theorem witness_StepRunsDecoded_choices : (∃ (s : State), s.clocksOn = true ∧ s.issue.rest = [] ∧ s.turn = none ∧ s.inbox = [(.registerWrite, .none)] ∧
      s.noteReady.candidates[0]? = some .input ∧ encode .registerWrite = []) ∧
    ∃ (s : State) (a : Agent), s.clocksOn = true ∧ s.issue.rest = [] ∧ s.turn = none ∧ s.ready a = true :=
  ⟨⟨{ State.reset with inbox := [(.registerWrite, .none)] }, rfl, rfl, rfl, rfl, rfl, rfl⟩,
  ⟨{ stepS with turn := none }, .lead l0, rfl, rfl, rfl, by decide +kernel⟩⟩
/-! Hypotheses of the statements about where each form completes, as far as no witness above shows them. -/

/-- A thread whose cross-lane wait is over. -/
def waited (i : Instr) (ms : List Member) : Thread := { thr [] with status := .wait (.xlane (some (xResult i ms 0 3 4))) }

theorem waits {i : Instr} (ms : List Member)
    (h : handWith i (laneS (waited i ms)) ⟨1, 0⟩ (fun e => decide (e.th.status = .wait (.xlane (some (xResult i ms 0 3 4))))) = true) :
    ∃ s e, LaneHand i s e ∧ e.th.status = .wait (.xlane (some (xResult i ms 0 3 4))) := sure _ h

theorem witness_CrossLaneCompletes : ∃ (ms : List Member) (own : List (List Word)), ms.length ≤ 64 ∧ ms.getD 0 none = some own ∧
    ∀ i ∈ ([.shfl ⟨1, 8, 16, 0, 0, 24, 0, 32, 0, 0, 0, 0, 0x63⟩, .bcast ⟨1, 8, 16, 0, 0, 24, 0, 32, 0, 0, 0, 0, 0⟩, .vote ⟨1, 8, 16, 0, 0, 0, 0, 32, 0, 0, 0, 0, 2⟩,
        .matchOp ⟨1, 8, 16, 0, 0, 0, 0, 32, 0, 0, 0, 0, 0⟩, .elect ⟨1, 8, 0, 0, 0, 0, 0, 32, 0, 0, 0, 0, 0⟩, .red ⟨1, 8, 16, 0, 0, 0, 0, 32, 0, 0, 0, 0, 8⟩,
        .scan ⟨1, 8, 16, 0, 0, 0, 0, 32, 0, 0, 0, 0, 0x10⟩, .swz ⟨0, 8, 16, 24, 0, 0⟩] : List Instr),
      ∃ s e, LaneHand i s e ∧ e.th.status = .wait (.xlane (some (xResult i ms 0 3 4))) := by
  let ms : List Member := [some [[7], [1]], some [[5], [0]], none]
  refine ⟨ms, [[7], [1]], by decide, rfl, fun i h => ?_⟩
  simp only [List.mem_cons, List.not_mem_nil, or_false] at h
  rcases h with rfl | rfl | rfl | rfl | rfl | rfl | rfl | rfl
  all_goals exact waits ms (by decide +kernel)

theorem witness_HardwareEventsComplete :
    (∃ s : State, s.arg = .firmware [1] [2] 3 ∧ s.pkg.readyF.getLsbD 0 = true) ∧
    (∃ s : State, s.arg = .raise 9 [] ∧ s.pkg.readyF.getLsbD 0 = true ∧ s.pkg.readyF.getLsbD 1 = true ∧ s.fw.fused < 9) ∧
    (∃ s : State, s.arg = .soft (.corrected .b)) ∧ (∃ s : State, s.arg = .charge 1023 .a 0xFF ∧ (s.ctx? 1023).isSome = true) ∧
    (∃ s : State, s.arg = .coolant ⟨400, 200, 950, 950⟩ ∧ ¬tripped ⟨400, 200, 950, 950⟩ ∧ ¬warned ⟨400, 200, 950, 950⟩ ∧ s.pkg.thermal ≠ 2) ∧
    (∃ s : State, s.arg = .die .a ∧ (s.gov .a).grants < 4 ∧ nextRequest (s.gov .a).pending = some (.copy 2, 3)) ∧
    (∃ s : State, s.arg = .request 3 9 ∧ (upPorts s).pkg.readyF.getLsbD 51 = true) ∧ ∃ s : State, s.arg = .codeword 3 true :=
  ⟨⟨upS (.firmware [1] [2] 3), rfl, by decide⟩, ⟨upS (.raise 9 []), rfl, by decide, by decide, by decide⟩, ⟨upS (.soft (.corrected .b)), rfl⟩,
  ⟨evS (.charge 1023 .a 0xFF), rfl, rfl⟩,
  ⟨upS (.coolant ⟨400, 200, 950, 950⟩), rfl, by unfold tripped; decide, by unfold warned tripped; decide, by decide⟩,
  ⟨{ upS (.die .a) with govA := ⟨[], [(.tile 5, 4), (.copy 2, 3)], 0, 3, 0, []⟩ }, rfl, by decide, by decide⟩, ⟨upS (.request 3 9), rfl, by decide⟩, ⟨upS (.codeword 3 true), rfl⟩⟩

theorem witness_WindowCompletes : (∃ s : State, s.arg = .window ⟨0x110, 8, 77⟩ ∧ s.readyBit bitMgmt = true ∧ s.readyBit bitFw = true) ∧
    (∃ s : State, s.arg = .dword (2 ^ 63) ∧ s.readyBit bitMgmt = true ∧ s.readyBit bitFw = true ∧ s.evt.held = [] ∧ s.live (s.dbg.cfg.toNat % 2 ^ 10) = true) ∧
    (∃ (s : State) (c : Ctx), s.arg = .kick 1023 (15 * 2 ^ 32) ∧ s.readyBit bitMgmt = true ∧ s.readyBit bitFw = true ∧ s.ctx? 1023 = some c ∧ c.stat = 1 ∧
      s.readyBit (bitGc c.home) = true ∧ c.kicks = []) ∧
    ∃ (s : State) (c : Ctx), s.arg = .fp 1023 35 9 ∧ s.readyBit bitFw = true ∧ s.ctx? 1023 = some c ∧ (∀ i : Nat, c.fpThresh.toList[i]?.getD 0 = 0) ∧
      (c.fpCount.toList[35]?.getD 0).toNat < 9 :=
  ⟨⟨upS (.window ⟨0x110, 8, 77⟩), rfl, by decide, by decide⟩,
  ⟨{ evS (.dword (2 ^ 63)) with dbg := { Dbg.reset with cfg := 1023 } }, rfl, by decide +kernel, by decide +kernel, rfl, by decide +kernel⟩,
  ⟨evS (.kick 1023 (15 * 2 ^ 32)), fetchCtx, rfl, by decide +kernel, by decide +kernel, rfl, rfl, by decide +kernel, rfl⟩,
  ⟨evS (.fp 1023 35 9), fetchCtx, rfl, by decide +kernel, rfl, fun i => by
    rw [show fetchCtx.fpThresh.toList = List.replicate 36 0 from by decide +kernel, List.getElem?_replicate]
    split <;> rfl, by decide +kernel⟩⟩

/-- The machine with the region, its counter and all ports. -/
def landS (a : Arg) : State := upPorts { mapS a with regions := [region0], counters := [⟨.a, 5, 1023, 9, .none⟩] }

theorem lands (a : Arg) (off n level : Nat) (need : Need) (h : n ≠ 0) (hn : off + n ≤ 4096) (hl : 1 ≤ level) (hw : (landS a).walk .a mapC (0x10000 + off) = .leaf 0x500000 65536 true true false 0)
    (hm : (landS a).meets .a none (0x500000 + off) n need.rd = .none) (hh : homeOf (0x500000 + off) ≠ .window)
    (hp : mapC.protects (0x10000 + off) n = false) :
    landsAt (landS a) 0 region0 (0x10000 + off) n level need (0x500000 + off) :=
  ⟨mapC, 0x500000, 65536, true, true, false, 0, rfl, hw, by omega, by omega, by omega, fun _ => rfl, fun _ => ⟨rfl, hp⟩, hl, hl, hm, hh, .inl rfl⟩

theorem witness_NetworkCompletes :
    (∃ (s : State) (p : RmaWrite) (pa : Nat) (c : Counter), s.arg = .rmaWrite p ∧ p.port = 0 ∧ s.portUp p.port = true ∧ p.key.toNat / 64 ≠ 0x3FFFFFF ∧ inOrder s (.write p) ∧
      keyNames s p.key region0 ∧ s.msgs = [] ∧ p.at_ + p.data.length ≤ p.total ∧ p.off + p.total ≤ region0.len ∧
      landsAt s p.port region0 (region0.base + (p.off + p.at_)) p.data.length 1 .store pa ∧ s.counter? .a 5 = some c ∧ noSends s .a 5 ∧ c.val.toNat + p.data.length < 2 ^ 32) ∧
    (∃ (s : State) (p : RmaRead) (pa : Nat), s.arg = .rmaRead p ∧ p.port = 0 ∧ s.portUp p.port = true ∧ p.key.toNat / 64 ≠ 0x3FFFFFF ∧ inOrder s (.read p) ∧
      keyNames s p.key region0 ∧ p.off + p.len ≤ region0.len ∧ landsAt s p.port region0 (region0.base + p.off) p.len 2 .load pa) ∧
    (∃ (s : State) (p : RmaAtomic) (pa : Nat), s.arg = .rmaAtomic p ∧ p.port = 0 ∧ s.portUp p.port = true ∧ p.key.toNat / 64 ≠ 0x3FFFFFF ∧ inOrder s (.atomic p) ∧
      keyNames s p.key region0 ∧ p.off + 8 ≤ region0.len ∧ (region0.base + p.off) % 8 = 0 ∧ landsAt s p.port region0 (region0.base + p.off) 8 1 .both pa ∧ p.cas = false) ∧
    (∃ (s : State) (o : Op) (c : Coll), s.arg = .coll 3 4 c.head (.norm 0 0) ∧ s.op? 4 = some o ∧ o.work = .coll c ∧ o.phase = .registered ∧ collReady s o = true ∧
      s.portUp 3 = true ∧ c.begun = false) := by
  let w : RmaWrite := ⟨0, 0xC0, 9, none, 1, 64, 64, 0, [1, 2], .none⟩
  let r : RmaRead := ⟨0, 0xC0, 9, none, 64, 4096 - 64⟩
  let a : RmaAtomic := ⟨0, 0xC0, 9, none, 64, false, 0, 5⟩
  refine ⟨⟨landS (.rmaWrite w), w, 0x500040, ⟨.a, 5, 1023, 9, .none⟩, rfl, rfl, by decide +kernel, by decide, .inl rfl, ⟨by decide, by decide +kernel⟩, rfl, by decide, by decide,
      lands _ 64 2 1 .store (by decide) (by decide) (by decide) (by decide +kernel) (by decide +kernel) (by decide) (by decide), rfl,
      fun o h => absurd h List.not_mem_nil, by decide⟩,
    ⟨landS (.rmaRead r), r, 0x500040, rfl, rfl, by decide +kernel, by decide, .inl rfl, ⟨by decide, by decide +kernel⟩, by decide,
      lands _ 64 4032 2 .load (by decide) (by decide) (by decide) (by decide +kernel) (by decide +kernel) (by decide) (by decide)⟩,
    ⟨landS (.rmaAtomic a), a, 0x500040, rfl, rfl, by decide +kernel, by decide, .inl rfl, ⟨by decide, by decide +kernel⟩, by decide, by decide,
      lands _ 64 8 1 .both (by decide) (by decide) (by decide) (by decide +kernel) (by decide +kernel) (by decide) (by decide), rfl⟩,
    ⟨upPorts (withOps (.coll 3 4 coll1.head (.norm 0 0)) [opOfW 4 (.coll { coll1 with begun := false }) (.lane r0)]), _, { coll1 with begun := false }, rfl, rfl, rfl, rfl,
      by decide +kernel, by decide +kernel, rfl⟩⟩

theorem witness_CommandsComplete : (∃ (s : State) (q : QCmd) (c : Ctx), isFor .ctxPartition q ∧ Claim.inHand s q ∧ q.c.rsv = 0 ∧ unassignedClear q ∧ s.ctx? q.c.ctx.toNat = some c ∧
      c.stat = 1 ∧ ∀ i, i < 256 → asks q i → sharers s q.c.ctx.toNat i = []) ∧
    (∃ (s : State) (q : QCmd) (c : Ctx), isFor .regionFree q ∧ Claim.inHand s q ∧ q.c.rsv = 0 ∧ unassignedClear q ∧ s.ctx? q.c.ctx.toNat = some c ∧
      ∀ r ∈ s.regions, ¬(r.die = (regionOf q).1 ∧ r.idx = (regionOf q).2 ∧ r.ctx ≠ q.c.ctx.toNat)) ∧
    ∃ (s : State) (q : QCmd) (c : Ctx), isFor .counterSetRelease q ∧ Claim.inHand s q ∧ q.c.rsv = 0 ∧ unassignedClear q ∧ s.ctx? q.c.ctx.toNat = some c ∧
      s.counter? .a 5 = some ⟨.a, 5, 1023, 9, .none⟩ ∧ counterOf q = (.a, 5) ∧ s.regions = [] :=
  ⟨⟨cmdRuns 3 (cmdOf 1023 [1]), ⟨3, cmdOf 1023 [1]⟩, mapC, by simp [isFor, opOf], is_running _ _, rfl, by simp [unassignedClear, cmdOf], rfl, rfl, by
      unfold asks sharers; decide +kernel⟩,
  ⟨{ cmdRuns 7 (cmdOf 1023 [3]) with regions := [region0] }, ⟨7, cmdOf 1023 [3]⟩, mapC, by simp [isFor, opOf, cmdOf], ⟨rfl, .inl rfl⟩, rfl,
    by simp [unassignedClear, cmdOf], rfl, by decide +kernel⟩,
  ⟨{ cmdRuns 8 (cmdOf 1023 [0x4005]) with counters := [⟨.a, 5, 1023, 9, .none⟩] }, ⟨8, cmdOf 1023 [0x4005]⟩, mapC, by simp [isFor, opOf, cmdOf], ⟨rfl, .inl rfl⟩, rfl,
    by simp [unassignedClear, cmdOf], rfl, rfl, rfl, rfl⟩⟩

/-- The context with a kick in hand at a step. -/
def takingC (k : Kick) (step : Nat) : Ctx := { kickC with taking := some ⟨k, step, 0, 3, 0, []⟩ }

theorem witness_ReplaysComplete :
    (∃ (s : State) (c : Ctx) (x : Taking) (bs : List Byte), s.arg = .num 1023 ∧ s.ctx? 1023 = some c ∧ c.taking = some x ∧ x.step = 4 ∧ x.start + 8000 * (x.rereads + 1) ≤ s.cycle c.home ∧
      tableReached s c x.kick ∧ tablePresent s c x.kick ∧ patchTable s c x.kick = some bs ∧ ¬agrees x.kick bs ∧ x.rereads < 15) ∧
    (∃ (s : State) (c : Ctx) (x : Taking) (g : Graph), s.arg = .num 1023 ∧ s.ctx? 1023 = some c ∧ c.taking = some x ∧ x.step = 6 ∧
      c.graphs.find? (fun g => g.handle = x.kick.toNat % 2 ^ 32) = some g ∧ x.kick.toNat / 2 ^ 160 % 2 ^ 13 = 0 ∧ s.replays = [] ∧ ∀ gn ∈ g.nodes, gn.npred = 0 → dieFound s c g gn) ∧
    (∃ (s : State) (x : RNode) (c : Ctx) (g : Graph) (gn : GNode), s.arg = .node n0 ∧ s.node? n0 = some x ∧ s.gnode? n0 = some (c, g, gn) ∧ gn.kind = 3 ∧ x.phase = .running ∧
      x.op = none ∧ x.status = none ∧ ¬notifiesBefore s x ∧ s.evt.held = [] ∧ takes s) ∧
    ∃ (s : State) (r : Replay) (y : RNode), s.arg = .node n0 ∧ s.node? n0 = some y ∧ s.replay? 1023 1 = some r ∧ s.fitsNow (r, y) = false ∧ y.phase = .pool ∧
      y.translated = true ∧ y.status = none ∧ y.nextBlock < y.blocks ∧ y.passed = none := by
  let k0 : Kick := BitVec.ofNat 256 (3 + 2 ^ 32)
  let s1 : State := { kickS (takingC (kickOf 0) 4) with cycA := 32000 }
  have hp : patchTable s1 (takingC (kickOf 0) 4) (kickOf 0) = some tableBytes1 := by
    unfold patchTable
    decide +kernel
  refine ⟨⟨s1, takingC (kickOf 0) 4, _, tableBytes1, rfl, rfl, rfl, rfl, by decide +kernel, by unfold tableReached; decide +kernel, by unfold tablePresent; decide +kernel, hp,
      by unfold agrees; decide +kernel, by decide⟩,
    ⟨kickS (takingC k0 6), takingC k0 6, _, graph1 (gnode 3 0 0), rfl, rfl, rfl, rfl, by decide +kernel, by decide +kernel, rfl, fun gn h _ hd => ?_⟩,
    ⟨{ nodeS (gnode 3 0 0) (code1 0 false) (rnode .running) with evt := { Evt.reset with cfg := 0x114 } }, _, _, _, _, rfl, rfl, rfl, rfl, rfl, rfl, rfl, ?_, rfl,
      by unfold takes; decide⟩,
    ⟨{ nodeS kern (code1 0 false) (placeY 0) with pkg := { (upS .none).pkg with readyC := 0 } }, _, _, rfl, rfl, rfl, by decide +kernel, rfl, rfl, rfl, by decide, rfl⟩⟩
  · rw [List.mem_singleton.mp h] at hd
    exact absurd hd (by decide)
  · rintro ⟨r, hr, y, hy, -, -, -, h, -⟩
    change r ∈ [(⟨1023, 3, 1, 0, 0, [rnode .running]⟩ : Replay)] at hr
    rw [List.mem_singleton.mp hr] at hy
    rw [List.mem_singleton.mp hy] at h
    exact absurd h (Nat.lt_irrefl _)
end Sys2Proof.Test
end

section
/-! PROOFS. Integer forms (spec 19 R351 to R354). -/

namespace Sys2Proof.Machine
open Sys2Proof.Claim

/-! What a register form computes. -/

/-- A vector form whose body writes one word computes that word, whichever format it has. -/
theorem computes_word {i : Instr} {d : BitVec 7} {g h : LaneEnv → Word} (hp : (shape i).pipe = .v) (hd : (shape i).d = d.toNat)
    (hw : (shape i).dw = 1) (hx : exec i = lane i fun e s => .done (e.write s [g e])) (he : ∀ e, g e = h e) :
    Computes i fun e => [h e] :=
  (computes_of hp hd hw hx (fun _ _ => rfl) (fun _ => rfl) (by decide) (by decide)).congr fun e => by rw [he]

/-! Arithmetic (R351). -/

theorem clampInt_eq_max_min (x : Int) {lo hi : Int} (h : lo ≤ hi) : clampInt x lo hi = max lo (min x hi) := by
  simp only [clampInt]
  split
  · omega
  · split <;> omega

theorem satm_eq_saturated (m : BitVec 7) (x : Int) : satm m.toNat x = saturated m x := by
  have hm (k : BitVec 7) : m.toNat = k.toNat ↔ m = k := BitVec.toNat_inj
  unfold satm saturated
  split
  next h => rw [if_pos ((hm 2).mp h), clampInt_eq_max_min x (by norm_num)]; norm_num
  next h =>
    obtain rfl := (hm 3).mp h
    rw [if_neg (by decide), if_pos rfl, clampInt_eq_max_min x (by norm_num)]
    norm_num
  next h2 h3 => rw [if_neg fun h => h2 ((hm 2).mpr h), if_neg fun h => h3 ((hm 3).mpr h)]

theorem mulhiOf_eq_floor (u : Bool) (a b : Word) :
    mulhiOf u a b = BitVec.ofInt 32 ((reading u a * reading u b).fdiv (2 ^ 32)) := by
  rw [Int.fdiv_eq_ediv_of_nonneg _ (by norm_num)]
  rfl

theorem mul_eq_ofNat (a b : Word) : a * b = BitVec.ofNat 32 (a.toNat * b.toNat) := by
  rw [BitVec.ofNat_mul, BitVec.ofNat_toNat, BitVec.ofNat_toNat]; simp

/-- Settles O1: each result is the model's own with its reading, clamp or division rewritten as R351 has it. -/
theorem longArithmetic : Obligations.LongArithmetic := fun f =>
  ⟨computes_word rfl rfl rfl rfl fun _ => satm_eq_saturated f.mode _,
   computes_word rfl rfl rfl rfl fun _ => satm_eq_saturated f.mode _,
   computes_word rfl rfl rfl rfl fun _ => satm_eq_saturated f.mode _,
   computes_word rfl rfl rfl rfl fun _ => mul_eq_ofNat _ _,
   computes_word rfl rfl rfl rfl fun _ => mulhiOf_eq_floor _ _ _⟩

/-! Logic, shifts, order and counts (R352). -/

theorem shlOf_eq_shiftedLeft (a : Word) (n : Nat) : shlOf a n = shiftedLeft a n := by
  have hs : a <<< n = BitVec.ofNat 32 (a.toNat * 2 ^ n) :=
    BitVec.eq_of_toNat_eq (by rw [BitVec.toNat_shiftLeft, BitVec.toNat_ofNat, Nat.shiftLeft_eq])
  rw [shlOf, shiftedLeft, hs]

theorem shrOf_eq_shiftedRight (a : Word) (n : Nat) : shrOf a n = shiftedRight a n := by
  have hs : a >>> n = BitVec.ofNat 32 (a.toNat / 2 ^ n) := by
    rw [← Nat.shiftRight_eq_div_pow, ← BitVec.toNat_ushiftRight, BitVec.ofNat_toNat, BitVec.setWidth_eq]
  rw [shrOf, shiftedRight, hs]

theorem sarOf_eq_shiftedArithmetic (a : Word) (n : Nat) : sarOf a n = shiftedArithmetic a n := by
  have hs : a.sshiftRight n = BitVec.ofInt 32 (a.toInt.fdiv (2 ^ n)) := by
    rw [Int.fdiv_eq_ediv_of_nonneg _ (by positivity), ← BitVec.ofInt_toInt (x := a.sshiftRight n), BitVec.toInt_sshiftRight,
      Int.shiftRight_eq_div_pow]
    norm_num
  rw [sarOf, shiftedArithmetic, hs]
  rfl

/-- Either reading tells words apart. -/
theorem reading_injective (u : Bool) : Function.Injective (reading u) := by
  intro a b h
  cases u
  · exact BitVec.eq_of_toInt_eq h
  · exact BitVec.eq_of_toNat_eq (Int.ofNat_inj.mp h)

/-- Where two words read alike, it is all one which of them is taken. -/
theorem ite_reading_le (u : Bool) {a b x y : Word} (h : a = b → x = y) :
    (if reading u a ≤ reading u b then x else y) = if reading u a < reading u b then x else y := by
  rcases lt_trichotomy (reading u a) (reading u b) with hr | hr | hr
  · rw [if_pos hr.le, if_pos hr]
  · rw [h (reading_injective u hr), ite_self, ite_self]
  · rw [if_neg hr.not_ge, if_neg hr.not_gt]

theorem minOf_eq (u : Bool) (a b : Word) : minOf u a b = if reading u a < reading u b then a else b := ite_reading_le u id

theorem maxOf_eq (u : Bool) (a b : Word) : maxOf u a b = if reading u a < reading u b then b else a := ite_reading_le u Eq.symm

theorem ones_eq_length_filter (a : Word) (n : Nat) : ones a n = ((List.range n).filter fun k => a.getLsbD k).length := by
  induction n with
  | zero => rfl
  | succ n ih =>
    rw [ones, ih, List.range_succ, List.filter_append, List.length_append]
    cases h : a.getLsbD n <;> simp [h, b2n]

theorem zerosFrom_zero (n : Nat) : zerosFrom 0 n = n := by
  induction n with
  | zero => rfl
  | succ n ih => rw [zerosFrom, ih]; simp

/-- The leading zeros of a word that is not 0 end at its highest set bit. -/
theorem zerosFrom_eq (a : Word) (ha : a ≠ 0) (n : Nat) (h : a.toNat < 2 ^ n) : zerosFrom a n = n - 1 - a.toNat.log2 := by
  have h0 : a.toNat ≠ 0 := fun h0 => ha (BitVec.eq_of_toNat_eq h0)
  induction n with
  | zero => omega
  | succ n ih =>
    have hb : a.getLsbD n = a.toNat.testBit n := rfl
    rw [zerosFrom, hb]
    by_cases hn : a.toNat < 2 ^ n
    · have hl : a.toNat.log2 < n := (Nat.log2_lt h0).mpr hn
      rw [Nat.testBit_lt_two_pow hn, if_neg Bool.false_ne_true, ih hn]
      omega
    · have hl : a.toNat.log2 = n := (Nat.log2_eq_iff h0).mpr ⟨not_lt.mp hn, h⟩
      rw [Nat.testBit_of_two_pow_le_and_two_pow_add_one_gt (not_lt.mp hn) h, if_pos rfl, hl]
      omega

theorem clz_eq (a : Word) : BitVec.ofNat 32 (zerosFrom a 32) = if a = 0 then 32 else BitVec.ofNat 32 (31 - a.toNat.log2) := by
  split
  next h => rw [h, zerosFrom_zero]; rfl
  next h => rw [zerosFrom_eq a h 32 a.isLt]

/-- Settles O2: the model's shifts, minimum, maximum and counts are those of R352 on every word. -/
theorem logicShiftOrderCount : Obligations.LogicShiftOrderCount :=
  ⟨fun _ =>
    ⟨computes_word rfl rfl rfl rfl fun _ => rfl,
     computes_word rfl rfl rfl rfl fun _ => rfl,
     computes_word rfl rfl rfl rfl fun _ => rfl,
     computes_word rfl rfl rfl rfl fun _ => shlOf_eq_shiftedLeft _ _,
     computes_word rfl rfl rfl rfl fun _ => shrOf_eq_shiftedRight _ _,
     computes_word rfl rfl rfl rfl fun _ => sarOf_eq_shiftedArithmetic _ _,
     computes_word rfl rfl rfl rfl fun _ => minOf_eq _ _ _,
     computes_word rfl rfl rfl rfl fun _ => maxOf_eq _ _ _,
     computes_word rfl rfl rfl rfl fun _ => congrArg (BitVec.ofNat 32) (ones_eq_length_filter _ 32),
     computes_word rfl rfl rfl rfl fun _ => clz_eq _⟩,
   fun _ =>
    ⟨computes_word rfl rfl rfl rfl fun _ => shlOf_eq_shiftedLeft _ _,
     computes_word rfl rfl rfl rfl fun _ => shrOf_eq_shiftedRight _ _,
     computes_word rfl rfl rfl rfl fun _ => sarOf_eq_shiftedArithmetic _ _⟩⟩

/-! Bit fields (R353). -/

/-- A field of a word as the model reads it and as an extract. -/
theorem bits_toNat (x : Word) (lo n : Nat) : bits x.toNat lo n = (x.extractLsb' lo n).toNat := by
  rw [bits, BitVec.extractLsb'_toNat, Nat.shiftRight_eq_div_pow]

/-- The signed value of a field that holds no more than its bits. -/
theorem sval_of_lt {w v : Nat} (h : v < 2 ^ w) : sval w v = if 2 ^ (w - 1) ≤ v then (v : Int) - 2 ^ w else v := by
  rw [sval, Nat.mod_eq_of_lt h]
  split
  next hs => rw [if_neg (not_le.mpr hs)]
  next hs => rw [if_pos (not_lt.mp hs)]; norm_cast

theorem bfeOf_eq_extracted (sx : Bool) (a ctl : Word) : bfeOf sx a ctl = extracted sx a ctl := by
  have hf (pos len : Nat) : a.toNat / 2 ^ pos % 2 ^ len < 2 ^ len := Nat.mod_lt _ (by positivity)
  simp only [bfeOf, extracted, bits_toNat ctl, Bool.or_eq_true, decide_eq_true_eq]
  split
  next => rfl
  next =>
    rw [bits, sval_of_lt (hf _ _)]
    generalize a.toNat / _ % _ = v
    cases sx
    · simp
    · simp only [if_true, true_and]
      split <;> rfl

/-- A bit of a run of n ones at position p. -/
theorem testBit_ones_at (n p k : Nat) : ((2 ^ n - 1) * 2 ^ p).testBit k = decide (p ≤ k ∧ k < p + n) := by
  rw [Nat.testBit_mul_two_pow, Nat.testBit_two_pow_sub_one, ← Bool.decide_and]
  exact decide_eq_decide.mpr (by omega)

theorem getLsbD_bfiOf (a b ctl : Word) (k : Nat) (hk : k < 32) : (bfiOf a b ctl).getLsbD k = insertedBit a b ctl k := by
  simp only [bfiOf, insertedBit, bits_toNat, Bool.or_eq_true, decide_eq_true_eq]
  generalize (ctl.extractLsb' 0 8).toNat = pos
  generalize (ctl.extractLsb' 8 8).toNat = len
  split
  next h => rw [if_neg (by omega)]
  next h =>
    have hin : (pos ≤ k ∧ k < pos + min len (32 - pos)) ↔ pos ≤ k ∧ k < pos + len := by omega
    simp only [BitVec.getLsbD_or, BitVec.getLsbD_and, BitVec.getLsbD_not, BitVec.getLsbD_shiftLeft, BitVec.getLsbD_ofNat, testBit_ones_at, hin, hk,
      decide_true, Bool.true_and]
    split
    next hi => simp [hi]
    next hi => simp [hi]

/-! Comparison (R354). -/

theorem condInt_eq_condition {c : Nat} (hc : c < 6) (x y : Int) : condInt c x y = true ↔ condition c x y := by
  interval_cases c <;> simp [condInt, condition]

/-- U is bit 3 of the mode of CMP. -/
theorem cmp_reading {m : BitVec 7} (h : m.toNat < 16) : decide (8 ≤ m.toNat) = m.getLsbD 3 := by
  rw [← BitVec.testBit_toNat, Nat.testBit_eq_decide_div_mod_eq]
  exact decide_eq_decide.mpr (by omega)

theorem flagWord_condInt {m : BitVec 7} (hc : m.toNat % 8 < 6) (h : m.toNat < 16) (a b : Word) :
    let t := reading (m.getLsbD 3)
    (condition (m.toNat % 8) (t a) (t b) →
      flagWord (condInt (m.toNat % 8) (readInt (8 ≤ m.toNat) a) (readInt (8 ≤ m.toNat) b)) = 1) ∧
    (¬condition (m.toNat % 8) (t a) (t b) →
      flagWord (condInt (m.toNat % 8) (readInt (8 ≤ m.toNat) a) (readInt (8 ≤ m.toNat) b)) = 0) := by
  intro t
  have ht (x : Word) : readInt (8 ≤ m.toNat) x = t x := by rw [cmp_reading h]; rfl
  rw [ht, ht, ← condInt_eq_condition hc, flagWord]
  exact ⟨fun hx => if_pos hx, fun hx => if_neg hx⟩

theorem bitFields : BitFields := fun _ =>
  ⟨computes_word rfl rfl rfl rfl fun _ => bfeOf_eq_extracted _ _ _,
   bfiOf, computes_word rfl rfl rfl rfl fun _ => rfl, fun a b ctl k hk => getLsbD_bfiOf a b ctl k hk⟩

theorem sel_srcs_length (f : X3) : (shape (.sel f)).srcs.length = 3 := by
  have hs (k : BitVec 2) (x : BitVec 7) (h : BitVec 2) : (Pos.any.src k x h).length = 1 := by
    simp only [Pos.src]
    split
    · rfl
    · split <;> rfl
  simp [shape, sh3, hs]

theorem compareAndSelect : CompareAndSelect := fun f =>
  ⟨⟨_, computes_word rfl rfl rfl rfl fun _ => rfl, fun a b =>
      ⟨fun hc h => (flagWord_condInt hc h a b).1, fun hc h => (flagWord_condInt hc h a b).2⟩⟩,
   computes_word rfl rfl rfl rfl fun _ => rfl, sel_srcs_length f⟩

/-- Settles O24: BFI bit by bit under its mask, CMP by the table of conditions. -/
theorem bitFieldsAndComparisons : Obligations.BitFieldsAndComparisons := ⟨bitFields, compareAndSelect⟩

end Sys2Proof.Machine
end

section
/-! PROOFS. Floating forms that count nothing (spec 19 R359 to R363): comparison, minimum and maximum, class, sign, rounding to whole numbers. -/

namespace Sys2Proof.Machine
open Sys2Proof.Claim

/-! Codes of F32 and F64 by their magnitude (R248, R249). -/

/-- A format that codes infinity and NaNs as IEEE does and keeps a NaN's fraction, whose codes have n bits and a sign bit. -/
structure FTy.WideCode (t : FTy) (n : Nat) : Prop where
  special : t.fmt.special = .ieee
  bits : t.fmt.m + t.fmt.e = n
  inf : infMag n = (2 ^ t.fmt.e - 1) * 2 ^ t.fmt.m
  quiet : ∀ c, quieted n c = c ||| 2 ^ (t.fmt.m - 1)
  fraction : 1 ≤ t.fmt.m ∧ t.fmt.m ≤ 52
  nan : ∀ s f, t.nanCode s f = t.signed s ((2 ^ t.fmt.e - 1) * 2 ^ t.fmt.m + (f / 2 ^ (52 - t.fmt.m) ||| 2 ^ (t.fmt.m - 1)))

theorem wideCode_f32 : FTy.f32.WideCode 31 := ⟨rfl, rfl, rfl, fun _ => rfl, by decide, fun _ _ => rfl⟩
theorem wideCode_f64 : FTy.f64.WideCode 63 := ⟨rfl, rfl, rfl, fun _ => rfl, by decide, fun _ _ => rfl⟩

/-- The sign of a code of n bits and a sign bit. -/
def negCode (n c : Nat) : Bool := c / 2 ^ n % 2 = 1

/-- The significand of a finite magnitude code, its hidden bit with it. -/
def FTy.sig (t : FTy) (mag : Nat) : Nat := if mag / 2 ^ t.fmt.m = 0 then mag % 2 ^ t.fmt.m else 2 ^ t.fmt.m + mag % 2 ^ t.fmt.m

/-- The value of a finite code: its significand times a power that its exponent field counts from the least one. -/
def FTy.finite (t : FTy) (n c : Nat) : Exact :=
  ⟨negCode n c, t.sig (c % 2 ^ n), ((c % 2 ^ n / 2 ^ t.fmt.m - 1 : Nat) : Int) + (1 - (t.fmt.bias : Int) - t.fmt.m), false⟩

namespace FTy.WideCode
variable {t : FTy} {n : Nat}

/-- A magnitude reaches infinity when its exponent field is all ones, and passes it by its fraction. -/
theorem exponent_ones (h : t.WideCode n) {x : Nat} (hx : x < 2 ^ n) :
    (x / 2 ^ t.fmt.m = 2 ^ t.fmt.e - 1 ↔ infMag n ≤ x) ∧ (infMag n ≤ x → x = infMag n + x % 2 ^ t.fmt.m) := by
  have hd := Nat.div_add_mod' x (2 ^ t.fmt.m)
  have hlt : x / 2 ^ t.fmt.m < 2 ^ t.fmt.e := Nat.div_lt_of_lt_mul (by rw [← pow_add, h.bits]; exact hx)
  have hle : infMag n ≤ x ↔ 2 ^ t.fmt.e - 1 ≤ x / 2 ^ t.fmt.m := by rw [h.inf, Nat.le_div_iff_mul_le (by positivity)]
  refine ⟨by omega, fun hi => ?_⟩
  have : x / 2 ^ t.fmt.m = 2 ^ t.fmt.e - 1 := by have := hle.mp hi; omega
  rw [h.inf, ← this, hd]

theorem value_eq (h : t.WideCode n) (c : Nat) : t.value c =
    if isNan n c then .nan (negCode n c) (c % 2 ^ t.fmt.m * 2 ^ (52 - t.fmt.m))
    else if c % 2 ^ n = infMag n then .inf (negCode n c) else .num (t.finite n c) := by
  obtain ⟨hones, hsplit⟩ := h.exponent_ones (Nat.mod_lt c (Nat.two_pow_pos n))
  have hex : c / 2 ^ t.fmt.m % 2 ^ t.fmt.e = c % 2 ^ n / 2 ^ t.fmt.m := by
    rw [← h.bits, pow_add, Nat.mod_mul_right_div_self]
  have hfr : c % 2 ^ t.fmt.m = c % 2 ^ n % 2 ^ t.fmt.m := by rw [← h.bits, pow_add, Nat.mod_mul_right_mod]
  simp only [FTy.value, h.special, hex, hfr, h.bits, hones, isNan, FTy.finite, FTy.sig, negCode, decide_eq_true_eq]
  generalize c % 2 ^ n = x at hsplit ⊢
  by_cases hi : infMag n ≤ x
  · have hx := hsplit hi
    rw [if_pos hi]
    by_cases h0 : x % 2 ^ t.fmt.m = 0
    · rw [if_pos h0, if_neg (by omega), if_pos (by omega)]
    · rw [if_neg h0, if_pos (by omega)]
  · rw [if_neg hi, if_neg (show ¬infMag n < x by omega), if_neg (show x ≠ infMag n by omega)]
    split
    next he => simp [he]
    next he =>
      congr 2
      generalize x / 2 ^ t.fmt.m = k at he ⊢
      omega

@[simp] theorem isNan_value (h : t.WideCode n) (c : Nat) : (t.value c).isNan = isNan n c := by
  rw [h.value_eq]
  split
  next hc => rw [hc]; rfl
  next hc =>
    rw [Bool.eq_false_of_not_eq_true hc]
    split <;> rfl

end FTy.WideCode

/-! The order of codes (R359, R360). -/

/-- A finite magnitude code in units of its format's least value. -/
def FTy.units (t : FTy) (mag : Nat) : Nat := t.sig mag * 2 ^ (mag / 2 ^ t.fmt.m - 1)

theorem FTy.units_lt (t : FTy) (x : Nat) : t.units x < 2 ^ t.fmt.m * 2 ^ (x / 2 ^ t.fmt.m) := by
  have hx : x % 2 ^ t.fmt.m < 2 ^ t.fmt.m := Nat.mod_lt _ (by positivity)
  rw [FTy.units, FTy.sig]
  cases x / 2 ^ t.fmt.m with
  | zero => simpa using hx
  | succ k =>
    rw [if_neg k.succ_ne_zero, Nat.add_sub_cancel, pow_succ', ← mul_assoc]
    exact Nat.mul_lt_mul_of_pos_right (by omega) (by positivity)

theorem FTy.le_units (t : FTy) {x : Nat} (hx : x / 2 ^ t.fmt.m ≠ 0) : 2 ^ t.fmt.m * 2 ^ (x / 2 ^ t.fmt.m - 1) ≤ t.units x := by
  rw [FTy.units, FTy.sig, if_neg hx]
  exact Nat.mul_le_mul_right _ (Nat.le_add_right _ _)

/-- Greater magnitude codes have greater values: within a binade by the fraction, across binades by the exponent. -/
theorem FTy.units_strictMono (t : FTy) : StrictMono t.units := by
  intro x y hxy
  rcases (Nat.div_le_div_right hxy.le : x / 2 ^ t.fmt.m ≤ y / 2 ^ t.fmt.m).eq_or_lt with he | he
  · have hf : x % 2 ^ t.fmt.m < y % 2 ^ t.fmt.m := by
      have hx := Nat.div_add_mod' x (2 ^ t.fmt.m)
      have hy := Nat.div_add_mod' y (2 ^ t.fmt.m)
      rw [he] at hx
      omega
    rw [FTy.units, FTy.units, FTy.sig, FTy.sig, he]
    refine Nat.mul_lt_mul_of_pos_right ?_ (by positivity)
    split <;> omega
  · calc t.units x < 2 ^ t.fmt.m * 2 ^ (x / 2 ^ t.fmt.m) := t.units_lt x
      _ ≤ 2 ^ t.fmt.m * 2 ^ (y / 2 ^ t.fmt.m - 1) := Nat.mul_le_mul_left _ (Nat.pow_le_pow_right (by decide) (Nat.le_sub_one_of_lt he))
      _ ≤ t.units y := t.le_units (Nat.ne_zero_of_lt he)

theorem FTy.units_zero (t : FTy) : t.units 0 = 0 := by simp [FTy.units, FTy.sig]

theorem FTy.sig_eq_zero (t : FTy) (x : Nat) : t.sig x = 0 ↔ x = 0 := by
  have h0 := t.units_strictMono.injective.eq_iff (a := x) (b := 0)
  rw [t.units_zero, FTy.units, Nat.mul_eq_zero] at h0
  rw [← h0]
  exact (or_iff_left (by positivity)).symm

/-- A magnitude with a sign, as an integer. -/
def signedInt (s : Bool) (m : Nat) : Int := if s then -(m : Int) else m

/-- Values that count the same power compare as their counts do. -/
theorem Exact.lt_common (sa sb : Bool) (ma mb i j : Nat) (k : Int) (p q : Bool) :
    Exact.lt ⟨sa, ma, i + k, p⟩ ⟨sb, mb, j + k, q⟩ = decide (signedInt sa (ma * 2 ^ i) < signedInt sb (mb * 2 ^ j)) := by
  have hs (s : Bool) (m l : Nat) (hl : min i j ≤ l) (r : Bool) :
      Exact.scaled ⟨s, m, l + k, r⟩ (min (i + k) (j + k)) * 2 ^ min i j = signedInt s (m * 2 ^ l) := by
    have he : (((l : Int) + k) - min (i + k) (j + k)).toNat = l - min i j := by omega
    have hp : (2 : Int) ^ (l - min i j) * 2 ^ min i j = 2 ^ l := by rw [← pow_add, Nat.sub_add_cancel hl]
    simp only [Exact.scaled, signedInt, he]
    split <;> push_cast <;> rw [← hp] <;> ring
  rw [Exact.lt, ← hs sa ma i (Nat.min_le_left _ _) p, ← hs sb mb j (Nat.min_le_right _ _) q]
  exact decide_eq_decide.mpr (mul_lt_mul_iff_left₀ (by positivity)).symm

/-- Counts that keep the order of magnitudes, from 0 on, keep it with signs. -/
theorem signedInt_lt_iff {f : Nat → Nat} (hf : StrictMono f) (h0 : f 0 = 0) (s r : Bool) (p q : Nat) :
    signedInt s (f p) < signedInt r (f q) ↔ signedInt s p < signedInt r q := by
  have hpq := hf.lt_iff_lt (a := p) (b := q)
  have hqp := hf.lt_iff_lt (a := q) (b := p)
  have hp := hf.lt_iff_lt (a := 0) (b := p)
  have hq := hf.lt_iff_lt (a := 0) (b := q)
  simp only [signedInt]
  split <;> split <;> omega

theorem signedInt_bounds (s : Bool) {m bound : Nat} (h : m < bound) : -(bound : Int) < signedInt s m ∧ signedInt s m < bound := by
  simp only [signedInt]
  split <;> omega

theorem place_eq (n c : Nat) : place n c = signedInt (negCode n c) (c % 2 ^ n) := by
  simp only [place, signedInt, negCode, decide_eq_true_eq]

/-- The two orders differ in the zeros alone. -/
theorem placeSigned_lt_iff (n a b : Nat) : placeSigned n a < placeSigned n b ↔
    place n a < place n b ∨ (a % 2 ^ n = 0 ∧ b % 2 ^ n = 0 ∧ negCode n a = true ∧ negCode n b = false) := by
  simp only [placeSigned, place, negCode, decide_eq_true_eq, decide_eq_false_iff_not]
  split <;> split <;> omega

theorem lt_finite (t : FTy) (n a b : Nat) : (t.finite n a).lt (t.finite n b) = decide (place n a < place n b) := by
  rw [FTy.finite, FTy.finite, Exact.lt_common, place_eq, place_eq]
  exact decide_eq_decide.mpr (signedInt_lt_iff t.units_strictMono t.units_zero _ _ _ _)

theorem isZero_finite (t : FTy) (n c : Nat) : (t.finite n c).isZero = decide (c % 2 ^ n = 0) := by
  simp [Exact.isZero, FTy.finite, t.sig_eq_zero]

theorem infMag_pos (n : Nat) : 0 < infMag n := by
  rw [infMag]
  split <;> decide

namespace FTy.WideCode
variable {t : FTy} {n : Nat}

theorem value_of_nan (h : t.WideCode n) {c : Nat} (hc : isNan n c = true) :
    t.value c = .nan (negCode n c) (c % 2 ^ t.fmt.m * 2 ^ (52 - t.fmt.m)) := by
  rw [h.value_eq, if_pos hc]

theorem value_of_not_nan (h : t.WideCode n) {c : Nat} (hc : isNan n c = false) :
    t.value c = if c % 2 ^ n = infMag n then .inf (negCode n c) else .num (t.finite n c) := by
  rw [h.value_eq, if_neg (by rw [hc]; decide)]

/-- The order of values is that of the codes' places; told apart, −0 is below +0. -/
theorem lt_value (h : t.WideCode n) (z : Bool) {a b : Nat} (ha : isNan n a = false) (hb : isNan n b = false) :
    Val.lt z (t.value a) (t.value b) = decide (place n a < place n b ∨
      z = true ∧ a % 2 ^ n = 0 ∧ b % 2 ^ n = 0 ∧ negCode n a = true ∧ negCode n b = false) := by
  have hpos := infMag_pos n
  rw [h.value_of_not_nan ha, h.value_of_not_nan hb]
  have hla : a % 2 ^ n ≤ infMag n := not_lt.mp (of_decide_eq_false ha)
  have hlb : b % 2 ^ n ≤ infMag n := not_lt.mp (of_decide_eq_false hb)
  by_cases hia : a % 2 ^ n = infMag n <;> by_cases hib : b % 2 ^ n = infMag n
  · rw [if_pos hia, if_pos hib, place_eq, place_eq, hia, hib]
    cases negCode n a <;> cases negCode n b <;> simp [Val.lt, signedInt, hpos, hpos.ne']
  · obtain ⟨hlo, hhi⟩ := signedInt_bounds (negCode n b) (lt_of_le_of_ne hlb hib)
    rw [if_pos hia, if_neg hib, place_eq, place_eq, hia]
    cases negCode n a
    · simpa [Val.lt, signedInt, hpos.ne'] using hhi.le
    · simpa [Val.lt, signedInt] using .inl hlo
  · obtain ⟨hlo, hhi⟩ := signedInt_bounds (negCode n a) (lt_of_le_of_ne hla hia)
    rw [if_neg hia, if_pos hib, place_eq, place_eq, hib]
    cases negCode n b
    · simpa [Val.lt, signedInt] using .inl hhi
    · simpa [Val.lt, signedInt] using hlo.le
  · rw [if_neg hia, if_neg hib]
    have hs (c : Nat) : (t.finite n c).s = negCode n c := rfl
    simp only [Val.lt, lt_finite, isZero_finite, hs]
    simp [Bool.and_assoc]

/-! NaNs (R249). -/

theorem mul_two_pow_add_or (hi lo x k : Nat) (hl : lo < 2 ^ k) (hx : x < 2 ^ k) : (hi * 2 ^ k + lo) ||| x = hi * 2 ^ k + (lo ||| x) := by
  rw [← Nat.shiftLeft_eq, Nat.shiftLeft_add_eq_or_of_lt hl, Nat.or_assoc, ← Nat.shiftLeft_add_eq_or_of_lt (Nat.or_lt_two_pow hl hx)]

/-- A code's sign in its place, with another magnitude. -/
theorem signed_negCode (h : t.WideCode n) {c : Nat} (hw : c < 2 ^ (n + 1)) (x : Nat) :
    t.signed (negCode n c) x = c / 2 ^ n * 2 ^ n + x := by
  have hn : c / 2 ^ n < 2 := Nat.div_lt_of_lt_mul (by rwa [← pow_succ])
  rw [FTy.signed, Nat.add_comm t.fmt.e, h.bits, negCode]
  interval_cases c / 2 ^ n <;> simp

/-- A NaN's code keeps its sign and fraction and gains the quiet bit. -/
theorem nanCode_value (h : t.WideCode n) {c : Nat} (hc : isNan n c = true) (hw : c < 2 ^ (n + 1)) :
    t.nanCode (negCode n c) (c % 2 ^ t.fmt.m * 2 ^ (52 - t.fmt.m)) = quieted n c := by
  have hfr : c % 2 ^ n % 2 ^ t.fmt.m = c % 2 ^ t.fmt.m := by rw [← h.bits, pow_add, Nat.mod_mul_right_mod]
  have hmag : c % 2 ^ n = (2 ^ t.fmt.e - 1) * 2 ^ t.fmt.m + c % 2 ^ t.fmt.m := by
    rw [← h.inf, ← hfr]
    exact (h.exponent_ones (Nat.mod_lt c (Nat.two_pow_pos n))).2 (of_decide_eq_true hc).le
  have hp : 2 ^ n = 2 ^ t.fmt.e * 2 ^ t.fmt.m := by rw [← h.bits, pow_add, mul_comm]
  have hsplit : c = (c / 2 ^ n * 2 ^ t.fmt.e + (2 ^ t.fmt.e - 1)) * 2 ^ t.fmt.m + c % 2 ^ t.fmt.m := by
    rw [add_mul, mul_assoc, ← hp, add_assoc, ← hmag, Nat.div_add_mod']
  have hq : 2 ^ (t.fmt.m - 1) < 2 ^ t.fmt.m :=
    Nat.pow_lt_pow_right (by decide) (Nat.sub_one_lt (Nat.one_le_iff_ne_zero.mp h.fraction.1))
  rw [h.nan, h.quiet, Nat.mul_div_cancel _ (by positivity), h.signed_negCode hw]
  conv_rhs => rw [hsplit, mul_two_pow_add_or _ _ _ _ (Nat.mod_lt _ (by positivity)) hq]
  rw [add_mul, mul_assoc, ← hp, add_assoc]

/-- A quieted NaN has the code that the NaN has. -/
theorem nanCode_quiet (h : t.WideCode n) (s : Bool) (f : Nat) : t.nanCode s (f ||| 2 ^ 51) = t.nanCode s f := by
  have hb : 2 ^ 51 / 2 ^ (52 - t.fmt.m) = 2 ^ (t.fmt.m - 1) := by
    obtain ⟨h1, h2⟩ := h.fraction
    rw [Nat.pow_div (by omega) (by decide)]
    congr 1
    omega
  rw [h.nan, h.nan, ← Nat.shiftRight_eq_div_pow, Nat.shiftRight_or_distrib, Nat.shiftRight_eq_div_pow, Nat.shiftRight_eq_div_pow, hb,
    Nat.or_assoc, Nat.or_self]

theorem firstNanCode_nil (t : FTy) : firstNanCode t [] = none := rfl

theorem firstNanCode_cons (h : t.WideCode n) {c : Nat} (hw : c < 2 ^ (n + 1)) (l : List Nat) :
    firstNanCode t (c :: l) = if isNan n c then some (quieted n c) else firstNanCode t l := by
  split
  next hc => simp only [firstNanCode, List.map_cons, h.value_of_nan hc, firstNan, h.nanCode_quiet, h.nanCode_value hc hw]
  next hc =>
    have hv := h.isNan_value c
    rw [Bool.eq_false_of_not_eq_true hc] at hv
    simp only [firstNanCode, List.map_cons]
    generalize t.value c = v at hv
    cases v with
    | nan s f => cases hv
    | inf s => rfl
    | num x => rfl

/-! Minimum and maximum (R359), comparison (R360). -/

theorem minMaxCode_eq (h : t.WideCode n) (greater num : Bool) {a b : Nat} (ha : a < 2 ^ (n + 1)) (hb : b < 2 ^ (n + 1)) :
    minMaxCode t greater num a b = chosenOperand n greater num a b := by
  simp only [minMaxCode, chosenOperand, h.isNan_value, h.firstNanCode_cons ha, h.firstNanCode_cons hb, firstNanCode_nil]
  cases hna : isNan n a <;> cases hnb : isNan n b
  · simp only [h.lt_value true hna hnb, true_and, ← placeSigned_lt_iff]
    cases greater <;> simp
  · cases num <;> simp
  · cases num <;> simp
  · cases num <;> simp

/-- The relation of R360 on codes. -/
theorem condFloat_eq (h : t.WideCode n) (c a b : Nat) :
    condFloat c (t.value a) (t.value b) = relation c (isNan n a || isNan n b) (place n a) (place n b) := by
  simp only [condFloat, h.isNan_value]
  cases hun : isNan n a || isNan n b
  · rw [Bool.or_eq_false_iff] at hun
    rw [h.lt_value false hun.1 hun.2, h.lt_value false hun.2 hun.1, Bool.eq_iff_iff]
    rcases c with _ | _ | _ | _ | _ | _ | _ | c <;> simp [relation]
    omega
  · rcases c with _ | _ | _ | _ | _ | _ | _ | c <;> simp [relation]

end FTy.WideCode

/-! Class and sign (R361, R363). -/

theorem fclassOf_eq (a : Word) : fclassOf a = BitVec.ofNat 32 (2 ^ classOf a.toNat) := by
  simp only [fclassOf, classOf, bits, bit, decide_eq_true_eq]
  generalize a.toNat = w
  by_cases hnan : 0x7F800000 < w % 2 ^ 31
  · rw [if_pos (by omega), if_neg (by omega), if_pos hnan]
    by_cases hq : w % 2 ^ 31 < 0x7FC00000
    · rw [if_neg (by omega), if_pos hq]
      rfl
    · rw [if_pos (by omega), if_neg hq]
      rfl
  rw [if_neg hnan]
  by_cases hinf : w % 2 ^ 31 = 0x7F800000
  · rw [if_pos (by omega), if_pos (by omega), if_pos hinf]
    split <;> rfl
  rw [if_neg (by omega), if_neg hinf]
  by_cases hnormal : 0x00800000 ≤ w % 2 ^ 31
  · rw [if_neg (by omega), if_pos hnormal]
    split <;> rfl
  rw [if_pos (by omega), if_neg hnormal]
  by_cases hsub : 0 < w % 2 ^ 31
  · rw [if_neg (by omega), if_pos hsub]
    split <;> rfl
  · rw [if_pos (by omega), if_neg hsub]
    split <;> rfl

theorem and_magnitude_mask (a : Word) : a &&& 0x7FFFFFFF = BitVec.ofNat 32 (a.toNat % 2 ^ 31) := by
  apply BitVec.eq_of_toNat_eq
  rw [BitVec.toNat_and, BitVec.toNat_ofNat, ← Nat.and_two_pow_sub_one_eq_mod a.toNat 31, Nat.mod_eq_of_lt]
  · rfl
  · exact Nat.and_lt_two_pow _ (by norm_num)

/-- Adding 2^31 modulo 2^32 inverts the top bit and nothing else. -/
theorem xor_sign_mask (a : Word) : a ^^^ 0x80000000 = BitVec.ofNat 32 (a.toNat + 2 ^ 31) := by
  apply BitVec.eq_of_getLsbD_eq
  intro k hk
  have hm : (0x80000000 : Word).getLsbD k = decide (31 = k) := by
    rw [show (0x80000000 : Word) = BitVec.ofNat 32 (2 ^ 31) from rfl, BitVec.getLsbD_ofNat, Nat.testBit_two_pow]
    simp [hk]
  rw [BitVec.getLsbD_xor, hm, BitVec.getLsbD_ofNat, Nat.add_comm]
  rcases Nat.lt_succ_iff_lt_or_eq.mp hk with h | h
  · rw [Nat.testBit_two_pow_add_gt h]
    simp [hk, h.ne', BitVec.testBit_toNat]
  · rw [h, Nat.testBit_two_pow_add_eq]
    simp [BitVec.testBit_toNat]

/-! Rounding to whole numbers (R362). -/

theorem roundsUp_exact (mode : RMode) (s odd : Bool) (step : Nat) (h : 0 < step) : roundsUp mode s odd 0 step false 0 = false := by
  cases mode <;> simp [roundsUp, h.ne]

/-- A value that is a whole number of quanta is that number of them, whatever the mode. -/
theorem Exact.quanta_exact (s : Bool) (m c : Nat) (x q : Int) (mode : RMode)
    (h : m * 2 ^ (x - q).toNat = c * 2 ^ (q - x).toNat) : (Exact.quanta ⟨s, m, x, false⟩ q mode 0).r = c := by
  simp only [Exact.quanta]
  split
  next hq =>
    rw [show (q - x).toNat = 0 by omega, pow_zero, mul_one] at h
    rw [roundsUp_exact _ _ _ _ (by decide), h]
    rfl
  next hq =>
    rw [show (x - q).toNat = 0 by omega, pow_zero, mul_one] at h
    rw [h, Nat.mul_mod_left, Nat.mul_div_cancel _ (by positivity), roundsUp_exact _ _ _ _ (by positivity)]
    rfl

/-- A whole number that F32 holds: its code from its exponent and its significand c. -/
theorem rne_whole (s : Bool) {n c : Nat} (h0 : n ≠ 0) (hl : n.log2 ≤ 127) (hc : 2 ^ 23 ≤ c ∧ c < 2 ^ 24)
    (h : n * 2 ^ (23 - n.log2) = c * 2 ^ (n.log2 - 23)) :
    rne .f32 (.num ⟨s, n, 0, false⟩) = FTy.f32.signed s ((n.log2 + 126) * 2 ^ 23 + c) := by
  have hq : FTy.f32.quantum ⟨s, n, 0, false⟩ = (n.log2 : Int) - 23 := by
    simp only [FTy.quantum, FTy.fmt, h0, if_false]
    rw [if_neg (by omega)]
    omega
  have hr : (Exact.quanta ⟨s, n, 0, false⟩ ((n.log2 : Int) - 23) .rn 0).r = c :=
    Exact.quanta_exact _ _ _ _ _ _ (by
      rw [show ((0 : Int) - (n.log2 - 23)).toNat = 23 - n.log2 by omega, show ((n.log2 : Int) - 23 - 0).toNat = n.log2 - 23 by omega, h])
  have hcode : FTy.f32.codeOf c ((n.log2 : Int) - 23) = (n.log2 + 126) * 2 ^ 23 + c := by
    rw [FTy.codeOf, if_neg (show ¬c < 2 ^ FTy.f32.fmt.m from not_lt.mpr hc.1)]
    show ((n.log2 : Int) - 23 + (23 : Nat) + (127 : Nat) - 1).toNat * 2 ^ 23 + c = _
    rw [show ((n.log2 : Int) - 23 + (23 : Nat) + (127 : Nat) - 1).toNat = n.log2 + 126 by omega]
  have hz : Exact.isZero ⟨s, n, 0, false⟩ = false := by simp [Exact.isZero, h0]
  have hover : ¬ FTy.f32.largest < (n.log2 + 126) * 2 ^ 23 + c := by
    rw [show FTy.f32.largest = 0x7F7FFFFF from rfl]
    omega
  have hround : (roundExact .f32 .rn 0 ⟨s, n, 0, false⟩).ev.ovf = false ∧
      (roundExact .f32 .rn 0 ⟨s, n, 0, false⟩).code = FTy.f32.signed s ((n.log2 + 126) * 2 ^ 23 + c) := by
    simp only [roundExact, hz, hq, hr, hcode, hover]
    simp
  rw [rne, roundTo, hround.1]
  exact hround.2

theorem rne_zero (s : Bool) : rne .f32 (.num ⟨s, 0, 0, false⟩) = FTy.f32.signed s 0 := rfl

theorem rne_small (s : Bool) {n : Nat} (h : n < 2 ^ 24) : rne .f32 (.num ⟨s, n, 0, false⟩) = FTy.f32.signed s (wholeCode n) := by
  rw [wholeCode]
  split
  next h0 => rw [h0, rne_zero]
  next h0 =>
    have hl : n.log2 < 24 := (Nat.log2_lt h0).mpr h
    obtain ⟨hlo, hhi⟩ := (Nat.log2_eq_iff h0).mp rfl
    have hp : 2 ^ n.log2 * 2 ^ (23 - n.log2) = 2 ^ 23 := by rw [← pow_add]; congr 1; omega
    have hp' : 2 ^ (n.log2 + 1) * 2 ^ (23 - n.log2) = 2 ^ 24 := by rw [← pow_add]; congr 1; omega
    have hclo : 2 ^ 23 ≤ n * 2 ^ (23 - n.log2) := by rw [← hp]; exact Nat.mul_le_mul_right _ hlo
    have hchi : n * 2 ^ (23 - n.log2) < 2 ^ 24 := by rw [← hp']; exact Nat.mul_lt_mul_of_pos_right hhi (by positivity)
    rw [rne_whole s h0 (by omega) ⟨hclo, hchi⟩ (by rw [show n.log2 - 23 = 0 by omega, pow_zero, mul_one]), Nat.sub_mul, hp,
      show (n.log2 + 126) * 2 ^ 23 + n * 2 ^ (23 - n.log2) = (n.log2 + 127) * 2 ^ 23 + (n * 2 ^ (23 - n.log2) - 2 ^ 23) by omega]

/-- A significand of 24 bits times a power of two has the code of that exponent. -/
theorem rne_shifted (s : Bool) {c k : Nat} (hc : 2 ^ 23 ≤ c ∧ c < 2 ^ 24) (hk : k ≤ 104) :
    rne .f32 (.num ⟨s, c * 2 ^ k, 0, false⟩) = FTy.f32.signed s ((k + 149) * 2 ^ 23 + c) := by
  have h0 : c * 2 ^ k ≠ 0 := Nat.mul_ne_zero (by omega) (by positivity)
  have hl : (c * 2 ^ k).log2 = k + 23 := by
    rw [Nat.log2_eq_iff h0, mul_comm c, pow_add, Nat.add_assoc, pow_add]
    exact ⟨Nat.mul_le_mul_left _ hc.1, Nat.mul_lt_mul_of_pos_left hc.2 (by positivity)⟩
  rw [rne_whole s h0 (by omega) hc (by rw [hl, show 23 - (k + 23) = 0 by omega, Nat.add_sub_cancel, pow_zero, mul_one]), hl]

/-- The integer that a value below 2^23 rounds to is the neighbour that R362 names. -/
theorem quanta_neighbour (s : Bool) (m k mode : Nat) (hm : mode < 4) :
    (Exact.quanta ⟨s, m, -(k + 1 : Nat), false⟩ 0 ((RMode.ofField mode).getD .rn) 0).r = neighbour mode s m (2 ^ (k + 1)) := by
  simp only [Exact.quanta, neighbour]
  rw [if_neg (by omega), show ((0 : Int) - -(k + 1 : Nat)).toNat = k + 1 by omega]
  interval_cases mode <;> simp [RMode.ofField, roundsUp]

theorem Exact.natAbs_toInt (v : Exact) (mode : RMode) (d : Nat) : (v.toInt mode d).natAbs = (v.quanta 0 mode d).r := by
  rw [Exact.toInt]
  split <;> simp

theorem neighbour_le (mode : Nat) (s : Bool) (m d : Nat) : neighbour mode s m d ≤ m / d + 1 := by
  simp only [neighbour]
  split <;> omega

/-- A finite code that has places behind the point becomes the code of the integer that R362 names. -/
theorem rne_toInt_fraction {mode : Nat} (hm : mode < 4) {w : Nat} (hw : w < 2 ^ 32) (hx : w % 2 ^ 31 / 2 ^ 23 < 150) :
    rne .f32 (.num ⟨negCode 31 w, ((FTy.f32.finite 31 w).toInt ((RMode.ofField mode).getD .rn) 0).natAbs, 0, false⟩) =
      roundedWhole mode w := by
  have hneg : decide (0 < w / 2 ^ 31 * 2 ^ 31) = negCode 31 w := decide_eq_decide.mpr (by omega)
  have hsig : FTy.f32.sig (w % 2 ^ 31) = if w % 2 ^ 31 / 2 ^ 23 = 0 then w % 2 ^ 31 else w % 2 ^ 31 % 2 ^ 23 + 2 ^ 23 := by
    show (if w % 2 ^ 31 / 2 ^ 23 = 0 then w % 2 ^ 31 % 2 ^ 23 else 2 ^ 23 + w % 2 ^ 31 % 2 ^ 23) = _
    split <;> omega
  have hfin : FTy.f32.finite 31 w = ⟨negCode 31 w, FTy.f32.sig (w % 2 ^ 31), -(149 - max (w % 2 ^ 31 / 2 ^ 23) 1 + 1 : Nat), false⟩ := by
    rw [FTy.finite]
    congr 1
    show ((w % 2 ^ 31 / 2 ^ 23 - 1 : Nat) : Int) + (1 - (127 : Nat) - (23 : Nat)) = _
    omega
  have hd : 2 ^ (149 - max (w % 2 ^ 31 / 2 ^ 23) 1 + 1) = 2 ^ (150 - max (w % 2 ^ 31 / 2 ^ 23) 1) := by congr 1; omega
  have hlt : FTy.f32.sig (w % 2 ^ 31) < 2 ^ 24 := by rw [hsig]; split <;> omega
  rw [Exact.natAbs_toInt, hfin, quanta_neighbour _ _ _ _ hm, rne_small, wideCode_f32.signed_negCode hw, roundedWhole]
  · simp only [hneg, hsig, hd]
    rw [if_neg (show ¬0x7F800000 < w % 2 ^ 31 by omega), if_neg (not_le.mpr hx)]
  · have htwo (k : Nat) : FTy.f32.sig (w % 2 ^ 31) / 2 ^ (k + 1) ≤ FTy.f32.sig (w % 2 ^ 31) / 2 :=
      Nat.div_le_div_left (Nat.le_self_pow k.succ_ne_zero 2) (by decide)
    calc neighbour _ _ _ _ ≤ _ := neighbour_le _ _ _ _
      _ ≤ FTy.f32.sig (w % 2 ^ 31) / 2 + 1 := Nat.succ_le_succ (htwo _)
      _ < 2 ^ 24 := by omega

/-- A finite code without places behind the point becomes itself. -/
theorem rne_toInt_whole (mode : RMode) {w : Nat} (hw : w < 2 ^ 32) (hx : 150 ≤ w % 2 ^ 31 / 2 ^ 23) (hi : w % 2 ^ 31 < 0x7F800000) :
    rne .f32 (.num ⟨negCode 31 w, ((FTy.f32.finite 31 w).toInt mode 0).natAbs, 0, false⟩) = w := by
  have hsig : FTy.f32.sig (w % 2 ^ 31) = 2 ^ 23 + w % 2 ^ 31 % 2 ^ 23 := if_neg (show w % 2 ^ 31 / 2 ^ 23 ≠ 0 by omega)
  have hfin : FTy.f32.finite 31 w = ⟨negCode 31 w, 2 ^ 23 + w % 2 ^ 31 % 2 ^ 23, (w % 2 ^ 31 / 2 ^ 23 - 150 : Nat), false⟩ := by
    rw [FTy.finite, hsig]
    congr 1
    show ((w % 2 ^ 31 / 2 ^ 23 - 1 : Nat) : Int) + (1 - (127 : Nat) - (23 : Nat)) = _
    omega
  rw [Exact.natAbs_toInt, hfin, Exact.quanta_exact (c := (2 ^ 23 + w % 2 ^ 31 % 2 ^ 23) * 2 ^ (w % 2 ^ 31 / 2 ^ 23 - 150)), rne_shifted,
    wideCode_f32.signed_negCode hw]
  · omega
  · omega
  · omega
  · rw [show ((w % 2 ^ 31 / 2 ^ 23 - 150 : Nat) - 0 : Int).toNat = w % 2 ^ 31 / 2 ^ 23 - 150 by omega,
      show (0 - (w % 2 ^ 31 / 2 ^ 23 - 150 : Nat) : Int).toNat = 0 by omega, pow_zero, mul_one]

theorem froundOf_eq {mode : Nat} (hm : mode < 4) (a : Word) :
    froundOf ((RMode.ofField mode).getD .rn) a = BitVec.ofNat 32 (roundedWhole mode a.toNat) := by
  have hw : a.toNat < 2 ^ 32 := a.isLt
  have ha : a = BitVec.ofNat 32 a.toNat := by simp
  cases hn : isNan 31 a.toNat with
  | true =>
    have hlt : 0x7F800000 < a.toNat % 2 ^ 31 := of_decide_eq_true hn
    rw [froundOf, f32v, wideCode_f32.value_of_nan hn, roundedWhole, if_pos hlt]
    exact congrArg (BitVec.ofNat 32) (wideCode_f32.nanCode_value hn hw)
  | false =>
    have hle : ¬0x7F800000 < a.toNat % 2 ^ 31 := of_decide_eq_false hn
    rw [froundOf, f32v, wideCode_f32.value_of_not_nan hn]
    by_cases hi : a.toNat % 2 ^ 31 = infMag 31
    · rw [if_pos hi, roundedWhole, if_neg hle, if_pos (by rw [hi]; decide)]
      exact ha
    · rw [if_neg hi]
      by_cases hx : a.toNat % 2 ^ 31 / 2 ^ 23 < 150
      · exact congrArg (BitVec.ofNat 32) (rne_toInt_fraction hm hw hx)
      · rw [roundedWhole, if_neg hle, if_pos (not_lt.mp hx)]
        exact congrArg (BitVec.ofNat 32) (rne_toInt_whole _ hw (not_lt.mp hx) (lt_of_le_of_ne (not_lt.mp hle) hi))

/-! The forms of R359 to R363. -/

/-- A vector form whose body writes a 64-bit value as two words. -/
theorem computes_pair {i : Instr} {d : BitVec 7} {g : LaneEnv → Dword} {h : LaneEnv → Nat} (hp : (shape i).pipe = .v)
    (hd : (shape i).d = d.toNat) (hw : (shape i).dw = 2) (hx : exec i = lane i fun e s => .done (e.write s (two (g e))))
    (he : ∀ e, g e = BitVec.ofNat 64 (h e)) : Computes i fun e => pairOf (h e) := by
  refine (computes_of hp hd hw hx (fun _ _ => rfl) (fun _ => rfl) (by decide) (by decide)).congr fun e => ?_
  have hlo : (BitVec.ofNat 64 (h e)).setWidth 32 = BitVec.ofInt 32 (h e) := by
    apply BitVec.eq_of_toNat_eq
    simp
  have hhi : ((BitVec.ofNat 64 (h e)) >>> 32).setWidth 32 = BitVec.ofInt 32 ((h e : Int) / 2 ^ 32) := by
    apply BitVec.eq_of_toNat_eq
    rw [show ((h e : Int) / 2 ^ 32) = ((h e / 2 ^ 32 : Nat) : Int) by norm_num, BitVec.ofInt_natCast]
    simp only [BitVec.toNat_setWidth, BitVec.toNat_ushiftRight, BitVec.toNat_ofNat, Nat.shiftRight_eq_div_pow]
    omega
  rw [he, two, pairOf, hlo, hhi]

theorem floatCompare : FloatCompare := by
  have word (c : Nat) (a b : Word) : flagWord (condFloat c (f32v a) (f32v b)) = compared c 31 a.toNat b.toNat := by
    rw [f32v, f32v, wideCode_f32.condFloat_eq]; rfl
  have dword (c : Nat) (a b : Dword) : flagWord (condFloat c (f64v a) (f64v b)) = compared c 63 a.toNat b.toNat := by
    rw [f64v, f64v, wideCode_f64.condFloat_eq]; rfl
  exact ⟨fun f => ⟨computes_word rfl rfl rfl rfl fun _ => word _ _ _, computes_word rfl rfl rfl rfl fun _ => dword _ _ _⟩,
    fun f => computes_word rfl rfl rfl rfl fun _ => word _ _ _⟩

theorem floatMinMax : FloatMinMax := by
  have word (greater num : Bool) (a b : Word) :
      minMaxWord greater num a b = BitVec.ofNat 32 (chosenOperand 31 greater num a.toNat b.toNat) :=
    congrArg _ (wideCode_f32.minMaxCode_eq greater num a.isLt b.isLt)
  have dword (greater num : Bool) (a b : Dword) :
      minMaxDword greater num a b = BitVec.ofNat 64 (chosenOperand 63 greater num a.toNat b.toNat) :=
    congrArg _ (wideCode_f64.minMaxCode_eq greater num a.isLt b.isLt)
  exact ⟨fun f => ⟨computes_word rfl rfl rfl rfl fun _ => word _ _ _ _, computes_word rfl rfl rfl rfl fun _ => word _ _ _ _⟩,
    fun f => ⟨computes_word rfl rfl rfl rfl fun _ => word _ _ _ _, computes_word rfl rfl rfl rfl fun _ => word _ _ _ _,
      computes_pair rfl rfl rfl rfl fun _ => dword _ _ _ _, computes_pair rfl rfl rfl rfl fun _ => dword _ _ _ _⟩⟩

theorem floatClassAndSign : FloatClassAndSign := fun _ =>
  ⟨computes_word rfl rfl rfl rfl fun _ => fclassOf_eq _, computes_word rfl rfl rfl rfl fun _ => and_magnitude_mask _,
   computes_word rfl rfl rfl rfl fun _ => xor_sign_mask _⟩

/-- A mode of RND alone names its rounding. -/
theorem rsOf_mode {f : X3} (h : f.mode.toNat < 4) : (rsOf f).mode = (RMode.ofField f.mode.toNat).getD .rn := by
  rw [rsOf, RndSat.of, Nat.mod_eq_of_lt (by omega)]

theorem floatToWhole : FloatToWhole := fun f =>
  ⟨fun hm => computes_word rfl rfl rfl rfl fun _ => by rw [rsOf_mode hm, froundOf_eq hm],
   fun hm count trap => by
    have hok : (shape (.fround f)).ok = false := by
      simp [shape, sh3, show ¬f.mode.toNat ≤ 3 by omega]
    rw [Shape.illegal, hok]
    rfl⟩

/-- Settles O25: comparisons and extremes by the order of codes, FROUND by the rounding of a significand to a power of two. -/
theorem floatComparedAndRounded : Obligations.FloatComparedAndRounded := ⟨floatCompare, floatMinMax, floatClassAndSign, floatToWhole⟩

end Sys2Proof.Machine
end
